-- ==== Sys2Proof/Word.lean ====
section
/-! DEFINITION. The machine's word types (R1, R3, R43, R50). -/

namespace Sys2Proof

/-- A byte of any memory. -/
abbrev Byte := BitVec 8
/-- A vector register's contents. -/
abbrev Word := BitVec 32
/-- A group-uniform register, a pair or an address. -/
abbrev DWord := BitVec 64
/-- A vector-register number. -/
abbrev Reg := BitVec 8

end Sys2Proof
end

