-- ==== Sys2Proof/Syntax.lean ====
section
/-! DEFINITION. The instructions of the ZG48: one constructor for each row of spec/opcode_table.json. The first part gives the
operand and modifier types of the encoding tables; `Instr` holds the 227 instruction rows and the 91 event rows. An event is a
whole step of an agent other than an issuing thread; no word decodes to it. -/

namespace Sys2Proof

/-- Guard of R44: `always` is G = 0; `when neg p` takes effect when `p[GP] XOR N` is 1. -/
inductive Guard where
  | always
  | when (neg : Bool) (p : BitVec 3)
deriving DecidableEq, Repr

/-- Operand b by its b-kind (R43). -/
inductive Src where
  | v (r : Reg)
  | g (r : BitVec 6)
  | imm (k : BitVec 8)
  | lit (w : BitVec 32)
deriving DecidableEq, Repr

/-- Displacement of BRA and CALL: word 0 `[23:0]` or the literal (R74). -/
inductive Disp where
  | short (d : BitVec 24)
  | long (d : BitVec 32)
deriving DecidableEq, Repr

/-- Type T of R88: signed or unsigned. -/
inductive IntTy where
  | i | n
deriving DecidableEq, Repr

/-- Conditions of ICMP (R98). -/
inductive Cond where
  | eq | ne | lt | le | gt | ge
deriving DecidableEq, Repr

/-- Conditions of FCMP (R117). -/
inductive FCond where
  | eq | ne | lt | le | gt | ge | un | ord
deriving DecidableEq, Repr

/-- Rounding modes (R103). -/
inductive Rnd where
  | rne | rtz | rup | rdn
deriving DecidableEq, Repr

/-- The common float modifiers (R112); a row accepts some of them (WellFormed). -/
structure FMod where
  rm : Rnd
  ftz : Bool
  na : Bool
  nb : Bool
  nc : Bool
  bf : Bool
deriving DecidableEq, Repr

/-- Element formats (R124). -/
inductive EFmt where
  | f32 | f16 | bf16 | e5m2 | e4m3 | e3m2 | e2m3 | e2m1 | i4 | i8 | i16 | i32 | i64 | n8 | n16 | n32 | n64 | e8m0 | bs16
deriving DecidableEq, Repr

/-- DOT4 element sub-codes (R144). -/
inductive Dot4Ty where
  | e2m1 | i4
deriving DecidableEq, Repr

/-- DOT8 element sub-codes (R144). -/
inductive Dot8Ty where
  | e5m2 | e4m3 | e3m2 | e2m3 | i8 | n8
deriving DecidableEq, Repr

/-- Member mask of a cross-lane instruction (R154). -/
inductive Mask where
  | full
  | pair (c : Reg)
deriving DecidableEq, Repr

/-- LXCH modes (R161). -/
inductive XMode where
  | idx | up | down | xor
deriving DecidableEq, Repr

/-- LRED and LSCAN operations (R161). -/
inductive ROp where
  | add | min | max | and | or | xor
deriving DecidableEq, Repr

/-- LRED and LSCAN types (R161). -/
inductive RTy where
  | i32 | n32 | f32
deriving DecidableEq, Repr

/-- Thread address spaces (R168). -/
inductive Space where
  | lane | core | cmem | chip | glob
deriving DecidableEq, Repr

/-- Engine address spaces (R216). -/
inductive ESpace where
  | core | cmem | chip | glob | obuf
deriving DecidableEq, Repr

/-- LD and ST sizes (R177). -/
inductive Size where
  | b8 | s8 | b16 | s16 | b32 | b64 | b128
deriving DecidableEq, Repr

/-- Scopes (R262), codes 0 to 8. -/
inductive Scope where
  | thr | wav | grp | cor | clu | die | dev | sys | dsp
deriving DecidableEq, Repr

/-- The order field of LD, LDT, ST, STT (R178): `sync` is `.acq` on loads and `.rel` on stores. -/
inductive Order where
  | plain
  | sync (sc : Scope)
  | rmt (sc : Scope)
deriving DecidableEq, Repr

/-- PREF levels (R177). -/
inductive PLevel where
  | dc | l2 | lay
deriving DecidableEq, Repr

/-- Points of CWB, CINV, CWBI (R203). -/
inductive CPoint where
  | l2 | lay | mem
deriving DecidableEq, Repr

/-- Order kinds of atomics (R245). -/
inductive AKind where
  | relaxed | acq | rel | ar
deriving DecidableEq, Repr

/-- Field C of an atomic (R245). -/
structure AOrd where
  kind : AKind
  x64 : Bool
  rmt : Bool
  scope : Scope
deriving DecidableEq, Repr

/-- ATOM operations (R246). -/
inductive AOp where
  | add | minI | maxI | minN | maxN | and | or | xor | exch | incw
deriving DecidableEq, Repr

/-- Float atomic operations (R246). -/
inductive AFOp where
  | addF32 | minF32 | maxF32 | addF16 | addBf16
deriving DecidableEq, Repr

/-- RED operations (R246): the first eight of ATOM, then the float ones. -/
inductive REDOp where
  | int (o : AOp)
  | flt (o : AFOp)
deriving DecidableEq, Repr

/-- FENCE kinds (R281). -/
inductive FKind where
  | acq | rel | ar | sc
deriving DecidableEq, Repr

/-- Identifier and predecessors of a matrix command (R287); 0x3F is none. -/
structure Cmd where
  id : BitVec 6
  p0 : BitVec 6
  p1 : BitVec 6
deriving DecidableEq, Repr

/-- Scale kinds (R139). -/
inductive SK where
  | none | e8m0 | bs16
deriving DecidableEq, Repr

/-- Block lengths (R139). -/
inductive BLen where
  | b16 | b32 | b64
deriving DecidableEq, Repr

/-- MEPI functions (R296). -/
inductive EpiFn where
  | id | relu | lrelu | tanh | clip
deriving DecidableEq, Repr

/-- Separator maps (R339). -/
inductive SMap where
  | gaze | mot | err
deriving DecidableEq, Repr

/-- PRIOR selects (R351). -/
inductive PSel where
  | gaze | mot | err | pri | acc
deriving DecidableEq, Repr

/-- ROWPUT source spaces (R351). -/
inductive RSpace where
  | core | chip | glob
deriving DecidableEq, Repr

/-- CURVE kinds (R363). -/
inductive CKind where
  | line | quad | cubic
deriving DecidableEq, Repr

/-- The display registers of a die (R336). -/
structure DispCfg where
  rpn : Nat
  rpd : Nat
  nrow : Nat
  ncol : Nat
  vd : Nat
  rlat : Nat
  lead : Nat
  sx : BitVec 32
  ox : BitVec 32
  oy : BitVec 32
  held : Nat
deriving DecidableEq, Repr

/-- What firmware itself sets of them when it enables a row engine; the sink's block gives the rest (R461). -/
structure DispSet where
  vd : Nat
  rlat : Nat
  lead : Nat
  held : Nat
deriving DecidableEq, Repr

/-- An image (R465): its header's length, version and digest of the body, its body, and the signature over the header. -/
structure Image where
  length : Nat
  version : Nat
  digest : Nat
  body : List (BitVec 8)
  sign : List (BitVec 8)
deriving DecidableEq, Repr

/-- What firmware gives when it releases a partition (R21, R474). -/
structure PartCfg where
  clusters : BitVec 16
  controls : BitVec 32
  outputs : BitVec 2
  laydiv : BitVec 32
  slices : BitVec 32
  nh : Nat
  hs : List (BitVec 46)
  win0 : Nat
  win1 : Nat
  base0 : Nat
  base1 : Nat
  root : Nat
  grants : List (Nat × Nat)
deriving DecidableEq, Repr

/-- Engines that firmware gates and the hardware wakes (R403). -/
inductive Engine where
  | array (core : Nat)
  | core (core : Nat)
  | slice (n : Nat)
  | bank (n : Nat)
  | column (n : Nat)
deriving DecidableEq, Repr

/-- What an event acts on: numbers, bytes and firmware's settings. The docstring of each event's meaning says which it reads. -/
structure EventArg where
  a : Nat
  b : Nat
  c : Nat
  d : Nat
  data : List Byte
  disp : Option DispSet
  part : Option PartCfg
  engine : Option Engine
  images : List Image := []
deriving DecidableEq, Repr

/-- An event that names nothing. -/
def EventArg.none : EventArg :=
  { a := 0, b := 0, c := 0, d := 0, data := [], disp := Option.none, part := Option.none, engine := Option.none }

/-- One constructor for each row of the operations table: the instructions in the table's order, then the events. -/
inductive Instr where
  -- Control and issue (03)
  | braCompact (d : BitVec 24)
  | bra (g : Guard) (d : Disp)
  | brx (g : Guard) (a : Reg) (b : Src)
  | callCompact (d : BitVec 24)
  | call (g : Guard) (d : Disp)
  | callx (g : Guard) (a : Reg) (b : Src)
  | ret (g : Guard)
  | nopCompact
  | nop (g : Guard) (l : Option (BitVec 32))
  | exit (g : Guard)
  | yield (g : Guard)
  | waitCompact (l s c t : BitVec 6)
  | wait (g : Guard) (l s c t : BitVec 6)
  | sleep (g : Guard) (b : Src)
  | sleepAbs (g : Guard) (a : Reg)
  -- Integer, predicate and address (04)
  | movCompact (d a : Reg)
  | mov (g : Guard) (d : Reg) (b : Src)
  | movG (g : Guard) (d : BitVec 6) (b : Src)
  | movl (g : Guard) (d : Reg) (b : Src)
  | movlG (g : Guard) (d : BitVec 6) (b : Src)
  | sel (g : Guard) (x64 : Bool) (d a : Reg) (b : Src) (p : BitVec 3)
  | addCompact (d a b : Reg)
  | add (g : Guard) (ty : IntTy) (sat : Bool) (d a : Reg) (b : Src)
  | sub (g : Guard) (ty : IntTy) (sat : Bool) (d a : Reg) (b : Src)
  | min (g : Guard) (ty : IntTy) (d a : Reg) (b : Src)
  | max (g : Guard) (ty : IntTy) (d a : Reg) (b : Src)
  | abs (g : Guard) (sat : Bool) (d a : Reg)
  | mulCompact (d a b : Reg)
  | mul (g : Guard) (ty : IntTy) (sat : Bool) (d a : Reg) (b : Src)
  | mulhi (g : Guard) (ty : IntTy) (d a : Reg) (b : Src)
  | mad (g : Guard) (ty : IntTy) (sat : Bool) (d a : Reg) (b : Src) (c : Reg)
  | andCompact (d a b : Reg)
  | and (g : Guard) (inv x64 : Bool) (d a : Reg) (b : Src)
  | or (g : Guard) (inv x64 : Bool) (d a : Reg) (b : Src)
  | xor (g : Guard) (inv x64 : Bool) (d a : Reg) (b : Src)
  | shlCompact (d a b : Reg)
  | shl (g : Guard) (x64 : Bool) (d a : Reg) (b : Src)
  | shr (g : Guard) (x64 : Bool) (d a : Reg) (b : Src)
  | sar (g : Guard) (x64 : Bool) (d a : Reg) (b : Src)
  | bext (g : Guard) (ty : IntTy) (d a : Reg) (b : Src) (w : BitVec 8)
  | bins (g : Guard) (d a : Reg) (b : Src) (w : BitVec 8)
  | popc (g : Guard) (x64 : Bool) (d a : Reg)
  | clz (g : Guard) (x64 : Bool) (d a : Reg)
  | brev (g : Guard) (x64 : Bool) (d a : Reg)
  | icmp (g : Guard) (cond : Cond) (ty : IntTy) (x64 : Bool) (pd : BitVec 3) (a : Reg) (b : Src)
  | plut (g : Guard) (pd px py pz : BitVec 3) (table : BitVec 8)
  | add64 (g : Guard) (ty : IntTy) (sat neg : Bool) (d a : Reg) (b : Src)
  | mad64 (g : Guard) (ty : IntTy) (sat : Bool) (d a : Reg) (b : Src) (c : Reg)
  | lea (g : Guard) (ty : IntTy) (sh : BitVec 3) (d a : Reg) (b : Src)
  -- Float and special function (05)
  | faddCompact (d a b : Reg)
  | fadd (g : Guard) (m : FMod) (d a : Reg) (b : Src)
  | fmin (g : Guard) (m : FMod) (d a : Reg) (b : Src)
  | fmax (g : Guard) (m : FMod) (d a : Reg) (b : Src)
  | fmulCompact (d a b : Reg)
  | fmul (g : Guard) (m : FMod) (d a : Reg) (b : Src)
  | fscl (g : Guard) (m : FMod) (d a : Reg) (b : Src)
  | fmaCompact (d a b : Reg)
  | fma (g : Guard) (m : FMod) (d a : Reg) (b : Src) (c : Reg)
  | fcmp (g : Guard) (cond : FCond) (ftz : Bool) (pd : BitVec 3) (a : Reg) (b : Src)
  | fcls (g : Guard) (d a : Reg)
  | frint (g : Guard) (m : FMod) (d a : Reg)
  | h2add (g : Guard) (m : FMod) (d a : Reg) (b : Src)
  | h2mul (g : Guard) (m : FMod) (d a : Reg) (b : Src)
  | h2fmaCompact (d a b : Reg)
  | h2fma (g : Guard) (m : FMod) (d a : Reg) (b : Src) (c : Reg)
  | h2min (g : Guard) (m : FMod) (d a : Reg) (b : Src)
  | h2max (g : Guard) (m : FMod) (d a : Reg) (b : Src)
  | rcp (g : Guard) (m : FMod) (d a : Reg)
  | rsqrt (g : Guard) (m : FMod) (d a : Reg)
  | sqrt (g : Guard) (m : FMod) (d a : Reg)
  | exp2 (g : Guard) (m : FMod) (d a : Reg)
  | log2 (g : Guard) (m : FMod) (d a : Reg)
  | sin (g : Guard) (m : FMod) (d a : Reg)
  | cos (g : Guard) (m : FMod) (d a : Reg)
  | tanh (g : Guard) (m : FMod) (d a : Reg)
  | fdiv (g : Guard) (m : FMod) (d a : Reg) (b : Src)
  -- Narrow formats and conversion (06)
  | cvt (g : Guard) (dst src : EFmt) (rm : Rnd) (sat ftz : Bool) (d a : Reg)
  | cvts (g : Guard) (dst src : EFmt) (sat ftz : Bool) (d a : Reg) (b : Src)
  | pack (g : Guard) (fmt : EFmt) (d a : Reg) (b : Src)
  | unpk (g : Guard) (fmt : EFmt) (f32 : Bool) (d a : Reg) (b : Src)
  | qblk (g : Guard) (fmt : EFmt) (bs : Bool) (d a : Reg)
  | dot4 (g : Guard) (fa fb : Dot4Ty) (sat : Bool) (d a : Reg) (b : Src) (c : Reg)
  | dot8 (g : Guard) (fa fb : Dot8Ty) (sat : Bool) (d a : Reg) (b : Src) (c : Reg)
  | dot2h (g : Guard) (m : FMod) (d a : Reg) (b : Src) (c : Reg)
  | obres (g : Guard) (d a : Reg) (n : BitVec 5)
  | obrel (g : Guard) (d : Reg) (n : BitVec 5)
  | obwr (g : Guard) (a : Reg) (b : Src) (n : BitVec 5)
  | obrd (g : Guard) (d : Reg) (b : Src) (n : BitVec 5)
  -- Cross-lane (07)
  | lxch (g : Guard) (mode : XMode) (wrap x64 : Bool) (m : Mask) (d a : Reg) (b : Src)
  | lvoteAny (g : Guard) (m : Mask) (pd pa : BitVec 3)
  | lvoteAll (g : Guard) (m : Mask) (pd pa : BitVec 3)
  | lvoteBal (g : Guard) (m : Mask) (d : Reg) (pa : BitVec 3)
  | lmatch (g : Guard) (x64 : Bool) (m : Mask) (d a : Reg)
  | lelect (g : Guard) (m : Mask) (pd : BitVec 3)
  | lred (g : Guard) (op : ROp) (ty : RTy) (m : Mask) (d a : Reg)
  | lscan (g : Guard) (op : ROp) (ty : RTy) (exc : Bool) (m : Mask) (d a : Reg)
  -- Memory access (08)
  | ldCompact (d a : Reg) (b : BitVec 8)
  | ld (g : Guard) (sp : Space) (sz : Size) (ux : Bool) (o : Order) (d a : Reg) (b : Src)
  | ldt (g : Guard) (o : Order) (d a : Reg) (b : Src)
  | stCompact (d a : Reg) (b : BitVec 8)
  | st (g : Guard) (sp : Space) (sz : Size) (ux : Bool) (o : Order) (d a : Reg) (b : Src)
  | stt (g : Guard) (o : Order) (d a : Reg) (b : Src)
  | ldf (g : Guard) (cm take ux : Bool) (d a : Reg) (b : Src)
  | ste (g : Guard) (cm ux : Bool) (d a : Reg) (b : Src)
  | tags (g : Guard) (cm full ux : Bool) (a : Reg) (b : Src) (cnt : BitVec 8)
  | tagq (g : Guard) (cm ux : Bool) (d a : Reg) (b : Src)
  | pref (g : Guard) (lv : PLevel) (ux : Bool) (a : Reg) (b : Src) (cnt : BitVec 8)
  -- Cache, layer and translation (09)
  | cwb (g : Guard) (pt : CPoint) (a : Reg) (b : Src)
  | cinv (g : Guard) (pt : CPoint) (a : Reg) (b : Src)
  | cwbi (g : Guard) (pt : CPoint) (a : Reg) (b : Src)
  | iinv (g : Guard) (sc : Scope) (a : Reg) (b : Src)
  | fbar (g : Guard)
  | domset (g : Guard) (d a : Reg)
  | laydivw (g : Guard) (d a : Reg)
  | tlbinv (g : Guard) (a : Reg)
  | tlbinvAll (g : Guard)
  | pgmap (g : Guard) (d a b c : Reg)
  | pgunmap (g : Guard) (d a : Reg)
  | pgqPte (g : Guard) (d a : Reg)
  | pgqZero (g : Guard) (d a : Reg)
  | pgqRoot (g : Guard) (d : Reg)
  -- Streams and copies (10)
  | cpy (g : Guard) (dsp ssp : ESpace) (sc : Scope) (tag : BitVec 6) (a : Reg) (b : Src)
  | cpyt (g : Guard) (sc : Scope) (tag : BitVec 6) (a : Reg) (b : Src)
  | sebind (g : Guard) (drain : Bool) (sc : Scope) (eng : Bool) (tag : BitVec 6) (d a : Reg) (b : Src)
  | sefree (g : Guard) (eng : Bool) (d : Reg)
  | slotw (g : Guard) (eng : Bool) (d : Reg) (b : Src)
  | slotrel (g : Guard) (eng : Bool) (b : Src)
  | tagwait (g : Guard) (all : Bool) (d : Reg) (b : Src)
  | tagff (g : Guard) (clr : Bool) (d : Reg) (b : Src)
  | tagclr (g : Guard) (b : Src)
  | lockqAddr (g : Guard) (sp : Space) (d a : Reg) (b : Src)
  | lockqFree (g : Guard) (d : Reg)
  | lockqErr (g : Guard) (d : Reg) (b : Src)
  -- Atomics and barriers (11)
  | atom (g : Guard) (op : AOp) (sp : Space) (o : AOrd) (d a : Reg) (b : Src)
  | cas (g : Guard) (sp : Space) (o : AOrd) (d a : Reg) (b : Src)
  | atomf (g : Guard) (op : AFOp) (sp : Space) (o : AOrd) (d a : Reg) (b : Src)
  | red (g : Guard) (op : REDOp) (sp : Space) (o : AOrd) (a : Reg) (b : Src)
  | binit (g : Guard) (clu : Bool) (n : BitVec 6) (d : Reg) (b : Src)
  | barv (g : Guard) (clu : Bool) (n : BitVec 6) (d : Reg)
  | bwait (g : Guard) (clu : Bool) (n : BitVec 6) (a : Reg)
  | bsync (g : Guard) (clu : Bool) (n : BitVec 6)
  | bqry (g : Guard) (clu : Bool) (n : BitVec 6) (d : Reg)
  -- Fences (12)
  | fence (g : Guard) (k : FKind) (sc : Scope)
  | lfence (g : Guard)
  | lfenceArray (g : Guard) (b : Src) (mask : BitVec 5)
  | efence (g : Guard) (mx : Bool) (sc : Scope)
  -- Matrix (13) and ladder (14)
  | mxrun (g : Guard) (d a : Reg) (b : Src)
  | mxq (g : Guard) (d : Reg)
  | mldw (k : Cmd) (bank : Bool) (fmt : EFmt) (sk : SK) (bl : BLen) (off : BitVec 22)
  | mswap (k : Cmd)
  | mstr (k : Cmd) (lad : Bool) (t : BitVec 7) (n : BitVec 5) (row0 : BitVec 16) (m : BitVec 10)
  | mzero (k : Cmd) (t : BitVec 7) (m : BitVec 10)
  | maccld (k : Cmd) (t : BitVec 7) (off : BitVec 11) (m : BitVec 10)
  | maccst (k : Cmd) (t : BitVec 7) (off : BitVec 11) (m : BitVec 10)
  | mepi (k : Cmd) (fn : EpiFn) (t p : BitVec 7) (n : BitVec 5) (orow : BitVec 16) (m : BitVec 10)
  | mbar (k : Cmd) (all : Bool) (n : BitVec 6)
  | mwaitb (k : Cmd) (all : Bool) (n : BitVec 6)
  | mend (k : Cmd)
  | mlad (k : Cmd) (ts tu tc : BitVec 8) (cb : BitVec 6) (wr : BitVec 2) (wdelta : BitVec 14)
  | ladcnt (g : Guard) (d : Reg) (sel : BitVec 3)
  | ladclr (g : Guard) (b : Src)
  -- Recurrence (15)
  | scan (g : Guard) (ftz : Bool) (rst : Option (BitVec 3)) (slot : BitVec 3) (d a : Reg) (b : Src)
  | carryGet (g : Guard) (slot : BitVec 3) (d : Reg)
  | carrySet (g : Guard) (slot : BitVec 3) (b : Src)
  | stepk (g : Guard) (ftz : Bool) (d a : Reg) (b : Src)
  | mscan (k : Cmd) (rst : Bool) (th ta tb tc : BitVec 7) (m : BitVec 10)
  -- Sampling and Vat (16)
  | priow (g : Guard) (map : SMap) (a : Reg) (b : Src)
  | priowWt (g : Guard) (b : Src)
  | prior (g : Guard) (sel : PSel) (d a : Reg)
  | sepq (g : Guard) (sel : BitVec 3) (d : Reg)
  | sposPos (g : Guard) (d : Reg)
  | sposRow (g : Guard) (d : Reg)
  | vput (g : Guard) (a : Reg)
  | vputOvl (g : Guard) (a : Reg)
  | vget (g : Guard) (n : BitVec 5) (a : Reg) (b : Src)
  | vqry (g : Guard) (d a : Reg)
  | vqryCfg (g : Guard) (d : Reg)
  | rowdlRow (g : Guard) (d : Reg) (b : Src)
  | rowdlTime (g : Guard) (d : Reg) (b : Src)
  | rowput (g : Guard) (sp : RSpace) (d a : Reg) (b : Src)
  -- Raster, curve and traversal (17)
  | probeOpen (g : Guard) (slot : BitVec 2) (d a : Reg)
  | probeTri (g : Guard) (slot : BitVec 2) (a : Reg)
  | probeEnd (g : Guard) (slot : BitVec 2) (d : Reg)
  | probeSmp (g : Guard) (slot : BitVec 2) (d a : Reg)
  | curve (g : Guard) (kind : CKind) (slot : BitVec 4) (a : Reg)
  | pathendOpen (g : Guard) (slot : BitVec 4) (d a : Reg)
  | pathendNz (g : Guard) (slot : BitVec 4) (d : Reg)
  | pathendEo (g : Guard) (slot : BitVec 4) (d : Reg)
  | cvg (g : Guard) (raw : Bool) (slot : BitVec 4) (d a : Reg)
  | trace (g : Guard) (any cullb : Bool) (a : Reg) (b : Src)
  | hitr (g : Guard) (d : Reg)
  | hitrSt (g : Guard) (d : Reg)
  -- Dispatch and control core (18)
  | mbwait (g : Guard) (poll : Bool) (bank : BitVec 2) (d : Reg) (b : Src)
  | mbtake (g : Guard) (d a : Reg) (b : Src)
  | mbpost (g : Guard) (nosig : Bool) (d a : Reg) (b : Src)
  | jnlSeq (g : Guard) (d : Reg)
  | jnlFail (g : Guard) (d a : Reg) (b : Src)
  | launch (g : Guard) (d a : Reg) (b : Src)
  | sliceDl (g : Guard) (d a : Reg) (b : Src)
  | sliceKill (g : Guard) (d a : Reg)
  | nodegoCfg (g : Guard) (d a : Reg) (b : Src)
  | nodegoFlush (g : Guard) (d a : Reg)
  | nodegoQ (g : Guard) (d a : Reg)
  | nodegoOff (g : Guard) (d a : Reg)
  | admitqEnergy (g : Guard) (d a : Reg)
  | admitqTherm (g : Guard) (d a : Reg)
  | admitqAct (g : Guard) (d a : Reg)
  | admitqGate (g : Guard) (d a : Reg)
  | admitqQueue (g : Guard) (d a : Reg)
  | recalloc (g : Guard) (d a : Reg)
  | recemit (g : Guard) (a : Reg) (b : Src)
  | recrd (g : Guard) (d : Reg) (b : Src)
  | recfin (g : Guard)
  -- Trap and system (19)
  | srdCompact (d : Reg) (n : BitVec 8)
  | srd (g : Guard) (d : Reg) (n : BitVec 8)
  | swr (g : Guard) (n : BitVec 8) (b : Src)
  | trap (g : Guard) (code : BitVec 3)
  | tret (g : Guard)
  | cclr (g : Guard) (b : Src)
  | tmaskOr (g : Guard) (d : Reg) (b : Src)
  | tmaskAndn (g : Guard) (d : Reg) (b : Src)
  | tmaskWr (g : Guard) (d : Reg) (b : Src)
  | bkpt (g : Guard)
  | preempt (g : Guard) (d a : Reg) (b : Src)
  | ctxsv (g : Guard) (d a : Reg) (b : Src)
  | ctxld (g : Guard) (d a : Reg) (b : Src)
  | haltq (g : Guard) (sel : BitVec 3) (d : Reg)
  -- Thermal, power, host and device boundary (01, 18, 23)
  -- Events: whole steps of agents other than an issuing thread. Their arguments stand in `State.arg`.
  | meetingForm
  | fewaitTimeout
  | loadComplete
  | storePerformed
  | atomicPerformed
  | l2RequestReplay
  | pageZeroingDone
  | pageWalk
  | lockEntryRegister
  | lockMirrorAck
  | copyComplete
  | boxStart
  | boxComplete
  | barrierArrivalCounted
  | barrierDeadlockDetect
  | streamLineFetch
  | streamCommandIssue
  | streamCommandRetire
  | mwaitbDeadlockDetect
  | matrixRowEntry
  | mldwFetchStart
  | ladderPassDecide
  | separatorApply
  | vatPlacement
  | overlapIngest
  | rowputCopy
  | separatorVisit
  | positionIssue
  | separatorHeaderRetry
  | rowLock
  | rowEngineEnable
  | triangleBin
  | binRasterise
  | blendRecord
  | curveSegmentAdd
  | pathClose
  | traceComplete
  | recfullTimeout
  | nodeLaunch
  | nodeAgeExpiry
  | dispatchPlace
  | groupRetire
  | sliceRelease
  | budgetExhausted
  | activityWindow
  | occupancyWindow
  | pick
  | lineFetch
  | lineRefetch
  | threadUnpark
  | sleepWake
  | fenceComplete
  | handlerEntry
  | haltLineRise
  | watchdogExpiry
  | partitionResume
  | thermalAdmissionStop
  | thermalClockHalve
  | thermalClockRestore
  | thermalArrayGate
  | engineWake
  | vbusLaneRepair
  | spareRemap
  | mailboxMessageWrite
  | mailboxControlWrite
  | rstreq
  | hmring
  | bar0Write
  | hostMemoryAccess
  | ptmExchange
  | bridgeRetry
  | bridgeUncorrectable
  | moduleOutOfService
  | memoryUncorrectable
  | backgroundScrub
  | attestationReport
  | perstDeassert
  | partitionReset
  | vbusRepairComplete
  | fabricError
  | rowEngineDisable
  | engineGate
  | partitionRelease
  | domainChangeComplete
  | laydivChangeComplete
  | cacheMaintenanceComplete
  | writeBufferCommit
  | msixVectorUnmask
  | perstAssert
  | configurationRequest
  | hostSnoop
deriving DecidableEq, Repr

end Sys2Proof
end

