-- ==== Sys2Proof/Config.lean ====
section
/-! DEFINITION. What an implementation fixes and the spec leaves open: free values without a body, so that no proof can see one
(log entries 8, 10, 11). -/

namespace Sys2Proof.Config

/-- A special function's threshold (R122): by function number, monotone piece and result bits, the input from which on (or up to which, where
the function falls) the result is at least that. Every monotone function is one of these (log entry 8). -/
opaque sfu : Nat → Nat → BitVec 32 → BitVec 32

/-- A free choice among allowed outcomes, by the counter of choices made (log entry 8). -/
opaque choice : Nat → Nat → Nat

/-- A free value by the counter of choices made: measured or sensed quantities (log entry 10). -/
opaque freeWord : Nat → BitVec 64

/-- The firmware coupling table: by how many 1/256 °C a density at one cell raises the prediction of another, for the logic (0) or the DRAM
(1) (R398; log entry 16). -/
opaque rise : Nat → Nat → Nat → Nat → Nat

/-- The thermal cell under a control core (log entry 16). -/
opaque cellOf : Nat → Nat

/-- The device's identity key pair and the signature over a report (R468; log entry 11). -/
opaque publicKey : Nat → BitVec 8
opaque signature : List (BitVec 8) → Nat → BitVec 8

/-- Whether a signature over an image's header verifies under the root key or a key that it has signed (R465; log entry 11). -/
opaque verifies : List (BitVec 8) → List (BitVec 8) → Bool

end Sys2Proof.Config
end

