-- ==== Sys2Proof/WellFormed.lean ====
section
/-! DEFINITION. Well-formedness of an instruction: the values that its row of the encoding tables admits (R48 order 4), and the
even or aligned register numbers that a pair, a quad or a block needs (R48 order 5). The declared register count belongs to the
thread and is checked when an instruction issues. -/

namespace Sys2Proof

/-- A register that starts a pair (R50). -/
def Reg.even (r : Reg) : Bool := r.toNat % 2 == 0
/-- A register that starts a quad. -/
def Reg.quad (r : Reg) : Bool := r.toNat % 4 == 0
/-- A register that starts a block of eight. -/
def Reg.oct (r : Reg) : Bool := r.toNat % 8 == 0

/-- Operand b taken at 64 bits needs an even vector register (R87). -/
def Src.even64 : Src → Bool
  | .v r => Reg.even r
  | .g _ | .imm _ | .lit _ => true

/-- b of kind `0b10`. -/
def Src.isImm : Src → Bool
  | .imm _ => true
  | .v _ | .g _ | .lit _ => false

/-- UX = 1 stands only beside an immediate (R168). -/
def uxOk (ux : Bool) (b : Src) : Bool := !ux || b.isImm

/-- Which of rm, ftz, na, nb, nc and bf16 a row accepts (R112); the others are zero. -/
def FMod.within (m : FMod) (rm na nb nc bf : Bool) : Bool :=
  (rm || m.rm == .rne) && (na || !m.na) && (nb || !m.nb) && (nc || !m.nc) && (bf || !m.bf)

/-- Kinds of element format (R124). -/
def EFmt.isInt : EFmt → Bool
  | .i4 | .i8 | .i16 | .i32 | .i64 | .n8 | .n16 | .n32 | .n64 => true
  | .f32 | .f16 | .bf16 | .e5m2 | .e4m3 | .e3m2 | .e2m3 | .e2m1 | .e8m0 | .bs16 => false

/-- Width in bits (R124). -/
def EFmt.width : EFmt → Nat
  | .f32 | .i32 | .n32 => 32
  | .f16 | .bf16 | .i16 | .n16 | .bs16 => 16
  | .e5m2 | .e4m3 | .i8 | .n8 | .e8m0 => 8
  | .e3m2 | .e2m3 => 6
  | .e2m1 | .i4 => 4
  | .i64 | .n64 => 64

/-- The formats of QBLK (R148). -/
def EFmt.qblkOk : EFmt → Bool
  | .e5m2 | .e4m3 | .e3m2 | .e2m3 | .e2m1 | .i4 | .i8 => true
  | _ => false

/-- The formats of a range and of a weight tile (R140). -/
def EFmt.rangeOk : EFmt → Bool
  | .f16 | .bf16 | .e5m2 | .e4m3 | .e3m2 | .e2m3 | .e2m1 | .i4 | .i8 | .n8 | .i16 => true
  | _ => false

def Dot4Ty.isInt : Dot4Ty → Bool
  | .i4 => true
  | .e2m1 => false

def Dot8Ty.isInt : Dot8Ty → Bool
  | .i8 | .n8 => true
  | .e5m2 | .e4m3 | .e3m2 | .e2m3 => false

/-- R154: without `.full`, C names an even register. -/
def Mask.ok : Mask → Bool
  | .full => true
  | .pair c => Reg.even c

/-- R161: `.f32` never goes with a bitwise operation. -/
def redOk : ROp → RTy → Bool
  | .and, .f32 | .or, .f32 | .xor, .f32 => false
  | _, _ => true

/-- A base register of a space (R168). -/
def Space.baseOk (sp : Space) (a : Reg) : Bool := sp != .glob || Reg.even a

/-- The data register of a size (R177). -/
def Size.dataOk (sz : Size) (d : Reg) : Bool :=
  match sz with
  | .b64 => Reg.even d
  | .b128 => Reg.quad d
  | .b8 | .s8 | .b16 | .s16 | .b32 => true

/-- The order field of a load (R178). -/
def Order.loadOk : Order → Bool
  | .plain => true
  | .sync sc => sc != .dsp
  | .rmt sc => sc == .die || sc == .dev

/-- The order field of a store (R178). -/
def Order.storeOk : Order → Bool
  | .plain => true
  | .sync sc => sc != .dsp
  | .rmt _ => false

/-- Number of a scope (R262). -/
def Scope.num : Scope → Nat
  | .thr => 0 | .wav => 1 | .grp => 2 | .cor => 3 | .clu => 4 | .die => 5 | .dev => 6 | .sys => 7 | .dsp => 8

/-- The widest scope a space admits for an atomic (R240); `.lane` admits none. -/
def Space.atomMax : Space → Nat
  | .lane => 0 | .core => 3 | .cmem => 4 | .chip => 6 | .glob => 7

/-- Order field of an atomic (R240, R245). -/
def AOrd.ok (o : AOrd) (sp : Space) : Bool :=
  2 ≤ o.scope.num && o.scope.num ≤ sp.atomMax &&
  (!o.rmt || ((o.kind == .acq || o.kind == .ar) && (o.scope == .die || o.scope == .dev)))

/-- Engine scopes of CPY, CPYT and SEBIND: 2 to 7 (R232). -/
def Scope.engineOk (s : Scope) : Bool := 2 ≤ s.num && s.num ≤ 7

/-- The operations of RED (R246). -/
def REDOp.ok : REDOp → Bool → Bool
  | .int .exch, _ | .int .incw, _ => false
  | .int _, _ => true
  | .flt _, x64 => !x64

/-- Barrier number: c0 to c15 with `.clu` (R255). -/
def barOk (clu : Bool) (n : BitVec 6) : Bool := !clu || n.toNat < 16

/-- A matrix command's identifier is 0 to 62 (R287). -/
def Cmd.ok (k : Cmd) : Bool := k.id.toNat < 63

/-- Special registers of 64 bits (R52). -/
def sr64 (n : BitVec 8) : Bool :=
  let k := n.toNat
  (0x04 ≤ k && k ≤ 0x0A) || (0x10 ≤ k && k ≤ 0x14) || k == 0x1B || k == 0x1C

/-- Assigned special register numbers (R52). -/
def srAssigned (n : BitVec 8) : Bool :=
  let k := n.toNat
  k ≤ 0x0D || (0x10 ≤ k && k ≤ 0x1C)

def Instr.wellFormed : Instr → Bool
  | .braCompact _ | .bra _ _ | .callCompact _ | .call _ _ | .ret _ | .nopCompact | .nop _ _ | .exit _ | .yield _ => true
  | .brx _ a _ | .callx _ a _ => Reg.even a
  | .waitCompact l s c t => !(l.toNat == 63 && s.toNat == 63 && c.toNat == 63 && t.toNat == 63)
  | .wait _ _ _ _ _ | .sleep _ _ => true
  | .sleepAbs _ a => Reg.even a
  | .movCompact _ _ | .mov _ _ _ | .movG _ _ _ => true
  | .movl _ d b => Reg.even d && b.even64
  | .movlG _ _ b => b.even64
  | .sel _ x64 d a b _ => !x64 || (Reg.even d && Reg.even a && b.even64)
  | .addCompact _ _ _ | .add _ _ _ _ _ _ | .sub _ _ _ _ _ _ | .min _ _ _ _ _ | .max _ _ _ _ _ | .abs _ _ _ _ => true
  | .mulCompact _ _ _ | .mul _ _ _ _ _ _ | .mulhi _ _ _ _ _ | .mad _ _ _ _ _ _ _ | .andCompact _ _ _ => true
  | .and _ _ x64 d a b | .or _ _ x64 d a b | .xor _ _ x64 d a b => !x64 || (Reg.even d && Reg.even a && b.even64)
  | .shlCompact _ _ _ => true
  | .shl _ x64 d a _ | .shr _ x64 d a _ | .sar _ x64 d a _ => !x64 || (Reg.even d && Reg.even a)
  | .bext _ _ _ _ _ w | .bins _ _ _ _ w => 1 ≤ w.toNat && w.toNat ≤ 32
  | .popc _ x64 _ a | .clz _ x64 _ a => !x64 || Reg.even a
  | .brev _ x64 d a => !x64 || (Reg.even d && Reg.even a)
  | .icmp _ _ _ x64 _ a b => !x64 || (Reg.even a && b.even64)
  | .plut _ _ _ _ _ _ => true
  | .add64 _ _ _ _ d a b => Reg.even d && Reg.even a && b.even64
  | .mad64 _ _ _ d _ _ c => Reg.even d && Reg.even c
  | .lea _ _ _ d a _ => Reg.even d && Reg.even a
  | .faddCompact _ _ _ | .fmulCompact _ _ _ | .fmaCompact _ _ _ | .h2fmaCompact _ _ _ => true
  | .fadd _ m _ _ _ | .fmul _ m _ _ _ | .fdiv _ m _ _ _ => m.within true true true false false
  | .fmin _ m _ _ _ | .fmax _ m _ _ _ => m.within false true true false false
  | .fscl _ m _ _ _ => m.within true true false false false
  | .fma _ m _ _ _ _ => m.within true true true true false
  | .fcmp _ _ _ _ _ _ | .fcls _ _ _ => true
  | .frint _ m _ _ | .sqrt _ m _ _ => m.within true true false false false
  | .h2add _ m _ _ _ | .h2mul _ m _ _ _ => m.within true true true false true
  | .h2fma _ m _ _ _ _ => m.within true true true true true
  | .h2min _ m _ _ _ | .h2max _ m _ _ _ => m.within false true true false true
  | .rcp _ m _ _ | .rsqrt _ m _ _ | .exp2 _ m _ _ | .log2 _ m _ _ | .sin _ m _ _ | .cos _ m _ _ | .tanh _ m _ _ =>
    m.within false true false false false
  | .cvt _ dst src _ _ _ d a => (dst.width != 64 || Reg.even d) && (src.width != 64 || Reg.even a)
  | .cvts _ dst src _ _ d a _ => (dst.width != 64 || Reg.even d) && (src.width != 64 || Reg.even a)
  | .pack _ fmt _ _ _ => fmt.width ≤ 16
  | .unpk _ fmt f32 _ _ _ => fmt.width ≤ 16 && (!f32 || fmt.isInt)
  | .qblk _ fmt _ _ _ => fmt.qblkOk
  | .dot4 _ fa fb sat _ _ _ _ => !sat || (fa.isInt && fb.isInt)
  | .dot8 _ fa fb sat _ _ _ _ => !sat || (fa.isInt && fb.isInt)
  | .dot2h _ m _ _ _ _ => m.within true false false false true
  | .obres _ _ _ _ | .obrel _ _ _ | .obwr _ _ _ _ | .obrd _ _ _ _ => true
  | .lxch _ _ _ x64 m d a _ => m.ok && (!x64 || (Reg.even d && Reg.even a))
  | .lvoteAny _ m _ _ | .lvoteAll _ m _ _ | .lelect _ m _ => m.ok
  | .lvoteBal _ m d _ => m.ok && Reg.even d
  | .lmatch _ x64 m d a => m.ok && Reg.even d && (!x64 || Reg.even a)
  | .lred _ op ty m _ _ => m.ok && redOk op ty
  | .lscan _ op ty _ m _ _ => m.ok && redOk op ty
  | .meetingForm => true
  | .ldCompact _ _ _ | .stCompact _ _ _ => true
  | .ld _ sp sz ux o d a b => uxOk ux b && o.loadOk && sz.dataOk d && sp.baseOk a
  | .ldt _ o _ _ b => o.loadOk && !b.isImm
  | .st _ sp sz ux o d a b => uxOk ux b && o.storeOk && sz.dataOk d && sp.baseOk a && sz != .s8 && sz != .s16
  | .stt _ o _ _ b => o.storeOk && !b.isImm
  | .ldf _ _ _ ux _ _ b | .ste _ _ ux _ _ b => uxOk ux b
  | .fewaitTimeout => true
  | .tags _ _ _ ux _ b _ | .tagq _ _ ux _ _ b => uxOk ux b
  | .pref _ _ ux a b _ => uxOk ux b && Reg.even a
  | .loadComplete | .storePerformed | .atomicPerformed => true
  | .cwb _ _ a _ | .cinv _ _ a _ | .cwbi _ _ a _ => Reg.even a
  | .iinv _ sc a _ => Reg.even a && 3 ≤ sc.num && sc.num ≤ 6
  | .fbar _ | .domset _ _ _ | .l2RequestReplay | .laydivw _ _ _ => true
  | .tlbinv _ a => Reg.even a
  | .tlbinvAll _ => true
  | .pgmap _ _ a b _ => Reg.even a && Reg.even b
  | .pageZeroingDone => true
  | .pgunmap _ _ a => Reg.even a
  | .pgqPte _ d a | .pgqZero _ d a => Reg.even d && Reg.even a
  | .pgqRoot _ d => Reg.even d
  | .pageWalk => true
  | .cpy _ _ _ sc _ a _ => sc.engineOk && Reg.quad a
  | .cpyt _ sc _ _ b => sc.engineOk && !b.isImm
  | .lockEntryRegister | .lockMirrorAck | .copyComplete => true
  | .sebind _ _ sc _ _ _ _ b => sc.engineOk && !b.isImm
  | .sefree _ _ _ | .slotw _ _ _ _ | .slotrel _ _ _ | .boxStart | .boxComplete => true
  | .tagwait _ _ d b => Reg.even d && b.even64
  | .tagff _ _ _ b | .tagclr _ b => b.even64
  | .lockqAddr _ sp _ a _ => sp.baseOk a
  | .lockqFree _ _ => true
  | .lockqErr _ d b => Reg.even d && b.even64
  | .atom _ _ sp o d a b | .cas _ sp o d a b => o.ok sp && sp.baseOk a && (!o.x64 || (Reg.even d && b.even64))
  | .atomf _ _ sp o _ a _ => o.ok sp && sp.baseOk a && !o.x64
  | .red _ op sp o a b =>
    o.ok sp && sp.baseOk a && op.ok o.x64 && (!o.x64 || b.even64) && !o.rmt && (o.kind == .relaxed || o.kind == .rel)
  | .binit _ clu n _ _ | .barv _ clu n _ | .bwait _ clu n _ | .bsync _ clu n | .bqry _ clu n _ => barOk clu n
  | .barrierArrivalCounted | .barrierDeadlockDetect => true
  | .fence _ _ sc => sc != .thr
  | .lfence _ | .lfenceArray _ _ _ => true
  | .efence _ _ sc => 2 ≤ sc.num && sc.num ≤ 7
  | .mxrun _ _ a _ => Reg.even a
  | .mxq _ _ => true
  | .streamLineFetch | .streamCommandIssue | .streamCommandRetire | .mwaitbDeadlockDetect | .matrixRowEntry
  | .mldwFetchStart => true
  | .mldw k bank fmt _ _ off => k.ok && fmt.rangeOk && (!bank || decide (off.toNat < 2 ^ 19))
  | .mswap k | .mstr k _ _ _ _ _ | .mzero k _ _ | .maccld k _ _ _ | .maccst k _ _ _ | .mepi k _ _ _ _ _ _ | .mbar k _ _
  | .mwaitb k _ _ | .mend k | .mlad k _ _ _ _ _ _ => k.ok
  | .ladderPassDecide => true
  | .ladcnt _ d k => Reg.even d && k.toNat ≤ 4
  | .ladclr _ _ | .scan _ _ _ _ _ _ _ | .carryGet _ _ _ | .carrySet _ _ _ => true
  | .stepk _ _ d _ _ => Reg.even d
  | .mscan k _ _ _ _ _ _ => k.ok
  | .priow _ _ _ _ => true
  | .priowWt _ b => b.even64
  | .separatorApply | .prior _ _ _ _ => true
  | .sepq _ _ d | .sposPos _ d => Reg.even d
  | .sposRow _ _ => true
  | .vput _ a | .vputOvl _ a => Reg.oct a
  | .vatPlacement | .overlapIngest => true
  | .vget _ _ a _ => Reg.quad a
  | .vqry _ d _ | .vqryCfg _ d => Reg.even d
  | .rowdlRow _ _ _ => true
  | .rowdlTime _ d _ => Reg.even d
  | .rowput _ sp _ a _ => sp != .glob || Reg.even a
  | .rowputCopy | .separatorVisit | .positionIssue | .separatorHeaderRetry | .rowLock | .rowEngineEnable => true
  | .probeOpen _ _ _ _ | .probeEnd _ _ _ => true
  | .probeTri _ _ a => Reg.oct a
  | .triangleBin | .binRasterise => true
  | .probeSmp _ _ d _ => Reg.quad d
  | .blendRecord => true
  | .curve _ _ _ a => Reg.oct a
  | .curveSegmentAdd | .pathendOpen _ _ _ _ | .pathendNz _ _ _ | .pathendEo _ _ _ | .pathClose | .cvg _ _ _ _ _ => true
  | .trace _ _ _ a b => Reg.oct a && b.even64 && !b.isImm
  | .traceComplete => true
  | .hitr _ d => Reg.quad d
  | .hitrSt _ _ => true
  | .mbwait _ _ _ _ b => b.even64
  | .mbtake _ d _ _ => Reg.even d
  | .mbpost _ _ _ a _ => a.toNat % 16 == 0
  | .jnlSeq _ d => Reg.even d
  | .jnlFail _ _ _ _ => true
  | .launch _ d a _ => Reg.even d && Reg.even a
  | .sliceDl _ _ _ b => b.even64
  | .sliceKill _ _ _ | .nodegoCfg _ _ _ _ | .nodegoFlush _ _ _ | .nodegoOff _ _ _ => true
  | .nodegoQ _ d _ | .admitqEnergy _ d _ | .admitqTherm _ d _ | .admitqAct _ d _ | .admitqGate _ d _ | .admitqQueue _ d _ => Reg.even d
  | .recalloc _ _ _ | .recfullTimeout | .recemit _ _ _ | .recrd _ _ _ | .recfin _ => true
  | .nodeLaunch | .nodeAgeExpiry | .dispatchPlace | .groupRetire | .sliceRelease | .budgetExhausted
  | .activityWindow | .occupancyWindow | .pick | .lineFetch | .lineRefetch | .threadUnpark | .sleepWake
  | .fenceComplete | .handlerEntry => true
  | .srdCompact d n | .srd _ d n => srAssigned n && (!sr64 n || Reg.even d)
  | .swr _ n b => srAssigned n && (!sr64 n || b.even64)
  | .trap _ _ | .tret _ => true
  | .cclr _ b => b.even64
  | .tmaskOr _ d b | .tmaskAndn _ d b | .tmaskWr _ d b => Reg.even d && b.even64
  | .bkpt _ | .preempt _ _ _ _ | .ctxsv _ _ _ _ | .ctxld _ _ _ _ => true
  | .haltq _ k d => Reg.even d && k.toNat ≤ 4
  | .haltLineRise | .watchdogExpiry | .partitionResume | .thermalAdmissionStop | .thermalClockHalve
  | .thermalClockRestore | .thermalArrayGate | .engineWake | .vbusLaneRepair | .spareRemap | .mailboxMessageWrite
  | .mailboxControlWrite | .rstreq | .hmring | .bar0Write | .hostMemoryAccess | .ptmExchange | .bridgeRetry
  | .bridgeUncorrectable | .moduleOutOfService | .memoryUncorrectable | .backgroundScrub | .attestationReport
  | .perstDeassert | .partitionReset | .vbusRepairComplete | .fabricError | .rowEngineDisable | .engineGate
  | .partitionRelease | .domainChangeComplete | .laydivChangeComplete | .cacheMaintenanceComplete | .writeBufferCommit
  | .msixVectorUnmask | .perstAssert | .configurationRequest | .hostSnoop => true

end Sys2Proof
end

