-- ==== Sys2Proof/Decode.lean ====
section
/-! DEFINITION. The instruction word (R31 to R49) and the encoding tables of every chapter. A word is cut into the fields of R41
and R42, the fields are read by their table row (`parse`), and what was read must be well formed and encode to the same fields, so
that no reserved bit is dropped. The encoder (`codeOf`, `encode`) is written from the same tables. A line of 64 bytes is walked
and checked by R33 to R37 at the end. -/

namespace Sys2Proof

/-- The fields of a 64- or 96-bit instruction (R41, R42); `lit` is the third word of the 96-bit form. -/
structure Fields where
  maj : BitVec 6
  d : BitVec 8
  a : BitVec 8
  b : BitVec 8
  c : BitVec 8
  min : BitVec 10
  g : BitVec 5
  bk : BitVec 2
  mod : BitVec 7
  lit : Option (BitVec 32)
deriving DecidableEq, Repr

/-- A word cut into fields: the compact form has a major opcode and 24 bits. -/
inductive Code where
  | short (maj : BitVec 6) (body : BitVec 24)
  | long (f : Fields)
deriving DecidableEq, Repr

/-- Why words are not an instruction (R48 orders 3 to 5). -/
inductive DecodeError where
  /-- LEN is 0, MAJ is 0 or above 0x3B (order 3). -/
  | noInstruction
  /-- A 32-bit word of a MAJ without a compact form, or one that breaks its row (order 4). -/
  | noCompact
  /-- BK and the length disagree (R43, order 4). -/
  | badKind
  /-- G = 0 with N or GP nonzero (R44, order 4). -/
  | badGuard
  /-- MAJ and MIN name no row, or a field holds an unassigned value (order 4). -/
  | unassigned
  /-- A value or register the row does not admit (orders 4 and 5). -/
  | notAdmitted
  /-- A bit that the row leaves zero is set (order 4). -/
  | reservedBit
  /-- Fewer words than the length field says. -/
  | truncated
deriving DecidableEq, Repr

/-! ### Codes of the small sets -/

def bit1 (x : Bool) : BitVec 1 := BitVec.ofBool x

def Guard.code : Guard → BitVec 5
  | .always => 0#5
  | .when neg p => 1#1 ++ bit1 neg ++ p

def Guard.ofCode (w : BitVec 5) : Guard :=
  if w.getLsbD 4 then .when (w.getLsbD 3) (w.extractLsb' 0 3) else .always

/-- BK, B and LIT of operand b (R43). -/
def Src.bk : Src → BitVec 2
  | .v _ => 0
  | .g _ => 1
  | .imm _ => 2
  | .lit _ => 3
/-- Field B; beside a literal it is zero, and a word with another value there is ILLEGAL (DESIGN CHOICE, log entry 15). -/
def Src.fieldB : Src → BitVec 8
  | .v r => r
  | .g r => 0#2 ++ r
  | .imm k => k
  | .lit _ => 0
def Src.literal : Src → Option (BitVec 32)
  | .v _ | .g _ | .imm _ => none
  | .lit w => some w
def Src.ofCode (bk : BitVec 2) (b : BitVec 8) (l : Option (BitVec 32)) : Src :=
  match l with
  | some w => .lit w
  | none => if bk = 0#2 then .v b else if bk = 1#2 then .g (b.extractLsb' 0 6) else .imm b

def Disp.ofCode (d a b : BitVec 8) (l : Option (BitVec 32)) : Disp :=
  match l with
  | some w => .long w
  | none => .short (d ++ a ++ b)

def IntTy.code : IntTy → BitVec 2
  | .i => 0
  | .n => 1
def IntTy.ofCode (w : BitVec 2) : IntTy := if w = 0#2 then .i else .n

def Cond.code : Cond → BitVec 3
  | .eq => 0 | .ne => 1 | .lt => 2 | .le => 3 | .gt => 4 | .ge => 5
def Cond.ofCode (w : BitVec 3) : Cond :=
  if w = 0#3 then .eq else if w = 1#3 then .ne else if w = 2#3 then .lt else if w = 3#3 then .le else if w = 4#3 then .gt else .ge

def FCond.code : FCond → BitVec 3
  | .eq => 0 | .ne => 1 | .lt => 2 | .le => 3 | .gt => 4 | .ge => 5 | .un => 6 | .ord => 7
def FCond.ofCode (w : BitVec 3) : FCond :=
  if w = 0#3 then .eq else if w = 1#3 then .ne else if w = 2#3 then .lt else if w = 3#3 then .le else if w = 4#3 then .gt
  else if w = 5#3 then .ge else if w = 6#3 then .un else .ord

def Rnd.code : Rnd → BitVec 2
  | .rne => 0 | .rtz => 1 | .rup => 2 | .rdn => 3
def Rnd.ofCode (w : BitVec 2) : Rnd :=
  if w = 0#2 then .rne else if w = 1#2 then .rtz else if w = 2#2 then .rup else .rdn

def FMod.code (m : FMod) : BitVec 7 := bit1 m.bf ++ bit1 m.nc ++ bit1 m.nb ++ bit1 m.na ++ bit1 m.ftz ++ m.rm.code
def FMod.ofCode (w : BitVec 7) : FMod :=
  { rm := Rnd.ofCode (w.extractLsb' 0 2), ftz := w.getLsbD 2, na := w.getLsbD 3, nb := w.getLsbD 4, nc := w.getLsbD 5,
    bf := w.getLsbD 6 }

/-- Format codes (R124). -/
def EFmt.code : EFmt → BitVec 5
  | .f32 => 0x00 | .f16 => 0x01 | .bf16 => 0x02 | .e5m2 => 0x03 | .e4m3 => 0x04 | .e3m2 => 0x05 | .e2m3 => 0x06 | .e2m1 => 0x07
  | .i4 => 0x08 | .i8 => 0x09 | .i16 => 0x0A | .i32 => 0x0B | .i64 => 0x0C | .n8 => 0x0D | .n16 => 0x0E | .n32 => 0x0F
  | .n64 => 0x10 | .e8m0 => 0x11 | .bs16 => 0x12
def EFmt.ofNat? : Nat → Option EFmt
  | 0 => some .f32 | 1 => some .f16 | 2 => some .bf16 | 3 => some .e5m2 | 4 => some .e4m3 | 5 => some .e3m2 | 6 => some .e2m3
  | 7 => some .e2m1 | 8 => some .i4 | 9 => some .i8 | 10 => some .i16 | 11 => some .i32 | 12 => some .i64 | 13 => some .n8
  | 14 => some .n16 | 15 => some .n32 | 16 => some .n64 | 17 => some .e8m0 | 18 => some .bs16
  | _ => none
def EFmt.ofCode? (w : BitVec 5) : Option EFmt := EFmt.ofNat? w.toNat
def EFmt.ofCode (w : BitVec 5) : EFmt := (EFmt.ofCode? w).getD .bs16

def Dot4Ty.code : Dot4Ty → BitVec 3
  | .e2m1 => 0 | .i4 => 1
def Dot4Ty.ofCode (w : BitVec 3) : Dot4Ty := if w = 0#3 then .e2m1 else .i4
def Dot8Ty.code : Dot8Ty → BitVec 3
  | .e5m2 => 0 | .e4m3 => 1 | .e3m2 => 2 | .e2m3 => 3 | .i8 => 4 | .n8 => 5
def Dot8Ty.ofCode (w : BitVec 3) : Dot8Ty :=
  if w = 0#3 then .e5m2 else if w = 1#3 then .e4m3 else if w = 2#3 then .e3m2 else if w = 3#3 then .e2m3 else if w = 4#3 then .i8
  else .n8

def Mask.fieldC : Mask → BitVec 8
  | .full => 0
  | .pair c => c
def Mask.isFull : Mask → Bool
  | .full => true
  | .pair _ => false
def Mask.ofCode (full : Bool) (c : BitVec 8) : Mask := if full then .full else .pair c

def XMode.code : XMode → BitVec 2
  | .idx => 0 | .up => 1 | .down => 2 | .xor => 3
def XMode.ofCode (w : BitVec 2) : XMode := if w = 0#2 then .idx else if w = 1#2 then .up else if w = 2#2 then .down else .xor

def ROp.code : ROp → BitVec 3
  | .add => 0 | .min => 1 | .max => 2 | .and => 3 | .or => 4 | .xor => 5
def ROp.ofCode (w : BitVec 3) : ROp :=
  if w = 0#3 then .add else if w = 1#3 then .min else if w = 2#3 then .max else if w = 3#3 then .and else if w = 4#3 then .or
  else .xor

def RTy.code : RTy → BitVec 2
  | .i32 => 0 | .n32 => 1 | .f32 => 2
def RTy.ofCode (w : BitVec 2) : RTy := if w = 0#2 then .i32 else if w = 1#2 then .n32 else .f32

def Space.code : Space → BitVec 3
  | .lane => 0 | .core => 1 | .cmem => 2 | .chip => 3 | .glob => 4
def Space.ofCode (w : BitVec 3) : Space :=
  if w = 0#3 then .lane else if w = 1#3 then .core else if w = 2#3 then .cmem else if w = 3#3 then .chip else .glob

def ESpace.code : ESpace → BitVec 3
  | .core => 1 | .cmem => 2 | .chip => 3 | .glob => 4 | .obuf => 5
def ESpace.ofCode (w : BitVec 3) : ESpace :=
  if w = 1#3 then .core else if w = 2#3 then .cmem else if w = 3#3 then .chip else if w = 4#3 then .glob else .obuf

def Size.code : Size → BitVec 3
  | .b8 => 0 | .s8 => 1 | .b16 => 2 | .s16 => 3 | .b32 => 4 | .b64 => 5 | .b128 => 6
def Size.ofCode (w : BitVec 3) : Size :=
  if w = 0#3 then .b8 else if w = 1#3 then .s8 else if w = 2#3 then .b16 else if w = 3#3 then .s16 else if w = 4#3 then .b32
  else if w = 5#3 then .b64 else .b128

/-- Scope codes (R45, R262). -/
def Scope.code : Scope → BitVec 4
  | .thr => 0 | .wav => 1 | .grp => 2 | .cor => 3 | .clu => 4 | .die => 5 | .dev => 6 | .sys => 7 | .dsp => 8
def Scope.ofCode (w : BitVec 4) : Scope :=
  if w = 0#4 then .thr else if w = 1#4 then .wav else if w = 2#4 then .grp else if w = 3#4 then .cor else if w = 4#4 then .clu
  else if w = 5#4 then .die else if w = 6#4 then .dev else if w = 7#4 then .sys else .dsp

def Order.code : Order → BitVec 8
  | .plain => 0
  | .sync sc => 1#2 ++ 0#2 ++ sc.code
  | .rmt sc => 2#2 ++ 0#2 ++ sc.code
def Order.ofCode (w : BitVec 8) : Order :=
  let k := w.extractLsb' 6 2
  let sc := Scope.ofCode (w.extractLsb' 0 4)
  if k = 0#2 then .plain else if k = 1#2 then .sync sc else .rmt sc

def PLevel.code : PLevel → BitVec 2
  | .dc => 0 | .l2 => 1 | .lay => 2
def PLevel.ofCode (w : BitVec 2) : PLevel := if w = 0#2 then .dc else if w = 1#2 then .l2 else .lay

def CPoint.code : CPoint → BitVec 2
  | .l2 => 0 | .lay => 1 | .mem => 2
def CPoint.ofCode (w : BitVec 2) : CPoint := if w = 0#2 then .l2 else if w = 1#2 then .lay else .mem

def AKind.code : AKind → BitVec 2
  | .relaxed => 0 | .acq => 1 | .rel => 2 | .ar => 3
def AKind.ofCode (w : BitVec 2) : AKind := if w = 0#2 then .relaxed else if w = 1#2 then .acq else if w = 2#2 then .rel else .ar

def AOrd.code (o : AOrd) : BitVec 8 := o.kind.code ++ bit1 o.x64 ++ bit1 o.rmt ++ o.scope.code
def AOrd.ofCode (w : BitVec 8) : AOrd :=
  { kind := AKind.ofCode (w.extractLsb' 6 2), x64 := w.getLsbD 5, rmt := w.getLsbD 4, scope := Scope.ofCode (w.extractLsb' 0 4) }

def AOp.code : AOp → BitVec 4
  | .add => 0 | .minI => 1 | .maxI => 2 | .minN => 3 | .maxN => 4 | .and => 5 | .or => 6 | .xor => 7 | .exch => 8 | .incw => 9
def AOp.ofNum : Nat → AOp
  | 0 => .add | 1 => .minI | 2 => .maxI | 3 => .minN | 4 => .maxN | 5 => .and | 6 => .or | 7 => .xor | 8 => .exch
  | _ => .incw
def AOp.ofCode (w : BitVec 4) : AOp := AOp.ofNum w.toNat

def AFOp.code : AFOp → BitVec 4
  | .addF32 => 0 | .minF32 => 1 | .maxF32 => 2 | .addF16 => 3 | .addBf16 => 4
def AFOp.ofCode (w : BitVec 4) : AFOp :=
  if w = 0#4 then .addF32 else if w = 1#4 then .minF32 else if w = 2#4 then .maxF32 else if w = 3#4 then .addF16 else .addBf16

/-- RED takes the float operations at codes 8 to 12; `.exch` and `.incw` have no code of its (15 is unassigned). -/
def REDOp.code : REDOp → BitVec 4
  | .int .exch | .int .incw => 15
  | .int o => o.code
  | .flt o => o.code + 8
def REDOp.ofCode (w : BitVec 4) : REDOp := if w.toNat < 8 then .int (AOp.ofCode w) else .flt (AFOp.ofCode (w - 8))

def FKind.code : FKind → BitVec 2
  | .acq => 0 | .rel => 1 | .ar => 2 | .sc => 3
def FKind.ofCode (w : BitVec 2) : FKind := if w = 0#2 then .acq else if w = 1#2 then .rel else if w = 2#2 then .ar else .sc

def SK.code : SK → BitVec 2
  | .none => 0 | .e8m0 => 1 | .bs16 => 2
def SK.ofCode (w : BitVec 2) : SK := if w = 0#2 then .none else if w = 1#2 then .e8m0 else .bs16
def BLen.code : BLen → BitVec 2
  | .b16 => 0 | .b32 => 1 | .b64 => 2
def BLen.ofCode (w : BitVec 2) : BLen := if w = 0#2 then .b16 else if w = 1#2 then .b32 else .b64

def EpiFn.code : EpiFn → BitVec 3
  | .id => 0 | .relu => 1 | .lrelu => 2 | .tanh => 3 | .clip => 4
def EpiFn.ofCode (w : BitVec 3) : EpiFn :=
  if w = 0#3 then .id else if w = 1#3 then .relu else if w = 2#3 then .lrelu else if w = 3#3 then .tanh else .clip

def SMap.code : SMap → BitVec 2
  | .gaze => 0 | .mot => 1 | .err => 2
def SMap.ofCode (w : BitVec 2) : SMap := if w = 0#2 then .gaze else if w = 1#2 then .mot else .err

def PSel.code : PSel → BitVec 3
  | .gaze => 0 | .mot => 1 | .err => 2 | .pri => 3 | .acc => 4
def PSel.ofCode (w : BitVec 3) : PSel :=
  if w = 0#3 then .gaze else if w = 1#3 then .mot else if w = 2#3 then .err else if w = 3#3 then .pri else .acc

def RSpace.code : RSpace → BitVec 3
  | .core => 1 | .chip => 3 | .glob => 4
def RSpace.ofCode (w : BitVec 3) : RSpace := if w = 1#3 then .core else if w = 3#3 then .chip else .glob

def CKind.code : CKind → BitVec 2
  | .line => 0 | .quad => 1 | .cubic => 2
def CKind.ofCode (w : BitVec 2) : CKind := if w = 0#2 then .line else if w = 1#2 then .quad else .cubic

/-! ### The encoder -/

/-- A row's fields, operand b and guard filled in. -/
def row (mj : BitVec 6) (mn : BitVec 10) (g : Guard) (d a : BitVec 8) (b : Src) (c : BitVec 8) (mod : BitVec 7) : Code :=
  .long { maj := mj, d := d, a := a, b := b.fieldB, c := c, min := mn, g := g.code, bk := b.bk, mod := mod, lit := b.literal }

/-- B = 0 with BK `0b00`. -/
def noB : Src := .v 0

def dispRow (mj : BitVec 6) (g : Guard) : Disp → Code
  | .short d => .long { maj := mj, d := d.extractLsb' 16 8, a := d.extractLsb' 8 8, b := d.extractLsb' 0 8, c := 0, min := 0,
                        g := g.code, bk := 2, mod := 0, lit := none }
  | .long d => .long { maj := mj, d := 0, a := 0, b := 0, c := 0, min := 0, g := g.code, bk := 3, mod := 0, lit := some d }

def pred8 (p : BitVec 3) : BitVec 8 := 0#5 ++ p
def low5 (n : BitVec 5) : BitVec 8 := 0#3 ++ n
def low6 (n : BitVec 6) : BitVec 8 := 0#2 ++ n

/-- Options of CVT in C: source format, `.sat`, `.ftz` (R144). -/
def cvtC (src : EFmt) (sat ftz : Bool) : BitVec 8 := 0#1 ++ bit1 ftz ++ bit1 sat ++ src.code
/-- T and `.sat` (R88). -/
def tySat (ty : IntTy) (sat : Bool) : BitVec 7 := 0#4 ++ bit1 sat ++ ty.code
def x64Mod (x64 : Bool) : BitVec 7 := 0#3 ++ bit1 x64 ++ 0#3
def logicMod (inv x64 : Bool) : BitVec 7 := 0#2 ++ bit1 inv ++ bit1 x64 ++ 0#3
def gMod : BitVec 7 := 0x20
def fullMod (m : Mask) : BitVec 7 := 0#3 ++ bit1 m.isFull ++ 0#3

/-- A stream command (R287, R296): guard zero, BK `0b11`, the command word as literal. -/
def cmdRow (mj : BitVec 6) (mn : BitVec 10) (k : Cmd) (d a b c : BitVec 8) (mod : BitVec 7) (x : BitVec 14) : Code :=
  .long { maj := mj, d := d, a := a, b := b, c := c, min := mn, g := 0, bk := 3, mod := mod,
          lit := some (x ++ k.p1 ++ k.p0 ++ k.id) }

/-- The fields of an instruction; none for an event, which has no word. -/
def codeOf : Instr → Option Code
  | .braCompact d => some (.short 0x01 d)
  | .bra g d => some (dispRow 0x01 g d)
  | .brx g a b => some (row 0x01 1 g 0 a b 0 0)
  | .callCompact d => some (.short 0x02 d)
  | .call g d => some (dispRow 0x02 g d)
  | .callx g a b => some (row 0x02 1 g 0 a b 0 0)
  | .ret g => some (row 0x02 2 g 0 0 noB 0 0)
  | .nopCompact => some (.short 0x03 0xFFFFFF)
  | .nop g l => some (row 0x03 0 g 0 0 (match l with | none => noB | some w => .lit w) 0 0)
  | .exit g => some (row 0x03 1 g 0 0 noB 0 0)
  | .yield g => some (row 0x03 2 g 0 0 noB 0 0)
  | .waitCompact l s c t => some (.short 0x03 (l ++ s ++ c ++ t))
  | .wait g l s c t =>
    let w := l ++ s ++ c ++ t
    some (.long { maj := 0x03, d := w.extractLsb' 16 8, a := w.extractLsb' 8 8, b := w.extractLsb' 0 8, c := 0, min := 3,
                  g := g.code, bk := 2, mod := 0, lit := none })
  | .sleep g b => some (row 0x03 4 g 0 0 b 0 0)
  | .sleepAbs g a => some (row 0x03 4 g 0 a noB 0 1)
  | .movCompact d a => some (.short 0x04 (d ++ a ++ 0#8))
  | .mov g d b => some (row 0x04 0 g d 0 b 0 0)
  | .movG g d b => some (row 0x04 0 g (low6 d) 0 b 0 gMod)
  | .movl g d b => some (row 0x04 1 g d 0 b 0 0)
  | .movlG g d b => some (row 0x04 1 g (low6 d) 0 b 0 gMod)
  | .sel g x64 d a b p => some (row 0x04 2 g d a b (pred8 p) (x64Mod x64))
  | .addCompact d a b => some (.short 0x05 (d ++ a ++ b))
  | .add g ty sat d a b => some (row 0x05 0 g d a b 0 (tySat ty sat))
  | .sub g ty sat d a b => some (row 0x05 1 g d a b 0 (tySat ty sat))
  | .min g ty d a b => some (row 0x05 2 g d a b 0 (tySat ty false))
  | .max g ty d a b => some (row 0x05 3 g d a b 0 (tySat ty false))
  | .abs g sat d a => some (row 0x05 4 g d a noB 0 (tySat .i sat))
  | .mulCompact d a b => some (.short 0x06 (d ++ a ++ b))
  | .mul g ty sat d a b => some (row 0x06 0 g d a b 0 (tySat ty sat))
  | .mulhi g ty d a b => some (row 0x06 1 g d a b 0 (tySat ty false))
  | .mad g ty sat d a b c => some (row 0x06 2 g d a b c (tySat ty sat))
  | .andCompact d a b => some (.short 0x07 (d ++ a ++ b))
  | .and g inv x64 d a b => some (row 0x07 0 g d a b 0 (logicMod inv x64))
  | .or g inv x64 d a b => some (row 0x07 1 g d a b 0 (logicMod inv x64))
  | .xor g inv x64 d a b => some (row 0x07 2 g d a b 0 (logicMod inv x64))
  | .shlCompact d a b => some (.short 0x08 (d ++ a ++ b))
  | .shl g x64 d a b => some (row 0x08 0 g d a b 0 (x64Mod x64))
  | .shr g x64 d a b => some (row 0x08 1 g d a b 0 (x64Mod x64))
  | .sar g x64 d a b => some (row 0x08 2 g d a b 0 (x64Mod x64))
  | .bext g ty d a b w => some (row 0x09 0 g d a b w (tySat ty false))
  | .bins g d a b w => some (row 0x09 1 g d a b w 0)
  | .popc g x64 d a => some (row 0x09 2 g d a noB 0 (x64Mod x64))
  | .clz g x64 d a => some (row 0x09 3 g d a noB 0 (x64Mod x64))
  | .brev g x64 d a => some (row 0x09 4 g d a noB 0 (x64Mod x64))
  | .icmp g cond ty x64 pd a b => some (row 0x0A 0 g (pred8 pd) a b 0 (0#2 ++ bit1 x64 ++ bit1 (ty == .n) ++ cond.code))
  | .plut g pd px py pz table => some (row 0x0A 1 g (pred8 pd) (pred8 px) (.imm table) (0#1 ++ pz ++ 0#1 ++ py) 0)
  | .add64 g ty sat neg d a b => some (row 0x0B 0 g d a b 0 (0#2 ++ bit1 neg ++ 0#1 ++ bit1 sat ++ ty.code))
  | .mad64 g ty sat d a b c => some (row 0x0B 1 g d a b c (tySat ty sat))
  | .lea g ty sh d a b => some (row 0x0B 2 g d a b 0 (sh ++ 0#2 ++ ty.code))
  | .faddCompact d a b => some (.short 0x0C (d ++ a ++ b))
  | .fadd g m d a b => some (row 0x0C 0 g d a b 0 m.code)
  | .fmin g m d a b => some (row 0x0C 1 g d a b 0 m.code)
  | .fmax g m d a b => some (row 0x0C 2 g d a b 0 m.code)
  | .fmulCompact d a b => some (.short 0x0D (d ++ a ++ b))
  | .fmul g m d a b => some (row 0x0D 0 g d a b 0 m.code)
  | .fscl g m d a b => some (row 0x0D 1 g d a b 0 m.code)
  | .fmaCompact d a b => some (.short 0x0E (d ++ a ++ b))
  | .fma g m d a b c => some (row 0x0E 0 g d a b c m.code)
  | .fcmp g cond ftz pd a b => some (row 0x0F 0 g (pred8 pd) a b 0 (0#3 ++ bit1 ftz ++ cond.code))
  | .fcls g d a => some (row 0x0F 1 g d a noB 0 0)
  | .frint g m d a => some (row 0x0F 2 g d a noB 0 m.code)
  | .h2add g m d a b => some (row 0x10 0 g d a b 0 m.code)
  | .h2mul g m d a b => some (row 0x10 1 g d a b 0 m.code)
  | .h2fmaCompact d a b => some (.short 0x10 (d ++ a ++ b))
  | .h2fma g m d a b c => some (row 0x10 2 g d a b c m.code)
  | .h2min g m d a b => some (row 0x11 0 g d a b 0 m.code)
  | .h2max g m d a b => some (row 0x11 1 g d a b 0 m.code)
  | .rcp g m d a => some (row 0x12 0 g d a noB 0 m.code)
  | .rsqrt g m d a => some (row 0x12 1 g d a noB 0 m.code)
  | .sqrt g m d a => some (row 0x12 2 g d a noB 0 m.code)
  | .exp2 g m d a => some (row 0x12 3 g d a noB 0 m.code)
  | .log2 g m d a => some (row 0x12 4 g d a noB 0 m.code)
  | .sin g m d a => some (row 0x13 0 g d a noB 0 m.code)
  | .cos g m d a => some (row 0x13 1 g d a noB 0 m.code)
  | .tanh g m d a => some (row 0x13 2 g d a noB 0 m.code)
  | .fdiv g m d a b => some (row 0x13 3 g d a b 0 m.code)
  | .cvt g dst src rm sat ftz d a => some (row 0x14 0 g d a noB (cvtC src sat ftz) (dst.code ++ rm.code))
  | .cvts g dst src sat ftz d a b => some (row 0x14 1 g d a b (cvtC src sat ftz) (dst.code ++ 0#2))
  | .pack g fmt d a b => some (row 0x15 0 g d a b 0 (0#2 ++ fmt.code))
  | .unpk g fmt f32 d a b => some (row 0x15 1 g d a b 0 (0#1 ++ bit1 f32 ++ fmt.code))
  | .qblk g fmt bs d a => some (row 0x15 2 g d a noB 0 (0#1 ++ bit1 bs ++ fmt.code))
  | .dot4 g fa fb sat d a b c => some (row 0x16 0 g d a b c (bit1 sat ++ fb.code ++ fa.code))
  | .dot8 g fa fb sat d a b c => some (row 0x16 1 g d a b c (bit1 sat ++ fb.code ++ fa.code))
  | .dot2h g m d a b c => some (row 0x16 2 g d a b c m.code)
  | .obres g d a n => some (row 0x17 0 g d a noB (low5 n) 0)
  | .obrel g d n => some (row 0x17 1 g d 0 noB (low5 n) 0)
  | .obwr g a b n => some (row 0x17 2 g 0 a b (low5 n) 0)
  | .obrd g d b n => some (row 0x17 3 g d 0 b (low5 n) 0)
  | .lxch g mode wrap x64 m d a b =>
    some (row 0x18 0 g d a b m.fieldC (0#2 ++ bit1 x64 ++ bit1 m.isFull ++ bit1 wrap ++ mode.code))
  | .lvoteAny g m pd pa => some (row 0x18 1 g (pred8 pd) (pred8 pa) noB m.fieldC (fullMod m))
  | .lvoteAll g m pd pa => some (row 0x18 1 g (pred8 pd) (pred8 pa) noB m.fieldC (fullMod m ||| 1))
  | .lvoteBal g m d pa => some (row 0x18 1 g d (pred8 pa) noB m.fieldC (fullMod m ||| 2))
  | .lmatch g x64 m d a => some (row 0x18 2 g d a noB m.fieldC (0#2 ++ bit1 x64 ++ bit1 m.isFull ++ 0#3))
  | .lelect g m pd => some (row 0x18 3 g (pred8 pd) 0 noB m.fieldC (fullMod m))
  | .lred g op ty m d a => some (row 0x19 0 g d a noB m.fieldC (0#1 ++ ty.code ++ bit1 m.isFull ++ op.code))
  | .lscan g op ty exc m d a => some (row 0x19 1 g d a noB m.fieldC (bit1 exc ++ ty.code ++ bit1 m.isFull ++ op.code))
  | .meetingForm => none
  | .ldCompact d a b => some (.short 0x1A (d ++ a ++ b))
  | .ld g sp sz ux o d a b => some (row 0x1A 0 g d a b o.code (bit1 ux ++ sz.code ++ sp.code))
  | .ldt g o d a b => some (row 0x1A 1 g d a b o.code 0)
  | .stCompact d a b => some (.short 0x1B (d ++ a ++ b))
  | .st g sp sz ux o d a b => some (row 0x1B 0 g d a b o.code (bit1 ux ++ sz.code ++ sp.code))
  | .stt g o d a b => some (row 0x1B 1 g d a b o.code 0)
  | .ldf g cm take ux d a b => some (row 0x1C 0 g d a b 0 (bit1 ux ++ 0#4 ++ bit1 take ++ bit1 cm))
  | .ste g cm ux d a b => some (row 0x1C 1 g d a b 0 (bit1 ux ++ 0#5 ++ bit1 cm))
  | .fewaitTimeout => none
  | .tags g cm full ux a b cnt => some (row 0x1D 0 g 0 a b cnt (bit1 ux ++ 0#4 ++ bit1 full ++ bit1 cm))
  | .tagq g cm ux d a b => some (row 0x1D 1 g d a b 0 (bit1 ux ++ 0#5 ++ bit1 cm))
  | .pref g lv ux a b cnt => some (row 0x1D 2 g 0 a b cnt (bit1 ux ++ 0#4 ++ lv.code))
  | .loadComplete => none
  | .storePerformed => none
  | .atomicPerformed => none
  | .cwb g pt a b => some (row 0x1E 0 g 0 a b 0 (0#5 ++ pt.code))
  | .cinv g pt a b => some (row 0x1E 1 g 0 a b 0 (0#5 ++ pt.code))
  | .cwbi g pt a b => some (row 0x1E 2 g 0 a b 0 (0#5 ++ pt.code))
  | .iinv g sc a b => some (row 0x1E 3 g 0 a b 0 (0#3 ++ sc.code))
  | .fbar g => some (row 0x1E 4 g 0 0 noB 0 0)
  | .domset g d a => some (row 0x1F 0 g d a noB 0 0)
  | .l2RequestReplay => none
  | .laydivw g d a => some (row 0x1F 1 g d a noB 0 0)
  | .tlbinv g a => some (row 0x1F 2 g 0 a noB 0 0)
  | .tlbinvAll g => some (row 0x1F 2 g 0 0 noB 0 1)
  | .pgmap g d a b c => some (row 0x1F 3 g d a (.v b) c 0)
  | .pageZeroingDone => none
  | .pgunmap g d a => some (row 0x1F 4 g d a noB 0 0)
  | .pgqPte g d a => some (row 0x1F 5 g d a noB 0 0)
  | .pgqZero g d a => some (row 0x1F 5 g d a noB 0 1)
  | .pgqRoot g d => some (row 0x1F 5 g d 0 noB 0 2)
  | .pageWalk => none
  | .cpy g dsp ssp sc tag a b => some (row 0x20 0 g (low6 tag) a b (0#4 ++ sc.code) (0#1 ++ ssp.code ++ dsp.code))
  | .cpyt g sc tag a b => some (row 0x20 1 g (low6 tag) a b (0#4 ++ sc.code) 0)
  | .lockEntryRegister => none
  | .lockMirrorAck => none
  | .copyComplete => none
  | .sebind g drain sc eng tag d a b => some (row 0x21 0 g d a b (0#1 ++ bit1 eng ++ tag) (0#2 ++ bit1 drain ++ sc.code))
  | .sefree g eng d => some (row 0x21 1 g d 0 noB (0#1 ++ bit1 eng ++ 0#6) 0)
  | .slotw g eng d b => some (row 0x21 2 g d 0 b (0#1 ++ bit1 eng ++ 0#6) 0)
  | .slotrel g eng b => some (row 0x21 3 g 0 0 b (0#1 ++ bit1 eng ++ 0#6) 0)
  | .boxStart => none
  | .boxComplete => none
  | .tagwait g all d b => some (row 0x22 0 g d 0 b 0 (0#6 ++ bit1 all))
  | .tagff g clr d b => some (row 0x22 1 g d 0 b 0 (0#6 ++ bit1 clr))
  | .tagclr g b => some (row 0x22 2 g 0 0 b 0 0)
  | .lockqAddr g sp d a b => some (row 0x22 3 g d a b 0 (0#2 ++ sp.code ++ 0#2))
  | .lockqFree g d => some (row 0x22 3 g d 0 noB 0 1)
  | .lockqErr g d b => some (row 0x22 3 g d 0 b 0 2)
  | .atom g op sp o d a b => some (row 0x23 0 g d a b o.code (op.code ++ sp.code))
  | .cas g sp o d a b => some (row 0x23 1 g d a b o.code (0#4 ++ sp.code))
  | .atomf g op sp o d a b => some (row 0x24 0 g d a b o.code (op.code ++ sp.code))
  | .red g op sp o a b => some (row 0x24 1 g 0 a b o.code (op.code ++ sp.code))
  | .binit g clu n d b => some (row 0x25 0 g d 0 b (low6 n) (0#6 ++ bit1 clu))
  | .barv g clu n d => some (row 0x25 1 g d 0 noB (low6 n) (0#6 ++ bit1 clu))
  | .bwait g clu n a => some (row 0x25 2 g 0 a noB (low6 n) (0#6 ++ bit1 clu))
  | .bsync g clu n => some (row 0x25 3 g 0 0 noB (low6 n) (0#6 ++ bit1 clu))
  | .bqry g clu n d => some (row 0x25 4 g d 0 noB (low6 n) (0#6 ++ bit1 clu))
  | .barrierArrivalCounted => none
  | .barrierDeadlockDetect => none
  | .fence g k sc => some (row 0x26 0 g 0 0 noB 0 (0#1 ++ k.code ++ sc.code))
  | .lfence g => some (row 0x26 1 g 0 0 noB 0 0)
  | .lfenceArray g b mask => some (row 0x26 1 g 0 0 b (low5 mask) 1)
  | .efence g mx sc => some (row 0x26 2 g 0 0 noB 0 (0#2 ++ bit1 mx ++ sc.code))
  | .mxrun g d a b => some (row 0x27 0 g d a b 0 0)
  | .mxq g d => some (row 0x27 1 g d 0 noB 0 0)
  | .streamLineFetch => none
  | .streamCommandIssue => none
  | .streamCommandRetire => none
  | .mwaitbDeadlockDetect => none
  | .matrixRowEntry => none
  | .mldwFetchStart => none
  | .mldw k bank fmt sk bl off =>
    some (cmdRow 0x28 0 k (off.extractLsb' 0 8) (off.extractLsb' 8 8) (low6 (off.extractLsb' 16 6)) (low5 fmt.code)
      (0#6 ++ bit1 bank) (0#10 ++ bl.code ++ sk.code))
  | .mswap k => some (cmdRow 0x28 1 k 0 0 0 0 0 0)
  | .mstr k lad t n row0 m =>
    some (cmdRow 0x29 0 k (0#1 ++ t) (row0.extractLsb' 0 8) (row0.extractLsb' 8 8) (low5 n) (0#6 ++ bit1 lad) (0#4 ++ m))
  | .mzero k t m => some (cmdRow 0x2A 0 k (0#1 ++ t) 0 0 0 0 (0#4 ++ m))
  | .maccld k t off m => some (cmdRow 0x2A 1 k (0#1 ++ t) (off.extractLsb' 0 8) (pred8 (off.extractLsb' 8 3)) 0 0 (0#4 ++ m))
  | .maccst k t off m => some (cmdRow 0x2A 2 k (0#1 ++ t) (off.extractLsb' 0 8) (pred8 (off.extractLsb' 8 3)) 0 0 (0#4 ++ m))
  | .mepi k fn t p n orow m =>
    some (cmdRow 0x2B 0 k (0#1 ++ t) (orow.extractLsb' 0 8) (orow.extractLsb' 8 8) (fn.code ++ n) p (0#4 ++ m))
  | .mbar k all n => some (cmdRow 0x2C 0 k 0 0 0 (low6 n) (0#6 ++ bit1 all) 0)
  | .mwaitb k all n => some (cmdRow 0x2C 1 k 0 0 0 (low6 n) (0#6 ++ bit1 all) 0)
  | .mend k => some (cmdRow 0x2C 2 k 0 0 0 0 0 0)
  | .mlad k ts tu tc cb wr wdelta => some (cmdRow 0x2D 0 k ts tu tc (low6 cb) (0#5 ++ wr) wdelta)
  | .ladderPassDecide => none
  | .ladcnt g d sel => some (row 0x2D 1 g d 0 noB (pred8 sel) 0)
  | .ladclr g b => some (row 0x2D 2 g 0 0 b 0 0)
  | .scan g ftz rst slot d a b =>
    some (row 0x2E 0 g d a b
      (match rst with | none => 0#1 ++ slot ++ 0#4 | some p => 0#1 ++ slot ++ 1#1 ++ p) (0#4 ++ bit1 ftz ++ 0#2))
  | .carryGet g slot d => some (row 0x2E 1 g d 0 noB (0#1 ++ slot ++ 0#4) 0)
  | .carrySet g slot b => some (row 0x2E 1 g 0 0 b (0#1 ++ slot ++ 0#4) 1)
  | .stepk g ftz d a b => some (row 0x2E 2 g d a b 0 (0#4 ++ bit1 ftz ++ 0#2))
  | .mscan k rst th ta tb tc m => some (cmdRow 0x2E 3 k (0#1 ++ th) (0#1 ++ ta) (0#1 ++ tb) (0#1 ++ tc) (0#6 ++ bit1 rst) (0#4 ++ m))
  | .priow g map a b => some (row 0x2F 0 g 0 a b 0 (0#5 ++ map.code))
  | .priowWt g b => some (row 0x2F 0 g 0 0 b 0 3)
  | .separatorApply => none
  | .prior g sel d a => some (row 0x2F 1 g d a noB 0 (0#4 ++ sel.code))
  | .sepq g sel d => some (row 0x2F 2 g d 0 noB (pred8 sel) 0)
  | .sposPos g d => some (row 0x2F 3 g d 0 noB 0 0)
  | .sposRow g d => some (row 0x2F 3 g d 0 noB 0 1)
  | .vput g a => some (row 0x30 0 g 0 a noB 0 0)
  | .vputOvl g a => some (row 0x30 0 g 0 a noB 0 1)
  | .vatPlacement => none
  | .overlapIngest => none
  | .vget g n a b => some (row 0x30 1 g 0 a b (low5 n) 0)
  | .vqry g d a => some (row 0x30 2 g d a noB 0 0)
  | .vqryCfg g d => some (row 0x30 2 g d 0 noB 0 1)
  | .rowdlRow g d b => some (row 0x31 0 g d 0 b 0 0)
  | .rowdlTime g d b => some (row 0x31 0 g d 0 b 0 1)
  | .rowput g sp d a b => some (row 0x31 1 g d a b 0 (0#4 ++ sp.code))
  | .rowputCopy => none
  | .separatorVisit => none
  | .positionIssue => none
  | .separatorHeaderRetry => none
  | .rowLock => none
  | .rowEngineEnable => none
  | .probeOpen g slot d a => some (row 0x32 0 g d a noB (0#6 ++ slot) 0)
  | .probeTri g slot a => some (row 0x32 1 g 0 a noB (0#6 ++ slot) 0)
  | .triangleBin => none
  | .probeEnd g slot d => some (row 0x32 2 g d 0 noB (0#6 ++ slot) 0)
  | .binRasterise => none
  | .probeSmp g slot d a => some (row 0x32 3 g d a noB (0#6 ++ slot) 0)
  | .blendRecord => none
  | .curve g kind slot a => some (row 0x33 0 g 0 a noB (0#4 ++ slot) (0#5 ++ kind.code))
  | .curveSegmentAdd => none
  | .pathendOpen g slot d a => some (row 0x33 1 g d a noB (0#4 ++ slot) 0)
  | .pathendNz g slot d => some (row 0x33 1 g d 0 noB (0#4 ++ slot) 1)
  | .pathendEo g slot d => some (row 0x33 1 g d 0 noB (0#4 ++ slot) 2)
  | .pathClose => none
  | .cvg g raw slot d a => some (row 0x33 2 g d a noB (0#4 ++ slot) (0#6 ++ bit1 raw))
  | .trace g any cullb a b => some (row 0x34 0 g 0 a b 0 (0#5 ++ bit1 cullb ++ bit1 any))
  | .traceComplete => none
  | .hitr g d => some (row 0x34 1 g d 0 noB 0 0)
  | .hitrSt g d => some (row 0x34 1 g d 0 noB 0 1)
  | .mbwait g poll bank d b => some (row 0x35 0 g d 0 b (0#6 ++ bank) (0#6 ++ bit1 poll))
  | .mbtake g d a b => some (row 0x35 1 g d a b 0 0)
  | .mbpost g nosig d a b => some (row 0x35 2 g d a b 0 (0#6 ++ bit1 nosig))
  | .jnlSeq g d => some (row 0x35 3 g d 0 noB 0 0)
  | .jnlFail g d a b => some (row 0x35 3 g d a b 0 1)
  | .launch g d a b => some (row 0x36 0 g d a b 0 0)
  | .sliceDl g d a b => some (row 0x36 1 g d a b 0 0)
  | .sliceKill g d a => some (row 0x36 1 g d a noB 0 1)
  | .nodegoCfg g d a b => some (row 0x36 2 g d a b 0 0)
  | .nodegoFlush g d a => some (row 0x36 2 g d a noB 0 1)
  | .nodegoQ g d a => some (row 0x36 2 g d a noB 0 2)
  | .nodegoOff g d a => some (row 0x36 2 g d a noB 0 3)
  | .admitqEnergy g d a => some (row 0x36 3 g d a noB 0 0)
  | .admitqTherm g d a => some (row 0x36 3 g d a noB 0 1)
  | .admitqAct g d a => some (row 0x36 3 g d a noB 0 2)
  | .admitqGate g d a => some (row 0x36 3 g d a noB 0 3)
  | .admitqQueue g d a => some (row 0x36 3 g d a noB 0 4)
  | .recalloc g d a => some (row 0x37 0 g d a noB 0 0)
  | .recfullTimeout => none
  | .recemit g a b => some (row 0x37 1 g 0 a b 0 0)
  | .recrd g d b => some (row 0x37 2 g d 0 b 0 0)
  | .recfin g => some (row 0x37 3 g 0 0 noB 0 0)
  | .nodeLaunch | .nodeAgeExpiry | .dispatchPlace | .groupRetire | .sliceRelease | .budgetExhausted
  | .activityWindow | .occupancyWindow | .pick | .lineFetch | .lineRefetch | .threadUnpark | .sleepWake
  | .fenceComplete | .handlerEntry => none
  | .srdCompact d n => some (.short 0x38 (d ++ n ++ 0#8))
  | .srd g d n => some (row 0x38 0 g d n noB 0 0)
  | .swr g n b => some (row 0x38 1 g 0 n b 0 0)
  | .trap g code => some (row 0x39 0 g 0 0 noB (pred8 code) 0)
  | .tret g => some (row 0x39 1 g 0 0 noB 0 0)
  | .cclr g b => some (row 0x39 2 g 0 0 b 0 0)
  | .tmaskOr g d b => some (row 0x39 3 g d 0 b 0 0)
  | .tmaskAndn g d b => some (row 0x39 3 g d 0 b 0 1)
  | .tmaskWr g d b => some (row 0x39 3 g d 0 b 0 2)
  | .bkpt g => some (row 0x39 4 g 0 0 noB 0 0)
  | .preempt g d a b => some (row 0x3A 0 g d a b 0 0)
  | .ctxsv g d a b => some (row 0x3A 1 g d a b 0 0)
  | .ctxld g d a b => some (row 0x3A 2 g d a b 0 0)
  | .haltq g sel d => some (row 0x3B 0 g d 0 noB (pred8 sel) 0)
  | .haltLineRise | .watchdogExpiry | .partitionResume | .thermalAdmissionStop | .thermalClockHalve
  | .thermalClockRestore | .thermalArrayGate | .engineWake | .vbusLaneRepair | .spareRemap | .mailboxMessageWrite
  | .mailboxControlWrite | .rstreq | .hmring | .bar0Write | .hostMemoryAccess | .ptmExchange | .bridgeRetry
  | .bridgeUncorrectable | .moduleOutOfService | .memoryUncorrectable | .backgroundScrub | .attestationReport
  | .perstDeassert | .partitionReset | .vbusRepairComplete | .fabricError | .rowEngineDisable | .engineGate
  | .partitionRelease | .domainChangeComplete | .laydivChangeComplete | .cacheMaintenanceComplete | .writeBufferCommit
  | .msixVectorUnmask | .perstAssert | .configurationRequest | .hostSnoop => none

/-! ### Reading the fields by their row -/

def Fields.gd (f : Fields) : Guard := Guard.ofCode f.g
def Fields.src (f : Fields) : Src := Src.ofCode f.bk f.b f.lit
def Fields.ty (f : Fields) : IntTy := IntTy.ofCode (f.mod.extractLsb' 0 2)
def Fields.m (f : Fields) (k : Nat) : Bool := f.mod.getLsbD k
def Fields.mm (f : Fields) : FMod := FMod.ofCode f.mod
def Fields.pd (f : Fields) : BitVec 3 := f.d.extractLsb' 0 3
def Fields.pa (f : Fields) : BitVec 3 := f.a.extractLsb' 0 3
def Fields.rng (f : Fields) : BitVec 5 := f.c.extractLsb' 0 5
def Fields.mask (f : Fields) : Mask := Mask.ofCode (f.m 3) f.c
def Fields.c6 (f : Fields) : BitVec 6 := f.c.extractLsb' 0 6
def Fields.sc (f : Fields) : Scope := Scope.ofCode (f.mod.extractLsb' 0 4)
def Fields.scC (f : Fields) : Scope := Scope.ofCode (f.c.extractLsb' 0 4)
def Fields.sp (f : Fields) : Space := Space.ofCode (f.mod.extractLsb' 0 3)
def Fields.aord (f : Fields) : AOrd := AOrd.ofCode f.c
def Fields.word (f : Fields) : BitVec 32 := f.lit.getD 0
def Fields.cmd (f : Fields) : Cmd :=
  { id := f.word.extractLsb' 0 6, p0 := f.word.extractLsb' 6 6, p1 := f.word.extractLsb' 12 6 }
def Fields.x (f : Fields) : BitVec 14 := f.word.extractLsb' 18 14
def Fields.xm (f : Fields) : BitVec 10 := f.x.extractLsb' 0 10

def parseFlow (f : Fields) : Nat → Option Instr
  | 0 => some (.bra f.gd (Disp.ofCode f.d f.a f.b f.lit))
  | 1 => some (.brx f.gd f.a f.src)
  | _ => none

def parseCall (f : Fields) : Nat → Option Instr
  | 0 => some (.call f.gd (Disp.ofCode f.d f.a f.b f.lit))
  | 1 => some (.callx f.gd f.a f.src)
  | 2 => some (.ret f.gd)
  | _ => none

def parseIssue (f : Fields) : Nat → Option Instr
  | 0 => some (.nop f.gd f.lit)
  | 1 => some (.exit f.gd)
  | 2 => some (.yield f.gd)
  | 3 =>
    let w := f.d ++ f.a ++ f.b
    some (.wait f.gd (w.extractLsb' 18 6) (w.extractLsb' 12 6) (w.extractLsb' 6 6) (w.extractLsb' 0 6))
  | 4 => some (if f.m 0 then .sleepAbs f.gd f.a else .sleep f.gd f.src)
  | _ => none

def parseMov (f : Fields) : Nat → Option Instr
  | 0 => some (if f.m 5 then .movG f.gd (f.d.extractLsb' 0 6) f.src else .mov f.gd f.d f.src)
  | 1 => some (if f.m 5 then .movlG f.gd (f.d.extractLsb' 0 6) f.src else .movl f.gd f.d f.src)
  | 2 => some (.sel f.gd (f.m 3) f.d f.a f.src (f.c.extractLsb' 0 3))
  | _ => none

def parseAdd (f : Fields) : Nat → Option Instr
  | 0 => some (.add f.gd f.ty (f.m 2) f.d f.a f.src)
  | 1 => some (.sub f.gd f.ty (f.m 2) f.d f.a f.src)
  | 2 => some (.min f.gd f.ty f.d f.a f.src)
  | 3 => some (.max f.gd f.ty f.d f.a f.src)
  | 4 => some (.abs f.gd (f.m 2) f.d f.a)
  | _ => none

def parseMul (f : Fields) : Nat → Option Instr
  | 0 => some (.mul f.gd f.ty (f.m 2) f.d f.a f.src)
  | 1 => some (.mulhi f.gd f.ty f.d f.a f.src)
  | 2 => some (.mad f.gd f.ty (f.m 2) f.d f.a f.src f.c)
  | _ => none

def parseLogic (f : Fields) : Nat → Option Instr
  | 0 => some (.and f.gd (f.m 4) (f.m 3) f.d f.a f.src)
  | 1 => some (.or f.gd (f.m 4) (f.m 3) f.d f.a f.src)
  | 2 => some (.xor f.gd (f.m 4) (f.m 3) f.d f.a f.src)
  | _ => none

def parseShift (f : Fields) : Nat → Option Instr
  | 0 => some (.shl f.gd (f.m 3) f.d f.a f.src)
  | 1 => some (.shr f.gd (f.m 3) f.d f.a f.src)
  | 2 => some (.sar f.gd (f.m 3) f.d f.a f.src)
  | _ => none

def parseBits (f : Fields) : Nat → Option Instr
  | 0 => some (.bext f.gd f.ty f.d f.a f.src f.c)
  | 1 => some (.bins f.gd f.d f.a f.src f.c)
  | 2 => some (.popc f.gd (f.m 3) f.d f.a)
  | 3 => some (.clz f.gd (f.m 3) f.d f.a)
  | 4 => some (.brev f.gd (f.m 3) f.d f.a)
  | _ => none

def parseCmp (f : Fields) : Nat → Option Instr
  | 0 => some (.icmp f.gd (Cond.ofCode (f.mod.extractLsb' 0 3)) (if f.m 3 then .n else .i) (f.m 4) f.pd f.a f.src)
  | 1 => some (.plut f.gd f.pd f.pa (f.c.extractLsb' 0 3) (f.c.extractLsb' 4 3) f.b)
  | _ => none

def parseWide (f : Fields) : Nat → Option Instr
  | 0 => some (.add64 f.gd f.ty (f.m 2) (f.m 4) f.d f.a f.src)
  | 1 => some (.mad64 f.gd f.ty (f.m 2) f.d f.a f.src f.c)
  | 2 => some (.lea f.gd f.ty (f.mod.extractLsb' 4 3) f.d f.a f.src)
  | _ => none

def parseFadd (f : Fields) : Nat → Option Instr
  | 0 => some (.fadd f.gd f.mm f.d f.a f.src)
  | 1 => some (.fmin f.gd f.mm f.d f.a f.src)
  | 2 => some (.fmax f.gd f.mm f.d f.a f.src)
  | _ => none

def parseFmul (f : Fields) : Nat → Option Instr
  | 0 => some (.fmul f.gd f.mm f.d f.a f.src)
  | 1 => some (.fscl f.gd f.mm f.d f.a f.src)
  | _ => none

def parseFcmp (f : Fields) : Nat → Option Instr
  | 0 => some (.fcmp f.gd (FCond.ofCode (f.mod.extractLsb' 0 3)) (f.m 3) f.pd f.a f.src)
  | 1 => some (.fcls f.gd f.d f.a)
  | 2 => some (.frint f.gd f.mm f.d f.a)
  | _ => none

def parsePair (f : Fields) : Nat → Option Instr
  | 0 => some (.h2add f.gd f.mm f.d f.a f.src)
  | 1 => some (.h2mul f.gd f.mm f.d f.a f.src)
  | 2 => some (.h2fma f.gd f.mm f.d f.a f.src f.c)
  | _ => none

def parsePairMin (f : Fields) : Nat → Option Instr
  | 0 => some (.h2min f.gd f.mm f.d f.a f.src)
  | 1 => some (.h2max f.gd f.mm f.d f.a f.src)
  | _ => none

def parseSfu (f : Fields) : Nat → Option Instr
  | 0 => some (.rcp f.gd f.mm f.d f.a)
  | 1 => some (.rsqrt f.gd f.mm f.d f.a)
  | 2 => some (.sqrt f.gd f.mm f.d f.a)
  | 3 => some (.exp2 f.gd f.mm f.d f.a)
  | 4 => some (.log2 f.gd f.mm f.d f.a)
  | _ => none

def parseTrig (f : Fields) : Nat → Option Instr
  | 0 => some (.sin f.gd f.mm f.d f.a)
  | 1 => some (.cos f.gd f.mm f.d f.a)
  | 2 => some (.tanh f.gd f.mm f.d f.a)
  | 3 => some (.fdiv f.gd f.mm f.d f.a f.src)
  | _ => none

def parseCvt (f : Fields) : Nat → Option Instr
  | 0 => some (.cvt f.gd (EFmt.ofCode (f.mod.extractLsb' 2 5)) (EFmt.ofCode (f.c.extractLsb' 0 5))
                (Rnd.ofCode (f.mod.extractLsb' 0 2)) (f.c.getLsbD 5) (f.c.getLsbD 6) f.d f.a)
  | 1 => some (.cvts f.gd (EFmt.ofCode (f.mod.extractLsb' 2 5)) (EFmt.ofCode (f.c.extractLsb' 0 5)) (f.c.getLsbD 5)
                (f.c.getLsbD 6) f.d f.a f.src)
  | _ => none

def parsePack (f : Fields) : Nat → Option Instr
  | 0 => some (.pack f.gd (EFmt.ofCode (f.mod.extractLsb' 0 5)) f.d f.a f.src)
  | 1 => some (.unpk f.gd (EFmt.ofCode (f.mod.extractLsb' 0 5)) (f.m 5) f.d f.a f.src)
  | 2 => some (.qblk f.gd (EFmt.ofCode (f.mod.extractLsb' 0 5)) (f.m 5) f.d f.a)
  | _ => none

def parseDot (f : Fields) : Nat → Option Instr
  | 0 => some (.dot4 f.gd (Dot4Ty.ofCode (f.mod.extractLsb' 0 3)) (Dot4Ty.ofCode (f.mod.extractLsb' 3 3)) (f.m 6) f.d f.a f.src f.c)
  | 1 => some (.dot8 f.gd (Dot8Ty.ofCode (f.mod.extractLsb' 0 3)) (Dot8Ty.ofCode (f.mod.extractLsb' 3 3)) (f.m 6) f.d f.a f.src f.c)
  | 2 => some (.dot2h f.gd f.mm f.d f.a f.src f.c)
  | _ => none

def parseOb (f : Fields) : Nat → Option Instr
  | 0 => some (.obres f.gd f.d f.a f.rng)
  | 1 => some (.obrel f.gd f.d f.rng)
  | 2 => some (.obwr f.gd f.a f.src f.rng)
  | 3 => some (.obrd f.gd f.d f.src f.rng)
  | _ => none

def parseLane (f : Fields) : Nat → Option Instr
  | 0 => some (.lxch f.gd (XMode.ofCode (f.mod.extractLsb' 0 2)) (f.m 2) (f.m 4) f.mask f.d f.a f.src)
  | 1 => some (if f.m 1 then .lvoteBal f.gd f.mask f.d f.pa
               else if f.m 0 then .lvoteAll f.gd f.mask f.pd f.pa else .lvoteAny f.gd f.mask f.pd f.pa)
  | 2 => some (.lmatch f.gd (f.m 4) f.mask f.d f.a)
  | 3 => some (.lelect f.gd f.mask f.pd)
  | _ => none

def parseRed (f : Fields) : Nat → Option Instr
  | 0 => some (.lred f.gd (ROp.ofCode (f.mod.extractLsb' 0 3)) (RTy.ofCode (f.mod.extractLsb' 4 2)) f.mask f.d f.a)
  | 1 => some (.lscan f.gd (ROp.ofCode (f.mod.extractLsb' 0 3)) (RTy.ofCode (f.mod.extractLsb' 4 2)) (f.m 6) f.mask f.d f.a)
  | _ => none

def parseLd (f : Fields) : Nat → Option Instr
  | 0 => some (.ld f.gd f.sp (Size.ofCode (f.mod.extractLsb' 3 3)) (f.m 6) (Order.ofCode f.c) f.d f.a f.src)
  | 1 => some (.ldt f.gd (Order.ofCode f.c) f.d f.a f.src)
  | _ => none

def parseSt (f : Fields) : Nat → Option Instr
  | 0 => some (.st f.gd f.sp (Size.ofCode (f.mod.extractLsb' 3 3)) (f.m 6) (Order.ofCode f.c) f.d f.a f.src)
  | 1 => some (.stt f.gd (Order.ofCode f.c) f.d f.a f.src)
  | _ => none

def parseFe (f : Fields) : Nat → Option Instr
  | 0 => some (.ldf f.gd (f.m 0) (f.m 1) (f.m 6) f.d f.a f.src)
  | 1 => some (.ste f.gd (f.m 0) (f.m 6) f.d f.a f.src)
  | _ => none

def parseTags (f : Fields) : Nat → Option Instr
  | 0 => some (.tags f.gd (f.m 0) (f.m 1) (f.m 6) f.a f.src f.c)
  | 1 => some (.tagq f.gd (f.m 0) (f.m 6) f.d f.a f.src)
  | 2 => some (.pref f.gd (PLevel.ofCode (f.mod.extractLsb' 0 2)) (f.m 6) f.a f.src f.c)
  | _ => none

def parseMaint (f : Fields) : Nat → Option Instr
  | 0 => some (.cwb f.gd (CPoint.ofCode (f.mod.extractLsb' 0 2)) f.a f.src)
  | 1 => some (.cinv f.gd (CPoint.ofCode (f.mod.extractLsb' 0 2)) f.a f.src)
  | 2 => some (.cwbi f.gd (CPoint.ofCode (f.mod.extractLsb' 0 2)) f.a f.src)
  | 3 => some (.iinv f.gd f.sc f.a f.src)
  | 4 => some (.fbar f.gd)
  | _ => none

def parsePage (f : Fields) : Nat → Option Instr
  | 0 => some (.domset f.gd f.d f.a)
  | 1 => some (.laydivw f.gd f.d f.a)
  | 2 => some (if f.m 0 then .tlbinvAll f.gd else .tlbinv f.gd f.a)
  | 3 => some (.pgmap f.gd f.d f.a f.b f.c)
  | 4 => some (.pgunmap f.gd f.d f.a)
  | 5 => some (if f.m 1 then .pgqRoot f.gd f.d else if f.m 0 then .pgqZero f.gd f.d f.a else .pgqPte f.gd f.d f.a)
  | _ => none

def parseCpy (f : Fields) : Nat → Option Instr
  | 0 => some (.cpy f.gd (ESpace.ofCode (f.mod.extractLsb' 0 3)) (ESpace.ofCode (f.mod.extractLsb' 3 3)) f.scC
                (f.d.extractLsb' 0 6) f.a f.src)
  | 1 => some (.cpyt f.gd f.scC (f.d.extractLsb' 0 6) f.a f.src)
  | _ => none

def parseSe (f : Fields) : Nat → Option Instr
  | 0 => some (.sebind f.gd (f.m 4) f.sc (f.c.getLsbD 6) f.c6 f.d f.a f.src)
  | 1 => some (.sefree f.gd (f.c.getLsbD 6) f.d)
  | 2 => some (.slotw f.gd (f.c.getLsbD 6) f.d f.src)
  | 3 => some (.slotrel f.gd (f.c.getLsbD 6) f.src)
  | _ => none

def parseTag (f : Fields) : Nat → Option Instr
  | 0 => some (.tagwait f.gd (f.m 0) f.d f.src)
  | 1 => some (.tagff f.gd (f.m 0) f.d f.src)
  | 2 => some (.tagclr f.gd f.src)
  | 3 => some (if f.m 1 then .lockqErr f.gd f.d f.src else if f.m 0 then .lockqFree f.gd f.d
               else .lockqAddr f.gd (Space.ofCode (f.mod.extractLsb' 2 3)) f.d f.a f.src)
  | _ => none

def parseAtom (f : Fields) : Nat → Option Instr
  | 0 => some (.atom f.gd (AOp.ofCode (f.mod.extractLsb' 3 4)) f.sp f.aord f.d f.a f.src)
  | 1 => some (.cas f.gd f.sp f.aord f.d f.a f.src)
  | _ => none

def parseAtomf (f : Fields) : Nat → Option Instr
  | 0 => some (.atomf f.gd (AFOp.ofCode (f.mod.extractLsb' 3 4)) f.sp f.aord f.d f.a f.src)
  | 1 => some (.red f.gd (REDOp.ofCode (f.mod.extractLsb' 3 4)) f.sp f.aord f.a f.src)
  | _ => none

def parseBar (f : Fields) : Nat → Option Instr
  | 0 => some (.binit f.gd (f.m 0) f.c6 f.d f.src)
  | 1 => some (.barv f.gd (f.m 0) f.c6 f.d)
  | 2 => some (.bwait f.gd (f.m 0) f.c6 f.a)
  | 3 => some (.bsync f.gd (f.m 0) f.c6)
  | 4 => some (.bqry f.gd (f.m 0) f.c6 f.d)
  | _ => none

def parseFence (f : Fields) : Nat → Option Instr
  | 0 => some (.fence f.gd (FKind.ofCode (f.mod.extractLsb' 4 2)) f.sc)
  | 1 => some (if f.m 0 then .lfenceArray f.gd f.src f.rng else .lfence f.gd)
  | 2 => some (.efence f.gd (f.m 4) f.sc)
  | _ => none

def parseMx (f : Fields) : Nat → Option Instr
  | 0 => some (.mxrun f.gd f.d f.a f.src)
  | 1 => some (.mxq f.gd f.d)
  | _ => none

def parseMldw (f : Fields) : Nat → Option Instr
  | 0 => some (.mldw f.cmd (f.m 0) (EFmt.ofCode f.rng) (SK.ofCode (f.x.extractLsb' 0 2)) (BLen.ofCode (f.x.extractLsb' 2 2))
                (f.b.extractLsb' 0 6 ++ f.a ++ f.d))
  | 1 => some (.mswap f.cmd)
  | _ => none

def parseAcc (f : Fields) : Nat → Option Instr
  | 0 => some (.mzero f.cmd (f.d.extractLsb' 0 7) f.xm)
  | 1 => some (.maccld f.cmd (f.d.extractLsb' 0 7) (f.b.extractLsb' 0 3 ++ f.a) f.xm)
  | 2 => some (.maccst f.cmd (f.d.extractLsb' 0 7) (f.b.extractLsb' 0 3 ++ f.a) f.xm)
  | _ => none

def parseMbar (f : Fields) : Nat → Option Instr
  | 0 => some (.mbar f.cmd (f.m 0) f.c6)
  | 1 => some (.mwaitb f.cmd (f.m 0) f.c6)
  | 2 => some (.mend f.cmd)
  | _ => none

def parseLad (f : Fields) : Nat → Option Instr
  | 0 => some (.mlad f.cmd f.d f.a f.b f.c6 (f.mod.extractLsb' 0 2) f.x)
  | 1 => some (.ladcnt f.gd f.d (f.c.extractLsb' 0 3))
  | 2 => some (.ladclr f.gd f.src)
  | _ => none

def parseScan (f : Fields) : Nat → Option Instr
  | 0 => some (.scan f.gd (f.m 2) (if f.c.getLsbD 3 then some (f.c.extractLsb' 0 3) else none) (f.c.extractLsb' 4 3) f.d f.a f.src)
  | 1 => some (if f.m 0 then .carrySet f.gd (f.c.extractLsb' 4 3) f.src else .carryGet f.gd (f.c.extractLsb' 4 3) f.d)
  | 2 => some (.stepk f.gd (f.m 2) f.d f.a f.src)
  | 3 => some (.mscan f.cmd (f.m 0) (f.d.extractLsb' 0 7) (f.a.extractLsb' 0 7) (f.b.extractLsb' 0 7) (f.c.extractLsb' 0 7) f.xm)
  | _ => none

def parseSep (f : Fields) : Nat → Option Instr
  | 0 => some (if f.mod = 3#7 then .priowWt f.gd f.src else .priow f.gd (SMap.ofCode (f.mod.extractLsb' 0 2)) f.a f.src)
  | 1 => some (.prior f.gd (PSel.ofCode (f.mod.extractLsb' 0 3)) f.d f.a)
  | 2 => some (.sepq f.gd (f.c.extractLsb' 0 3) f.d)
  | 3 => some (if f.m 0 then .sposRow f.gd f.d else .sposPos f.gd f.d)
  | _ => none

def parseVat (f : Fields) : Nat → Option Instr
  | 0 => some (if f.m 0 then .vputOvl f.gd f.a else .vput f.gd f.a)
  | 1 => some (.vget f.gd f.rng f.a f.src)
  | 2 => some (if f.m 0 then .vqryCfg f.gd f.d else .vqry f.gd f.d f.a)
  | _ => none

def parseRow (f : Fields) : Nat → Option Instr
  | 0 => some (if f.m 0 then .rowdlTime f.gd f.d f.src else .rowdlRow f.gd f.d f.src)
  | 1 => some (.rowput f.gd (RSpace.ofCode (f.mod.extractLsb' 0 3)) f.d f.a f.src)
  | _ => none

def parseProbe (f : Fields) : Nat → Option Instr
  | 0 => some (.probeOpen f.gd (f.c.extractLsb' 0 2) f.d f.a)
  | 1 => some (.probeTri f.gd (f.c.extractLsb' 0 2) f.a)
  | 2 => some (.probeEnd f.gd (f.c.extractLsb' 0 2) f.d)
  | 3 => some (.probeSmp f.gd (f.c.extractLsb' 0 2) f.d f.a)
  | _ => none

def parseCurve (f : Fields) : Nat → Option Instr
  | 0 => some (.curve f.gd (CKind.ofCode (f.mod.extractLsb' 0 2)) (f.c.extractLsb' 0 4) f.a)
  | 1 => some (if f.m 1 then .pathendEo f.gd (f.c.extractLsb' 0 4) f.d
               else if f.m 0 then .pathendNz f.gd (f.c.extractLsb' 0 4) f.d else .pathendOpen f.gd (f.c.extractLsb' 0 4) f.d f.a)
  | 2 => some (.cvg f.gd (f.m 0) (f.c.extractLsb' 0 4) f.d f.a)
  | _ => none

def parseTrace (f : Fields) : Nat → Option Instr
  | 0 => some (.trace f.gd (f.m 0) (f.m 1) f.a f.src)
  | 1 => some (if f.m 0 then .hitrSt f.gd f.d else .hitr f.gd f.d)
  | _ => none

def parseMail (f : Fields) : Nat → Option Instr
  | 0 => some (.mbwait f.gd (f.m 0) (f.c.extractLsb' 0 2) f.d f.src)
  | 1 => some (.mbtake f.gd f.d f.a f.src)
  | 2 => some (.mbpost f.gd (f.m 0) f.d f.a f.src)
  | 3 => some (if f.m 0 then .jnlFail f.gd f.d f.a f.src else .jnlSeq f.gd f.d)
  | _ => none

def parseLaunch (f : Fields) : Nat → Option Instr
  | 0 => some (.launch f.gd f.d f.a f.src)
  | 1 => some (if f.m 0 then .sliceKill f.gd f.d f.a else .sliceDl f.gd f.d f.a f.src)
  | 2 => some (if f.mod = 0#7 then .nodegoCfg f.gd f.d f.a f.src else if f.mod = 1#7 then .nodegoFlush f.gd f.d f.a
               else if f.mod = 2#7 then .nodegoQ f.gd f.d f.a else .nodegoOff f.gd f.d f.a)
  | 3 => some (if f.mod = 0#7 then .admitqEnergy f.gd f.d f.a else if f.mod = 1#7 then .admitqTherm f.gd f.d f.a
               else if f.mod = 2#7 then .admitqAct f.gd f.d f.a else if f.mod = 3#7 then .admitqGate f.gd f.d f.a
               else .admitqQueue f.gd f.d f.a)
  | _ => none

def parseRec (f : Fields) : Nat → Option Instr
  | 0 => some (.recalloc f.gd f.d f.a)
  | 1 => some (.recemit f.gd f.a f.src)
  | 2 => some (.recrd f.gd f.d f.src)
  | 3 => some (.recfin f.gd)
  | _ => none

def parseSr (f : Fields) : Nat → Option Instr
  | 0 => some (.srd f.gd f.d f.a)
  | 1 => some (.swr f.gd f.a f.src)
  | _ => none

def parseTrap (f : Fields) : Nat → Option Instr
  | 0 => some (.trap f.gd (f.c.extractLsb' 0 3))
  | 1 => some (.tret f.gd)
  | 2 => some (.cclr f.gd f.src)
  | 3 => some (if f.mod = 0#7 then .tmaskOr f.gd f.d f.src else if f.mod = 1#7 then .tmaskAndn f.gd f.d f.src
               else .tmaskWr f.gd f.d f.src)
  | 4 => some (.bkpt f.gd)
  | _ => none

def parseCtx (f : Fields) : Nat → Option Instr
  | 0 => some (.preempt f.gd f.d f.a f.src)
  | 1 => some (.ctxsv f.gd f.d f.a f.src)
  | 2 => some (.ctxld f.gd f.d f.a f.src)
  | _ => none

/-- The row of MAJ and MIN (R47 and the encoding tables). -/
def parseLong (f : Fields) : Option Instr :=
  let n := f.min.toNat
  match f.maj.toNat with
  | 0x01 => parseFlow f n
  | 0x02 => parseCall f n
  | 0x03 => parseIssue f n
  | 0x04 => parseMov f n
  | 0x05 => parseAdd f n
  | 0x06 => parseMul f n
  | 0x07 => parseLogic f n
  | 0x08 => parseShift f n
  | 0x09 => parseBits f n
  | 0x0A => parseCmp f n
  | 0x0B => parseWide f n
  | 0x0C => parseFadd f n
  | 0x0D => parseFmul f n
  | 0x0E => if n = 0 then some (.fma f.gd f.mm f.d f.a f.src f.c) else none
  | 0x0F => parseFcmp f n
  | 0x10 => parsePair f n
  | 0x11 => parsePairMin f n
  | 0x12 => parseSfu f n
  | 0x13 => parseTrig f n
  | 0x14 => parseCvt f n
  | 0x15 => parsePack f n
  | 0x16 => parseDot f n
  | 0x17 => parseOb f n
  | 0x18 => parseLane f n
  | 0x19 => parseRed f n
  | 0x1A => parseLd f n
  | 0x1B => parseSt f n
  | 0x1C => parseFe f n
  | 0x1D => parseTags f n
  | 0x1E => parseMaint f n
  | 0x1F => parsePage f n
  | 0x20 => parseCpy f n
  | 0x21 => parseSe f n
  | 0x22 => parseTag f n
  | 0x23 => parseAtom f n
  | 0x24 => parseAtomf f n
  | 0x25 => parseBar f n
  | 0x26 => parseFence f n
  | 0x27 => parseMx f n
  | 0x28 => parseMldw f n
  | 0x29 => if n = 0 then some (.mstr f.cmd (f.m 0) (f.d.extractLsb' 0 7) f.rng (f.b ++ f.a) f.xm) else none
  | 0x2A => parseAcc f n
  | 0x2B => if n = 0 then some (.mepi f.cmd (EpiFn.ofCode (f.c.extractLsb' 5 3)) (f.d.extractLsb' 0 7) f.mod f.rng (f.b ++ f.a) f.xm)
            else none
  | 0x2C => parseMbar f n
  | 0x2D => parseLad f n
  | 0x2E => parseScan f n
  | 0x2F => parseSep f n
  | 0x30 => parseVat f n
  | 0x31 => parseRow f n
  | 0x32 => parseProbe f n
  | 0x33 => parseCurve f n
  | 0x34 => parseTrace f n
  | 0x35 => parseMail f n
  | 0x36 => parseLaunch f n
  | 0x37 => parseRec f n
  | 0x38 => parseSr f n
  | 0x39 => parseTrap f n
  | 0x3A => parseCtx f n
  | 0x3B => if n = 0 then some (.haltq f.gd (f.c.extractLsb' 0 3) f.d) else none
  | _ => none

/-- The compact operations (R46, R47). -/
def parseShort (mj : BitVec 6) (w : BitVec 24) : Option Instr :=
  let d := w.extractLsb' 16 8
  let a := w.extractLsb' 8 8
  let b := w.extractLsb' 0 8
  match mj.toNat with
  | 0x01 => some (.braCompact w)
  | 0x02 => some (.callCompact w)
  | 0x03 => some (if w = 0xFFFFFF#24 then .nopCompact
                  else .waitCompact (w.extractLsb' 18 6) (w.extractLsb' 12 6) (w.extractLsb' 6 6) (w.extractLsb' 0 6))
  | 0x04 => some (.movCompact d a)
  | 0x05 => some (.addCompact d a b)
  | 0x06 => some (.mulCompact d a b)
  | 0x07 => some (.andCompact d a b)
  | 0x08 => some (.shlCompact d a b)
  | 0x0C => some (.faddCompact d a b)
  | 0x0D => some (.fmulCompact d a b)
  | 0x0E => some (.fmaCompact d a b)
  | 0x10 => some (.h2fmaCompact d a b)
  | 0x1A => some (.ldCompact d a b)
  | 0x1B => some (.stCompact d a b)
  | 0x38 => some (.srdCompact d a)
  | _ => none

def parse : Code → Option Instr
  | .short mj w => parseShort mj w
  | .long f => parseLong f

/-- What a code is: the row's reading, if it is well formed and no bit was dropped. -/
def decodeCode (c : Code) : Except DecodeError Instr :=
  match parse c with
  | none =>
    match c with
    | .short _ _ => .error .noCompact
    | .long _ => .error .unassigned
  | some i =>
    if i.wellFormed then
      if codeOf i = some c then .ok i else .error .reservedBit
    else .error .notAdmitted

/-! ### Words -/

/-- First word: LEN, MAJ, D, A, B (R41). -/
def word0 (len : BitVec 2) (mj : BitVec 6) (d a b : BitVec 8) : Word := len ++ mj ++ d ++ a ++ b
/-- Second word: C, MIN, G, N, GP, BK, MOD (R42). -/
def word1 (c : BitVec 8) (mn : BitVec 10) (g : BitVec 5) (bk : BitVec 2) (mod : BitVec 7) : Word := c ++ mn ++ g ++ bk ++ mod

def Code.words : Code → List Word
  | .short mj w => [1#2 ++ mj ++ w]
  | .long f =>
    match f.lit with
    | none => [word0 2 f.maj f.d f.a f.b, word1 f.c f.min f.g f.bk f.mod]
    | some l => [word0 3 f.maj f.d f.a f.b, word1 f.c f.min f.g f.bk f.mod, l]

/-- The fields of two words, and the literal of a 96-bit form. -/
def fieldsOf (w0 w1 : Word) (l : Option Word) : Fields :=
  { maj := w0.extractLsb' 24 6, d := w0.extractLsb' 16 8, a := w0.extractLsb' 8 8, b := w0.extractLsb' 0 8,
    c := w1.extractLsb' 24 8, min := w1.extractLsb' 14 10, g := w1.extractLsb' 9 5, bk := w1.extractLsb' 7 2,
    mod := w1.extractLsb' 0 7, lit := l }

/-- The checks of order 4 that no row states: BK against the length, and the guard field. -/
def checkLong (f : Fields) : Except DecodeError Instr :=
  if (f.bk = 3#2) ≠ (f.lit.isSome = true) then .error .badKind
  else if f.g.getLsbD 4 = false ∧ f.g ≠ 0#5 then .error .badGuard
  else decodeCode (.long f)

/-- Decode the instruction that a list of words begins with; the number of words it takes stands beside it. -/
def decodeWords : List Word → Except DecodeError (Instr × Nat)
  | [] => .error .truncated
  | w0 :: rest =>
    let len := (w0.extractLsb' 30 2).toNat
    let mj := (w0.extractLsb' 24 6).toNat
    if len = 0 ∨ mj = 0 ∨ 0x3B < mj then .error .noInstruction
    else if len = 1 then (decodeCode (.short (w0.extractLsb' 24 6) (w0.extractLsb' 0 24))).map (fun i => (i, 1))
    else if len = 2 then
      match rest with
      | w1 :: _ => (checkLong (fieldsOf w0 w1 none)).map (fun i => (i, 2))
      | [] => .error .truncated
    else
      match rest with
      | w1 :: w2 :: _ => (checkLong (fieldsOf w0 w1 (some w2))).map (fun i => (i, 3))
      | _ => .error .truncated

/-- The words of an instruction; none for an event. -/
def encode (i : Instr) : Option (List Word) := (codeOf i).map Code.words

/-- The instruction the decoder reads from bits numbered as the opcode table numbers them: word k is bits 32k+31 to 32k. -/
def decodeTableWord (_nbits w : Nat) : Option Instr :=
  match decodeWords [BitVec.ofNat 32 w, BitVec.ofNat 32 (w / 2 ^ 32), BitVec.ofNat 32 (w / 2 ^ 64)] with
  | .ok (i, _) => some i
  | .error _ => none

/-! ### Which cores run it, who may run it, and its registers -/

/-- Where an instruction runs (R47, last column). -/
inductive Runs where
  | both | wide | control | stream | event
deriving DecidableEq, Repr

def runsOn (i : Instr) : Runs :=
  match i with
  | .obres _ _ _ _ | .obrel _ _ _ | .obwr _ _ _ _ | .obrd _ _ _ _ | .mxrun _ _ _ _ | .mxq _ _ | .ladcnt _ _ _ | .ladclr _ _
  | .vget _ _ _ _ | .rowdlRow _ _ _ | .rowdlTime _ _ _ | .rowput _ _ _ _ _ => .wide
  | .mbwait _ _ _ _ _ | .mbtake _ _ _ _ | .mbpost _ _ _ _ _ | .jnlSeq _ _ | .jnlFail _ _ _ _ | .launch _ _ _ _ | .sliceDl _ _ _ _
  | .sliceKill _ _ _ | .nodegoCfg _ _ _ _ | .nodegoFlush _ _ _ | .nodegoQ _ _ _ | .nodegoOff _ _ _ | .admitqEnergy _ _ _
  | .admitqTherm _ _ _ | .admitqAct _ _ _ | .admitqGate _ _ _ | .admitqQueue _ _ _ => .control
  | .mldw _ _ _ _ _ _ | .mswap _ | .mstr _ _ _ _ _ _ | .mzero _ _ _ | .maccld _ _ _ _ | .maccst _ _ _ _ | .mepi _ _ _ _ _ _ _
  | .mbar _ _ _ | .mwaitb _ _ _ | .mend _ | .mlad _ _ _ _ _ _ _ | .mscan _ _ _ _ _ _ _ => .stream
  | other => if (codeOf other).isSome then .both else .event

/-- The privileged instructions (R203, R406, R434). -/
def isPrivileged (i : Instr) : Bool :=
  match i with
  | .domset _ _ _ | .laydivw _ _ _ | .tlbinv _ _ | .tlbinvAll _ | .pgmap _ _ _ _ _ | .pgunmap _ _ _ | .pgqPte _ _ _ | .pgqRoot _ _
  | .mbwait _ _ _ _ _ | .mbtake _ _ _ _ | .mbpost _ _ _ _ _ | .jnlSeq _ _ | .jnlFail _ _ _ _ | .launch _ _ _ _ | .sliceDl _ _ _ _
  | .sliceKill _ _ _ | .nodegoCfg _ _ _ _ | .nodegoFlush _ _ _ | .nodegoQ _ _ _ | .nodegoOff _ _ _ | .preempt _ _ _ _
  | .ctxsv _ _ _ _ | .ctxld _ _ _ _ => true
  | _ => false

/-- One past the last of n registers from r. -/
def Reg.top (r : Reg) (n : Nat) : Nat := r.toNat + n
def Src.top (b : Src) (n : Nat) : Nat :=
  match b with
  | .v r => Reg.top r n
  | .g _ | .imm _ | .lit _ => 0
def Mask.top : Mask → Nat
  | .full => 0
  | .pair c => Reg.top c 2
def wide (x64 : Bool) : Nat := if x64 then 2 else 1
def Space.baseTop (sp : Space) (a : Reg) : Nat := Reg.top a (wide (sp == .glob))
def Size.regs : Size → Nat
  | .b64 => 2
  | .b128 => 4
  | .b8 | .s8 | .b16 | .s16 | .b32 => 1

/-- One past the highest vector register that an instruction names (R48 order 5). Registers that a record's contents or an
argument count selects at run time are not among them. -/
def regTop (i : Instr) : Nat :=
  match i with
  | .brx _ a b | .callx _ a b => max (Reg.top a 2) (b.top 1)
  | .sleep _ b | .movG _ _ b => b.top 1
  | .sleepAbs _ a => Reg.top a 2
  | .movCompact d a => max (Reg.top d 1) (Reg.top a 1)
  | .mov _ d b => max (Reg.top d 1) (b.top 1)
  | .movl _ d b => max (Reg.top d 2) (b.top 2)
  | .movlG _ _ b => b.top 2
  | .sel _ x64 d a b _ | .and _ _ x64 d a b | .or _ _ x64 d a b | .xor _ _ x64 d a b =>
    max (max (Reg.top d (wide x64)) (Reg.top a (wide x64))) (b.top (wide x64))
  | .addCompact d a b | .mulCompact d a b | .andCompact d a b | .shlCompact d a b | .faddCompact d a b | .fmulCompact d a b
  | .fmaCompact d a b | .h2fmaCompact d a b => max (max (Reg.top d 1) (Reg.top a 1)) (Reg.top b 1)
  | .add _ _ _ d a b | .sub _ _ _ d a b | .mul _ _ _ d a b | .min _ _ d a b | .max _ _ d a b | .mulhi _ _ d a b
  | .bext _ _ d a b _ | .bins _ d a b _ | .fadd _ _ d a b | .fmin _ _ d a b | .fmax _ _ d a b | .fmul _ _ d a b | .fscl _ _ d a b
  | .h2add _ _ d a b | .h2mul _ _ d a b | .h2min _ _ d a b | .h2max _ _ d a b | .fdiv _ _ d a b | .pack _ _ d a b
  | .unpk _ _ _ d a b | .ldf _ _ _ _ d a b | .ste _ _ _ d a b | .tagq _ _ _ d a b | .ldt _ _ d a b | .stt _ _ d a b
  | .scan _ _ _ _ d a b => max (max (Reg.top d 1) (Reg.top a 1)) (b.top 1)
  | .abs _ _ d a | .fcls _ d a | .frint _ _ d a | .rcp _ _ d a | .rsqrt _ _ d a | .sqrt _ _ d a | .exp2 _ _ d a | .log2 _ _ d a
  | .sin _ _ d a | .cos _ _ d a | .tanh _ _ d a | .qblk _ _ _ d a | .obres _ d a _ | .domset _ d a | .laydivw _ d a
  | .prior _ _ d a | .cvg _ _ _ d a | .pathendOpen _ _ d a | .probeOpen _ _ d a | .sliceKill _ d a | .nodegoFlush _ d a
  | .nodegoOff _ d a | .recalloc _ d a => max (Reg.top d 1) (Reg.top a 1)
  | .mad _ _ _ d a b c | .fma _ _ d a b c | .h2fma _ _ d a b c | .dot4 _ _ _ _ d a b c | .dot8 _ _ _ _ d a b c | .dot2h _ _ d a b c =>
    max (max (Reg.top d 1) (Reg.top a 1)) (max (b.top 1) (Reg.top c 1))
  | .shl _ x64 d a b | .shr _ x64 d a b | .sar _ x64 d a b => max (max (Reg.top d (wide x64)) (Reg.top a (wide x64))) (b.top 1)
  | .popc _ x64 d a | .clz _ x64 d a => max (Reg.top d 1) (Reg.top a (wide x64))
  | .brev _ x64 d a => max (Reg.top d (wide x64)) (Reg.top a (wide x64))
  | .icmp _ _ _ x64 _ a b => max (Reg.top a (wide x64)) (b.top (wide x64))
  | .add64 _ _ _ _ d a b => max (max (Reg.top d 2) (Reg.top a 2)) (b.top 2)
  | .mad64 _ _ _ d a b c => max (max (Reg.top d 2) (Reg.top a 1)) (max (b.top 1) (Reg.top c 2))
  | .lea _ _ _ d a b => max (max (Reg.top d 2) (Reg.top a 2)) (b.top 1)
  | .fcmp _ _ _ _ a b => max (Reg.top a 1) (b.top 1)
  | .cvt _ dst src _ _ _ d a => max (Reg.top d (wide (dst.width == 64))) (Reg.top a (wide (src.width == 64)))
  | .cvts _ dst src _ _ d a b => max (max (Reg.top d (wide (dst.width == 64))) (Reg.top a (wide (src.width == 64)))) (b.top 1)
  | .obrel _ d _ | .mxq _ d | .sefree _ _ d | .lockqFree _ d | .barv _ _ _ d | .bqry _ _ _ d | .carryGet _ _ d | .sposRow _ d
  | .probeEnd _ _ d | .pathendNz _ _ d | .pathendEo _ _ d | .hitrSt _ d => Reg.top d 1
  | .obwr _ a b _ | .tags _ _ _ _ a b _ | .cpyt _ _ _ a b | .priow _ _ a b | .recemit _ a b => max (Reg.top a 1) (b.top 1)
  | .obrd _ d b _ | .slotw _ _ d b | .binit _ _ _ d b | .rowdlRow _ d b | .recrd _ d b => max (Reg.top d 1) (b.top 1)
  | .lxch _ _ _ x64 m d a b => max (max (Reg.top d (wide x64)) (Reg.top a (wide x64))) (max (b.top 1) m.top)
  | .lvoteAny _ m _ _ | .lvoteAll _ m _ _ | .lelect _ m _ => m.top
  | .lvoteBal _ m d _ => max (Reg.top d 2) m.top
  | .lmatch _ x64 m d a => max (max (Reg.top d 2) (Reg.top a (wide x64))) m.top
  | .lred _ _ _ m d a | .lscan _ _ _ _ m d a => max (max (Reg.top d 1) (Reg.top a 1)) m.top
  | .ldCompact d a _ | .stCompact d a _ => max (Reg.top d 1) (Reg.top a 1)
  | .ld _ sp sz _ _ d a b | .st _ sp sz _ _ d a b => max (max (Reg.top d sz.regs) (sp.baseTop a)) (b.top 1)
  | .pref _ _ _ a b _ | .cwb _ _ a b | .cinv _ _ a b | .cwbi _ _ a b | .iinv _ _ a b => max (Reg.top a 2) (b.top 1)
  | .tlbinv _ a => Reg.top a 2
  | .pgmap _ d a b c => max (max (Reg.top d 1) (Reg.top a 2)) (max (Reg.top b 2) (Reg.top c 1))
  | .pgunmap _ d a => max (Reg.top d 1) (Reg.top a 2)
  | .pgqPte _ d a | .pgqZero _ d a => max (Reg.top d 2) (Reg.top a 2)
  | .pgqRoot _ d | .sepq _ _ d | .sposPos _ d | .vqryCfg _ d | .ladcnt _ d _ | .jnlSeq _ d | .haltq _ _ d => Reg.top d 2
  | .cpy _ _ _ _ _ a b => max (Reg.top a 4) (b.top 1)
  | .sebind _ _ _ _ _ d a b | .jnlFail _ d a b | .nodegoCfg _ d a b | .preempt _ d a b | .ctxsv _ d a b | .ctxld _ d a b =>
    max (max (Reg.top d 1) (Reg.top a 1)) (b.top 1)
  | .slotrel _ _ b | .lfenceArray _ b _ | .ladclr _ b | .carrySet _ _ b => b.top 1
  | .tagwait _ _ d b | .lockqErr _ d b | .tmaskOr _ d b | .tmaskAndn _ d b | .tmaskWr _ d b => max (Reg.top d 2) (b.top 2)
  | .tagff _ _ d b | .mbwait _ _ _ d b => max (Reg.top d 1) (b.top 2)
  | .tagclr _ b | .priowWt _ b | .cclr _ b => b.top 2
  | .lockqAddr _ sp d a b => max (max (Reg.top d 1) (sp.baseTop a)) (b.top 1)
  | .atom _ _ sp o d a b | .cas _ sp o d a b => max (max (Reg.top d (wide o.x64)) (sp.baseTop a)) (b.top (wide o.x64))
  | .atomf _ _ sp _ d a b => max (max (Reg.top d 1) (sp.baseTop a)) (b.top 1)
  | .red _ _ sp o a b => max (sp.baseTop a) (b.top (wide o.x64))
  | .bwait _ _ _ a => Reg.top a 1
  | .mxrun _ d a b => max (max (Reg.top d 1) (Reg.top a 2)) (b.top 1)
  | .stepk _ _ d a b => max (max (Reg.top d 2) (Reg.top a 1)) (b.top 1)
  | .vput _ a | .vputOvl _ a | .probeTri _ _ a | .curve _ _ _ a => Reg.top a 8
  | .vget _ _ a b => max (Reg.top a 4) (b.top 1)
  | .vqry _ d a | .nodegoQ _ d a | .admitqEnergy _ d a | .admitqTherm _ d a | .admitqAct _ d a | .admitqGate _ d a
  | .admitqQueue _ d a => max (Reg.top d 2) (Reg.top a 1)
  | .rowdlTime _ d b => max (Reg.top d 2) (b.top 1)
  | .rowput _ sp d a b => max (max (Reg.top d 1) (Reg.top a (wide (sp == .glob)))) (b.top 1)
  | .probeSmp _ _ d a => max (Reg.top d 4) (Reg.top a 1)
  | .trace _ _ _ a b => max (Reg.top a 8) (b.top 2)
  | .hitr _ d => Reg.top d 4
  | .mbtake _ d a b => max (max (Reg.top d 2) (Reg.top a 1)) (b.top 1)
  | .mbpost _ _ d a b => max (max (Reg.top d 1) (Reg.top a 16)) (b.top 1)
  | .launch _ d a b => max (max (Reg.top d 2) (Reg.top a 2)) (b.top 1)
  | .sliceDl _ d a b => max (max (Reg.top d 1) (Reg.top a 1)) (b.top 2)
  | .srdCompact d n | .srd _ d n => Reg.top d (wide (sr64 n))
  | .swr _ n b => b.top (wide (sr64 n))
  | _ => 0

/-! ### The fetch line (R31 to R37) -/

/-- Little-endian word of four bytes (R3). -/
def wordOfBytes (b0 b1 b2 b3 : Byte) : Word := b3 ++ b2 ++ b1 ++ b0
def bytesOfWord (w : Word) : List Byte := [w.extractLsb' 0 8, w.extractLsb' 8 8, w.extractLsb' 16 8, w.extractLsb' 24 8]

/-- The words of a run of bytes. -/
def wordsOfBytes : List Byte → List Word
  | b0 :: b1 :: b2 :: b3 :: rest => wordOfBytes b0 b1 b2 b3 :: wordsOfBytes rest
  | _ => []

/-- XOR of the bits of a word. -/
def parity (w : Word) : Bool := (List.range 32).foldl (fun acc k => xor acc (w.getLsbD k)) false

/-- XOR of the bits of the words whose index is congruent to i modulo 4. -/
def parityGroup (slots : List Word) (i : Nat) : Bool :=
  (List.range 4).foldl (fun acc k => if 4 * k + i < 15 then xor acc (parity (slots.getD (4 * k + i) 0)) else acc) false

/-- The line word's bits [27:0] with the four parity bits that make the line good (R35). -/
def sealLine (slots : List Word) (low : BitVec 28) : Word :=
  let p3 := xor (parityGroup slots 3) (parity (0#4 ++ low))
  bit1 p3 ++ bit1 (parityGroup slots 2) ++ bit1 (parityGroup slots 1) ++ bit1 (parityGroup slots 0) ++ low

/-- R35: a line of sixteen words is good. -/
def parityGood (line : List Word) : Bool :=
  let lw := line.getD 15 0
  sealLine (line.take 15) (lw.extractLsb' 0 28) == lw

/-- The walk of R33 over the slots from number s: the start slots with their lengths, or none for a malformed line. `skip` slots
still belong to the instruction before. -/
def walkLine (s skip : Nat) : List Word → Option (List (Nat × Nat))
  | [] => if skip = 0 then some [] else none
  | w :: ws =>
    if skip ≠ 0 then walkLine (s + 1) (skip - 1) ws
    else
      let len := (w.extractLsb' 30 2).toNat
      if len = 0 then (if (w :: ws).all (fun x => x == 0) then some [] else none)
      else (walkLine (s + 1) (len - 1) ws).map (fun r => (s, len) :: r)

/-- TGT bit of a slot (R34); slot 0 is always a target (R37). -/
def lineTgt (line : List Word) (s : Nat) : Bool := s == 0 || (line.getD 15 0).getLsbD (13 + s)
def linePair (line : List Word) (k : Nat) : Bool := (line.getD 15 0).getLsbD k

/-- The instruction starts of a well-formed line (R33, R37); none when it is malformed. -/
def lineStarts (line : List Word) : Option (List (Nat × Nat)) :=
  match walkLine 0 0 (line.take 15) with
  | none => none
  | some st =>
    let isStart := fun s => st.any (fun p => p.1 == s)
    let isEnd := fun k => st.any (fun p => p.1 + p.2 == k + 1)
    if (List.range 14).all (fun k => (!lineTgt line (k + 1) || isStart (k + 1)) && (!linePair line k || (isEnd k && isStart (k + 1))))
    then some st else none

end Sys2Proof
end

