-- ==== Sys2Proof/Machine/Flags.lean ====
section
/-! DEFINITION. Floating-point values, rounding and flags (05, R103 to R110; formats of R125): every result is formed exactly as an
integer times a power of two, rounded once, and its flags are computed beside it. Integer narrowing (R89) stands here as well. -/

namespace Sys2Proof.Machine

/-- The flag bits of `%fflags` (R106). -/
abbrev Fl := BitVec 6
def flNX : Fl := 1
def flUF : Fl := 2
def flOF : Fl := 4
def flDZ : Fl := 8
def flNV : Fl := 16
def flFZ : Fl := 32

/-- How a format reserves its top exponent (R125). -/
inductive Tops where
  | ieee | oneNan | allFinite
deriving DecidableEq, Repr

/-- A float format: exponent bits, fraction bits, bias (R125). -/
structure Fmt where
  e : Nat
  m : Nat
  bias : Nat
  tops : Tops
deriving DecidableEq, Repr

def fmtF32 : Fmt := { e := 8, m := 23, bias := 127, tops := .ieee }
def fmtF16 : Fmt := { e := 5, m := 10, bias := 15, tops := .ieee }
def fmtBf16 : Fmt := { e := 8, m := 7, bias := 127, tops := .ieee }
def fmtE5m2 : Fmt := { e := 5, m := 2, bias := 15, tops := .ieee }
def fmtE4m3 : Fmt := { e := 4, m := 3, bias := 7, tops := .oneNan }
def fmtE3m2 : Fmt := { e := 3, m := 2, bias := 3, tops := .allFinite }
def fmtE2m3 : Fmt := { e := 2, m := 3, bias := 1, tops := .allFinite }
def fmtE2m1 : Fmt := { e := 2, m := 1, bias := 1, tops := .allFinite }

def Fmt.width (f : Fmt) : Nat := 1 + f.e + f.m
def Fmt.emin (f : Fmt) : Int := 1 - (f.bias : Int)
/-- Bits of the largest finite magnitude. -/
def Fmt.maxBits (f : Fmt) : Nat :=
  match f.tops with
  | .ieee => 2 ^ (f.e + f.m) - 2 ^ f.m - 1
  | .oneNan => 2 ^ (f.e + f.m) - 2
  | .allFinite => 2 ^ (f.e + f.m) - 1
/-- Exponent of the largest finite value's leading bit. -/
def Fmt.emax (f : Fmt) : Int :=
  match f.tops with
  | .ieee => (2 ^ f.e : Nat) - 2 - (f.bias : Int)
  | .oneNan | .allFinite => (2 ^ f.e : Nat) - 1 - (f.bias : Int)
def Fmt.signBit (f : Fmt) (neg : Bool) : Nat := if neg then 2 ^ (f.e + f.m) else 0
def Fmt.infBits (f : Fmt) : Nat := (2 ^ f.e - 1) * 2 ^ f.m
/-- The canonical NaN (R105, R126); a format without NaN delivers +0 (R135). -/
def Fmt.nanBits (f : Fmt) : Nat :=
  match f.tops with
  | .ieee => f.infBits + 2 ^ (f.m - 1)
  | .oneNan => 2 ^ (f.e + f.m) - 1
  | .allFinite => 0

/-- An exact value: a NaN (signalling or not), an infinity, or ±m·2^e. -/
inductive Val where
  | nan (sig : Bool)
  | inf (neg : Bool)
  | num (neg : Bool) (m : Nat) (e : Int)
deriving DecidableEq, Repr

def Val.isNan : Val → Bool
  | .nan _ => true
  | .inf _ | .num _ _ _ => false
def Val.isSig : Val → Bool
  | .nan s => s
  | .inf _ | .num _ _ _ => false
def Val.isZero : Val → Bool
  | .num _ m _ => m == 0
  | .nan _ | .inf _ => false
def Val.isInf : Val → Bool
  | .inf _ => true
  | .nan _ | .num _ _ _ => false
def Val.neg : Val → Bool
  | .nan _ => false
  | .inf s => s
  | .num s _ _ => s
/-- R110: negation flips the sign of every non-NaN value. -/
def Val.negate (v : Val) (flip : Bool) : Val :=
  match v with
  | .nan s => .nan s
  | .inf s => .inf (s != flip)
  | .num s m e => .num (s != flip) m e

/-- The value of a format's bits, a subnormal input flushed under `.ftz` with FZ (R104, R125). NaNs of 8 bits are quiet (R126). -/
def unpackF (f : Fmt) (ftz : Bool) (bits : Nat) : Val × Fl :=
  let neg := bits / 2 ^ (f.e + f.m) % 2 == 1
  let ex := bits / 2 ^ f.m % 2 ^ f.e
  let fr := bits % 2 ^ f.m
  let top := 2 ^ f.e - 1
  if ex = top ∧ f.tops = .ieee then
    if fr = 0 then (.inf neg, 0) else (.nan (8 < f.width && fr / 2 ^ (f.m - 1) % 2 == 0), 0)
  else if ex = top ∧ f.tops = .oneNan ∧ fr = 2 ^ f.m - 1 then (.nan false, 0)
  else if ex = 0 then
    if fr ≠ 0 ∧ ftz = true then (.num neg 0 0, flFZ) else (.num neg fr (f.emin - f.m), 0)
  else (.num neg (2 ^ f.m + fr) ((ex : Int) - f.bias - f.m), 0)

/-- m·2^e, plus a positive part below one unit of m where `st` is set, in units of 2^q under a rounding mode: the integer, and
whether it is inexact (R103). -/
def roundAt (rm : Rnd) (neg : Bool) (m : Nat) (e : Int) (st : Bool) (q : Int) : Nat × Bool :=
  if q ≤ e then (m * 2 ^ (e - q).toNat, st)
  else
    let k := (q - e).toNat
    if m.log2 + 1 < k then
      let inex := m != 0 || st
      ((if inex && ((rm == .rup && !neg) || (rm == .rdn && neg)) then 1 else 0), inex)
    else
      let n := m / 2 ^ k
      let r := m % 2 ^ k
      let half := 2 ^ (k - 1)
      let inex := r != 0 || st
      let up :=
        match rm with
        | .rne => half < r || (r == half && (st || n % 2 == 1))
        | .rtz => false
        | .rup => inex && !neg
        | .rdn => inex && neg
      ((if up then n + 1 else n), inex)

/-- Bits of n·2^q, where q is the unit of its binade (or the subnormal unit). -/
def Fmt.bitsAt (f : Fmt) (n : Nat) (q : Int) : Nat := (q + f.m + f.bias - 1).toNat * 2 ^ f.m + n

/-- One rounding of an exact nonzero magnitude into a format, with its flags (R103, R104, R106; R135 for formats without infinity
and under `.sat`). Under `.ftz` FZ marks a nonzero rounded result that is replaced; one that rounds to zero already has UF and NX alone
(DESIGN CHOICE, log entry 33). -/
def packMag (f : Fmt) (rm : Rnd) (ftz sat : Bool) (neg : Bool) (m : Nat) (e : Int) (st : Bool) : Nat × Fl :=
  if m = 0 then (f.signBit neg, if st then flNX else 0)
  else
    let e0 := e + m.log2
    let ovf : Nat × Fl :=
      let big := sat || f.tops != .ieee || rm == .rtz || (rm == .rup && neg) || (rm == .rdn && !neg)
      (f.signBit neg + (if big then f.maxBits else f.infBits), flOF ||| flNX)
    if f.emax < e0 then ovf
    else
      let q := (if e0 < f.emin then f.emin else e0) - f.m
      let (n, inex) := roundAt rm neg m e st q
      let b := f.bitsAt n q
      if f.maxBits < b then ovf
      else
        let nx : Fl := if inex then flNX else 0
        let tiny :=
          e0 < f.emin &&
            (e0 + 1 < f.emin || (roundAt rm neg m e st (e0 - f.m)).1 < 2 ^ (f.m + 1))
        let uf : Fl := if inex && tiny then flUF else 0
        if ftz && b != 0 && b < 2 ^ f.m then (f.signBit neg, nx ||| uf ||| flFZ ||| flUF ||| flNX)
        else (f.signBit neg + b, nx ||| uf)

/-- A value delivered in a format of its own kind: infinities and NaNs as they are. -/
def packV (f : Fmt) (rm : Rnd) (ftz : Bool) : Val → Nat × Fl
  | .nan _ => (f.nanBits, 0)
  | .inf neg => (f.signBit neg + f.infBits, 0)
  | .num neg m e => packMag f rm ftz false neg m e false

/-- NV for signalling operands (R105). -/
def sigFl (vs : List Val) : Fl := if vs.any Val.isSig then flNV else 0

/-- Signed integer times a power of two. -/
structure Dy where
  n : Int
  e : Int
deriving DecidableEq, Repr

def Dy.add (x y : Dy) : Dy :=
  if x.e ≤ y.e then { n := x.n + y.n * 2 ^ (y.e - x.e).toNat, e := x.e }
  else { n := x.n * 2 ^ (x.e - y.e).toNat + y.n, e := y.e }
def Dy.mul (x y : Dy) : Dy := { n := x.n * y.n, e := x.e + y.e }
def Val.dy : Val → Dy
  | .num neg m e => { n := if neg then -(m : Int) else m, e := e }
  | .nan _ | .inf _ => { n := 0, e := 0 }

/-- The sum of two non-NaN values under R103 and R114. -/
def sumV (f : Fmt) (rm : Rnd) (ftz : Bool) (p q : Val) : Nat × Fl :=
  match p, q with
  | .inf s, .inf t => if s = t then (f.signBit s + f.infBits, 0) else (f.nanBits, flNV)
  | .inf s, _ => (f.signBit s + f.infBits, 0)
  | _, .inf t => (f.signBit t + f.infBits, 0)
  | _, _ =>
    let s := p.dy.add q.dy
    if s.n = 0 then
      let neg := if p.isZero && q.isZero && p.neg == q.neg then p.neg else rm == .rdn
      (f.signBit neg, 0)
    else packMag f rm ftz false (decide (s.n < 0)) s.n.natAbs s.e false

/-- The exact product of two non-NaN values; none for 0 × ∞ (R114). An integer zero counts as +0 (DESIGN CHOICE, log entry 33). -/
def prodV (p q : Val) : Option Val :=
  let s := p.neg != q.neg
  match p, q with
  | .num _ m1 e1, .num _ m2 e2 => some (.num s (m1 * m2) (e1 + e2))
  | _, _ => if p.isZero || q.isZero then none else some (.inf s)

def addF (f : Fmt) (rm : Rnd) (ftz na nb : Bool) (a b : Nat) : Nat × Fl :=
  let (x, f1) := unpackF f ftz a
  let (y, f2) := unpackF f ftz b
  let x := x.negate na
  let y := y.negate nb
  let fl := f1 ||| f2 ||| sigFl [x, y]
  if x.isNan || y.isNan then (f.nanBits, fl)
  else
    let (r, f3) := sumV f rm ftz x y
    (r, fl ||| f3)

def mulF (f : Fmt) (rm : Rnd) (ftz na nb : Bool) (a b : Nat) : Nat × Fl :=
  let (x, f1) := unpackF f ftz a
  let (y, f2) := unpackF f ftz b
  let x := x.negate na
  let y := y.negate nb
  let fl := f1 ||| f2 ||| sigFl [x, y]
  if x.isNan || y.isNan then (f.nanBits, fl)
  else
    match prodV x y with
    | none => (f.nanBits, fl ||| flNV)
    | some v =>
      let (r, f3) := packV f rm ftz v
      (r, fl ||| f3)

def fmaF (f : Fmt) (rm : Rnd) (ftz na nb nc : Bool) (a b c : Nat) : Nat × Fl :=
  let (x, f1) := unpackF f ftz a
  let (y, f2) := unpackF f ftz b
  let (z, f3) := unpackF f ftz c
  let x := x.negate na
  let y := y.negate nb
  let z := z.negate nc
  let fl := f1 ||| f2 ||| f3 ||| sigFl [x, y, z]
  if x.isNan || y.isNan then (f.nanBits, fl)
  else
    match prodV x y with
    | none => (f.nanBits, fl ||| flNV)
    | some p =>
      if z.isNan then (f.nanBits, fl)
      else
        let (r, f4) := sumV f rm ftz p z
        (r, fl ||| f4)

/-- x < y, with −0 below +0 (R115). -/
def ltMin (x y : Val) : Bool :=
  match x, y with
  | .inf s, .inf t => s && !t
  | .inf s, _ => s
  | _, .inf t => !t
  | _, _ =>
    let d := (x.dy.add (y.negate true).dy).n
    if d = 0 then x.isZero && y.isZero && x.neg && !y.neg else d < 0

/-- FMIN and FMAX (R115). -/
def minmaxF (f : Fmt) (mx ftz na nb : Bool) (a b : Nat) : Nat × Fl :=
  let (x, f1) := unpackF f ftz a
  let (y, f2) := unpackF f ftz b
  let x := x.negate na
  let y := y.negate nb
  let fl := f1 ||| f2 ||| sigFl [x, y]
  let out := fun v => (packV f .rne false v).1
  if x.isNan then (if y.isNan then f.nanBits else out y, fl)
  else if y.isNan then (out x, fl)
  else (out (if ltMin x y != mx then x else y), fl)

/-- FSCL (R116): the exponent is not bounded. -/
def sclF (rm : Rnd) (ftz na : Bool) (a : Nat) (n : Int) : Nat × Fl :=
  let (x, f1) := unpackF fmtF32 ftz a
  match x.negate na with
  | .nan s => (fmtF32.nanBits, f1 ||| (if s then flNV else 0))
  | .inf s => (fmtF32.signBit s + fmtF32.infBits, f1)
  | .num s m e =>
    let (r, f2) := packMag fmtF32 rm ftz false s m (e + n) false
    (r, f1 ||| f2)

/-- FCMP (R117). -/
def cmpF (cond : FCond) (ftz : Bool) (a b : Nat) : Bool × Fl :=
  let (x, f1) := unpackF fmtF32 ftz a
  let (y, f2) := unpackF fmtF32 ftz b
  let fl := f1 ||| f2
  if x.isNan || y.isNan then
    let r := cond == .ne || cond == .un
    let loud := cond == .lt || cond == .le || cond == .gt || cond == .ge
    (r, fl ||| (if loud then flNV else sigFl [x, y]))
  else
    let zeros := x.isZero && y.isZero
    let lt := !zeros && ltMin x y
    let gt := !zeros && ltMin y x
    let r :=
      match cond with
      | .eq => !lt && !gt
      | .ne => lt || gt
      | .lt => lt
      | .le => !gt
      | .gt => gt
      | .ge => !lt
      | .un => false
      | .ord => true
    (r, fl)

/-- FCLS (R118): the bit of the class. -/
def clsF (a : Nat) : Nat :=
  match (unpackF fmtF32 false a).1 with
  | .nan s => if s then 2 ^ 8 else 2 ^ 9
  | .inf s => if s then 2 ^ 0 else 2 ^ 7
  | .num s m _ =>
    if m = 0 then (if s then 2 ^ 3 else 2 ^ 4)
    else if m < 2 ^ 23 then (if s then 2 ^ 2 else 2 ^ 5)
    else (if s then 2 ^ 1 else 2 ^ 6)

/-- FRINT (R119). -/
def rintF (rm : Rnd) (ftz na : Bool) (a : Nat) : Nat × Fl :=
  let (x, f1) := unpackF fmtF32 ftz a
  match x.negate na with
  | .nan s => (fmtF32.nanBits, f1 ||| (if s then flNV else 0))
  | .inf s => (fmtF32.signBit s + fmtF32.infBits, f1)
  | .num s m e =>
    if 0 ≤ e then ((packMag fmtF32 .rne false false s m e false).1, f1)
    else ((packMag fmtF32 .rne false false s (roundAt rm s m e false 0).1 0 false).1, f1)

/-- FDIV (R121). -/
def divF (rm : Rnd) (ftz na nb : Bool) (a b : Nat) : Nat × Fl :=
  let (x, f1) := unpackF fmtF32 ftz a
  let (y, f2) := unpackF fmtF32 ftz b
  let x := x.negate na
  let y := y.negate nb
  let fl := f1 ||| f2 ||| sigFl [x, y]
  let s := x.neg != y.neg
  if x.isNan || y.isNan then (fmtF32.nanBits, fl)
  else
    match x, y with
    | .inf _, .inf _ => (fmtF32.nanBits, fl ||| flNV)
    | .inf _, _ => (fmtF32.signBit s + fmtF32.infBits, fl)
    | _, .inf _ => (fmtF32.signBit s, fl)
    | .num _ m1 e1, .num _ m2 e2 =>
      if m2 = 0 then
        if m1 = 0 then (fmtF32.nanBits, fl ||| flNV) else (fmtF32.signBit s + fmtF32.infBits, fl ||| flDZ)
      else if m1 = 0 then (fmtF32.signBit s, fl)
      else
        let (r, f3) := packMag fmtF32 rm ftz false s (m1 * 2 ^ 56 / m2) (e1 - e2 - 56) (m1 * 2 ^ 56 % m2 != 0)
        (r, fl ||| f3)
    | _, _ => (fmtF32.nanBits, fl)

/-- Integer square root by bits: the largest r with r² ≤ n, for n below 4^k. -/
def isqrt (n : Nat) : Nat → Nat → Nat
  | 0, r => r
  | k + 1, r => if (r + 2 ^ k) * (r + 2 ^ k) ≤ n then isqrt n k (r + 2 ^ k) else isqrt n k r

/-- SQRT (R121). -/
def sqrtF (rm : Rnd) (ftz na : Bool) (a : Nat) : Nat × Fl :=
  let (x, f1) := unpackF fmtF32 ftz a
  match x.negate na with
  | .nan s => (fmtF32.nanBits, f1 ||| (if s then flNV else 0))
  | .inf s => if s then (fmtF32.nanBits, f1 ||| flNV) else (fmtF32.infBits, f1)
  | .num s m e =>
    if m = 0 then (fmtF32.signBit s, f1)
    else if s then (fmtF32.nanBits, f1 ||| flNV)
    else
      let odd := (e % 2).toNat
      let n := m * 2 ^ (64 + odd)
      let r := isqrt n 46 0
      let (z, f2) := packMag fmtF32 rm ftz false false r ((e - odd - 64) / 2) (r * r != n)
      (z, f1 ||| f2)

/-- Element-wise operation on a pair (R109). -/
def pairF (op : Nat → Nat → Nat × Fl) (a b : Word) : Word × Fl :=
  let (l, f1) := op (a.toNat % 65536) (b.toNat % 65536)
  let (h, f2) := op (a.toNat / 65536) (b.toNat / 65536)
  (BitVec.ofNat 32 (l + h * 65536), f1 ||| f2)

def pairF3 (op : Nat → Nat → Nat → Nat × Fl) (a b c : Word) : Word × Fl :=
  let (l, f1) := op (a.toNat % 65536) (b.toNat % 65536) (c.toNat % 65536)
  let (h, f2) := op (a.toNat / 65536) (b.toNat / 65536) (c.toNat / 65536)
  (BitVec.ofNat 32 (l + h * 65536), f1 ||| f2)

/-- A result's bits as a word. -/
def toWord (r : Nat × Fl) : Word × Fl := (BitVec.ofNat 32 r.1, r.2)

/-- The format of a pair's elements (R109). -/
def pairFmt (bf : Bool) : Fmt := if bf then fmtBf16 else fmtF16

/-- An integer immediate converted exactly to a format (R108). -/
def intBits (f : Fmt) (i : Int) : Nat := (packMag f .rne false false (decide (i < 0)) i.natAbs 0 false).1

/-- R107: the causes that flags set: FPINV bit 10, FPDIV bit 11, FPOVF bit 12. -/
def flagCauses (f : Fl) : DWord :=
  (if f &&& flNV ≠ 0 then 0x400 else 0) ||| (if f &&& flDZ ≠ 0 then 0x800 else 0) ||| (if f &&& flOF ≠ 0 then 0x1000 else 0)

/-- R89. -/
def narrow (ty : IntTy) (sat : Bool) (n : Nat) (x : Int) : BitVec n :=
  if sat then
    let lo : Int := match ty with | .i => -(2 ^ (n - 1) : Nat) | .n => 0
    let hi : Int := match ty with | .i => (2 ^ (n - 1) : Nat) - 1 | .n => (2 ^ n : Nat) - 1
    BitVec.ofInt n (min (max x lo) hi)
  else BitVec.ofInt n x

/-- A word as signed or unsigned (R89). -/
def asTy {n : Nat} (ty : IntTy) (x : BitVec n) : Int :=
  match ty with
  | .i => x.toInt
  | .n => x.toNat

end Sys2Proof.Machine
end

