-- ==== Sys2Proof/Machine/Hash.lean ====
section
/-! DEFINITION. SHA3-256 (FIPS 202) of a message shorter than one block of 136 bytes, and its first eight digest bytes, which the
journal holds (R388). -/

namespace Sys2Proof.Machine

/-- Lane x + 5y of the permutation's state. -/
abbrev Lanes := List DWord

def laneAt (a : Lanes) (x y : Nat) : DWord := a.getD (x % 5 + 5 * (y % 5)) 0

def keccakRc : List DWord :=
  [0x0000000000000001, 0x0000000000008082, 0x800000000000808A, 0x8000000080008000, 0x000000000000808B, 0x0000000080000001,
   0x8000000080008081, 0x8000000000008009, 0x000000000000008A, 0x0000000000000088, 0x0000000080008009, 0x000000008000000A] ++
  [0x000000008000808B, 0x800000000000008B, 0x8000000000008089, 0x8000000000008003, 0x8000000000008002, 0x8000000000000080,
   0x000000000000800A, 0x800000008000000A, 0x8000000080008081, 0x8000000000008080, 0x0000000080000001, 0x8000000080008008]

/-- Rotation of lane x + 5y. -/
def keccakRot : List Nat :=
  [0, 1, 62, 28, 27, 36, 44, 6, 55, 20, 3, 10, 43, 25, 39, 41, 45, 15, 21, 8, 18, 2, 61, 56, 14]

def rotl64 (d : DWord) (n : Nat) : DWord := (d <<< n) ||| (d >>> (64 - n))

/-- θ. -/
def keccakTheta (a : Lanes) : Lanes :=
  let c := (List.range 5).map (fun x => laneAt a x 0 ^^^ laneAt a x 1 ^^^ laneAt a x 2 ^^^ laneAt a x 3 ^^^ laneAt a x 4)
  let d := (List.range 5).map (fun x => c.getD ((x + 4) % 5) 0 ^^^ rotl64 (c.getD ((x + 1) % 5) 0) 1)
  (List.range 25).map (fun k => a.getD k 0 ^^^ d.getD (k % 5) 0)

/-- ρ and π: lane (x, y) of the result is the rotated lane (x + 3y, x). -/
def keccakPi (a : Lanes) : Lanes :=
  (List.range 25).map (fun k =>
    let src := (k % 5 + 3 * (k / 5)) % 5 + 5 * (k % 5)
    rotl64 (a.getD src 0) (keccakRot.getD src 0))

/-- χ. -/
def keccakChi (b : Lanes) : Lanes :=
  (List.range 25).map (fun k => laneAt b k (k / 5) ^^^ (~~~(laneAt b (k % 5 + 1) (k / 5)) &&& laneAt b (k % 5 + 2) (k / 5)))

/-- One round with its constant. -/
def keccakRound (a : Lanes) (rc : DWord) : Lanes :=
  let b := keccakChi (keccakPi (keccakTheta a))
  b.set 0 (b.getD 0 0 ^^^ rc)

/-- Eight bytes as a lane, lowest first. -/
def laneOfBytes (bs : List Byte) : DWord := bs.foldr (fun b acc => (acc <<< 8) ||| b.setWidth 64) 0

/-- The padded block of a short message, as 17 lanes of rate and 8 of capacity. -/
def sha3Block (msg : List Byte) : Lanes :=
  let body := (msg ++ [0x06]) ++ List.replicate (135 - msg.length) 0
  let block := body.set 135 (body.getD 135 0 ||| 0x80)
  (List.range 25).map (fun k => laneOfBytes ((block.drop (8 * k)).take 8))

/-- The lanes of SHA3-256 of a message of one block. -/
def sha3Lanes (msg : List Byte) : Lanes := keccakRc.foldl keccakRound (sha3Block msg)

/-- Digest bytes 0 to 7 of the SHA3-256 of a message of at most 135 bytes, read little-endian (R388). -/
def sha3Low (msg : List Byte) : DWord := (sha3Lanes msg).getD 0 0

/-- A message padded to whole blocks of 136 bytes. -/
def sha3Pad (msg : List Byte) : List Byte :=
  let body := (msg ++ [0x06]) ++ List.replicate (135 - msg.length % 136) 0
  body.set (body.length - 1) (body.getD (body.length - 1) 0 ||| 0x80)

/-- The lanes after n blocks of padded bytes have been taken in. -/
def sha3Absorb (a : Lanes) (bytes : List Byte) : Nat → Lanes
  | 0 => a
  | n + 1 =>
    let b := (List.range 25).map (fun k => if k < 17 then laneOfBytes ((bytes.drop (8 * k)).take 8) else 0)
    sha3Absorb (keccakRc.foldl keccakRound ((a.zip b).map (fun p => p.1 ^^^ p.2))) (bytes.drop 136) n

/-- SHA3-256 of a message of any length, its bytes read little-endian. -/
def sha3 (msg : List Byte) : Nat :=
  let bytes := sha3Pad msg
  let a := sha3Absorb (List.replicate 25 0) bytes (bytes.length / 136)
  (List.range 4).foldl (fun n k => n + (a.getD k 0).toNat * 2 ^ (64 * k)) 0

end Sys2Proof.Machine
end

