-- ==== Sys2Proof/Machine/State.lean ====
section
/-! DEFINITION. The state of the ZG48 as plain data (INVENTORY.md, State): threads, waves, groups, cluster sets, the contexts of the
cores, the dies' fixed units, the partitions, the device and its host boundary, and one memory in canonical form. Pieces that exist
once per thread, group, core or die are lists of records that carry their own number; a record that is not listed holds its reset
values. Below it the machine right after device reset. -/

namespace Sys2Proof.Machine

/-- Memory: addresses strictly rising, no byte that equals what an unlisted address reads as (zero, log entry 1). An address is a
location number: `Ops.lean` gives the place of each space in it. -/
abbrev Memory := List Host.Cell

/-- Why a step stops with a fault. -/
inductive Fault where
  /-- The bundle chosen to issue names a live thread that holds no line. Raised by `step` alone. Safe: the picker latches a bundle
  only when its line is held (R62), and it issues in the next step, so no run from reset meets it. -/
  | lineNotHeld
deriving DecidableEq, Repr

/-- Why a step refuses. -/
inductive Refusal where
  /-- An instruction without a meaning yet. Raised by no arm of `exec` in this model. Safe. -/
  | notModelled (mnemonic : String)
deriving DecidableEq, Repr

/-! ### Outstanding work of threads -/

/-- An atomic on its way to its place: its bundle's serial number, the location of its word, its width in bytes, order, operation and
operands (R239, R244). -/
structure AtomReq where
  bun : Nat
  loc : Nat
  n : Nat
  kind : AKind
  rmt : Bool
  scope : Scope
  op : REDOp
  cas : Bool
  opnd : DWord
  new : DWord
deriving DecidableEq, Repr

/-- How a load makes registers of its bytes: by LD's size, or as an element of a tensor (R182, R185). -/
inductive LoadAs where
  | size (sz : Size)
  | elem (f : EFmt)
deriving DecidableEq, Repr

/-- An operation counted in lc, oldest first in the thread's list (R68, R69). -/
inductive LoadOp where
  /-- Values already read; they reach registers d, d+1, … when the load completes. -/
  | value (d : Reg) (ws : List Word)
  /-- Values already read through a vertical bus: the transfer waits for a repair of the column of its address (R20). -/
  | fetched (pa : Nat) (d : Reg) (ws : List Word)
  /-- RECRD, on whose completion the release of the record waits (R417). -/
  | record (d : Reg) (w : Word)
  /-- A load that stands behind an earlier operation of its thread, behind a repair of its column, or at a slice that holds it: it reads n
  bytes at its location when it is performed (R20, R180, R208). `req` is the GEN and the slice of its request to L2, if it makes one (R195). -/
  | late (req : Option (Nat × Nat)) (d : Reg) (o : Order) (loc n : Nat) (f : LoadAs)
  /-- TAGQ behind an earlier TAGS: the first word's location and how many words it reads (R189). -/
  | tagq (d : Reg) (loc n : Nat)
  /-- BINIT, with its expected count, and BQRY behind the thread's own arrival on that barrier (R253, R260). -/
  | binit (d : Reg) (clu : Bool) (n e : Nat)
  | bqry (d : Reg) (clu : Bool) (n : Nat)
  | atomic (d : Reg) (a : AtomReq)
  /-- TRACE: origin, direction and limits as eight words, root, options (17). -/
  | trace (blk : List Word) (root : DWord) (any cullb : Bool)
deriving DecidableEq, Repr

/-- An operation counted in sc (R68, R69). -/
inductive StoreOp where
  /-- A store already made visible to its own core; it is performed at its scope when it completes. `pa` is its physical address, if it
  has one: a layer's write buffer may have to accept it (R276). -/
  | store (sc : Scope) (pa : Option Nat)
  /-- A store that stands behind an earlier operation of its thread, or behind one of a lower thread of its bundle, whose serial number comes
  first: it writes its bytes when it is performed; `rel` marks a release (R180, R182, R266). -/
  | write (bun : Nat) (sc : Scope) (rel : Bool) (loc : Nat) (bs : List Byte)
  | red (a : AtomReq)
  /-- TAGS: the first word's location, how many words, the state; its bits are set when it is performed (R189). -/
  | tags (loc cnt : Nat) (full : Bool)
  /-- BARV or BSYNC: its bundle's serial number, the barrier, whether the thread waits on its own token, and the token's register. -/
  | arrive (bun : Nat) (clu : Bool) (n : Nat) (sync : Bool) (d : Option Reg)
  /-- CWB, CINV, CWBI, IINV; `fetch` marks IINV, on which FBAR waits (R206). -/
  | maint (fetch : Bool)
  /-- TLBINV: the operations in flight, by group, thread and number, that translated through a leaf that it removed (R211). -/
  | tlbinv (waits : List (Nat × Nat × Nat))
  /-- PRIOW of a map entry, and of the weight image: its bundle's serial number first (R348). -/
  | priow (n : Nat) (map : SMap) (tile : Word) (val : BitVec 16)
  | priowWt (n : Nat) (w : DWord)
  /-- VPUT: its serial number, the record's block, whether the overlap copy is sent as well, and whether it has been placed here and sent (R349). -/
  | vput (n : Nat) (blk : List Word) (ovl sent : Bool)
  /-- ROWPUT past its row distance: the lock entry of its source, absolute row and x0 (R359). -/
  | rowput (lock : Nat) (row : Int) (x0 : Nat)
  /-- PROBE.tri: the draw's lock entry and the triangle's sequence number (R366). -/
  | tri (draw seq : Nat) (blk : List Word)
  /-- CURVE: the path's lock entry (R376). -/
  | curve (path : Nat) (kind : CKind) (blk : List Word)
deriving DecidableEq, Repr

/-- What a thread waits for (R62, R155, and the chapters of the waits). -/
inductive Park where
  | ready
  | wait (l s c t : Nat)
  | sleep (wake : Nat)
  | yielded
  /-- R473: XLATE or ACCESS, its cause, at the fetch of its line. -/
  | unfetched (c : Nat)
  /-- LDF or STE: the request stands in `feQueue`. -/
  | word
  /-- The thread's bundle is held at its instruction until earlier operations of its threads have been performed (R180, R265, R266); it stands
  in `waiting`. -/
  | settle
  /-- SEBIND on a tag whose count is full (R225). -/
  | tagFull (tag : Nat)
  /-- HITR of a thread whose TRACE has not completed (R384). -/
  | hitr (st : Bool) (d : Reg)
  | slotw (eng : Bool) (j : Nat) (d : Reg)
  | bar (clu : Bool) (n : Nat)
  /-- BWAIT behind the thread's own operations on that barrier; its token is read from the register once they are done (R253, R257). -/
  | barSoon (clu : Bool) (n : Nat) (a : Reg)
  /-- BSYNC whose arrival is not yet counted. -/
  | barArrive (clu : Bool) (n : Nat)
  | tag (all : Bool) (mask : DWord) (d : Reg)
  | fence (k : FKind) (sc : Scope)
  | lfence
  /-- LFENCE.array: the write buffers whose commit it still waits for. -/
  | lfenceArray (bufs : List Nat)
  | efence (mx : Bool) (sc : Scope)
  | fbar
  | domset (d : Reg)
  | laydivw (d : Reg)
  /-- PGMAP: addresses and attributes (R212). -/
  | pgmap (d : Reg) (va pa : DWord) (attr : Word)
  /-- PGUNMAP, and once its leaf is gone the operations in flight that it waits for (R213). -/
  | pgunmap (d : Reg) (va : DWord)
  | pgunmapped (d : Reg) (waits : List (Nat × Nat × Nat))
  /-- A registration in `regQueue` (R221): `parked` where the instruction's rule calls the thread parked (R364, R385, R418), else it is held at
  issue. -/
  | lockReg (parked : Bool)
  | sefree (eng : Bool) (d : Reg)
  /-- MXRUN on a core that runs four streams: status register, address, tiles (R298). -/
  | mxrun (d : Reg) (addr : DWord) (n : Nat)
  | obrel (d : Reg) (n : Nat)
  /-- ROWPUT whose row is 256 or more ahead: the lock entry, the row and x0 (R359). -/
  | rowdist (lock : Nat) (row : Int) (x0 : Nat)
  | mail (bank : Nat) (mask : DWord) (d : Reg)
  | mailTake (n addr : Nat) (d : Reg)
  | record (node : Nat) (d : Reg)
  /-- PREEMPT 0, CTXSV 1, CTXLD 2: status register, partition, mask (R440). -/
  | ctx (op : Nat) (d : Reg) (q mask : Word)
  /-- PROBE.end and PATHEND.nz and .eo wait for the work of their draw or path, named by its lock entry (17). -/
  | draw (lock : Nat) (d : Reg)
  | path (lock : Nat) (d : Reg)
deriving DecidableEq, Repr

/-- A request parked on a full/empty word, in arrival order at the bank (R187). `ste` holds its data. -/
structure FeReq where
  gid : Nat
  tid : Nat
  loc : Nat
  take : Bool
  ste : Option Word
  d : Reg
deriving DecidableEq, Repr

/-- A record slot reserved by RECALLOC (R415); `lock` names the binding of the node, by its lock entry (R416). -/
structure RecHold where
  node : Nat
  lock : Nat
  slot : Nat
  count : Nat
deriving DecidableEq, Repr

/-- The decoded line in use by a thread (R202): its virtual base, its physical line number and its words; `bad` marks one that failed
parity once and is to be fetched again (R36). -/
structure UsedLine where
  va : Nat
  line : Nat
  words : List Word
  bad : Bool
deriving DecidableEq, Repr

/-- A thread (02, 03, 19). `depth` counts call-stack entries (R73); `parkPc` is the address
of the instruction at which it parked, `since` the time its park began (R188); `counted` says that
the wait has set its cause; `formed` is the cycle in which the meeting of a held thread formed (R156), and `stood` that since which a handler-mode thread has been ready and not issued (R429); `late` marks a thread whose record was given back by RECFIN (R417).
`ops`, `laid`, `loadAt` and `storeAt` are the model's own: the operations counted so far, the write buffers that hold writes of it or are to
get them from its core's data cache, and of its last loads and stores the nominal times at
which they complete with their numbers (log entries 4, 5). -/
structure Thread where
  gid : Nat
  tid : Nat
  regs : List Word
  preds : BitVec 8
  pc : DWord
  tpc : DWord
  handler : Bool
  depth : Nat
  fflags : Word
  rng : DWord
  live : Bool
  park : Park
  parkPc : DWord
  since : Nat
  counted : Bool
  meet : Option DWord
  formed : Option Nat
  stood : Option Nat
  age : Nat
  ops : Nat
  laid : List Nat
  loads : List LoadOp
  loadAt : List (Nat × Nat)
  stores : List StoreOp
  storeAt : List (Nat × Nat)
  hit : List Word
  hitSt : Word
  spos : DWord
  srow : Word
  record : Option (Nat × Nat)
  recDone : Bool
  holds : List RecHold
  line : Option UsedLine
deriving DecidableEq, Repr

/-- A wave: cause and trap enables (R419), carry slots (R325), roster (R61). -/
structure Wave where
  gid : Nat
  wid : Nat
  cause : DWord
  tmask : DWord
  carry : List Word
  roster : List Nat
deriving DecidableEq, Repr

/-! ### Matrix streams (13, 14) -/

/-- Progress of a ladder command (R321): its first unaccepted tile, that tile's rung, and whether LADTOP has been set for it. -/
structure LadProg where
  tile : Nat
  rung : Nat
  topped : Bool
deriving DecidableEq, Repr

/-- A command in the window (R289): its place in stream order, its words and their instruction, the places of the commands that its
predecessor fields name (R288), the moment of its acceptance (R291), for an MWAITB its count on its barrier (R305), for an MLDW the WDELTA read when its fetch phase began
(R297), how many of its rows, or of its pass's rows, have been entered, and the
nominal time before which it does not go on (log entry 4). -/
structure WinCmd where
  seq : Nat
  code : List Word
  ins : Instr
  pre : List Nat
  time : Nat
  nth : Nat
  fetched : Option Nat
  issued : Bool
  rows : Nat
  total : Nat
  hold : Nat
  prog : Option LadProg
deriving DecidableEq, Repr

/-- A weight plane (R293, R300, R318): its format once a load has written it, scales, bytes, and the whey tile's bytes if it has one. -/
structure Plane where
  fmt : Option EFmt
  sk : SK
  bl : BLen
  data : List Byte
  whey : Option (List Byte)
deriving DecidableEq, Repr

/-- A group's matrix stream (13, 14): the thread that issued MXRUN, the address of the next command, whether MEND has been accepted, the
failing identifier, the allotment, the window, the commands accepted and retired, the last place of each identifier, the MWAITBs
accepted on each barrier and the flips since MXRUN (R305), both planes, the ladder state (R317), the raw cycle count of its core since
which only MWAITB commands have stood (R295), and the last cycle in which it issued a command (R289). -/
structure Stream where
  owner : Nat
  fetch : DWord
  ended : Bool
  fault : Option Nat
  tiles : Nat
  base : Nat
  window : List WinCmd
  accepted : Nat
  retired : Nat
  last : List (Nat × Nat)
  waits : List (Nat × Nat)
  flips : List (Nat × Nat)
  active : Plane
  shadow : Plane
  ladTs : Nat
  ladTu : Nat
  ladTc : Nat
  ladCb : Nat
  ladWr : Nat
  ladDelta : Nat
  stood : Option Nat
  served : Nat
deriving DecidableEq, Repr

/-! ### Groups -/

/-- A resident group (03, 18). `hdr` is the launch header's 32 words (R390); `lref` is the SEQ of its launched entry and `lid` the number
of its launch; `age` counts for R64 stand in its threads. -/
structure Group where
  gid : Nat
  part : Nat
  lref : Nat
  lid : Nat
  index : Nat
  core : Nat
  priv : Bool
  hdr : List Word
  gregs : List DWord
  current : Bool
  deadline : Nat
  left : Nat
  release : Nat
  tries : Nat
  cset : Option Nat
  stream : Option Stream
  node : Option Nat
deriving DecidableEq, Repr

/-- A resident cluster set: its allocation's size, cluster, and how many of its groups are resident. -/
structure CSet where
  id : Nat
  part : Nat
  cluster : Nat
  size : Nat
  groups : Nat
deriving DecidableEq, Repr

/-- A named or cluster barrier that is owned (R252); one that is not listed is free. -/
structure Bar where
  n : Nat
  owner : Nat
  exp : Nat
  cnt : Nat
  ph : Bool
deriving DecidableEq, Repr

/-- An operand-buffer range: number, owning group, its record's eight words (R139). -/
structure ObRange where
  n : Nat
  owner : Nat
  rcd : List Word
deriving DecidableEq, Repr

/-- A bound stream engine (R228 to R231): the records as copied at SEBIND, how many boxes there are, the next
to start, the boxes completed, and whether a
SEFREE waits for those in flight. -/
structure SeBind where
  gid : Nat
  tid : Nat
  drain : Bool
  scope : Scope
  tag : Nat
  ring : List Word
  tensor : List Word
  total : Nat
  next : Nat
  finished : Nat
  freeing : Bool
deriving DecidableEq, Repr

/-- A core's context for one partition (R426 steps 8 to 10). `blkAt`, `spentAt` and `actWas` are the model's own: the
cycle after the last one counted in `blk`, the cycle after the last in which something was spent, and the accumulator as that cycle began. -/
structure Ctx where
  core : Nat
  part : Nat
  ctag : DWord
  tagCnt : List Nat
  tagErr : DWord
  ranges : List ObRange
  eng0 : Option SeBind
  eng1 : Option SeBind
  bars : List Bar
  ladder : List Nat
  act : Nat
  blk : Nat
  blkAt : Nat
  spentAt : Nat
  actWas : Nat
deriving DecidableEq, Repr

/-- A line of code held by an instruction cache: physical line number and its sixteen words (R191). -/
structure CodeLine where
  line : Nat
  words : List Word
deriving DecidableEq, Repr

/-- A core (01, 03, 18). `clkZero` is the raw cycle count at its last partition reset; `stalled` that since which it has had a ready thread
and issued nothing (R429); `occupied` counts the array's occupied cycles in the window, and `busyTo` is the cycle to which the row on it
lasts (R402), a row of partition `rowPart` that spends `rowRate` units in each (R316); `rowAt` is
the model's own, the cycle after the last one counted. -/
structure CoreSt where
  core : Nat
  clkZero : Nat
  icache : List CodeLine
  occupied : Nat
  elim : Nat
  stalled : Option Nat
  busyTo : Nat
  rowPart : Nat
  rowRate : Nat
  rowAt : Nat
  remapped : Bool
deriving DecidableEq, Repr

/-! ### Engine operations and range locks (10) -/

/-- A range in a space: the owner is the group or cluster set of an explicit space, or the range's group for `.obuf` (R219). -/
structure Rng where
  sp : ESpace
  owner : Nat
  lo : Nat
  len : Nat
deriving DecidableEq, Repr

/-- What an entry is for. -/
inductive OpKind where
  | copy
  | copyT (dst src : List Word)
  | box (eng : Bool) (j : Nat)
  | rowput (row : Int) (x0 : Nat)
  | draw (slot : Nat) (d : Reg)
  | path (slot : Nat) (d : Reg)
  | ring (node : Nat) (d : Reg)
deriving DecidableEq, Repr

/-- A range-lock entry, or a registration that waits for one (R219, R221). `acked` says that the mirror has answered, or that none is
needed; `again` marks an entry of a saved or restored context that is to be registered again (R238); `done` counts bytes moved (R432),
`ready` is the nominal time of its completion (log entry 4). -/
structure LockOp where
  id : Nat
  die : Nat
  mirror : Bool
  acked : Bool
  again : Bool
  part : Nat
  core : Nat
  gid : Nat
  tid : Nat
  tag : Nat
  scope : Scope
  kind : OpKind
  src : List Rng
  dst : List Rng
  len : Nat
  done : Nat
  ready : Nat
  desc : List Word
deriving DecidableEq, Repr

/-! ### Dispatch (18) -/

/-- A launch with a group unplaced or resident: its number, the SEQ of its launched entry, header and its address, GINIT values, next group index,
number of groups, the deadline SLICE.dl gave, groups to place again with their tries, whether its failure has been journalled, and
whether a group's stream faulted with no thread live (R295). A node launch or sample wave (R341, R405) has its die and node, the ring
slots it took, and for a wave its positions: X, Y, absolute row, timestamp; `raised` names the node bindings whose producer count the
launch raised; `resident` marks the start of a resident program, which no journal entry accepted (R21). -/
structure Launch where
  id : Nat
  seq : Nat
  part : Nat
  prio : Nat
  hdr : List Word
  hdrVa : DWord
  ginit : List DWord
  next : Nat
  total : Nat
  live : Nat
  dl : Option Nat
  time : Nat
  requeue : List (Nat × Nat)
  failed : Bool
  why8 : Bool
  die : Option Nat
  node : Option Nat
  recs : List Nat
  poss : List (Nat × Nat × Nat × Nat)
  raised : List Nat
  resident : Bool := false
deriving DecidableEq, Repr

/-- State of a ring slot's header (R404, R415 to R417). -/
inductive SlotSt where
  | empty
  | reserved (gid tid count : Nat)
  | full
  /-- Given to a node launch's thread. -/
  | taken
deriving DecidableEq, Repr

/-- A bound node (R404, R405). `pending` lists full slots in publication order, each with
the raw cycle count of the die at its publication; `lref` is the SEQ of the binding's launched entry. -/
structure Node where
  die : Nat
  part : Nat
  id : Nat
  desc : List Word
  hdr : List Word
  ginit : List DWord
  lref : Nat
  slots : List SlotSt
  head : Nat
  pending : List (Nat × Nat)
  producers : Nat
  running : Nat
  count : Nat
  lock : Nat
deriving DecidableEq, Repr

/-! ### Fixed units of a die (16, 17) -/

/-- The Separator, the row engine and the Vat controller of a die while its row engine is enabled (R336 to R341, R354): the VAT field that
holds for the die (R344), the maps,
accumulators and sample counters by tile (zero where not listed), the absolute row of the next visit, the issue queue of positions (X, Y,
row), the positions of the wave being formed with their timestamps, whether the Separator waits for an empty header, the counters of
SEPQ, and the pixels delivered to rows not yet locked (row, column, pixel), newest first. -/
structure Display where
  cfg : DispCfg
  vat : Nat
  t0 : Nat
  nl : Nat
  gaze : List (Nat × Nat)
  mot : List (Nat × Nat)
  err : List (Nat × Nat)
  acc : List (Nat × Nat)
  sn : List (Nat × Nat)
  weights : DWord
  visit : Nat
  queue : List (Nat × Nat × Nat)
  wave : List (Nat × Nat × Nat × Nat)
  waiting : Bool
  counters : List Nat
  lines : List (Nat × Nat × Word)
deriving DecidableEq, Repr

/-- State of a draw or path slot (R361). One that has never been opened is not listed; a FREE one keeps the partition that opened it. -/
inductive FixSt where
  | opened | closed | broken | free
deriving DecidableEq, Repr

/-- A fragment whose answer has not been applied (R369, R373): pixel, sequence number, its record, the ring slot that holds the record once
emitted, and the blend record that answered it. -/
structure Frag where
  px : Nat
  py : Nat
  seq : Nat
  rcd : List Word
  home : Option (Nat × Nat)
  ans : Option (List Word)
deriving DecidableEq, Repr

/-- A draw slot (R361 to R374): its number, partition, the group that opened it, lock entry, descriptor, the next sequence number,
the triangles held in the buffer with their entries, whether the buffer has been recycled, a cause
that a buffer or target access met, whether PROBE.end has issued and its bins have been rasterised, fragments not yet emitted, fragments
not yet resolved, and whether a release answered one. -/
structure DrawSlot where
  n : Nat
  part : Nat
  owner : Nat
  lock : Nat
  st : FixSt
  desc : List Word
  seq : Nat
  tris : List (Nat × List Word)
  used : Nat
  recycled : Bool
  fail : Option Nat
  ending : Bool
  rastered : Bool
  emit : List Frag
  frags : List Frag
  noted : Bool
deriving DecidableEq, Repr

/-- A path slot (R375 to R381): its close rule once PATHEND has closed it (true for even-odd), and segments registered by groups that have
been killed, which the close still adds (R379). -/
structure PathSlot where
  n : Nat
  part : Nat
  owner : Nat
  lock : Nat
  st : FixSt
  desc : List Word
  rule : Option Bool
  pending : List (CKind × List Word)
deriving DecidableEq, Repr

/-- A blend slot that a thread has reserved (R415): slot and reservation count. -/
structure BlendRes where
  slot : Nat
  gid : Nat
  tid : Nat
  count : Nat
deriving DecidableEq, Repr

/-- An overlap record on its way to the other die's Vat, with the thread that sent it (R347, R349). -/
structure OvlRec where
  blk : List Word
  gid : Nat
  tid : Nat
deriving DecidableEq, Repr

/-- A die (01, 16, 17, 18). `cells` holds of its 64 thermal cells the predictions for the logic and for the DRAM, in 1/256 °C (R398). -/
structure Die where
  die : Nat
  half : Bool
  clkBase : Nat
  clkNow : Nat
  cells : List (Word × Word)
  arraysGated : Bool
  display : Option Display
  vatHeads : List (Nat × Nat)
  overlap : List OvlRec
  draws : List DrawSlot
  paths : List PathSlot
  blendHead : Nat
  blendRes : List BlendRes
deriving DecidableEq, Repr

/-! ### Partitions -/

/-- An L2 domain (R194). -/
structure Domain where
  slices : Word
  nh : Nat
  hs : List (BitVec 46)
  gen : Nat
deriving DecidableEq, Repr

/-- Levels of the cache path (R191). -/
inductive Level where
  | core | l2 | way
deriving DecidableEq, Repr

/-- A line of 64 bytes held at a level: by which core, slice or bank, for which partition, its physical number (R191, R193, R197). The dirty
bytes of the levels stand in the state's `dcache`, `l2` and `ways`; a clean byte reads as the level below holds it (log entry 6). -/
structure CacheLine where
  level : Level
  home : Nat
  part : Nat
  line : Nat
deriving DecidableEq, Repr

/-- A leaf of the page tables (R198): page base and size, frame, permissions. -/
structure Leaf where
  va : Nat
  size : Nat
  pa : Nat
  w : Bool
  x : Bool
  raw : DWord
deriving DecidableEq, Repr

/-- A leaf held in a TLB: that of wide core `home`, or of die d at 160 + d (R199). -/
structure TlbEntry where
  home : Nat
  part : Nat
  leaf : Leaf
deriving DecidableEq, Repr

/-- A launched journal entry of a launch, and whether that launch has ended (R412). -/
structure JRef where
  seq : Nat
  lid : Nat
  ended : Bool
deriving DecidableEq, Repr

/-- A stop record of an engine operation or matrix command (R432). `unit` and `rung` are those of a matrix command. -/
structure StopRec where
  gid : Nat
  kind : Nat
  state : Nat
  core : Nat
  part : Nat
  idt : Nat
  group : Nat
  snext : DWord
  dnext : DWord
  done : Nat
  total : Nat
  ssp : Nat
  dsp : Nat
  scope : Nat
  rung : Nat
  unit : Nat
  time : Nat
deriving DecidableEq, Repr

/-- A saved context: its clusters, its place (0 the shadow store of their die, 1 the partition's slot in LPDDR 6), the time of the
save (R440), and the stop records written with it (R426 step 3). -/
structure Saved where
  clusters : BitVec 16
  place : Nat
  time : Nat
  stops : List StopRec
deriving DecidableEq, Repr

/-- A partition (01, 09, 18, 19, 23). `laydivNew` lists divisions that LAYDIVW has accepted and that have not taken effect, with their
threads (R210). `laydivCfg` and `domainCfg` are the division and domain that firmware assigned (R470). -/
structure Part where
  part : Nat
  clusters : BitVec 16
  controls : BitVec 32
  outputs : BitVec 2
  window : List (Nat × Nat)
  grants : List (Nat × Nat)
  laydiv : Word
  domain : Domain
  laydivCfg : Word
  domainCfg : Domain
  root : Nat
  laydivNew : List (Nat × Nat × Word)
  jseq : Nat
  jbase : Nat
  jlog : Nat
  refs : List JRef
  halts : Nat
  haltCode : Nat
  haltTime : Nat
  haltNow : List Nat
  haltCore : Nat
  haltGroup : Nat
  haltGid : Nat
  contained : Bool
  stopped : Bool
  stops : List StopRec
  inReset : Bool
  saved : List Saved
deriving DecidableEq, Repr

/-! ### The device and its host boundary (23) -/

/-- A host mailbox's control word and message (R386). -/
structure Mailbox where
  n : Nat
  part : Nat
  full : Bool
  tag : BitVec 16
  msg : List (Nat × Byte)
deriving DecidableEq, Repr

/-- A host mailbox ring (R458): its HMRING image, partition and producer index. -/
structure HostBox where
  h : Nat
  ring : DWord
  part : Nat
  prod : Nat
deriving DecidableEq, Repr

/-- A bundle chosen to issue (R63, R156): its core, address, successor, threads in ascending order, and for a meeting whether the
MEETPART state was seen (R158); `lat` is the nominal latency of its instruction (log entry 4); `second` marks the second instruction
of a pair (R67); `ins` is its instruction once it has issued. -/
structure Bundle where
  core : Nat
  pc : DWord
  npc : DWord
  refs : List (Nat × Nat)
  meeting : Option Bool
  lat : Nat
  second : Bool
  ins : Option Instr := none
deriving DecidableEq, Repr

/-- An event with what it acts on, as the agenda holds it. -/
structure Ev where
  row : Instr
  arg : EventArg
deriving DecidableEq, Repr

/-- The machine's state. `agenda`, `arg`, `bundle`, `command`, `waiting`, `hostData`, `turn`, `now`, `serial` and `draws` are the model's own
fields: the events from outside that are still to happen, what the event being performed acts on, the bundle or the stream command (group and
place in the window) that issues next, the bundles held behind their threads' earlier operations, the bytes that the host read last, the turn of the present moment that is served next, the time in wide-core cycles since reset, the next serial number, and the count of free
choices made (log entries 3, 4, 8). -/
structure State where
  mem : Memory
  dcache : Memory
  l2 : Memory
  ways : Memory
  lines : List CacheLine
  tlbs : List TlbEntry
  zeroing : List (Nat × Nat)
  full : List Nat
  threads : List Thread
  waves : List Wave
  groups : List Group
  csets : List CSet
  cbars : List (Nat × Bar)
  ctxs : List Ctx
  cores : List CoreSt
  dies : List Die
  parts : List Part
  held : List (Nat × Nat)
  locks : List LockOp
  regQueue : List LockOp
  feQueue : List FeReq
  mailQueue : List (Nat × Nat)
  launches : List Launch
  nodes : List Node
  mailboxes : List Mailbox
  hostBoxes : List HostBox
  msixMask : List Nat
  msixPending : List Nat
  msixSent : List Nat
  rstreq : Word
  ptm : List DWord
  eyes : List (Nat × Word × Word × Word)
  weights : List Byte
  cw : List Nat
  powerClass : Nat
  measure : List (Nat × Nat)
  rollback : Nat
  spares : List Nat
  spareWays : List Nat
  lanes : List (Nat × Nat)
  gated : List Engine
  repair : List Nat
  buffered : List Nat
  owners : List (Nat × Nat)
  domNew : List (Nat × Nat × List (Nat × Domain))
  modules : Nat
  inReset : Bool
  dtbBase : Nat
  dtbFrac : Nat
  dtbNow : Nat
  slew : Int
  now : Nat
  turn : Nat
  serial : Nat
  draws : Nat
  agenda : List Ev
  arg : EventArg
  bundle : Option Bundle
  waiting : List Bundle
  hostData : List Byte
  command : Option (Nat × Nat)
deriving DecidableEq, Repr

/-! ### Records at their reset values -/

def Ctx.fresh (core part : Nat) : Ctx :=
  { core := core, part := part, ctag := 0, tagCnt := List.replicate 64 0, tagErr := 0, ranges := [], eng0 := none, eng1 := none,
    bars := [], ladder := [0, 0, 0, 0, 0], act := 0, blk := 0, blkAt := 0, spentAt := 0, actWas := 0 }

def CoreSt.fresh (core : Nat) : CoreSt :=
  { core := core, clkZero := 0, icache := [], occupied := 0, elim := 16, stalled := none, busyTo := 0, rowPart := 0, rowRate := 0, rowAt := 0, remapped := false }

def Die.fresh (die : Nat) : Die :=
  { die := die, half := false, clkBase := 0, clkNow := 0, cells := List.replicate 64 (0, 0), arraysGated := false, display := none,
    vatHeads := [], overlap := [], draws := [], paths := [], blendHead := 0, blendRes := [] }

def Domain.empty : Domain := { slices := 0, nh := 0, hs := [0, 0, 0, 0, 0], gen := 0 }

/-- R194: the domain of partition 0 at reset. -/
def Domain.whole : Domain :=
  { slices := 0xFFFFFFFF, nh := 5, gen := 0,
    hs := [0x0000000004001#46, 0x0000000008002#46, 0x0000000010004#46, 0x0000000020008#46, 0x0000000040010#46] }

/-- WAYS 6, VAT 32, SHADOW 5 (R196). -/
def laydivReset : Word := 0x34050000

def Part.fresh (q : Nat) : Part :=
  { part := q, clusters := 0, controls := 0, outputs := 0, window := [(0, 0), (0, 0)], grants := [], laydiv := laydivReset,
    domain := Domain.empty, laydivCfg := laydivReset, domainCfg := Domain.empty, root := 0, laydivNew := [], jseq := 0, jbase := 0, jlog := 10, refs := [],
    halts := 0, haltCode := 0, haltTime := 0, haltNow := [0, 0, 0], haltCore := 0, haltGroup := 0, haltGid := 0, contained := false, stopped := false, stops := [],
    inReset := false, saved := [] }

/-- Partition 0 after device reset holds the whole device (R21, R172): every cluster, control core and output, both chip windows,
and every address that exists with the fitted memory; root table, journal place and fitted memory are firmware's (log entry 11). -/
def Part.whole : Part :=
  { Part.fresh 0 with
    clusters := 0xFFFF, controls := 0xFFFFFFFF, outputs := 3,
    window := [(0, 0x1000000), (0, 0x1000000)],
    grants := [(0x0000000000000, 0x4000000000), (0x1000000000000, 0x800000000), (0x2000000000000, 0x100000000),
      (0x8000000000000, 0x8000000000000)],
    domain := Domain.whole, domainCfg := Domain.whole, root := 0x3FF0000000, jbase := 0x3FE0000000, jlog := 10 }

/-- The machine right after device reset, before anything is placed (log entry 2). -/
def State.reset : State :=
  { mem := [], dcache := [], l2 := [], ways := [], lines := [], tlbs := [], zeroing := [], full := [], threads := [], waves := [], groups := [], csets := [], cbars := [],
    ctxs := [], cores := [], dies := [Die.fresh 0, Die.fresh 1],
    parts := [Part.whole, Part.fresh 1, Part.fresh 2, Part.fresh 3],
    held := (List.range 16).map (fun c => (c, 0)),
    locks := [], regQueue := [], feQueue := [], mailQueue := [], launches := [], nodes := [], mailboxes := [], hostBoxes := [],
    msixMask := [], msixPending := [], msixSent := [], rstreq := 0, ptm := [0, 0], eyes := [],
    weights := (List.range 64).map (fun k => BitVec.ofNat 8 (k % 8 + 1)),
    cw := [1, 2, 3, 4, 6, 8, 12, 16], powerClass := 300, measure := [], rollback := 0, spares := [], spareWays := [], lanes := [], gated := [],
    repair := [], buffered := [], owners := [], domNew := [], modules := 0, inReset := false, dtbBase := 0, dtbFrac := 0, dtbNow := 0, slew := 0,
    now := 0, turn := 0, serial := 1, draws := 0, agenda := [], arg := EventArg.none, bundle := none, waiting := [], hostData := [], command := none }

end Sys2Proof.Machine
end

