-- ==== Sys2Proof/Machine/Records.lean ====
section
/-! DEFINITION. The records that software writes in memory, read field by field: the launch header, the tensor record and the ring record;
and the numbers and bit fields of which they are made. -/

namespace Sys2Proof.Machine

/-! ### Numbers -/

/-- Bits hi to lo of a value (R1). -/
def bitsOf {n : Nat} (w : BitVec n) (hi lo : Nat) : Nat := w.toNat / 2 ^ lo % 2 ^ (hi - lo + 1)

def sext64 (w : Word) : DWord := w.signExtend 64
def zext64 (w : Word) : DWord := w.setWidth 64
def lo32 (d : DWord) : Word := d.extractLsb' 0 32
def hi32 (d : DWord) : Word := d.extractLsb' 32 32
def joinW (hi lo : Word) : DWord := hi ++ lo
def boolW (b : Bool) : Word := if b then 1 else 0

/-! ### The launch header (R390) -/

def hdrW (h : List Word) (i : Nat) : Word := h.getD i 0
def hdrD (h : List Word) (i : Nat) : DWord := joinW (hdrW h (i + 1)) (hdrW h i)
def hdrWave (h : List Word) : Nat := 8 * 2 ^ bitsOf (hdrW h 0) 31 30
def hdrRegs (h : List Word) : Nat := 8 * (bitsOf (hdrW h 0) 29 25 + 1)
def hdrK (h : List Word) : Nat := bitsOf (hdrW h 0) 24 22
def hdrGB (h : List Word) : Nat := bitsOf (hdrW h 0) 21 19
def hdrCB (h : List Word) : Nat := bitsOf (hdrW h 0) 18 16
def hdrEnergy (h : List Word) : Nat := bitsOf (hdrW h 0) 15 13
def hdrIdem (h : List Word) : Bool := bitsOf (hdrW h 0) 12 12 == 1
def hdrRetry (h : List Word) : Nat := bitsOf (hdrW h 0) 11 8
def hdrPrio (h : List Word) : Nat := bitsOf (hdrW h 0) 7 5
def hdrWid (h : List Word) (i : Nat) : Nat := bitsOf (hdrD h 1) (6 * i + 5) (6 * i)
def hdrExt (h : List Word) (i : Nat) : Nat := (hdrW h (3 + i)).toNat + 1
def hdrScratch (h : List Word) : Nat := 64 * bitsOf (hdrW h 9) 28 16
def hdrLane (h : List Word) : Nat := 64 * bitsOf (hdrW h 9) 12 0
def hdrNset (h : List Word) : Nat := bitsOf (hdrW h 10) 18 16 + 1
def hdrCmem (h : List Word) : Nat := 64 * bitsOf (hdrW h 10) 14 0
def hdrDens (h : List Word) : Nat := bitsOf (hdrW h 11) 15 0
def hdrDl (h : List Word) : Nat := bitsOf (hdrD h 12) 47 0
def hdrBudget (h : List Word) : Nat := (hdrW h 14).toNat
def hdrNode (h : List Word) : Nat := bitsOf (hdrW h 15) 31 16
def hdrNG (h : List Word) : Nat := bitsOf (hdrW h 15) 6 0
def hdrEntry (h : List Word) : DWord := hdrD h 16
def hdrHandler (h : List Word) : DWord := hdrD h 18
def hdrPlace (h : List Word) : DWord := hdrD h 20
def hdrGinit (h : List Word) : DWord := hdrD h 22
def hdrTmask (h : List Word) : DWord := hdrD h 24
def hdrPnode (h : List Word) : Nat := bitsOf (hdrW h 26) 15 0
/-- bⱼ: the width sum of fields 0 to j − 1 (R58). -/
def hdrB (h : List Word) (j : Nat) : Nat := ((List.range j).map (hdrWid h)).foldl (· + ·) 0
/-- Width of the group part of the work identifier. -/
def hdrBg (h : List Word) : Nat := hdrB h (hdrGB h)
/-- Product of the extents of fields i to j − 1. -/
def hdrProd (h : List Word) (i j : Nat) : Nat := ((List.range j).filter (i ≤ ·)).foldl (fun p k => p * hdrExt h k) 1

/-- The fields of an identifier, lowest first (R58). -/
def hdrFields (h : List Word) (work : Nat) : List Nat :=
  (List.range (hdrK h + 1)).map (fun i => work / 2 ^ hdrB h i % 2 ^ hdrWid h i)

/-- `%tid` of the n-th thread of a group: n written in the mixed radix of the extents (R58). -/
def hdrTid (h : List Word) (n : Nat) : Nat :=
  (List.range (hdrGB h)).foldl (fun acc i => acc + n / hdrProd h 0 i % hdrExt h i * 2 ^ hdrB h i) 0

/-- The identifiers' part above the group boundary of the n-th group. -/
def hdrIndex (h : List Word) (n : Nat) : Nat :=
  let g := hdrGB h
  ((List.range (hdrK h + 1)).filter (g ≤ ·)).foldl (fun acc i => acc + n / hdrProd h g i % hdrExt h i * 2 ^ (hdrB h i - hdrB h g)) 0

def hdrThreads (h : List Word) : Nat := hdrProd h 0 (hdrGB h)
def hdrGroups (h : List Word) : Nat := hdrProd h (hdrGB h) (hdrK h + 1)

/-- The header of a sample wave's launch: node 1,022's template with one group of exactly one wave (R341, R405; log entry 9). -/
def hdrSample (h : List Word) : List Word :=
  (List.range h.length).map (fun i => if i = 3 then BitVec.ofNat 32 (hdrWave h - 1) else if 4 ≤ i ∧ i ≤ 8 then 0 else hdrW h i)

/-! ### Tensor records (R183, R184, R185) -/

def tenBase (w : List Word) : DWord := hdrD w 0
def tenFmt (w : List Word) : Nat := bitsOf (hdrW w 2) 10 6
def tenNdim (w : List Word) : Nat := bitsOf (hdrW w 2) 5 3
def tenSpace (w : List Word) : Nat := bitsOf (hdrW w 2) 2 0
def tenStr (w : List Word) (i : Nat) : DWord := hdrD w (4 + 2 * i)
def tenExt (w : List Word) (i : Nat) : Nat := (hdrW w (14 + i)).toNat
def tenOrg (w : List Word) (i : Nat) : Int := (hdrW w (19 + i)).toInt
def tenBox (w : List Word) (i : Nat) : Nat := bitsOf (hdrW w (24 + i)) 15 0

/-- The rules of R184 that LDT and STT share with the stream engines: reserved bits, NDIM, unused dimensions, extents and boxes. -/
def tenShape (w : List Word) : Bool :=
  let n := tenNdim w
  bitsOf (hdrW w 2) 31 11 == 0 && (List.range 5).all (fun i => bitsOf (hdrW w (24 + i)) 31 16 == 0) &&
  (List.range 3).all (fun i => hdrW w (29 + i) == 0) && decide (1 ≤ n) && decide (n ≤ 5) &&
  (List.range 5).all (fun i =>
    if i < n then decide (1 ≤ tenExt w i) && decide (1 ≤ tenBox w i)
    else tenStr w i == 0 && tenExt w i == 0 && tenOrg w i == 0 && tenBox w i == 0)

/-- The element format of a record: one of 8, 16, 32 or 64 bits. -/
def tenFormat (w : List Word) : Option EFmt :=
  match EFmt.ofNat? (tenFmt w) with
  | some f => if f.width = 8 ∨ f.width = 16 ∨ f.width = 32 ∨ f.width = 64 then some f else none
  | none => none

def tenInside (w : List Word) (xs : List Int) : Bool :=
  xs.zipIdx.all (fun p => decide (0 ≤ p.1) && decide (p.1 < (tenExt w p.2 : Int)))

/-- The address of an element (R185). -/
def tenEa (w : List Word) (sp : Space) (xs : List Int) : Nat :=
  let t : Int := (xs.zipIdx.map (fun p => p.1 * (tenStr w p.2).toInt)).foldl (· + ·) ((tenBase w).toNat : Int)
  (t % (if sp = .glob then 2 ^ 64 else 2 ^ 32)).toNat

/-- A record's space as an engine space (R235: 1 to 5). -/
def tenEngSpace (w : List Word) : Option ESpace :=
  match tenSpace w with
  | 1 => some .core
  | 2 => some .cmem
  | 3 => some .chip
  | 4 => some .glob
  | 5 => some .obuf
  | _ => none

/-- Elements of a box, and one element's place in it (R229). -/
def tenBoxSize (w : List Word) : Nat := ((List.range (tenNdim w)).map (tenBox w)).foldl (· * ·) 1
def tenElem (w : List Word) (k i : Nat) : Nat := k / ((List.range i).map (tenBox w)).foldl (· * ·) 1 % tenBox w i

/-- Coordinates of element k of the box whose origin is moved by q boxes in each dimension (R229). -/
def tenCoord (w : List Word) (q : Nat → Nat) (k : Nat) : List Int :=
  (List.range (tenNdim w)).map (fun i => tenOrg w i + (q i * tenBox w i : Nat) + (tenElem w k i : Nat))

/-- The address of coordinates in an engine space. -/
def tenAddr (w : List Word) (sp : ESpace) (xs : List Int) : Nat := tenEa w (if sp = .glob then .glob else .core) xs

def noBoxes : Nat → Nat := fun _ => 0

/-! ### The ring record of a stream engine (R228) -/

def ringPbase (w : List Word) : Nat := (hdrW w 0).toNat
def ringHbase (w : List Word) : Nat := (hdrW w 1).toNat
def ringCm (w : List Word) : Bool := bitsOf (hdrW w 2) 7 7 == 1
def ringNslot (w : List Word) : Nat := bitsOf (hdrW w 2) 6 0
def ringSstr (w : List Word) : Nat := bitsOf (hdrW w 3) 18 0
def ringCnt (w : List Word) (i : Nat) : Nat := (hdrW w (4 + i / 2)).toNat / 2 ^ (16 * (i % 2)) % 65536
def ringBoxes (w : List Word) (ndim : Nat) : Nat := ((List.range ndim).map (ringCnt w)).foldl (· * ·) 1

/-- The address that SLOTW returns. -/
def slotAddr (b : SeBind) (j : Nat) : Word := BitVec.ofNat 32 (ringPbase b.ring + j % ringNslot b.ring * ringSstr b.ring)

/-- Indices of box j (R229). -/
def boxIdx (b : SeBind) (j i : Nat) : Nat := j / ((List.range i).map (ringCnt b.ring)).foldl (· * ·) 1 % ringCnt b.ring i

end Sys2Proof.Machine
end

