-- ==== Sys2Proof/Machine/Ops.lean ====
section
/-! DEFINITION. The named operations over memory, registers and the other state, which every meaning uses: locations and canonical
memory, records by number, registers, causes and exception entry, the halt line and killing a group, the cache path, translation and
the access checks of R175, range locks, fetching a line, time, and the journal. -/

namespace Sys2Proof.Machine

/-! ### Lists -/

/-- Change the record that satisfies p, or add one made from the default. -/
def upsert {α : Type} (p : α → Bool) (dflt : α) (f : α → α) : List α → List α
  | [] => [f dflt]
  | x :: xs => if p x then f x :: xs else x :: upsert p dflt f xs

/-- Lexicographic order of keys. -/
def keyLess : List Nat → List Nat → Bool
  | [], _ => false
  | _ :: _, [] => false
  | a :: as, b :: bs => if a < b then true else if a = b then keyLess as bs else false

/-- Put an element in its place by a key. -/
def insertKey {α : Type} (key : α → List Nat) (x : α) : List α → List α
  | [] => [x]
  | y :: ys => if keyLess (key x) (key y) then x :: y :: ys else y :: insertKey key x ys

def sortKey {α : Type} (key : α → List Nat) (l : List α) : List α := l.foldl (fun acc x => insertKey key x acc) []

def setAt {α : Type} (l : List α) (k : Nat) (x : α) : List α := l.set k x

/-! ### Memory in canonical form -/

/-- What an unlisted byte reads as (log entry 1). -/
def memDefault : Byte := 0

/-- Canonical: addresses strictly rising, no entry at the default. -/
def Memory.wf : Memory → Bool
  | [] => true
  | [(_, v)] => v != memDefault
  | (a, v) :: (b, w) :: rest => v != memDefault && decide (a < b) && Memory.wf ((b, w) :: rest)

def Memory.read (m : Memory) (a : Nat) : Byte :=
  match m with
  | [] => memDefault
  | (b, v) :: rest => if b = a then v else Memory.read rest a

/-- A list with an entry at its place, in the place of the one that stood there. -/
def Cells.put (m : Memory) (a : Nat) (v : Byte) : Memory :=
  match m with
  | [] => [(a, v)]
  | (b, w) :: rest =>
    if a < b then (a, v) :: (b, w) :: rest else if a = b then (a, v) :: rest else (b, w) :: Cells.put rest a v

/-- Writing what an unlisted address reads as removes the entry. -/
def Memory.write (m : Memory) (a : Nat) (v : Byte) : Memory :=
  let k := m.filter (fun c => c.1 != a)
  if v = memDefault then k else Cells.put k a v

def Memory.readN (m : Memory) (a n : Nat) : List Byte := (List.range n).map (fun k => m.read (a + k))

def Memory.writeN (m : Memory) (a : Nat) : List Byte → Memory
  | [] => m
  | v :: vs => (m.write a v).writeN (a + 1) vs

/-- Zero every byte of a range. -/
def Memory.clear (m : Memory) (a n : Nat) : Memory := m.filter (fun c => c.1 < a || a + n ≤ c.1)

/-- Cached bytes: an entry stands for a dirty byte whatever its value. -/
def Cells.get (m : Memory) (a : Nat) : Option Byte := (m.find? (fun c => c.1 == a)).map (fun c => c.2)

def Cells.del (m : Memory) (lo n : Nat) : Memory := m.filter (fun c => c.1 < lo || lo + n ≤ c.1)
def Cells.within (m : Memory) (lo n : Nat) : Memory := m.filter (fun c => lo ≤ c.1 && c.1 < lo + n)

/-- Little-endian value of bytes (R3). -/
def ofBytes : List Byte → Nat
  | [] => 0
  | b :: bs => b.toNat + 256 * ofBytes bs

/-- The low n bytes of a value, lowest first. -/
def toBytes : Nat → Nat → List Byte
  | 0, _ => []
  | k + 1, x => BitVec.ofNat 8 x :: toBytes k (x / 256)

/-! ### Locations: one number for every byte of every space

A physical address is its own location. Above 2^56 lie the chip scratchpads, the operand buffers and the accumulator memories; above
2^64 each group's scratchpad, each cluster set's cluster memory and each thread's lane memory has a region of 2^64. -/

def locChip (die off : Nat) : Nat := 2 ^ 56 + die * 2 ^ 24 + off
def locObuf (core part off : Nat) : Nat := 2 ^ 57 + (core * 4 + part) * 2 ^ 20 + off
def locAcc (core part off : Nat) : Nat := 2 ^ 58 + (core * 4 + part) * 2 ^ 20 + off
def locScratch (gid off : Nat) : Nat := 2 ^ 64 * (4 * gid + 1) + off
def locCmem (cset off : Nat) : Nat := 2 ^ 64 * (4 * cset + 2) + off
def locLane (gid tid off : Nat) : Nat := 2 ^ 64 * (4 * (gid * 1024 + tid) + 3) + off

/-! ### Records by number -/

/-- A thread's number: group and `%tid`. -/
abbrev Ref := Nat × Nat

def Thread.none : Thread :=
  { gid := 0, tid := 0, regs := [], preds := 0, pc := 0, tpc := 0, handler := false, depth := 0, fflags := 0, rng := 0, live := false,
    park := .ready, parkPc := 0, since := 0, counted := false, meet := Option.none, formed := Option.none, stood := Option.none, age := 0, ops := 0, laid := [], loads := [], loadAt := [], stores := [], storeAt := [], hit := [0, 0, 0, 0],
    hitSt := 0, spos := 0, srow := 0, record := Option.none, recDone := false, holds := [], line := Option.none }
def Wave.none : Wave := { gid := 0, wid := 0, cause := 0, tmask := 7, carry := List.replicate 8 0, roster := [] }
def Group.none : Group :=
  { gid := 0, part := 0, lref := 0, lid := 0, index := 0, core := 0, priv := false, hdr := [], gregs := [], current := false,
    deadline := 0, left := 0, release := 0, tries := 0, cset := Option.none, stream := Option.none, node := Option.none }

def Thread.is (t : Thread) (r : Ref) : Bool := t.gid == r.1 && t.tid == r.2

def State.thread (s : State) (r : Ref) : Thread := (s.threads.find? (fun t => t.is r)).getD Thread.none
def State.hasThread (s : State) (r : Ref) : Bool := s.threads.any (fun t => t.is r)
def State.upd (s : State) (r : Ref) (f : Thread → Thread) : State :=
  { s with threads := s.threads.map (fun t => if t.is r then f t else t) }

def State.group (s : State) (g : Nat) : Group := (s.groups.find? (fun x => x.gid == g)).getD Group.none
def State.updGroup (s : State) (g : Nat) (f : Group → Group) : State :=
  { s with groups := s.groups.map (fun x => if x.gid == g then f x else x) }

/-- A thread's lane and wave (R59). -/
def State.waveW (s : State) (g : Nat) : Nat := hdrWave (s.group g).hdr
def State.laneOf (s : State) (r : Ref) : Nat := r.2 % s.waveW r.1
def State.widOf (s : State) (r : Ref) : Nat := r.2 / s.waveW r.1

def State.wave (s : State) (g w : Nat) : Wave := (s.waves.find? (fun x => x.gid == g && x.wid == w)).getD Wave.none
def State.waveOf (s : State) (r : Ref) : Wave := s.wave r.1 (s.widOf r)
def State.updWave (s : State) (g w : Nat) (f : Wave → Wave) : State :=
  { s with waves := s.waves.map (fun x => if x.gid == g && x.wid == w then f x else x) }
def State.updWaveOf (s : State) (r : Ref) (f : Wave → Wave) : State := s.updWave r.1 (s.widOf r) f

def State.ctx (s : State) (core part : Nat) : Ctx :=
  (s.ctxs.find? (fun x => x.core == core && x.part == part)).getD (Ctx.fresh core part)
def State.updCtx (s : State) (core part : Nat) (f : Ctx → Ctx) : State :=
  { s with ctxs := upsert (fun x => x.core == core && x.part == part) (Ctx.fresh core part) f s.ctxs }

def State.coreSt (s : State) (core : Nat) : CoreSt := (s.cores.find? (fun x => x.core == core)).getD (CoreSt.fresh core)
def State.updCore (s : State) (core : Nat) (f : CoreSt → CoreSt) : State :=
  { s with cores := upsert (fun x => x.core == core) (CoreSt.fresh core) f s.cores }

def State.die (s : State) (d : Nat) : Die := (s.dies.find? (fun x => x.die == d)).getD (Die.fresh d)
def State.updDie (s : State) (d : Nat) (f : Die → Die) : State :=
  { s with dies := upsert (fun x => x.die == d) (Die.fresh d) f s.dies }

def State.part (s : State) (q : Nat) : Part := (s.parts.find? (fun x => x.part == q)).getD (Part.fresh q)
def State.updPart (s : State) (q : Nat) (f : Part → Part) : State :=
  { s with parts := upsert (fun x => x.part == q) (Part.fresh q) f s.parts }

def State.cset (s : State) (c : Nat) : Option CSet := s.csets.find? (fun x => x.id == c)

/-- Partition, core, die and cluster of a thread (R17). Control core k is number 128 + k. -/
def State.partOf (s : State) (r : Ref) : Nat := (s.group r.1).part
def State.coreOf (s : State) (r : Ref) : Nat := (s.group r.1).core
def isControl (core : Nat) : Bool := 128 ≤ core
def dieOfCore (core : Nat) : Nat := if isControl core then (core - 128) / 16 else core / 64
def clusterOfCore (core : Nat) : Nat := core / 8
def State.dieOf (s : State) (r : Ref) : Nat := dieOfCore (s.coreOf r)
def State.ctxOf (s : State) (r : Ref) : Ctx := s.ctx (s.coreOf r) (s.partOf r)
def State.updCtxOf (s : State) (r : Ref) (f : Ctx → Ctx) : State := s.updCtx (s.coreOf r) (s.partOf r) f

/-- The model's serial numbers (log entry 14). -/
def State.bump (s : State) : State := { s with serial := s.serial + 1 }

/-! ### Registers -/

def Thread.reg (t : Thread) (r : Reg) : Word := t.regs.getD r.toNat 0
def Thread.setReg (t : Thread) (r : Reg) (w : Word) : Thread := { t with regs := t.regs.set r.toNat w }
/-- A pair holds bits [31:0] in the even register (R3). -/
def Thread.pair (t : Thread) (r : Reg) : DWord := joinW (t.reg (r + 1)) (t.reg r)
def Thread.setPair (t : Thread) (r : Reg) (d : DWord) : Thread := (t.setReg r (lo32 d)).setReg (r + 1) (hi32 d)
/-- n registers from r. -/
def Thread.block (t : Thread) (r : Reg) (n : Nat) : List Word := (List.range n).map (fun k => t.reg (r + BitVec.ofNat 8 k))
def Thread.setBlock (t : Thread) (r : Reg) : List Word → Thread
  | [] => t
  | w :: ws => (t.setReg r w).setBlock (r + 1) ws
def Thread.pred (t : Thread) (p : BitVec 3) : Bool := t.preds.getLsbD p.toNat
def Thread.setPred (t : Thread) (p : BitVec 3) (b : Bool) : Thread :=
  { t with preds := if b then t.preds ||| (1#8 <<< p.toNat) else t.preds &&& ~~~(1#8 <<< p.toNat) }

def State.greg (s : State) (g : Nat) (k : BitVec 6) : DWord := (s.group g).gregs.getD k.toNat 0
def State.setGreg (s : State) (g : Nat) (k : BitVec 6) (d : DWord) : State :=
  s.updGroup g (fun x => { x with gregs := x.gregs.set k.toNat d })

/-- R44: the guard. -/
def guardHolds (g : Guard) (t : Thread) : Bool :=
  match g with
  | .always => true
  | .when neg p => t.pred p != neg

/-! ### Time (R29, R30; log entry 4) -/

/-- Raw cycles of a wide core's clock, at half rate while the die is halved. -/
def State.dieClk (s : State) (d : Nat) : Nat :=
  let x := s.die d
  x.clkBase + (if x.half then (s.now - x.clkNow) / 2 else s.now - x.clkNow)
/-- Raw cycles of a core: control cores run at 3.4 GHz to 2.6 GHz. -/
def State.rawClk (s : State) (core : Nat) : Nat := if isControl core then s.now * 17 / 13 else s.dieClk (dieOfCore core)
def State.clk (s : State) (core : Nat) : Nat := s.rawClk core - (s.coreSt core).clkZero
/-- Units of the timebase since its last rate change, 325,000,000 to a tick: 1,024 ticks to 2,600 cycles, at a rate that firmware slews by
some parts per million (R29, R459). -/
def State.dtbUnits (s : State) : Nat := s.dtbFrac + (s.now - s.dtbNow) * (128 * (1000000 + s.slew).toNat)
def State.dtb (s : State) : Nat := s.dtbBase + s.dtbUnits / 325000000

/-! ### The physical path (R191, R192) -/

def fittedLpddr : Nat := 0x4000000000
def isLpddr (pa : Nat) : Bool := pa < 0x8000000000
def isHost (pa : Nat) : Bool := 0x8000000000000 ≤ pa && pa < 0x10000000000000
def isColumn (pa : Nat) : Bool := 0x1000000000000 ≤ pa && pa < 0x1000800000000
def isBank (pa : Nat) : Bool := 0x2000000000000 ≤ pa && pa < 0x2000100000000
/-- An address that exists (R192, R464). -/
def exists? (pa : Nat) : Bool := pa < fittedLpddr || isColumn pa || isBank pa || isHost pa

def cacheKey (core pa : Nat) : Nat := core * 2 ^ 56 + pa

/-- The page of a physical address is being zeroed (R173, R212). -/
def State.zeroed (s : State) (pa : Nat) : Bool := s.zeroing.any (fun z => z.1 ≤ pa && pa < z.1 + z.2)

/-- A byte below the core data caches: L2, then the layer ways, then memory. A page that is being zeroed reads as zero: the access stalls
until the zeroing is done (R173, R274). -/
def State.below (s : State) (pa : Nat) : Byte :=
  if s.zeroed pa then 0
  else
    match Cells.get s.l2 pa with
    | some v => v
    | none =>
      match Cells.get s.ways pa with
      | some v => v
      | none => s.mem.read pa

/-- A byte as a core's loads see it. -/
def State.seen (s : State) (core pa : Nat) : Byte :=
  if s.zeroed pa then 0 else (Cells.get s.dcache (cacheKey core pa)).getD (s.below pa)

/-- Ways of a partition's division (R196). -/
def layWays (l : Word) : Nat := bitsOf l 31 27
def layVat (l : Word) : Nat := bitsOf l 26 21
def layShadow (l : Word) : Nat := bitsOf l 20 16

/-- Write-buffer acceptance at a layer (R276): the bank or column then has writes not yet committed. Buffer 4n + l is layer l of
column n; buffer 512 + n is bank n. -/
def bufferOf (pa : Nat) : Option Nat :=
  if isColumn pa then some ((pa - 0x1000000000000) / 0x4000000)
  else if isBank pa then some (512 + (pa - 0x2000000000000) / 0x2000000) else none

/-- A write buffer's column is under repair; the SRAM banks do not stand on a vertical bus (R20). -/
def State.bufRepair (s : State) (b : Nat) : Bool := decide (b < 512) && s.repair.contains (b / 4)

/-- A physical address is reached through a column under repair, which takes no new transfer (R20). -/
def State.repairs (s : State) (pa : Nat) : Bool := ((bufferOf pa).map s.bufRepair).getD false

/-- The engine of a write buffer, which may be power-gated. -/
def bufEngine (b : Nat) : Engine := if b < 512 then .column (b / 4) else .bank (b - 512)

/-- An access wakes the bank or column that it reaches (R403). -/
def State.wakeAt (s : State) (pa : Nat) : State :=
  match bufferOf pa with
  | some b => { s with gated := s.gated.filter (fun e => e != bufEngine b) }
  | none => s

def State.accept (s : State) (pa : Nat) : State :=
  match bufferOf pa with
  | some b => { s.wakeAt pa with buffered := if s.buffered.contains b then s.buffered else s.buffered ++ [b] }
  | none => s

/-- The Vat part of a bank of a die whose row engine is enabled: only the Vat controller reaches it (R344, R346). -/
def State.vatClosed (s : State) (pa : Nat) : Bool :=
  isBank pa &&
  (match (s.die ((pa - 0x2000000000000) / 0x80000000)).display with
   | some x => decide (pa % 0x2000000 < x.vat * 0x80000)
   | none => false)

/-- An address lies in a range. -/
def inRange (z : Nat × Nat) (a : Nat) : Bool := decide (z.1 ≤ a) && decide (a < z.1 + z.2)

/-- No copy of a range is cached, as data or as code: nothing written there before can come back (R173, R212, R274). -/
def State.uncache (s : State) (z : Nat × Nat) : State :=
  { s with
    l2 := Cells.del s.l2 z.1 z.2, ways := Cells.del s.ways z.1 z.2,
    dcache := s.dcache.filter (fun c => !(inRange z (c.1 % 2 ^ 56))), lines := s.lines.filter (fun l => !(inRange z (l.line * 64))),
    cores := s.cores.map (fun c => { c with icache := c.icache.filter (fun l => !(inRange z (l.line * 64))) }) }

/-- A zeroing comes to its end: the page is zero, but for what lies in a closed Vat part (R212, R346). -/
def State.endZero (s : State) (z : Nat × Nat) : State :=
  { s.uncache z with
    mem := s.mem.filter (fun c => !(inRange z c.1) || s.vatClosed c.1), zeroing := s.zeroing.filter (fun y => y != z) }

/-- An access that writes a page being zeroed waits for every zeroing of it: they are brought to their end (R173, R212). -/
def State.settle (s : State) (pa : Nat) : State := (s.zeroing.filter (fun z => z.1 ≤ pa && pa < z.1 + z.2)).foldl State.endZero s

/-! ### Lines of the caches (R191, R193, R197; log entry 6) -/

/-- The slice that serves an address (R193). -/
def sliceOf (d : Domain) (pa : Nat) : Nat :=
  let line := pa / 64
  let par := fun (h : BitVec 46) => ((List.range 46).filter (fun k => h.getLsbD k && line.testBit k)).length % 2
  let k := ((List.range d.nh).map (fun j => 2 ^ j * par (d.hs.getD j 0))).foldl (· + ·) 0
  ((List.range 32).filter (fun b => d.slices.getLsbD b)).getD k 0

/-- The SRAM bank whose ways may hold a line of a partition (R197). -/
def wayBank (clusters : BitVec 16) (pa : Nat) : Nat :=
  let ks := if clusters = 0 then List.range 64 else (List.range 128).filter (fun n => clusters.getLsbD (n / 8))
  ks.getD (((pa / 2 ^ 12 % 64) ^^^ (pa / 2 ^ 22 % 64)) % ks.length) 0

/-- A change of domains is under way at a slice, which holds every request that reaches it: it is in the old or the new set of a partition whose
domain changes (R208). -/
def State.sliceHolds (s : State) (k : Nat) : Bool :=
  match s.domNew with
  | [] => false
  | d :: _ => d.2.2.any (fun e => e.2.slices.getLsbD k || ((s.part e.1).domain.slices).getLsbD k)

/-- A line is used at a level: it is held there, as the one used last. -/
def State.useLine (s : State) (lv : Level) (home part line : Nat) : State :=
  { s with lines := { level := lv, home := home, part := part, line := line } ::
      s.lines.filter (fun x => !(x.level == lv && x.home == home && x.line == line)) }

/-- An engine that an access reaches wakes (R403). -/
def State.wakeEngine (s : State) (e : Engine) : State := { s with gated := s.gated.filter (fun x => x != e) }

/-- A level holds a line. -/
def State.holdsLine (s : State) (lv : Level) (home line : Nat) : Bool :=
  s.lines.any (fun x => x.level == lv && x.home == home && x.line == line)

/-- A request of a partition reaches the ways of its bank, which wakes (R197, R403). -/
def State.touchWay (s : State) (part pa : Nat) : State :=
  let p := s.part part
  if layWays p.laydiv ≠ 0 then (s.wakeEngine (.bank (wayBank p.clusters pa))).useLine .way (wayBank p.clusters pa) part (pa / 64) else s

/-- A request of a partition below the core data caches uses its slice, and, where that lacks the line, its way bank (R193, R197). -/
def State.touchBelow (s : State) (part pa : Nat) : State :=
  if isLpddr pa then
    let p := s.part part
    if p.domain.slices ≠ 0 then
      let k := sliceOf p.domain pa
      ((if s.holdsLine .l2 k (pa / 64) then s else s.touchWay part pa).wakeEngine (.slice k)).useLine .l2 k part (pa / 64)
    else s.touchWay part pa
  else s

/-- The GEN and the slice of the request to L2 that an access of a core to an address makes, if it makes one (R195). -/
def State.l2Request (s : State) (part core pa : Nat) : Option (Nat × Nat) :=
  let d := (s.part part).domain
  if isLpddr pa ∧ d.slices ≠ 0 ∧ s.holdsLine .core core (pa / 64) = false then some (d.gen, sliceOf d pa) else none

/-- A request may be performed at its slice: its GEN is current, the slice serves its partition and holds no request (R195, R208). -/
def State.l2May (s : State) (part : Nat) (req : Option (Nat × Nat)) : Bool :=
  match req with
  | none => true
  | some (gen, k) => decide (gen = (s.part part).domain.gen) && ((s.part part).domain.slices).getLsbD k && !(s.sliceHolds k)

/-- A request of a partition to an address waits on its way: for the repair of its column, or at its slice (R20, R208). -/
def State.pathHeld (s : State) (part pa : Nat) : Bool :=
  s.repairs pa || (isLpddr pa && (s.part part).domain.slices != 0 && s.sliceHolds (sliceOf (s.part part).domain pa))

/-- A request that is returned chooses its slice again under the current domain, or passes L2 by where that has no slice (R193, R195). -/
def State.l2Again (s : State) (part pa : Nat) (req : Option (Nat × Nat)) : Option (Nat × Nat) :=
  let d := (s.part part).domain
  req.bind (fun q =>
    if d.slices = 0 then none else if q.1 ≠ d.gen ∨ d.slices.getLsbD q.2 = false then some (d.gen, sliceOf d pa) else some q)

/-- An access of a core uses its data cache, which takes a line that it lacks from below; a bank or column that serves it wakes. -/
def State.touch (s : State) (part core pa : Nat) : State :=
  let s := s.wakeAt pa
  let s := if s.holdsLine .core core (pa / 64) then s else s.touchBelow part pa
  s.useLine .core core part (pa / 64)

/-- The partition for which a level holds a line. -/
def State.linePart (s : State) (lv : Level) (line dflt : Nat) : Nat :=
  ((s.lines.find? (fun x => x.level == lv && x.line == line)).map (fun x => x.part)).getD dflt

/-- A write that leaves the core data caches: into L2 where the partition has slices, else into the ways, else to memory (R193, R197). -/
def State.putBelow (s : State) (part pa : Nat) (v : Byte) : State :=
  let s := (s.settle pa).touchBelow part pa
  if isLpddr pa then
    if (s.part part).domain.slices ≠ 0 then { s with l2 := Cells.put s.l2 pa v }
    else if layWays (s.part part).laydiv ≠ 0 then { s with ways := Cells.put s.ways pa v, l2 := Cells.del s.l2 pa 1 }
    else { s with mem := s.mem.write pa v, ways := Cells.del s.ways pa 1, l2 := Cells.del s.l2 pa 1 }
  else ({ s with mem := s.mem.write pa v } : State).accept pa

def State.putCache (s : State) (core pa : Nat) (v : Byte) : State := { s with dcache := Cells.put s.dcache (cacheKey core pa) v }

/-- Write back the dirty bytes of a core's data cache in a physical range; the lines stay, clean, and the owner records of those written
back are cleared (R269). -/
def State.writeBack (s : State) (part core lo n : Nat) : State :=
  let out := Cells.within s.dcache (cacheKey core lo) n
  let s : State :=
    { s with
      dcache := Cells.del s.dcache (cacheKey core lo) n,
      owners := s.owners.filter (fun o => !(o.2 == core && out.any (fun c => (c.1 - core * 2 ^ 56) / 64 == o.1))) }
  out.foldl (fun s c => let pa := c.1 - core * 2 ^ 56; s.putBelow (s.linePart .core (pa / 64) part) pa c.2) s

/-- R282: a release of cluster scope or wider writes back every dirty line of the core. -/
def State.flushCore (s : State) (part core : Nat) : State := s.writeBack part core 0 (2 ^ 52)

/-- R241: recall a line from every core data cache. -/
def State.recall (s : State) (part pa : Nat) : State :=
  let line := pa / 64 * 64
  let in_ := fun (c : Host.Cell) => decide (line ≤ c.1 % 2 ^ 56) && decide (c.1 % 2 ^ 56 < line + 64)
  let hit := s.dcache.filter in_
  let s : State :=
    { s with
      dcache := s.dcache.filter (fun c => !(in_ c)),
      lines := s.lines.filter (fun x => !(x.level == .core && x.line == pa / 64)),
      owners := s.owners.filter (fun o => !(o.1 == pa / 64 && hit.any (fun c => c.1 / 2 ^ 56 == o.2))) }
  hit.foldl (fun s c => s.putBelow part (c.1 % 2 ^ 56) c.2) s

/-- A write at a scope: at core scope or narrower it stays in the core's data cache; wider, it leaves it. -/
def State.putScoped (s : State) (part core : Nat) (sc : Scope) (pa : Nat) (v : Byte) : State :=
  let s := s.settle pa
  if sc.num ≤ 3 then s.putCache core pa v
  else { s with dcache := Cells.del s.dcache (cacheKey core pa) 1 }.putBelow part pa v

/-- Dirty L2 bytes of a range go to the layer ways, or to memory where the partition has none. -/
def State.wbL2 (s : State) (part lo n : Nat) : State :=
  let out := Cells.within s.l2 lo n
  let s : State := { s with l2 := Cells.del s.l2 lo n }
  out.foldl (fun s c =>
    let p := s.part (s.linePart .l2 (c.1 / 64) part)
    if layWays p.laydiv ≠ 0 then
      { s.touchWay p.part c.1 with ways := Cells.put s.ways c.1 c.2 }
    else { s with mem := s.mem.write c.1 c.2, ways := Cells.del s.ways c.1 1 }) s

/-- Dirty way bytes of a range go to memory. -/
def State.wbWays (s : State) (lo n : Nat) : State :=
  let out := Cells.within s.ways lo n
  let s : State := { s with ways := Cells.del s.ways lo n }
  out.foldl (fun s c => { s with mem := s.mem.write c.1 c.2 }) s

/-- Lines that compete for one place: a data cache, a slice, a set of a way bank (R197). -/
def CacheLine.rival (x y : CacheLine) : Bool :=
  x.level == y.level && x.home == y.home && (x.level != .way || x.line % 32768 == y.line % 32768)

/-- How many of them the place holds: 128 KiB, 4 MiB, WAYS (R191, R197). -/
def State.room (s : State) (x : CacheLine) : Nat :=
  match x.level with
  | .core => 2048
  | .l2 => 65536
  | .way => layWays (s.part x.part).laydiv

/-- A line leaves its level, its dirty bytes to the next. -/
def State.evictLine (s : State) (x : CacheLine) : State :=
  let s :=
    match x.level with
    | .core => s.writeBack x.part x.home (x.line * 64) 64
    | .l2 => s.wbL2 x.part (x.line * 64) 64
    | .way => s.wbWays (x.line * 64) 64
  { s with lines := s.lines.filter (fun y => y != x) }

/-- The lines for which there is no room, used longest ago (log entry 6). -/
def State.overflow (s : State) : List CacheLine :=
  (s.lines.zipIdx.filter (fun p => decide (s.room p.1 ≤ ((s.lines.take p.2).filter (fun y => y.rival p.1)).length))).map (fun p => p.1)

def State.evict (s : State) : State := s.overflow.foldl State.evictLine s

/-! ### Translation (R173, R198 to R200) -/

def causeIllegal : Nat := 0
def causePriv : Nat := 1
def causeTarget : Nat := 2
def causeAlign : Nat := 3
def causeXlate : Nat := 4
def causeAccess : Nat := 5
def causeLockhit : Nat := 6
def causeFewait : Nat := 7
def causeMeetpart : Nat := 8
def causeBudget : Nat := 9
def causeBarerr : Nat := 15
def causeLadtop : Nat := 16
def causeStack : Nat := 14
def causeBkpt : Nat := 17
def causeRecfull : Nat := 18
def causeSwtrap (n : Nat) : Nat := 24 + n

def canonical (va : Nat) : Bool := va < 2 ^ 56 || (2 ^ 64 - 2 ^ 56 ≤ va && va < 2 ^ 64)

def State.granted (s : State) (part pa n : Nat) : Bool :=
  (s.part part).grants.any (fun g => g.1 ≤ pa && pa + n ≤ g.1 + g.2)

def State.entryAt (s : State) (pa : Nat) : Nat := ofBytes ((List.range 8).map (fun k => s.below (pa + k)))

/-- The bits of an entry that must be zero: [63:52] (R198). -/
def entryReserved (e : Nat) : Bool := e / 2 ^ 52 != 0
def entryPa (e : Nat) : Nat := e / 2 ^ 12 % 2 ^ 40 * 2 ^ 12

/-- A group of 16 leaves is whole: each valid, SZ set, with consecutive frames from an aligned first frame. -/
def State.groupWhole (s : State) (table idx unit : Nat) : Bool :=
  let base := idx / 16 * 16
  let e0 := s.entryAt (table + 8 * base)
  entryPa e0 % (16 * unit) == 0 &&
  (List.range 16).all (fun k =>
    let e := s.entryAt (table + 8 * (base + k))
    e % 2 == 1 && e / 32 % 2 == 1 && e / 2 % 2 == 1 && !entryReserved e && entryPa e == entryPa e0 + k * unit)

/-- The walk of R198 from table t at level l, which no closed Vat part serves (R346); `fuel` is the number of levels left. -/
def State.walk (s : State) (part va : Nat) (t l : Nat) : Nat → Option Leaf
  | 0 => none
  | fuel + 1 =>
    let idx := va / 2 ^ (48 - 9 * l) % 512
    if !(s.granted part t 4096) || s.vatClosed (t + 8 * idx) then none
    else
      let e := s.entryAt (t + 8 * idx)
      let lf := e / 2 % 2 == 1
      let sz := e / 32 % 2 == 1
      if e % 2 = 0 ∨ entryReserved e = true then none
      else if l = 4 ∨ lf = true then
        if l < 2 ∨ (l = 4 ∧ lf = false) then none
        else if l = 2 ∧ sz = true then none
        else
          let unit := 2 ^ (48 - 9 * l)
          let size := if sz then 16 * unit else unit
          if entryPa e % unit ≠ 0 then none
          else if sz ∧ !(s.groupWhole t idx unit) then none
          else
            some { va := va / size * size, size := size, pa := (if sz then entryPa e - idx % 16 * unit else entryPa e),
                   w := e / 8 % 2 == 1, x := e / 16 % 2 == 1, raw := BitVec.ofNat 64 e }
      else if sz = true then none
      else State.walk s part va (entryPa e) (l + 1) fuel

/-- The TLBs that a core's accesses look up: its own if it is a wide core, then its die's (R199). -/
def tlbsOf (core : Nat) : List Nat := if isControl core then [160 + dieOfCore core] else [core, 160 + dieOfCore core]

/-- The leaf that a TLB holds for an address. -/
def State.tlbLeaf (s : State) (part va home : Nat) : Option Leaf :=
  (s.tlbs.find? (fun e => e.home == home && e.part == part && e.leaf.va ≤ va % 2 ^ 57 && va % 2 ^ 57 < e.leaf.va + e.leaf.size)).map (fun e => e.leaf)

/-- The leaf of a canonical address for a core: from its TLBs, else from a walk (log entry 7). -/
def State.leafOf (s : State) (part core va : Nat) : Option Leaf :=
  match (tlbsOf core).findSome? (s.tlbLeaf part va) with
  | some l => some l
  | none => s.walk part (va % 2 ^ 57) (s.part part).root 0 5

/-- Entries of a TLB (R199). -/
def tlbRoom (home : Nat) : Nat := if home < 128 then 64 else 8192

/-- A leaf put into a TLB, in place of the oldest where it is full. -/
def State.addTlb (s : State) (part : Nat) (l : Leaf) (home : Nat) : State :=
  if (s.tlbLeaf part l.va home).isSome then s
  else
    { s with tlbs := { home := home, part := part, leaf := l } :: ((s.tlbs.filter (fun e => e.home == home)).take (tlbRoom home - 1) ++
        s.tlbs.filter (fun e => e.home != home)) }

/-- The tables that a walk reads, from table t at level l: banks and columns that hold them wake (R403). -/
def State.walkTables (s : State) (va : Nat) (t l : Nat) : Nat → List Nat
  | 0 => []
  | fuel + 1 =>
    let e := s.entryAt (t + va / 2 ^ (48 - 9 * l) % 512 * 8)
    if e % 2 = 0 ∨ e / 2 % 2 = 1 ∨ l = 4 then [t] else t :: State.walkTables s va (entryPa e) (l + 1) fuel

/-- A walk wakes what holds its tables (R403). -/
def State.walkWakes (s : State) (part va : Nat) : State := (s.walkTables (va % 2 ^ 57) (s.part part).root 0 5).foldl State.wakeAt s

/-- What a core's look-up of an address wakes: nothing where its TLBs hold the leaf. -/
def State.lookUp (s : State) (part core va : Nat) : State :=
  if ((tlbsOf core).findSome? (s.tlbLeaf part va)).isSome then s else s.walkWakes part va

/-- Keep a leaf that an access of a core used (R199). -/
def State.keepLeaf (s : State) (part core va : Nat) (l : Leaf) : State :=
  let s := s.lookUp part core va
  (tlbsOf core).foldl (fun s h => s.addTlb part l h) s

/-- The bank part of an address is neither the ways nor the shadow store (R196). -/
def bankPartOk (laydiv : Word) (pa : Nat) : Bool :=
  !isBank pa ||
    decide (pa % 0x2000000 < 0x2000000 - layWays laydiv * 0x200000 - layShadow laydiv * 0x80000)

/-- Kinds of access to a page. -/
inductive Acc where
  | read | write | fetch
deriving DecidableEq, Repr

/-- A physical address belongs to another partition (R23). -/
def State.foreign (s : State) (part pa n : Nat) : Bool :=
  s.parts.any (fun p => p.part != part && p.grants.any (fun g => decide (g.1 < pa + n) && decide (pa < g.1 + g.2)))

/-- Orders 2, 5 and 6 of R175 for n bytes inside one page that a core accesses: the cause, or the leaf and the physical address. -/
def State.page (s : State) (part core va n : Nat) (a : Acc) : Except Nat (Leaf × Nat) :=
  if !canonical va then .error causeXlate
  else
    match s.leafOf part core va with
    | none => .error causeXlate
    | some l =>
      let pa := l.pa + (va % 2 ^ 57 - l.va)
      if !exists? pa then .error causeXlate
      else if a = .write ∧ l.w = false then .error causeAccess
      else if a = .fetch ∧ l.x = false then .error causeAccess
      else if !(s.granted part pa n) || s.foreign part pa n then .error causeAccess
      else if !(bankPartOk (s.part part).laydiv pa) || s.vatClosed pa then .error causeAccess
      else .ok (l, pa)

/-! ### Range locks (R176, R219) -/

def Rng.overlaps (a b : Rng) : Bool :=
  a.sp == b.sp && a.owner == b.owner && decide (a.lo < b.lo + b.len) && decide (b.lo < a.lo + a.len)

/-- An entry counts on a die where it stands or is mirrored. -/
def LockOp.onDie (l : LockOp) (d : Nat) : Bool := l.die == d || l.mirror

/-- R176: a load conflicts with destinations, a store with both. -/
def State.lockHit (s : State) (die part : Nat) (r : Rng) (store : Bool) : Bool :=
  decide (0 < r.len) &&
  s.locks.any (fun l =>
    l.part == part && l.onDie die && (l.dst.any (fun x => x.overlaps r) || (store && l.src.any (fun x => x.overlaps r))))

/-- Ranges of `.chip` and `.glob` belong to the partition; those of the explicit spaces to their group or set. -/
def chipDie (a : Nat) : Nat := a / 2 ^ 24 % 2

/-! ### Addresses of a thread's accesses (R168 to R175) -/

/-- Where an access goes: a location below the caches that only it addresses, or a global physical address. -/
inductive Where where
  | own (loc : Nat)
  | phys (pa : Nat)
deriving DecidableEq, Repr

/-- The engine space and owner against which a thread's access is checked; lane memory is never locked. -/
def State.rngOf (s : State) (r : Ref) (sp : Space) (ea n : Nat) : Option Rng :=
  match sp with
  | .lane => none
  | .core => some { sp := .core, owner := r.1, lo := ea, len := n }
  | .cmem => some { sp := .cmem, owner := (s.group r.1).cset.getD 0, lo := ea, len := n }
  | .chip => some { sp := .chip, owner := 0, lo := ea, len := n }
  | .glob => some { sp := .glob, owner := 0, lo := ea, len := n }

/-- Size of the cluster memory of a thread's set; 0 without one (R171). -/
def State.cmemSize (s : State) (g : Nat) : Nat :=
  match (s.group g).cset with
  | some c => if isControl (s.group g).core then 0 else ((s.cset c).map (fun x => x.size)).getD 0
  | none => 0

/-- Orders 2 to 7 of R175 for an access of n bytes aligned to `al` (locks are checked unless `free`): the cause, or the place; a used
leaf is kept in the TLBs, and the line is held in the core's data cache. -/
def State.check (s : State) (r : Ref) (sp : Space) (ea n al : Nat) (store free : Bool) : Except Nat (Where × State) :=
  let g := s.group r.1
  let locked :=
    !free &&
      (match s.rngOf r sp ea n with
       | some x => s.lockHit (dieOfCore g.core) g.part x store
       | none => false)
  if sp = .glob ∧ !canonical ea then .error causeXlate
  else if ea % al ≠ 0 then .error causeAlign
  else
    match sp with
    | .lane =>
      if hdrLane g.hdr < ea + n then .error causeAccess else .ok (.own (locLane r.1 r.2 ea), s)
    | .core =>
      if hdrScratch g.hdr < ea + n then .error causeAccess
      else if locked then .error causeLockhit else .ok (.own (locScratch r.1 ea), s)
    | .cmem =>
      if s.cmemSize r.1 < ea + n then .error causeAccess
      else if locked then .error causeLockhit else .ok (.own (locCmem (g.cset.getD 0) ea), s)
    | .chip =>
      let w := (s.part g.part).window.getD (chipDie ea) (0, 0)
      if 2 ^ 25 ≤ ea ∨ w.2 < ea % 2 ^ 24 + n then .error causeAccess
      else if locked then .error causeLockhit else .ok (.own (locChip (chipDie ea) (w.1 + ea % 2 ^ 24)), s)
    | .glob =>
      match s.page g.part g.core ea n (if store then .write else .read) with
      | .error c => .error c
      | .ok (l, pa) =>
        if locked then .error causeLockhit else .ok (.phys pa, (s.keepLeaf g.part g.core ea l).touch g.part g.core pa)

/-- The physical address of a place, if it has one. -/
def Where.pa : Where → Option Nat
  | .own _ => none
  | .phys pa => some pa

/-- A place as a location, and a location as a place: physical addresses lie below 2^52. -/
def Where.loc : Where → Nat
  | .own l => l
  | .phys pa => pa
def placeOf (loc : Nat) : Where := if loc < 2 ^ 52 then .phys loc else .own loc

/-- n bytes at a place as a core reads them. -/
def State.readAt (s : State) (core : Nat) (w : Where) (n : Nat) : List Byte :=
  match w with
  | .own loc => s.mem.readN loc n
  | .phys pa => (List.range n).map (fun k => s.seen core (pa + k))

/-- A thread's write to a layer concerns the write buffer of its bank or column (R276). -/
def State.lay (s : State) (r : Ref) (w : Where) : State :=
  match w.pa.bind bufferOf with
  | some b => s.upd r (fun t => { t with laid := if t.laid.contains b then t.laid else b :: t.laid })
  | none => s

/-- Bytes stored at a place by a core, at a scope. -/
def State.writeAt (s : State) (part core : Nat) (sc : Scope) (w : Where) (bs : List Byte) : State :=
  match w with
  | .own loc => { s with mem := s.mem.writeN loc bs }
  | .phys pa =>
    (List.range bs.length).foldl (fun s k => s.putScoped part core sc (pa + k) (bs.getD k 0)) s

/-! ### Free values -/

/-- A value that the spec leaves open (log entry 10). -/
def State.freeVal (s : State) : DWord := Config.freeWord s.draws
/-- The next free value is another one. -/
def State.drawn (s : State) : State := { s with draws := s.draws + 1 }

/-! ### Nodes and record slots (R404, R415 to R417) -/

def State.node (s : State) (die part id : Nat) : Option Node :=
  s.nodes.find? (fun n => n.die == die && n.part == part && n.id == id)
def State.updNode (s : State) (die part id : Nat) (f : Node → Node) : State :=
  { s with nodes := s.nodes.map (fun n => if n.die == die && n.part == part && n.id == id then f n else n) }
def Node.setSlot (n : Node) (k : Nat) (x : SlotSt) : Node := { n with slots := n.slots.set k x }

/-! ### Releases, owners and promotion (R269, R270, R282) -/

/-- A release of cluster scope or wider writes back the core's dirty lines. -/
def State.release (s : State) (r : Ref) (sc : Scope) : State :=
  if 4 ≤ sc.num then s.flushCore (s.partOf r) (s.coreOf r) else s

/-- The owner record of a global line after a release or atomic at a scope (R269). -/
def State.ownLine (s : State) (core : Nat) (sc : Scope) (w : Where) : State :=
  match w with
  | .own _ => s
  | .phys pa =>
    let rest := s.owners.filter (fun o => o.1 != pa / 64)
    if 2 ≤ sc.num ∧ sc.num ≤ 4 then { s with owners := (pa / 64, core) :: rest }
    else if 5 ≤ sc.num then { s with owners := rest } else s

/-- Remote-scope promotion: the owner's writes are performed, then the record is cleared (R270). -/
def State.promote (s : State) (part : Nat) (w : Where) : State :=
  match w with
  | .own _ => s
  | .phys pa =>
    match s.owners.find? (fun o => o.1 == pa / 64) with
    | some o =>
      let s := s.flushCore part o.2
      { s with owners := s.owners.filter (fun o => o.1 != pa / 64) }
    | none => s

/-! ### Full/empty words (R186, R187) -/

/-- A number put into, or taken out of, an ascending list without repeats. -/
def insertNat (x : Nat) : List Nat → List Nat
  | [] => [x]
  | y :: ys => if x < y then x :: y :: ys else if x = y then y :: ys else y :: insertNat x ys

def State.isFull (s : State) (loc : Nat) : Bool := s.full.contains loc
def State.setFull (s : State) (loc : Nat) (b : Bool) : State :=
  { s with full := if b then insertNat loc s.full else s.full.filter (· != loc) }

/-- Serve the waiting requests of a word: in order of arrival, those that need the state in which it stands (R187, log entry 13); `fuel`
bounds their number. -/
def State.serveWord (s : State) (loc : Nat) : Nat → State
  | 0 => s
  | fuel + 1 =>
    match s.feQueue.find? (fun q => q.loc == loc && q.ste.isNone == s.isFull loc) with
    | none => s
    | some q =>
      let full := s.isFull loc
      let gone : State := { s with feQueue := s.feQueue.erase q }
      let done := fun (s : State) => (s.upd (q.gid, q.tid) (fun t => { t with park := .ready })).serveWord loc fuel
      match q.ste with
      | some w => if full then s else done (({ gone with mem := gone.mem.writeN loc (bytesOfWord w) } : State).setFull loc true)
      | none =>
        if full then
          let w : Word := BitVec.ofNat 32 (ofBytes (s.mem.readN loc 4))
          let s1 := gone.upd (q.gid, q.tid) (fun t => t.setReg q.d w)
          done (if q.take then s1.setFull loc false else s1)
        else s

/-! ### Causes, exception entry and return (R419 to R424, R437, R438) -/

def causeBit (c : Nat) : DWord := BitVec.ofNat 64 (2 ^ c)

def State.setCause (s : State) (r : Ref) (c : Nat) : State := s.updWaveOf r (fun w => { w with cause := w.cause ||| causeBit c })

/-- The wave's enables hold the cause and the thread is not in handler mode. -/
def State.enters (s : State) (r : Ref) (c : Nat) : Bool := (s.waveOf r).tmask &&& causeBit c != 0 && !(s.thread r).handler

/-! ### The journal (R388, R389) -/

/-- Bytes written at a physical address below the caches, visible at `.sys`. -/
def State.writeSys (s : State) (pa : Nat) (bs : List Byte) : State :=
  let s := (List.range bs.length).foldl (fun s k => s.settle (pa + k)) s
  { s with mem := s.mem.writeN pa bs, l2 := Cells.del s.l2 pa bs.length, ways := Cells.del s.ways pa bs.length,
           dcache := s.dcache.filter (fun c => !(pa ≤ c.1 % 2 ^ 56 && c.1 % 2 ^ 56 < pa + bs.length)) }

/-- Form the next entry of a partition's journal: STATE, MBOX, LREF, HASH, HDR, WHY and TRY. Its SEQ is the partition's `jseq`. -/
def State.journal (s : State) (part state mbox lref hash hdrPa why try_ : Nat) : State :=
  let p := s.part part
  let w4 := try_ * 2 ^ 20 + state * 2 ^ 16 + mbox
  let bytes := toBytes 8 p.jseq ++ toBytes 8 s.dtb ++ toBytes 4 w4 ++ toBytes 4 lref ++ toBytes 8 hash ++ toBytes 8 hdrPa ++
    toBytes 4 why ++ List.replicate 20 0
  (s.writeSys (p.jbase + p.jseq % 2 ^ p.jlog * 64) bytes).updPart part (fun p => { p with jseq := p.jseq + 1 })

def noRef : Nat := 0xFFFFFFFF
def noMbox : Nat := 0xFFFF

/-! ### The halt line (R429, R430) and killing a group (R431) -/

/-- Identifier and predecessors of a command. -/
def cmdKey : Instr → Option Cmd
  | .mldw k _ _ _ _ _ | .mswap k | .mstr k _ _ _ _ _ | .mzero k _ _ | .maccld k _ _ _ | .maccst k _ _ _ | .mepi k _ _ _ _ _ _
  | .mbar k _ _ | .mwaitb k _ _ | .mend k | .mlad k _ _ _ _ _ _ | .mscan k _ _ _ _ _ _ => some k
  | _ => none

/-- An operation that writes a stop record: a copy or a box (R432). -/
def LockOp.recorded (l : LockOp) : Bool :=
  match l.kind with
  | .copy | .copyT _ _ | .box _ _ => true
  | .rowput _ _ | .draw _ _ | .path _ _ | .ring _ _ => false

/-- The address of the next element of a tensor, of `total` in all, once k of them have been moved. -/
def tenNext (w : List Word) (sp : ESpace) (q : Nat → Nat) (n total k : Nat) : Nat :=
  if k < total then tenAddr w sp (tenCoord w q k) else tenAddr w sp (tenCoord w q (total - 1)) + n

/-- Where an operation stands in its source and in its destination: the next byte of a range or of a ring's slot, the next element of a tensor
(R432). -/
def State.opNext (s : State) (l : LockOp) : Nat × Nat :=
  let flat := fun (x : List Rng) => ((x.head?).map (fun y => y.lo + l.done)).getD 0
  let elem := fun (w : List Word) (q : Nat → Nat) =>
    match tenFormat w, tenEngSpace w with
    | some f, some sp => tenNext w sp q (f.width / 8) (tenBoxSize w) (l.done / (f.width / 8))
    | _, _ => 0
  match l.kind with
  | .copyT dr sr => (elem sr noBoxes, elem dr noBoxes)
  | .box e j =>
    let c := s.ctx l.core l.part
    match (if e then c.eng1 else c.eng0) with
    | none => (flat l.src, flat l.dst)
    | some b => if b.drain then (flat l.src, elem b.tensor (boxIdx b j)) else (elem b.tensor (boxIdx b j), flat l.dst)
  | .copy | .rowput _ _ | .draw _ _ | .path _ _ | .ring _ _ => (flat l.src, flat l.dst)

/-- The stop record of a copy or a box as it stands (R432): its kind, whether it is complete, its tag, what it has moved, its spaces and its
place in each. -/
def State.opStop (s : State) (l : LockOp) : StopRec :=
  let sp := fun (x : List Rng) => ((x.head?).map (fun y => (ESpace.code y.sp).toNat)).getD 0
  let at_ := s.opNext l
  { gid := l.gid, kind := match l.kind with | .copy => 1 | .copyT _ _ => 2 | _ => 3, state := if l.len ≤ l.done then 2 else 0, core := l.core,
    part := l.part, idt := l.tag, group := (s.group l.gid).index % 2 ^ 32, snext := BitVec.ofNat 64 at_.1, dnext := BitVec.ofNat 64 at_.2,
    done := l.done, total := l.len, ssp := sp l.src, dsp := sp l.dst, scope := l.scope.num, rung := 0,
    unit := match l.kind with | .box _ j => j | _ => 0, time := s.dtb }

/-- Rows that a command completes in all, and those it has completed: a ladder command counts the rows of its accepted tiles of sixteen
(R319, R432). -/
def WinCmd.rowsAll (c : WinCmd) : Nat := match c.ins, c.prog with | .mstr _ _ _ _ _ m, some _ => m.toNat + 1 | _, _ => c.total
def WinCmd.rowsDone (c : WinCmd) : Nat :=
  match c.ins, c.prog with
  | .mstr _ _ _ _ _ m, some p => Nat.min (16 * p.tile) (m.toNat + 1)
  | _, _ => c.rows

/-- The stop record of a matrix command of a group (R432). Its addresses, spaces and scope stay 0: the spec names none for a command (log
entry 16). -/
def State.cmdStop (s : State) (g : Group) (c : WinCmd) : StopRec :=
  { gid := g.gid, kind := 4, state := if 0 < c.rowsAll ∧ c.rowsAll ≤ c.rowsDone then 2 else 0, core := g.core, part := g.part,
    idt := ((cmdKey c.ins).map (fun k => k.id.toNat)).getD 0,
    group := g.index % 2 ^ 32, snext := 0, dnext := 0, done := c.rowsDone, total := c.rowsAll, ssp := 0, dsp := 0, scope := 0,
    rung := (c.prog.map (fun p => p.rung)).getD 0, unit := (c.prog.map (fun p => p.tile)).getD 0, time := s.dtb }

/-- The stop records of the operations of a partition in flight on the cores that `on` names: copies, boxes, and commands that have
issued and not retired (R426 step 3, R430 step 3, R432). -/
def State.stopsOf (s : State) (part : Nat) (on : Nat → Bool) : List StopRec :=
  (s.locks.filter (fun l => l.part == part && on l.core && l.recorded)).map s.opStop ++
  (s.groups.filter (fun g => g.part == part && on g.core)).flatMap (fun g =>
    ((g.stream.map (fun m => m.window.filter (fun c => c.issued))).getD []).map (s.cmdStop g))

/-- R362: the partition's OPEN draw and path slots become BROKEN, and their locks are released. -/
def State.breakSlots (s : State) (part : Nat) : State :=
  let hit := fun (q : Nat) (st : FixSt) => q == part && st == .opened
  let gone := (s.dies.map (fun (d : Die) =>
    (d.draws.filter (fun w => hit w.part w.st)).map (fun w => w.lock) ++ (d.paths.filter (fun w => hit w.part w.st)).map (fun w => w.lock))).flatten
  { s with
    locks := s.locks.filter (fun l => !(gone.contains l.id)),
    dies := s.dies.map (fun (d : Die) =>
      { d with draws := d.draws.map (fun w => if hit w.part w.st then { w with st := .broken, tris := [], emit := [] } else w),
               paths := d.paths.map (fun w => if hit w.part w.st then { w with st := .broken } else w) }) }

/-- The halt line rises over a group: the partition's issue stops until it resumes; with code 5 until reset (R429, R430). A fault met
while it already stands adds nothing (R430 step 2). -/
def State.raiseHalt (s : State) (part code core gid : Nat) : State :=
  if (s.part part).contained then s
  else
    (s.breakSlots part).updPart part (fun p =>
      { p with halts := (p.halts + 1) % 2 ^ 48, haltCode := code, haltTime := s.dtb, haltNow := [s.dieClk 0, s.dieClk 1, s.now], haltCore := core,
               haltGroup := (s.group gid).index % 2 ^ 32, haltGid := gid,
               contained := true, stopped := decide (code = 5), stops := s.stopsOf part (fun _ => true) })

/-- Lower a tag's count without setting its bit (R238, a killed operation). -/
def Ctx.dropTag (c : Ctx) (tag : Nat) : Ctx := { c with tagCnt := c.tagCnt.set tag (c.tagCnt.getD tag 0 - 1) }

/-- R225: an operation on the tag completes. -/
def Ctx.completeTag (c : Ctx) (tag : Nat) : Ctx :=
  let n := c.tagCnt.getD tag 0 - 1
  { c with tagCnt := c.tagCnt.set tag n, ctag := if n = 0 then c.ctag ||| BitVec.ofNat 64 (2 ^ tag) else c.ctag }

/-- The engine operations of a group are abandoned (R238, R431), those of a saved context too; on a halt their stop records say so (R432). -/
def State.abandonOps (s : State) (g : Nat) : State :=
  let mine := (s.locks ++ s.regQueue.filter (fun l => l.again)).filter (fun l => l.gid == g && (l.kind matches .copy | .copyT _ _))
  let s := mine.foldl (fun s l => s.updCtx l.core l.part (fun c => c.dropTag l.tag)) s
  let s := s.updPart (s.group g).part (fun p =>
    if p.contained then { p with stops := p.stops.map (fun x => if x.gid = g ∧ x.state = 0 then { x with state := 1 } else x) } else p)
  { s with locks := s.locks.filter (fun l => l.gid != g || (l.kind matches .ring _ _)),
           regQueue := s.regQueue.filter (fun l => l.gid != g) }

/-- An engine of a killed group is freed; one that has not finished falls out of its tag's count (R238). -/
def Ctx.freeEng (c : Ctx) (e : Option SeBind) (g : Nat) : Ctx :=
  match e with
  | some b => if b.gid = g ∧ b.finished < b.total then c.dropTag b.tag else c
  | none => c

/-- Free what a group holds on its core: barriers, ranges and engines (R82, R431). -/
def State.freeCore (s : State) (g : Nat) : State :=
  let x := s.group g
  s.updCtx x.core x.part (fun c =>
    let c := (c.freeEng c.eng0 g).freeEng c.eng1 g
    { c with bars := c.bars.filter (fun b => b.owner != g), ranges := c.ranges.filter (fun q => q.owner != g),
             eng0 := c.eng0.filter (fun e => e.gid != g), eng1 := c.eng1.filter (fun e => e.gid != g) })

/-- A blend record that writes nothing. -/
def blendNone : List Word := List.replicate 8 0

/-- R374: a fragment whose record lay in a released slot is answered by the release, if nothing has answered it. -/
def Frag.release (f : Frag) (node slot : Nat) : Frag :=
  if f.home = some (node, slot) ∧ f.ans = none then { f with ans := some blendNone } else f

def DrawSlot.release (w : DrawSlot) (part node slot : Nat) : DrawSlot :=
  if w.part = part then
    { w with noted := w.noted || w.frags.any (fun f => f.home == some (node, slot) && f.ans.isNone),
             frags := w.frags.map (fun f => f.release node slot) }
  else w

/-- The fragment of a released record is answered, if nothing has answered it (R374). -/
def State.answerSlot (s : State) (die part node slot : Nat) : State :=
  s.updDie die (fun d => { d with draws := d.draws.map (fun w => w.release part node slot) })

/-- The header of a released slot is empty again (R417). -/
def State.emptySlot (s : State) (die part node slot : Nat) : State :=
  s.updNode die part node (fun n => if n.slots[slot]? = some .taken then n.setSlot slot .empty else n)

/-- A record is released by its consumer: its fragment is answered, and its slot is empty (R374, R417). -/
def State.releaseSlot (s : State) (die part node slot : Nat) : State := (s.answerSlot die part node slot).emptySlot die part node slot

/-- A reserved slot returns to empty, unless its binding is gone (R416). -/
def State.dropHold (s : State) (die part : Nat) (h : RecHold) : State :=
  s.updNode die part h.node (fun n => if n.lock = h.lock then n.setSlot h.slot .empty else n)

/-- A RECRD of the thread has not completed. -/
def Thread.reading (t : Thread) : Bool := t.loads.any (fun o => o matches .record _ _)

/-- Return the record slots a group's threads reserved; release those that it took as a node launch, unless it is relaunched, and those whose
release waited for a RECRD (R416, R417, R431). -/
def State.freeRecords (s : State) (g : Nat) (keepTaken : Bool) : State :=
  let x := s.group g
  let d := dieOfCore x.core
  let mine := s.threads.filter (fun t => t.gid == g)
  let s := s.updDie d (fun y => { y with blendRes := y.blendRes.filter (fun b => b.gid != g) })
  let s := (mine.flatMap (fun t => t.holds)).foldl (fun s h => s.dropHold d x.part h) s
  ((mine.filter (fun t => if t.recDone then t.reading else !keepTaken)).filterMap (fun t => t.record)).foldl (fun s h => s.releaseSlot d x.part h.1 h.2) s

/-- Take a group off its core with its threads and waves. -/
def State.removeGroup (s : State) (g : Nat) : State :=
  { s with groups := s.groups.filter (fun x => x.gid != g), threads := s.threads.filter (fun t => t.gid != g),
           waves := s.waves.filter (fun w => w.gid != g),
           waiting := (s.waiting.map (fun b => { b with refs := b.refs.filter (fun r => r.1 != g) })).filter (fun b => !b.refs.isEmpty),
           feQueue := s.feQueue.filter (fun q => q.gid != g),
           mailQueue := s.mailQueue.filter (fun q => q.1 != g) }

def State.launchOf (s : State) (id : Nat) : Option Launch := s.launches.find? (fun l => l.id == id)
def State.updLaunch (s : State) (id : Nat) (f : Launch → Launch) : State :=
  { s with launches := s.launches.map (fun l => if l.id == id then f l else l) }

/-- Nothing of a launch is resident or still to be placed. -/
def Launch.over (l : Launch) : Bool := l.live == 0 && decide (l.total ≤ l.next) && l.requeue.isEmpty

/-- What the end of a node launch does: its node runs one less, and a sample wave's header is empty again (R405). -/
def State.nodeEnd (s : State) (l : Launch) : State :=
  match l.die, l.node with
  | some d, some n =>
    let s := s.updNode d l.part n (fun y => { y with running := y.running - 1 })
    if n = 1022 then l.recs.foldl (fun s k => s.updNode d l.part n (fun y => y.setSlot k .empty)) s else s
  | _, _ => s

/-- The end of a launch: its producer count falls (R405), and it is retired, or failed before (R389, R431). A node launch and a resident
program have no retired entry. -/
def State.launchEnd (s : State) (l : Launch) : State :=
  let s : State := { s with launches := s.launches.filter (fun x => x.id != l.id) }
  if l.node.isSome then s.nodeEnd l
  else
    let s := s.updPart l.part (fun p => { p with refs := p.refs.map (fun j => if j.lid == l.id then { j with ended := true } else j) })
    let s : State := { s with nodes := s.nodes.map (fun n =>
      if n.part == l.part && l.raised.contains n.lref then { n with producers := n.producers - 1 } else n) }
    if l.failed || l.resident then s
    else if l.why8 then s.journal l.part 3 noMbox (l.seq % 2 ^ 32) 0 0 8 0
    else s.journal l.part 2 noMbox (l.seq % 2 ^ 32) 0 0 0 0

/-- A launch whose last group is gone ends. -/
def State.launchCheck (s : State) (id : Nat) : State :=
  match s.launchOf id with
  | some l => if l.over then s.launchEnd l else s
  | none => s

/-- A launch has one resident group less. -/
def State.launchLess (s : State) (id : Nat) : State := (s.updLaunch id (fun l => { l with live := l.live - 1 })).launchCheck id

/-- A resident group of a cluster set is gone; the last one frees the set's memory and barriers (R82, R252). -/
def State.csetLess (s : State) (c : Nat) : State :=
  let left := ((s.cset c).map (fun y => y.groups - 1)).getD 0
  if left = 0 then
    { s with csets := s.csets.filter (fun (y : CSet) => y.id != c), cbars := s.cbars.filter (fun (b : Nat × Bar) => b.2.owner != c) }
  else { s with csets := s.csets.map (fun (y : CSet) => if y.id == c then { y with groups := left } else y) }

/-- A slot is FREE; it keeps its partition (R361). -/
def DrawSlot.freed (w : DrawSlot) : DrawSlot := { w with st := .free, tris := [], emit := [], frags := [], fail := none }
def PathSlot.freed (w : PathSlot) : PathSlot := { w with st := .free, rule := none, pending := [] }

/-- Segments of a path in a thread's stores. -/
def Thread.curves (t : Thread) (lock : Nat) : List (CKind × List Word) :=
  t.stores.filterMap (fun o => match o with | .curve p k b => if p = lock then some (k, b) else Option.none | _ => Option.none)

/-- Free the draw and path slots of a killed group (17); the segments that it registered with other groups' paths stay registered (R379). -/
def State.freeSlots (s : State) (g : Nat) : State :=
  let mine := s.threads.filter (fun t => t.gid == g)
  { s with dies := s.dies.map (fun (d : Die) =>
      { d with draws := d.draws.map (fun w => if w.owner = g then w.freed else w),
               paths := d.paths.map (fun w =>
                 if w.owner = g then w.freed else { w with pending := w.pending ++ mine.flatMap (fun t => t.curves w.lock) }) }) }

/-- A killed group goes back to the head of its queue for a relaunch; its launched entry names the launch too (R412, R431). -/
def State.requeue (s : State) (x : Group) : State :=
  let mine := (s.launches.filter (fun l => l.id == x.lid)).map (fun l =>
    { l with requeue := (x.index, x.tries + 1) :: l.requeue, live := l.live - 1 })
  let s : State := { s with launches := mine ++ s.launches.filter (fun l => l.id != x.lid) }
  let seq := (s.part x.part).jseq
  let va := ((mine.head?).map (fun l => l.hdrVa)).getD 0
  (s.updPart x.part (fun p => { p with refs := p.refs ++ [{ seq := seq, lid := x.lid, ended := false }] })).journal x.part 1 noMbox
    (x.lref % 2 ^ 32) (sha3Low ((x.hdr.map bytesOfWord).flatten)).toNat va.toNat 0 (x.tries + 1)

/-- A killed group is not relaunched: the launch has one failed entry, whichever of its groups is killed first (R431, R448). -/
def State.failLaunch (s : State) (x : Group) (note : Bool) : State :=
  let first := ((s.launchOf x.lid).map (fun l => !l.failed)).getD true
  let s := s.updLaunch x.lid (fun l => { l with failed := true })
  let s := if note && first then s.journal x.part 3 noMbox (x.lref % 2 ^ 32) 0 0 5 0 else s
  s.launchLess x.lid

/-- One group is killed (R431). `again` allows a relaunch of an idempotent group; `note` forms the failed entry of one that is not
relaunched. -/
def State.killOne (s : State) (g : Nat) (again note : Bool) : State :=
  let x := s.group g
  if !(s.groups.any (fun y => y.gid == g)) then s
  else
    let re := again && hdrIdem x.hdr && decide (x.tries < hdrRetry x.hdr)
    let s := ((((s.abandonOps g).freeCore g).freeRecords g re).freeSlots g).removeGroup g
    let s := match x.cset with
      | none => s
      | some c => s.csetLess c
    if re then s.requeue x else s.failLaunch x note

/-- A killed group of a cluster set kills the whole set (R431). -/
def State.killGroup (s : State) (g : Nat) (again note : Bool) : State :=
  match (s.group g).cset with
  | none => s.killOne g again note
  | some c => ((s.groups.filter (fun x => x.cset == some c)).map (fun x => x.gid)).foldl (fun s k => s.killOne k again note) s

/-- R422: taking the exception at an issue boundary, for a thread whose wave has an enabled cause. The thread's pc is the address
that the cause's rule gives. -/
def State.enterHandler (s : State) (r : Ref) : State :=
  let g := s.group r.1
  if hdrHandler g.hdr = 0 then
    if g.priv then s.raiseHalt g.part 5 g.core r.1 else s.killGroup r.1 true true
  else
    s.upd r (fun t => { t with tpc := t.pc, handler := true, pc := hdrHandler g.hdr, line := none,
                               park := match t.park with | .unfetched _ => .ready | p => p })

/-- The causes that a handler-mode thread may not raise on its own instruction (R424). -/
def fatalInHandler (c : Nat) : Bool := c ≤ 6 || c == causeStack

/-- Raise a cause on a thread's own instruction: in handler mode R424; else the bit is set, and where the instruction had no effect
(`back`) an enabled cause leaves the thread at its address (R422, log entry 10). -/
def State.raiseAt (s : State) (r : Ref) (c : Nat) (at_ : Option DWord) : State :=
  let s1 := s.setCause r c
  if (s.thread r).handler then
    if fatalInHandler c then
      let g := s.group r.1
      if g.priv then s1.raiseHalt g.part 5 g.core r.1 else s1.killGroup r.1 true true
    else s1
  else
    match at_ with
    | some pc => if s.enters r c then s1.upd r (fun t => { t with pc := pc }) else s1
    | none => s1

/-! ### The end of a thread (R81) -/

/-- The slot of a record that its thread has released is empty once the thread's RECRDs have completed (R417). -/
def State.emptyRecord (s : State) (r : Ref) : State :=
  let t := s.thread r
  match t.record with
  | none => s
  | some (n, k) => if t.recDone && !t.reading then s.emptySlot (s.dieOf r) (s.partOf r) n k else s

/-- The record that a node launch's thread took is released (R417): its fragment is answered at once (R374). -/
def State.dropRecord (s : State) (r : Ref) : State :=
  match (s.thread r).record, (s.thread r).recDone with
  | some (n, k), false =>
    ((s.answerSlot (s.dieOf r) (s.partOf r) n k).upd r (fun t => { t with recDone := true })).emptyRecord r
  | _, _ => s

/-- Reserved record slots return to empty, their records unpublished (R416). -/
def State.dropHolds (s : State) (r : Ref) : State :=
  let hs := (s.thread r).holds
  let s := s.updDie (s.dieOf r) (fun y => { y with blendRes := y.blendRes.filter (fun b => !(b.gid == r.1 && b.tid == r.2)) })
  (hs.foldl (fun s h => s.dropHold (s.dieOf r) (s.partOf r) h) s).upd r
    (fun t => { t with holds := [] })

/-- R81: the thread issues no more; what it has outstanding still completes. -/
def State.endThread (s : State) (r : Ref) : State :=
  ((s.dropRecord r).dropHolds r).upd r (fun t => { t with live := false, handler := false, park := .ready, meet := none, formed := none })

/-! ### The bundle that issues -/

def Bundle.none : Bundle :=
  { core := 0, pc := 0, npc := 0, refs := [], meeting := Option.none, lat := 0, second := false, ins := Option.none }
def State.bnd (s : State) : Bundle := s.bundle.getD Bundle.none

/-- A cause on the issuing instruction, which had no effect for the thread. -/
def State.fail (s : State) (r : Ref) (c : Nat) : State := s.raiseAt r c (some s.bnd.pc)
/-- A cause on the issuing instruction, which completes. -/
def State.note (s : State) (r : Ref) (c : Nat) : State := s.raiseAt r c none

def Thread.goto (t : Thread) (pc : DWord) : Thread := { t with pc := pc }

/-- One thread of the bundle: its pc moves to the next instruction, and where its guard holds the effect follows (R44). -/
def State.one (g : Guard) (f : State → Ref → State) (s : State) (r : Ref) : State :=
  let t := s.thread r
  if t.live then
    let s := s.upd r (fun t => t.goto s.bnd.npc)
    if guardHolds g t then f s r else s
  else s

/-- Every thread of the bundle in ascending order. -/
def State.each (s : State) (g : Guard) (f : State → Ref → State) : State := s.bnd.refs.foldl (State.one g f) s

/-- A thread parks from now on. -/
def State.parkAs (s : State) (r : Ref) (p : Park) : State :=
  s.upd r (fun t => { t with park := p, parkPc := s.bnd.pc, since := s.rawClk (s.coreOf r), counted := false })
def State.wake (s : State) (r : Ref) : State := s.upd r (fun t => { t with park := .ready })

/-- The threads of the bundle for which its instruction takes effect. -/
def State.acting (s : State) (g : Guard) : List Ref := s.bnd.refs.filter (fun r => (s.thread r).live && guardHolds g (s.thread r))

/-- The bundle is held at its instruction: the threads for which it takes effect wait together, and it goes on from there. -/
def State.holdBundle (s : State) (g : Guard) : State :=
  let t := s.each g (fun t r => t.parkAs r .settle)
  { t with waiting := t.waiting ++ [{ s.bnd with refs := s.acting g }] }

/-- Every thread of the bundle, unless one of them waits for earlier operations (R180, R265, R266): then the whole bundle is held, so that its
threads take effect in ascending `%tid`, and in one step of the machine (log entry 5). -/
def State.eachAfter (s : State) (g : Guard) (wait : State → Ref → Bool) (f : State → Ref → State) : State :=
  if (s.acting g).any (wait s) then s.holdBundle g else s.each g f

/-- The thread counts as parked: not one that an earlier operation or a registration holds at issue (R62, R83, R155, R221). -/
def Park.counts (p : Park) : Bool := !(p matches .ready | .lockReg false | .settle | .tagFull _ | .hitr _ _)

/-- The last n times of a list. -/
def lastTimes (l : List (Nat × Nat)) (n : Nat) : List (Nat × Nat) := l.drop (l.length - n)

def State.pushLoad (s : State) (r : Ref) (l : LoadOp) : State :=
  s.upd r (fun t => { t with ops := t.ops + 1, loads := t.loads ++ [l],
                             loadAt := lastTimes t.loadAt t.loads.length ++ [(s.now + s.bnd.lat, t.ops)] })
def State.pushStore (s : State) (r : Ref) (l : StoreOp) : State :=
  s.upd r (fun t => { t with ops := t.ops + 1, stores := t.stores ++ [l],
                             storeAt := lastTimes t.storeAt t.stores.length ++ [(s.now + s.bnd.lat, t.ops)] })
/-- The oldest load, or store, has had its nominal latency. -/
def State.loadDue (s : State) (t : Thread) : Bool := decide (((lastTimes t.loadAt t.loads.length).headD (0, 0)).1 ≤ s.now)
def State.storeDue (s : State) (t : Thread) : Bool := decide (((lastTimes t.storeAt t.stores.length).headD (0, 0)).1 ≤ s.now)

/-- A thread's outstanding loads, and stores, each with its number in the thread's order of issue. -/
def Thread.loadOps (t : Thread) : List (LoadOp × Nat) := t.loads.zip ((lastTimes t.loadAt t.loads.length).map (fun p => p.2))
def Thread.storeOps (t : Thread) : List (StoreOp × Nat) := t.stores.zip ((lastTimes t.storeAt t.stores.length).map (fun p => p.2))
/-- The oldest outstanding load, and store, with its number. -/
def Thread.loadNo (t : Thread) : Nat := ((lastTimes t.loadAt t.loads.length).headD (0, 0)).2
def Thread.storeNo (t : Thread) : Nat := ((lastTimes t.storeAt t.stores.length).headD (0, 0)).2

/-! ### Operations not yet performed (R180, R244, R254, R265; log entry 5) -/

/-- The location and the bytes that an outstanding load is still to read at its place. -/
def LoadOp.span : LoadOp → Option (Nat × Nat)
  | .atomic _ a => some (a.loc, a.n)
  | .late _ _ _ loc n _ => some (loc, n)
  | .value _ _ | .fetched _ _ _ | .record _ _ | .tagq _ _ _ | .binit _ _ _ _ | .bqry _ _ _ | .trace _ _ _ _ => none

/-- Those that an outstanding store is still to write. -/
def StoreOp.span : StoreOp → Option (Nat × Nat)
  | .red a => some (a.loc, a.n)
  | .write _ _ _ loc bs => some (loc, bs.length)
  | .store _ _ | .tags _ _ _ | .arrive _ _ _ _ _ | .maint _ | .tlbinv _ | .priow _ _ _ _ | .priowWt _ _ | .vput _ _ _ _ | .rowput _ _ _
  | .tri _ _ _ | .curve _ _ _ => none

/-- An outstanding load is an acquire, before which nothing later of its thread is performed (R245, R266). -/
def LoadOp.acquires : LoadOp → Bool
  | .atomic _ a => a.kind == .acq || a.kind == .ar
  | .late _ _ o _ _ _ => o != .plain
  | .value _ _ | .fetched _ _ _ | .record _ _ | .tagq _ _ _ | .binit _ _ _ _ | .bqry _ _ _ | .trace _ _ _ _ => false

def spanMeets (x : Option (Nat × Nat)) (loc n : Nat) : Bool :=
  match x with
  | some y => decide (y.1 < loc + n) && decide (loc < y.1 + y.2)
  | none => false

/-- Of a thread's operations numbered below k, one is an acquire still to be performed, or touches the n bytes at a location (R180, R245). -/
def Thread.behind (t : Thread) (k loc n : Nat) : Bool :=
  t.loadOps.any (fun p => decide (p.2 < k) && (p.1.acquires || spanMeets p.1.span loc n)) ||
  t.storeOps.any (fun p => decide (p.2 < k) && spanMeets p.1.span loc n)

/-- An operation whose effect is still to come: a release of the thread stands behind it (R265). -/
def LoadOp.unperformed (o : LoadOp) : Bool := !(o matches .value _ _ | .fetched _ _ _ | .record _ _)
def StoreOp.unperformed (o : StoreOp) : Bool := !(o matches .store _ _)
def Thread.unperformed (t : Thread) : Bool := t.loads.any LoadOp.unperformed || t.stores.any StoreOp.unperformed

/-- Of the operations that a thread issued before the one numbered k, all have been performed (R245). -/
def Thread.doneBefore (t : Thread) (k : Nat) : Bool :=
  t.loadOps.all (fun p => !(decide (p.2 < k) && p.1.unperformed)) && t.storeOps.all (fun p => !(decide (p.2 < k) && p.1.unperformed))

/-- A thread has earlier operations that are not performed: a release that is no counted operation waits for them (R265, R266). -/
def State.owes (s : State) (r : Ref) : Bool := (s.thread r).unperformed
/-- It has an acquire that is not performed, which all that it does later must follow (R245, R266). -/
def State.acquires (s : State) (r : Ref) : Bool := (s.thread r).loads.any LoadOp.acquires
/-- What it is about to read or write at once, n bytes at a location, stands behind one of its operations (R180). -/
def State.trails (s : State) (r : Ref) (loc n : Nat) : Bool := (s.thread r).behind (s.thread r).ops loc n

/-- Of the loads that a thread issued before the operation numbered k, an acquire is still to be performed (R266). -/
def Thread.acquiring (t : Thread) (k : Nat) : Bool := t.loadOps.any (fun p => decide (p.2 < k) && p.1.acquires)

/-- Float results: flags into `%fflags`, causes into the wave (R106, R107). -/
def State.addFlags (s : State) (r : Ref) (f : Fl) : State :=
  let s := s.upd r (fun t => { t with fflags := t.fflags ||| f.setWidth 32 })
  if flagCauses f = 0 then s else s.updWaveOf r (fun w => { w with cause := w.cause ||| flagCauses f })

/-! ### Where a partition issues (R22, R238, R403, R430, R440) -/

/-- The partition holds the core. -/
def State.holds (s : State) (core part : Nat) : Bool :=
  if isControl core then (s.part part).controls.getLsbD (core - 128) else s.held.contains (clusterOfCore core, part)

/-- A PREEMPT or CTXSV that waits for the core's cluster to come to rest. -/
def Park.stops (p : Park) (core : Nat) : Bool :=
  match p with
  | .ctx op _ _ mask => op != 2 && !isControl core && mask.getLsbD (clusterOfCore core)
  | _ => false

/-- An entry of the partition's restored context waits to be registered again. -/
def State.reregisters (s : State) (part : Nat) : Bool := s.regQueue.any (fun l => l.again && l.part == part && s.holds l.core part)

/-- Issue of the partition on the core is open. -/
def State.coreOpen (s : State) (core part : Nat) : Bool :=
  s.holds core part && !(s.part part).contained && !(s.part part).inReset && !(s.gated.contains (.core core)) &&
  !(s.threads.any (fun t => t.park.stops core && s.holds (s.group t.gid).core (s.group t.gid).part)) && !(s.reregisters part)

/-- The partition's engines and arrays on a core move on. -/
def State.engineRuns (s : State) (core part : Nat) : Bool := s.holds core part && !(s.part part).contained && !(s.part part).inReset

/-! ### Activity (R399 to R401) -/

/-- A weight of the firmware table, with its floor (R400). -/
def State.weightOf (s : State) (p r : Nat) : Nat := Nat.max (s.weights.getD (8 * p + r - 1) 0).toNat (if p = 5 then r else (r + 1) / 2)

/-- Units spent into a core's accumulator; the first of a cycle keeps what the accumulator held as the cycle began. -/
def State.spend (s : State) (core part n : Nat) : State :=
  if n = 0 then s
  else
    s.updCtx core part (fun c =>
      { c with act := c.act + n, spentAt := s.now + 1, actWas := if c.spentAt = s.now + 1 then c.actWas else c.act })

/-- The accumulator holds back ordinary issue and rows (R399). It is tested as it stood when the cycle began; the two cycles that a control
core may make in one moment are tested one after the other. -/
def State.actFull (s : State) (core part : Nat) : Bool :=
  let c := s.ctx core part
  decide (96 ≤ (if c.spentAt = s.now + 1 ∧ isControl core = false then c.actWas else c.act))

/-- A cycle in which something was held back, counted once (R401); k numbers the core's cycles within the present moment. -/
def State.countBlocked (s : State) (core part k : Nat) : State :=
  s.updCtx core part (fun c =>
    if c.blkAt = 2 * s.now + k + 1 then c else { c with blk := (c.blk + 1) % 65536, blkAt := 2 * s.now + k + 1 })

/-! ### Counters (R68, R69) -/

/-- Copies of a thread that have not completed. -/
def State.ccOf (s : State) (r : Ref) : Nat :=
  (s.locks.filter (fun l => l.gid == r.1 && l.tid == r.2 && (l.kind matches .copy | .copyT _ _))).length +
  (s.regQueue.filter (fun l => l.gid == r.1 && l.tid == r.2 && (l.kind matches .copy | .copyT _ _))).length
/-- Matrix commands accepted and not retired, and one place for the next while more are to come (R292). -/
def State.tcOf (s : State) (g : Nat) : Nat :=
  match (s.group g).stream with
  | some m => m.window.length + (if m.ended || m.fault.isSome then 0 else 1)
  | none => 0
def State.lcOf (s : State) (r : Ref) : Nat := (s.thread r).loads.length
def State.scOf (s : State) (r : Ref) : Nat := (s.thread r).stores.length

/-! ### Fetching a line (R36, R72, R191, R473) -/

/-- The sixteen words of a physical line as the level that serves it holds them. -/
def State.lineBelow (s : State) (line : Nat) : List Word := wordsOfBytes ((List.range 64).map (fun k => s.below (line * 64 + k)))

/-- What a fetch finds. -/
inductive Fetched where
  | cause (c : Nat)
  | line (line : Nat) (words : List Word)
deriving DecidableEq, Repr

/-- A line through the instruction cache of 64 KiB, which it fills (R191, R201); the oldest line makes room (log entry 6). -/
def State.fetch (s : State) (part core va : Nat) : Fetched × State :=
  let base := va / 64 * 64
  match s.page part core base 64 .fetch with
  | .error c => (.cause c, s)
  | .ok (l, pa) =>
    let s := s.keepLeaf part core base l
    let line := pa / 64
    match (s.coreSt core).icache.find? (fun x => x.line == line) with
    | some x => (.line line x.words, s)
    | none =>
      let ws := s.lineBelow line
      (.line line ws, ((s.wakeAt pa).touchBelow part pa).updCore core (fun c =>
        { c with icache := ({ line := line, words := ws } :: c.icache).take 1024 }))

/-- R36: the one refetch from the level that serves the line; a good line replaces the cached one. -/
def State.refetch (s : State) (core line : Nat) : List Word × State :=
  let ws := s.lineBelow line
  (ws, s.updCore core (fun c => { c with icache := c.icache.map (fun x => if x.line == line then { x with words := ws } else x) }))

/-- A line that a fetch would have to bring waits: its column is under repair, or its slice holds requests (R20, R208). -/
def State.fetchHeld (s : State) (part core va : Nat) : Bool :=
  match s.page part core (va / 64 * 64) 64 .fetch with
  | .error _ => false
  | .ok (_, pa) =>
    !((s.coreSt core).icache.any (fun x => x.line == pa / 64)) && s.pathHeld part pa

/-- What the checks 1 to 5 of R72 give for a target. -/
inductive Target where
  /-- Check 1, 3 or 5: the cause; no transfer. -/
  | refuse (c : Nat)
  /-- Check 2: the halt line rises; no transfer. -/
  | parity
  /-- The transfer takes effect; with `bad`, the line is malformed (check 4). -/
  | taken (line : UsedLine) (bad : Bool)
deriving DecidableEq, Repr

/-- The checks of R72 on a target address; `tgt` is false for TRET, which skips check 5 (R438). -/
def State.target (s : State) (part core : Nat) (pc : DWord) (tgt : Bool) : Target × State :=
  let va := pc.toNat
  match s.fetch part core va with
  | (.cause c, s) => (.refuse c, s)
  | (.line line ws, s) =>
    let (ws, s) := if parityGood ws then (ws, s) else s.refetch core line
    if !parityGood ws then (.parity, s)
    else if va % 4 ≠ 0 ∨ 60 ≤ va % 64 then (.refuse causeTarget, s)
    else
      let u : UsedLine := { va := va / 64 * 64, line := line, words := ws, bad := false }
      match lineStarts ws with
      | none => (.taken u true, s)
      | some st =>
        let slot := va % 64 / 4
        if tgt && slot != 0 && !(st.any (fun p => p.1 == slot) && lineTgt ws slot) then (.refuse causeTarget, s)
        else (.taken u false, s)

end Sys2Proof.Machine
end

