-- ==== Sys2Proof/Machine/Operands.lean ====
section
/-! DEFINITION. Operand forms: operand b at 32 and 64 bits (R43, R87), float operand b (R108), and the writes of results. Every source
is read from the state before the instruction writes (R87). -/

namespace Sys2Proof.Machine

def State.rd (s : State) (r : Ref) (a : Reg) : Word := (s.thread r).reg a
def State.rd64 (s : State) (r : Ref) (a : Reg) : DWord := (s.thread r).pair a
def State.rdW (s : State) (r : Ref) (x64 : Bool) (a : Reg) : DWord := if x64 then s.rd64 r a else zext64 (s.rd r a)

/-- b at 32 bits (R43). -/
def State.src32 (s : State) (r : Ref) (b : Src) : Word :=
  match b with
  | .v n => s.rd r n
  | .g n => lo32 (s.greg r.1 n)
  | .imm k => k.signExtend 32
  | .lit w => w

/-- b at 64 bits (R43). -/
def State.src64 (s : State) (r : Ref) (b : Src) : DWord :=
  match b with
  | .v n => s.rd64 r n
  | .g n => s.greg r.1 n
  | .imm k => k.signExtend 64
  | .lit w => w.signExtend 64

/-- b at 32 or 64 bits; at 32 the high half is zero. -/
def State.srcW (s : State) (r : Ref) (x64 : Bool) (b : Src) : DWord := if x64 then s.src64 r b else zext64 (s.src32 r b)

/-- b of an FP32 instruction: an immediate is the integer converted exactly (R108). -/
def State.srcF (s : State) (r : Ref) (b : Src) : Word :=
  match b with
  | .imm k => BitVec.ofNat 32 (intBits fmtF32 k.toInt)
  | .v n => s.src32 r (.v n)
  | .g n => s.src32 r (.g n)
  | .lit w => w

/-- b of a pair instruction: an immediate is converted to both elements (R108). -/
def State.srcH (s : State) (r : Ref) (bf : Bool) (b : Src) : Word :=
  match b with
  | .imm k => BitVec.ofNat 32 (intBits (pairFmt bf) k.toInt * 65537)
  | .v n => s.src32 r (.v n)
  | .g n => s.src32 r (.g n)
  | .lit w => w

def State.put (s : State) (r : Ref) (d : Reg) (w : Word) : State := s.upd r (fun t => t.setReg d w)
def State.put64 (s : State) (r : Ref) (d : Reg) (w : DWord) : State := s.upd r (fun t => t.setPair d w)
def State.putW (s : State) (r : Ref) (x64 : Bool) (d : Reg) (w : DWord) : State :=
  if x64 then s.put64 r d w else s.put r d (lo32 w)
def State.putPred (s : State) (r : Ref) (p : BitVec 3) (b : Bool) : State := s.upd r (fun t => t.setPred p b)
def State.putBlock (s : State) (r : Ref) (d : Reg) (ws : List Word) : State := s.upd r (fun t => t.setBlock d ws)
/-- A float result with its flags and causes (R106, R107). -/
def State.putF (s : State) (r : Ref) (d : Reg) (x : Word × Fl) : State := (s.put r d x.1).addFlags r x.2
def State.pr (s : State) (r : Ref) (p : BitVec 3) : Bool := (s.thread r).pred p

end Sys2Proof.Machine
end

