-- ==== Sys2Proof/Machine/Cache.lean ====
section
/-! DEFINITION. Meanings of the cache, layer and translation instructions (09). The levels hold lines,
whose dirty bytes stand apart (log entry 6); a range operation acts at issue and its counter falls when it
completes (log entry 5). -/

namespace Sys2Proof.Machine

/-! ### Moving dirty bytes between levels (R191, R205) -/

/-- Levels nearer the core than a point, beyond the core's own cache: L2, ways. -/
def CPoint.l2 : CPoint → Bool
  | .l2 => false
  | .lay | .mem => true
def CPoint.ways : CPoint → Bool
  | .mem => true
  | .l2 | .lay => false

/-- Write back a physical range down to a point; its lines stay, clean (CWB). -/
def State.pushRange (s : State) (part core : Nat) (pt : CPoint) (lo n : Nat) : State :=
  let s := s.writeBack part core lo n
  let s := if CPoint.l2 pt then s.wbL2 part lo n else s
  if CPoint.ways pt then s.wbWays lo n else s

/-- The lines of a physical range are no longer held at the levels nearer than a point (CWBI, CINV). -/
def State.forget (s : State) (core : Nat) (pt : CPoint) (lo n : Nat) : State :=
  { s with lines := s.lines.filter (fun x =>
      !(decide (lo ≤ x.line * 64) && decide (x.line * 64 < lo + n) &&
        (match x.level with | .core => x.home == core | .l2 => CPoint.l2 pt | .way => CPoint.ways pt))) }

/-- Discard the dirty bytes of a physical range at the levels nearer than a point (CINV). -/
def State.dropRange (s : State) (core : Nat) (pt : CPoint) (lo n : Nat) : State :=
  { s.forget core pt lo n with
    dcache := Cells.del s.dcache (cacheKey core lo) n,
    l2 := if CPoint.l2 pt then Cells.del s.l2 lo n else s.l2,
    ways := if CPoint.ways pt then Cells.del s.ways lo n else s.ways }

/-- Process a virtual range [lo, hi) page by page in ascending address under the checks of R175, orders 2, 5 and 6: `f` acts on the
piece from a virtual and a physical address on. The first failing page gives its cause. -/
def State.pages (part core : Nat) (acc : Acc) (f : State → Nat → Nat → Nat → State) : Nat → State → Nat → Nat → State × Option Nat
  | 0, s, _, _ => (s, none)
  | fuel + 1, s, lo, hi =>
    if hi ≤ lo then (s, none)
    else
      match s.page part core lo 1 acc with
      | .error c => (s, some c)
      | .ok (l, pa) =>
        let left := l.size - (lo % 2 ^ 57 - l.va)
        let n := Nat.min left (hi - lo)
        if !(s.granted part pa n) || s.foreign part pa n then (s, some causeAccess)
        else State.pages part core acc f fuel (f ((s.keepLeaf part core lo l).wakeAt pa) lo pa n) (lo + n) hi

/-- A range instruction on the lines that hold [ea, ea + len): the action for every piece, then the counted completion; a failing page
sets its cause and counts nothing (R205, R206). -/
def State.rangeOp (s : State) (r : Ref) (acc : Acc) (fetch : Bool) (ea len : Nat) (f : State → Nat → Nat → Nat → State) : State :=
  if len = 0 then s.pushStore r (.maint fetch)
  else
    let lo := ea / 64 * 64
    let hi := (ea + len + 63) / 64 * 64
    match State.pages (s.partOf r) (s.coreOf r) acc f ((hi - lo) / 4096 + 2) s lo hi with
    | (s, some c) => s.fail r c
    | (s, none) => s.pushStore r (.maint fetch)

/-- CWBI on one piece: written back, and the copies removed (R205). -/
def State.cwbiPiece (s : State) (r : Ref) (pt : CPoint) (pa n : Nat) : State :=
  let core := s.coreOf r
  (s.pushRange (s.partOf r) core pt pa n).forget core pt pa n

/-- CINV of [ea, ea + len) on one piece (R205): what stands on lines that hold bytes outside the unwidened range is written back, the rest
discarded, and the copies are removed. -/
def State.cinvPiece (s : State) (r : Ref) (pt : CPoint) (ea len va pa n : Nat) : State :=
  let part := s.partOf r
  let core := s.coreOf r
  let lo := Nat.min n ((ea + 63) / 64 * 64 - va)
  let hi := Nat.max lo (Nat.min n ((ea + len) / 64 * 64 - va))
  let s := (s.pushRange part core pt pa lo).dropRange core pt (pa + lo) (hi - lo)
  (s.pushRange part core pt (pa + hi) (n - hi)).forget core pt pa n

/-- Cores within a scope of a core (R262). -/
def inScope (sc : Scope) (c d : Nat) : Bool :=
  match sc with
  | .clu => c == d || (!isControl c && !isControl d && clusterOfCore c == clusterOfCore d)
  | .die => dieOfCore c == dieOfCore d
  | .dev | .sys | .dsp => true
  | .thr | .wav | .grp | .cor => c == d

/-- A core of a partition (R21). -/
def Part.hasCore (p : Part) (n : Nat) : Bool := if isControl n then p.controls.getLsbD (n - 128) else p.clusters.getLsbD (clusterOfCore n)

/-- Remove the lines of a physical range from the instruction caches and the decoded-line buffers of the partition's cores within a scope
(R206). -/
def State.dropCode (s : State) (part core : Nat) (sc : Scope) (lo n : Nat) : State :=
  let on := fun (c : Nat) => (s.part part).hasCore c && inScope sc core c
  let hit := fun (line : Nat) => decide (lo ≤ line * 64) && decide (line * 64 < lo + n)
  { s with
    cores := s.cores.map (fun x => if on x.core then { x with icache := x.icache.filter (fun l => !(hit l.line)) } else x),
    threads := s.threads.map (fun t =>
      if (s.group t.gid).part == part && on (s.group t.gid).core then { t with line := t.line.filter (fun u => !(hit u.line)) } else t) }

/-- An IINV of the thread has not completed (R206). -/
def Thread.iinvLeft (t : Thread) : Bool := t.stores.any (fun o => o matches .maint true)

/-- FBAR once the IINVs are complete: the decoded copy is discarded. -/
def State.fbarDone (s : State) (r : Ref) : State := s.upd r (fun t => { t with line := none, park := .ready })

/-! ### Domains (R193, R194, R207, R208) -/

def population (w : Word) : Nat := ((List.range 32).filter (fun k => w.getLsbD k)).length

/-- Entry q of a domain record, from its 64 words. -/
def domEntry (w : List Word) (q i : Nat) : Word := w.getD (16 * q + i) 0
def domChg (w : List Word) (q : Nat) : Bool := (domEntry w q 1).getLsbD 31
def domHash (w : List Word) (q j : Nat) : DWord := joinW (domEntry w q (3 + 2 * j)) (domEntry w q (2 + 2 * j))

/-- The domain that an entry asks for. -/
def domOf (w : List Word) (q gen : Nat) : Domain :=
  { slices := domEntry w q 0, nh := bitsOf (domEntry w q 1) 2 0, gen := gen,
    hs := (List.range 5).map (fun j => (domHash w q j).setWidth 46) }

/-- Status 1 of R207 does not apply to an entry. -/
def domGood (w : List Word) (q : Nat) : Bool :=
  let pop := population (domEntry w q 0)
  let nh := bitsOf (domEntry w q 1) 2 0
  bitsOf (domEntry w q 1) 30 3 == 0 && decide (nh ≤ 5) &&
  (if pop = 0 then nh == 0 else pop == 2 ^ nh) &&
  (List.range 5).all (fun j => bitsOf (domHash w q j) 63 46 == 0 && (decide (j < nh) || domHash w q j == 0)) &&
  bitsOf (domEntry w q 12) 31 16 == 0 && (List.range 3).all (fun i => domEntry w q (13 + i) == 0)

/-- A partition's domain once the changes accepted before have been applied. -/
def State.domNow (s : State) (q : Nat) : Domain :=
  (((s.domNew.flatMap (fun b => b.2.2)).filter (fun e => e.1 == q)).getLast?.map (fun e => e.2)).getD (s.part q).domain

/-- The domains after a change. -/
def State.domAfter (s : State) (w : List Word) (q : Nat) : Domain :=
  let d := s.domNow q
  if domChg w q then domOf w q ((d.gen + 1) % 65536) else d

/-- Two domains are apart, or shared with equal hashes (R193). -/
def domApart (a b : Domain) : Bool := a.slices &&& b.slices == 0 || (a.slices == b.slices && a.nh == b.nh && a.hs == b.hs)

/-- A partition has resident groups or busy engines: any range-lock entry counts, of a node, draw or path too (DESIGN CHOICE, log entry 28). -/
def State.partBusy (s : State) (q : Nat) : Bool := s.groups.any (fun g => g.part == q) || s.locks.any (fun l => l.part == q)

/-- The status of DOMSET (R207). -/
def State.domStatus (s : State) (w : List Word) : Nat :=
  let qs := List.range 4
  if qs.any (fun q => domChg w q && !domGood w q) then 1
  else if qs.any (fun i => qs.any (fun j => decide (i < j) && !domApart (s.domAfter w i) (s.domAfter w j))) then 2
  else if qs.any (fun q => (s.domAfter w q).slices &&& ~~~(s.domNow q).slices != 0 && s.partBusy q) then 3
  else 0

/-- DOMSET for one thread: a change that is accepted parks it until the slices have been walked (R208). -/
def State.domset (s : State) (r : Ref) (d a : Reg) : State :=
  match s.check r .core (s.rd r a).toNat 256 256 false false with
  | .error c => s.fail r c
  | .ok (w, s) =>
    let rcd := wordsOfBytes (s.readAt (s.coreOf r) w 256)
    let st := s.domStatus rcd
    if st = 0 then
      let new := ((List.range 4).filter (domChg rcd)).map (fun q => (q, s.domAfter rcd q))
      ({ s with domNew := s.domNew ++ [(r.1, r.2, new)] } : State).parkAs r (.domset d)
    else s.put r d (BitVec.ofNat 32 st)

/-! ### The layer division (R196, R209, R210) -/

def layValid (l : Word) : Bool :=
  decide (layWays l ≤ 16) && bitsOf l 15 0 == 0 &&
  decide (layVat l * 0x80000 + layShadow l * 0x80000 + layWays l * 0x200000 ≤ 0x2000000)

/-- A partition has a cluster on a die, or its output. -/
def Part.onDie (p : Part) (d : Nat) : Bool :=
  (List.range 8).any (fun c => p.clusters.getLsbD (8 * d + c)) || p.outputs.getLsbD d

/-- A partition's division once the changes accepted before have been applied. -/
def Part.laydivNow (p : Part) : Word := (p.laydivNew.getLast?.map (fun e => e.2.2)).getD p.laydiv

/-- The status of LAYDIVW (R209), the lowest that applies (DESIGN CHOICE, log entry 28). -/
def State.layStatus (s : State) (q : Nat) (l : Word) : Nat :=
  let p := s.part q
  if !layValid l then 1
  else if layShadow l ≠ layShadow p.laydiv then 2
  else if layVat l ≠ layVat p.laydivNow ∧ (List.range 2).any (fun d => (s.die d).display.isSome && p.onDie d) = true then 3
  else if s.parts.any (fun x => x.part != q && x.clusters &&& p.clusters != 0) then 4
  else 0

def State.laydivw (s : State) (r : Ref) (d a : Reg) : State :=
  let q := s.partOf r
  let l := s.rd r a
  let st := s.layStatus q l
  if st = 0 then (s.updPart q (fun p => { p with laydivNew := p.laydivNew ++ [(r.1, r.2, l)] })).parkAs r (.laydivw d)
  else s.put r d (BitVec.ofNat 32 st)

/-! ### Page tables (R198, R211 to R214) -/

/-- The leaf of a page leaves every TLB of the partition (R211). -/
def State.dropLeaf (s : State) (q va : Nat) : State :=
  { s with tlbs := s.tlbs.filter (fun e => !(e.part == q && e.leaf.va ≤ va % 2 ^ 57 && va % 2 ^ 57 < e.leaf.va + e.leaf.size)) }

/-- The operations in flight of a partition's threads on the frames of leaves: group, thread and number (R211). -/
def State.flying (s : State) (q : Nat) (ls : List Leaf) : List (Nat × Nat × Nat) :=
  s.threads.flatMap (fun t =>
    if (s.group t.gid).part != q then []
    else
      ((t.loadOps.filter (fun p => ls.any (fun l => spanMeets p.1.span l.pa l.size))).map (fun p => (t.gid, t.tid, p.2))) ++
      ((t.storeOps.filter (fun p => ls.any (fun l => spanMeets p.1.span l.pa l.size))).map (fun p => (t.gid, t.tid, p.2))))

/-- They have been performed. -/
def State.flown (s : State) (ws : List (Nat × Nat × Nat)) : Bool :=
  ws.all (fun w =>
    let t := s.thread (w.1, w.2.1)
    !(t.loadOps.any (fun p => p.2 == w.2.2)) && !(t.storeOps.any (fun p => p.2 == w.2.2)))

/-- The leaves that a partition's TLBs hold for an address. -/
def State.leavesAt (s : State) (q va : Nat) : List Leaf :=
  (s.tlbs.filter (fun e => e.part == q && e.leaf.va ≤ va % 2 ^ 57 && va % 2 ^ 57 < e.leaf.va + e.leaf.size)).map (fun e => e.leaf)

/-- TLBINV of an address: it completes once the accesses in flight through a removed leaf have been performed (R211). -/
def State.tlbinv (s : State) (r : Ref) (va : Nat) : State :=
  let q := s.partOf r
  (s.dropLeaf q va).pushStore r (.tlbinv (s.flying q (s.leavesAt q va)))

def State.tlbinvAll (s : State) (r : Ref) : State :=
  let q := s.partOf r
  ({ s with tlbs := s.tlbs.filter (fun e => e.part != q) } : State).pushStore r
    (.tlbinv (s.flying q ((s.tlbs.filter (fun e => e.part == q)).map (fun e => e.leaf))))

/-- An entry reached by a walk: its table, index, level and contents. -/
structure Entry where
  table : Nat
  idx : Nat
  level : Nat
  bits : Nat
deriving DecidableEq, Repr

/-- What stands on the way to level `stop`: the entry at that level, or a leaf above it; `none` where a table is missing. -/
def State.entryTo (s : State) (q va stop : Nat) (t l : Nat) : Nat → Option Entry
  | 0 => none
  | fuel + 1 =>
    let idx := va / 2 ^ (48 - 9 * l) % 512
    if !(s.granted q t 4096) || s.vatClosed (t + 8 * idx) then none
    else
      let e := s.entryAt (t + 8 * idx)
      let here : Entry := { table := t, idx := idx, level := l, bits := e }
      if l = stop then some here
      else if e % 2 = 0 ∨ entryReserved e = true then none
      else if e / 2 % 2 = 1 then some here
      else if e / 32 % 2 = 1 then none
      else State.entryTo s q va stop (entryPa e) (l + 1) fuel

/-- A device-scope write of one entry. -/
def State.writeEntry (s : State) (q pa e : Nat) : State :=
  (List.range 8).foldl (fun s k => s.putBelow q (pa + k) (BitVec.ofNat 8 (e / 2 ^ (8 * k)))) (s.recall q pa)

/-- Level and number of leaves of a size code. -/
def pgLevel (z : Nat) : Nat := if z ≤ 1 then 4 else if z ≤ 3 then 3 else 2
def pgCount (z : Nat) : Nat := if z = 1 ∨ z = 3 then 16 else 1
def pgUnit (z : Nat) : Nat := 2 ^ (48 - 9 * pgLevel z)
def pgSize (z : Nat) : Nat := pgUnit z * pgCount z

/-- A frame reaches into a way or shadow-store part. -/
def bankRangeOk (laydiv : Word) (pa n : Nat) : Bool :=
  !isBank pa || decide (pa % 0x2000000 + n ≤ 0x2000000 - layWays laydiv * 0x200000 - layShadow laydiv * 0x80000)

/-- The status of PGMAP (R212), the lowest that applies. -/
def State.mapStatus (s : State) (q va pa : Nat) (attr : Word) : Nat :=
  let z := bitsOf attr 2 0
  if 4 < z ∨ bitsOf attr 31 5 ≠ 0 then 5
  else
    match s.entryTo q (va % 2 ^ 57) (pgLevel z) (s.part q).root 0 5 with
    | none => 1
    | some e =>
      let base := e.idx / pgCount z * pgCount z
      if e.level ≠ pgLevel z then 2
      else if (List.range (pgCount z)).any (fun k => s.entryAt (e.table + 8 * (base + k)) % 2 == 1) then 2
      else if !exists? pa ∨ !exists? (pa + pgSize z - 1) ∨ !(s.granted q pa (pgSize z)) then 3
      else if !(bankRangeOk (s.part q).laydiv pa (pgSize z)) then 4
      else if va % pgSize z ≠ 0 ∨ pa % pgSize z ≠ 0 then 5
      else 0

/-- PGMAP: the thread parks until it is done (R204, R212). -/
def State.pgmap (s : State) (r : Ref) (d a b c : Reg) : State :=
  if !canonical (s.rd64 r a).toNat then s.fail r causeXlate else s.parkAs r (.pgmap d (s.rd64 r a) (s.rd64 r b) (s.rd r c))

/-- The status of PGMAP and what it writes: its leaves, as a device-scope release; the page is then to be zeroed, and every copy of it that a
cache holds is gone at once (R212, R274). -/
def State.pgmapDone (s : State) (r : Ref) (d : Reg) (va pa : Nat) (attr : Word) : State :=
  let q := s.partOf r
  let s := s.walkWakes q va
  let st := s.mapStatus q va pa attr
  if st ≠ 0 then s.put r d (BitVec.ofNat 32 st)
  else
    let z := bitsOf attr 2 0
    match s.entryTo q (va % 2 ^ 57) (pgLevel z) (s.part q).root 0 5 with
    | none => s.put r d 1
    | some e =>
      let flags := 3 + bitsOf attr 3 3 * 8 + bitsOf attr 4 4 * 16 + (if pgCount z = 16 then 32 else 0)
      let s := s.release r .dev
      let s := (List.range (pgCount z)).foldl
        (fun s k => s.writeEntry q (e.table + 8 * (e.idx / pgCount z * pgCount z + k)) (pa + k * pgUnit z + flags)) s
      ({ s.uncache (pa, pgSize z) with zeroing := s.zeroing ++ [(pa, pgSize z)] } : State).put r d 0

/-- PGUNMAP: the thread parks until it is done (R204, R213). -/
def State.pgunmap (s : State) (r : Ref) (d a : Reg) : State :=
  if !canonical (s.rd64 r a).toNat then s.fail r causeXlate else s.parkAs r (.pgunmap d (s.rd64 r a))

/-- V falls in the leaf or leaves of the page, then its TLBINV: the thread waits for the accesses in flight through it (R211, R213). -/
def State.pgunmapGo (s : State) (r : Ref) (d : Reg) (va : Nat) : State :=
  let q := s.partOf r
  let s := s.walkWakes q va
  match s.entryTo q (va % 2 ^ 57) 4 (s.part q).root 0 5 with
  | none => (s.wake r).put r d 1
  | some e =>
    if e.bits % 2 = 0 ∨ e.bits / 2 % 2 = 0 ∨ e.level < 2 then (s.wake r).put r d 1
    else
      let n := if e.bits / 32 % 2 = 1 ∧ e.level ≠ 2 then 16 else 1
      let ws := s.flying q (s.leavesAt q va)
      let s := s.release r .dev
      let s := (List.range n).foldl (fun s k =>
        let at_ := e.table + 8 * (e.idx / n * n + k)
        let old := s.entryAt at_
        if old % 2 = 1 then s.writeEntry q at_ (old - 1) else s) s
      (s.dropLeaf q va).upd r (fun t => { t with park := .pgunmapped d ws })

/-- The leaf of an address as PGQ.pte reports it (R214). -/
def State.pte (s : State) (q core va : Nat) : DWord :=
  match s.leafOf q core va with
  | none => 0
  | some l =>
    let raw := l.raw.toNat
    let unit := if raw / 32 % 2 = 1 then l.size / 16 else l.size
    BitVec.ofNat 64 (raw - entryPa raw + (l.pa + (va % 2 ^ 57 - l.va) / unit * unit))

/-- The page of an address is being zeroed. -/
def State.isZeroing (s : State) (q core va : Nat) : Bool :=
  match s.leafOf q core va with
  | none => false
  | some l => s.zeroed (l.pa + (va % 2 ^ 57 - l.va))

/-- A PGQ form: its only cause is XLATE for a noncanonical address (R214). -/
def State.pgq (s : State) (r : Ref) (d a : Reg) (f : State → Nat → Nat → DWord) : State :=
  let va := (s.rd64 r a).toNat
  if !canonical va then s.fail r causeXlate
  else
    let v := f s (s.partOf r) va
    (s.lookUp (s.partOf r) (s.coreOf r) va).pushLoad r (.value d [lo32 v, hi32 v])

/-! ### Meanings -/

/-- A range operation comes after its thread's earlier stores to the range: one with a write or an atomic still to be performed, or an acquire,
waits for it (R205, R266). -/
def State.rangeHeld (s : State) (r : Ref) : Bool :=
  s.acquires r || (s.thread r).loads.any (fun o => o matches .atomic _ _) || (s.thread r).stores.any (fun o => o.span.isSome)

/-- R205. -/
def execCwb (g : Guard) (pt : CPoint) (a : Reg) (b : Src) (s : State) : Host.Outcome State Fault Refusal :=
  .next (s.eachAfter g State.rangeHeld (fun s r => s.rangeOp r .read false (s.rd64 r a).toNat (s.src32 r b).toNat
    (fun s _ pa n => s.pushRange (s.partOf r) (s.coreOf r) pt pa n)))

/-- R205. -/
def execCinv (g : Guard) (pt : CPoint) (a : Reg) (b : Src) (s : State) : Host.Outcome State Fault Refusal :=
  .next (s.eachAfter g State.rangeHeld (fun s r => s.rangeOp r .write false (s.rd64 r a).toNat (s.src32 r b).toNat
    (fun x va pa n => x.cinvPiece r pt (s.rd64 r a).toNat (s.src32 r b).toNat va pa n)))

/-- R205. -/
def execCwbi (g : Guard) (pt : CPoint) (a : Reg) (b : Src) (s : State) : Host.Outcome State Fault Refusal :=
  .next (s.eachAfter g State.rangeHeld (fun s r => s.rangeOp r .write false (s.rd64 r a).toNat (s.src32 r b).toNat (fun s _ pa n => s.cwbiPiece r pt pa n)))

/-- R206. -/
def execIinv (g : Guard) (sc : Scope) (a : Reg) (b : Src) (s : State) : Host.Outcome State Fault Refusal :=
  .next (s.eachAfter g State.rangeHeld (fun s r =>
    s.rangeOp r .fetch true (s.rd64 r a).toNat (s.src32 r b).toNat (fun s _ pa n => s.dropCode (s.partOf r) (s.coreOf r) sc pa n)))

/-- R206. -/
def execFbar (g : Guard) (s : State) : Host.Outcome State Fault Refusal :=
  .next (s.each g (fun s r => if (s.thread r).iinvLeft then s.parkAs r .fbar else s.fbarDone r))

/-- R207, R208; the record is read behind its threads' own earlier operations on it (R180). -/
def execDomset (g : Guard) (d a : Reg) (s : State) : Host.Outcome State Fault Refusal :=
  .next (s.eachAfter g (fun s r => s.trails r (locScratch r.1 (s.rd r a).toNat) 256) (fun s r => s.domset r d a))

/-- R209, R210. -/
def execLaydivw (g : Guard) (d a : Reg) (s : State) : Host.Outcome State Fault Refusal :=
  .next (s.each g (fun s r => s.laydivw r d a))

/-- R211. -/
def execTlbinv (g : Guard) (a : Reg) (s : State) : Host.Outcome State Fault Refusal :=
  .next (s.each g (fun s r =>
    let va := (s.rd64 r a).toNat
    if !canonical va then s.fail r causeXlate else s.tlbinv r va))

/-- R211. -/
def execTlbinvAll (g : Guard) (s : State) : Host.Outcome State Fault Refusal :=
  .next (s.each g (fun s r => s.tlbinvAll r))

/-- R212. -/
def execPgmap (g : Guard) (d a b c : Reg) (s : State) : Host.Outcome State Fault Refusal :=
  .next (s.each g (fun s r => s.pgmap r d a b c))

/-- R213. -/
def execPgunmap (g : Guard) (d a : Reg) (s : State) : Host.Outcome State Fault Refusal :=
  .next (s.each g (fun s r => s.pgunmap r d a))

/-- R214. -/
def execPgqPte (g : Guard) (d a : Reg) (s : State) : Host.Outcome State Fault Refusal :=
  .next (s.each g (fun s r => s.pgq r d a (fun s q va => s.pte q (s.coreOf r) va)))

/-- R214. -/
def execPgqZero (g : Guard) (d a : Reg) (s : State) : Host.Outcome State Fault Refusal :=
  .next (s.each g (fun s r => s.pgq r d a (fun s q va => if s.isZeroing q (s.coreOf r) va then 1 else 0)))

/-- R214: no address is named. -/
def execPgqRoot (g : Guard) (d : Reg) (s : State) : Host.Outcome State Fault Refusal :=
  .next (s.each g (fun s r =>
    let root := (s.part (s.partOf r)).root
    s.pushLoad r (.value d [BitVec.ofNat 32 root, BitVec.ofNat 32 (root / 2 ^ 32)])))

/-! ### Events of the cache path -/

/-- R195: group a, thread b; its oldest load, a request of an old GEN or at a slice that no longer serves its partition, is returned, chooses its
slice again under the current domain and is reissued. -/
def execL2RequestReplay (s : State) : Host.Outcome State Fault Refusal :=
  .next (
    let r : Ref := (s.arg.a, s.arg.b)
    s.upd r (fun t =>
      match t.loads with
      | .late req d o loc n f :: rest => { t with loads := .late (s.l2Again (s.partOf r) loc req) d o loc n f :: rest }
      | _ => t))

/-- R199: partition a, address b, core c; the walk of a page fills the TLBs with its valid leaf. -/
def execPageWalk (s : State) : Host.Outcome State Fault Refusal :=
  .next (if !canonical s.arg.b then s
    else
      match s.leafOf s.arg.a s.arg.c s.arg.b with
      | some l => s.keepLeaf s.arg.a s.arg.c s.arg.b l
      | none => s)

/-- R212: frame a; the page is zero, cached copies are gone, and accesses to it go on. -/
def execPageZeroingDone (s : State) : Host.Outcome State Fault Refusal :=
  .next ((s.zeroing.filter (fun z => z.1 == s.arg.a)).foldl State.endZero s)

/-- The slices of the old and of the new sets of a change (R208). -/
def State.domSlices (s : State) (es : List (Nat × Domain)) : Word :=
  es.foldl (fun m e => m ||| (s.part e.1).domain.slices ||| e.2.slices) 0

/-- The L2 lines of a change's slices. -/
def State.domLines (s : State) (m : Word) : List CacheLine := s.lines.filter (fun x => x.level == .l2 && m.getLsbD x.home)

/-- R208, steps 2 to 4, of the change accepted first: promotions for owned lines of the affected slices, their dirty lines to the ways, their
lines gone; the new domains with their GEN together; the thread that asked gets status 0. -/
def execDomainChangeComplete (s : State) : Host.Outcome State Fault Refusal :=
  .next (
    match s.domNew with
    | [] => s
    | (g, t, es) :: rest =>
      let m := s.domSlices es
      let owned := s.owners.filter (fun o => (s.domLines m).any (fun x => x.line == o.1))
      let s1 := owned.foldl (fun s o => s.flushCore (s.linePart .l2 o.1 0) o.2) s
      let s2 := (s1.domLines m).foldl State.evictLine s1
      let s3 := es.foldl (fun s n => s.updPart n.1 (fun p => { p with domain := n.2 })) s2
      ({ s3 with owners := s.owners, domNew := rest } : State).upd (g, t) (fun t =>
        match t.park with
        | .domset d => { t.setReg d 0 with park := .ready }
        | _ => t))

/-- The bytes of one bank that become general scratchpad are zero (R210, step 4). -/
def State.rezone (s : State) (base : Nat) (old new : Word) : State :=
  let top := fun (l : Word) => 0x2000000 - layShadow l * 0x80000 - layWays l * 0x200000
  let s := s.endZero (base + layVat new * 0x80000, Nat.min (layVat old * 0x80000) (top new) - layVat new * 0x80000)
  let lo := Nat.max (top old) (layVat new * 0x80000)
  s.endZero (base + lo, top new - lo)

/-- R210: partition a, the division accepted first; the lines of ways that leave go to memory, those used longest ago first, the new division
takes effect, and new scratchpad is zero. -/
def execLaydivChangeComplete (s : State) : Host.Outcome State Fault Refusal :=
  .next (
    let q := s.arg.a
    match (s.part q).laydivNew with
    | [] => s
    | (g, t, new) :: rest =>
      let old := (s.part q).laydiv
      let s := s.updPart q (fun p => { p with laydiv := new, laydivNew := rest })
      let s := (s.overflow.filter (fun x => x.level == .way && x.part == q)).foldl State.evictLine s
      let banks := (List.range 128).filter (fun n => (s.part q).clusters.getLsbD (n / 8))
      let s := banks.foldl (fun s n => s.rezone (0x2000000000000 + n * 0x2000000) old new) s
      s.upd (g, t) (fun t =>
        match t.park with
        | .laydivw d => { t.setReg d 0 with park := .ready }
        | _ => t))

/-- R204, R211: group a, thread b; the oldest counted store of the thread is a range operation, and it completes. -/
def execCacheMaintenanceComplete (s : State) : Host.Outcome State Fault Refusal :=
  .next (s.upd (s.arg.a, s.arg.b) (fun t =>
    match t.stores with
    | .maint _ :: rest => { t with stores := rest }
    | .tlbinv ws :: rest => if s.flown ws then { t with stores := rest } else t
    | _ => t))

end Sys2Proof.Machine
end

