-- ==== Sys2Proof/Machine/Convert.lean ====
section
/-! DEFINITION. Element formats and the conversions between them (06, R124 to R137, R146 to R150): the value of an element, its delivery
in a format, packed slots, block scales, and the exact sums of the packed dot products. -/

namespace Sys2Proof.Machine

/-- The float formats (R125). -/
def EFmt.flt? : EFmt → Option Fmt
  | .f32 => some fmtF32
  | .f16 => some fmtF16
  | .bf16 => some fmtBf16
  | .e5m2 => some fmtE5m2
  | .e4m3 => some fmtE4m3
  | .e3m2 => some fmtE3m2
  | .e2m3 => some fmtE2m3
  | .e2m1 => some fmtE2m1
  | .i4 | .i8 | .i16 | .i32 | .i64 | .n8 | .n16 | .n32 | .n64 | .e8m0 | .bs16 => none

/-- Unsigned integer formats (R128). -/
def EFmt.unsigned : EFmt → Bool
  | .n8 | .n16 | .n32 | .n64 => true
  | _ => false

def EFmt.isScale (f : EFmt) : Bool := f == .e8m0 || f == .bs16

/-- BS16 as a format of 8 exponent and 8 fraction bits (R130). -/
def fmtBs16 : Fmt := { e := 8, m := 8, bias := 127, tops := .ieee }

/-- An integer as a value. -/
def intVal (x : Int) : Val := .num (decide (x < 0)) x.natAbs 0

/-- Signed or unsigned value of the low w bits. -/
def intOfBits (un : Bool) (w bits : Nat) : Int :=
  let b := bits % 2 ^ w
  if !un && 2 ^ (w - 1) ≤ b then (b : Int) - 2 ^ w else b

/-- The value of E8M0 bits (R129) and of BS16 bits (R130); a NaN scale is a quiet NaN. -/
def e8m0Val (b : Nat) : Val := if b % 256 = 255 then .nan false else .num false 1 ((b % 256 : Nat) - 127)
def bs16Val (b : Nat) : Val :=
  let e := b / 256 % 256
  let f := b % 256
  if e = 255 then .nan false else if e = 0 then .num false f (-134) else .num false (256 + f) ((e : Int) - 135)

/-- The exact value of an element, its subnormal input flushed under `.ftz` (R125 to R130, R135): a subnormal of the source's own format is
flushed (R104), though R135 reckons flushing by the destination's (DESIGN CHOICE, log entry 33). -/
def elemVal (fmt : EFmt) (ftz : Bool) (bits : Nat) : Val × Fl :=
  match EFmt.flt? fmt with
  | some f => unpackF f ftz (bits % 2 ^ f.width)
  | none =>
    if fmt = .e8m0 then (e8m0Val bits, 0)
    else if fmt = .bs16 then (bs16Val bits, 0)
    else (intVal (intOfBits (EFmt.unsigned fmt) fmt.width bits), 0)

/-- How a conversion rounds: a mode, or stochastically with a draw (R137). -/
inductive Rounding where
  | mode (rm : Rnd)
  | draw (r : Nat)
deriving DecidableEq, Repr

/-- m·2^e in units of 2^q by either way of rounding (R103, R137). -/
def roundBy (h : Rounding) (neg : Bool) (m : Nat) (e : Int) (q : Int) : Nat × Bool :=
  match h with
  | .mode rm => roundAt rm neg m e false q
  | .draw r =>
    if q ≤ e then (m * 2 ^ (e - q).toNat, false)
    else
      let k := (q - e).toNat
      let rem := m % 2 ^ k
      if rem = 0 then (m / 2 ^ k, false)
      else (if r < rem * 2 ^ 32 / 2 ^ k then m / 2 ^ k + 1 else m / 2 ^ k, true)

/-- The largest finite magnitude of a format, in units of 2^q for its own q. -/
def Fmt.maxVal (f : Fmt) : Val := (unpackF f false f.maxBits).1

/-- |m·2^e| beyond the largest finite value. -/
def Fmt.beyond (f : Fmt) (m : Nat) (e : Int) : Bool :=
  match f.maxVal with
  | .num _ m1 e1 => decide (0 < (({ n := m, e := e } : Dy).add { n := -(m1 : Int), e := e1 }).n)
  | _ => false

/-- A finite value delivered in a float format, or as BS16 magnitude bits (R135, R137). -/
def deliverNum (f : Fmt) (h : Rounding) (ftz sat neg : Bool) (m : Nat) (e : Int) : Nat × Fl :=
  match h with
  | .mode rm => packMag f rm ftz sat neg m e false
  | .draw _ =>
    if m = 0 then (f.signBit neg, 0)
    else if f.beyond m e then (f.signBit neg + f.maxBits, flOF ||| flNX)
    else
      let e0 := e + m.log2
      let q := (if e0 < f.emin then f.emin else e0) - f.m
      let (n, inex) := roundBy h neg m e q
      let b := f.bitsAt n q
      let small := decide (b < 2 ^ f.m)
      if ftz && b != 0 && small then (f.signBit neg, flFZ ||| flUF ||| flNX)
      else (f.signBit neg + b, (if inex then flNX else 0) ||| (if inex && small then flUF else 0))

def Val.sig (v : Val) : Fl := if v.isSig then flNV else 0

/-- Delivery in a float format (R135). Under `.sat` an infinity becomes the largest finite value with NV in a conversion to the source's own
format too (R146; DESIGN CHOICE, log entry 33). -/
def deliverFloat (f : Fmt) (h : Rounding) (ftz sat : Bool) (v : Val) : Nat × Fl :=
  match v with
  | .nan _ => if f.tops = .allFinite then (0, flNV) else (f.nanBits, v.sig)
  | .inf s => if f.tops = .ieee ∧ sat = false then (f.signBit s + f.infBits, 0) else (f.signBit s + f.maxBits, flNV)
  | .num s m e => deliverNum f h ftz sat s m e

/-- Delivery as an integer of w bits (R135): `src` says that the source is an integer. A stochastic conversion of a value between −1 and 0 to an
unsigned format draws between 0 and −1, which it delivers as 0 with NV (R137). A scale beyond the range counts as a float source: the nearest
end with NV. A stochastic conversion of an integer beyond the range follows R137 too, the nearest end with NV, whatever `.sat` says. These
three are DESIGN CHOICES (log entry 33). -/
def deliverInt (un : Bool) (w : Nat) (h : Rounding) (src sat : Bool) (v : Val) : Nat × Fl :=
  let lo : Int := if un then 0 else -(2 ^ (w - 1) : Nat)
  let hi : Int := if un then (2 ^ w : Nat) - 1 else (2 ^ (w - 1) : Nat) - 1
  let bits := fun (x : Int) => (x % 2 ^ w).toNat
  match v with
  | .nan _ => (0, flNV)
  | .inf s => (bits (if s then lo else hi), flNV)
  | .num s m e =>
    let (n, inex) := roundBy h s m e 0
    let x : Int := if s then -(n : Int) else n
    let draws := h matches .draw _
    let past := draws && decide (0 < (({ n := m, e := e } : Dy).add { n := -((if s then -lo else hi : Int)), e := 0 }).n)
      && !(s && un && x == 0)
    if x < lo ∨ hi < x ∨ past = true then
      if src && !draws then (if sat then (bits (min (max x lo) hi), 0) else (bits x, 0))
      else (bits (if s then lo else hi), flNV)
    else (bits x, if inex then flNX else 0)

/-- Delivery as E8M0: one of the powers of two, ties to even exponent (R135). -/
def deliverE8m0 (h : Rounding) (v : Val) : Nat × Fl :=
  match v with
  | .nan _ => (255, flNV)
  | .inf s => if s then (255, flNV) else (254, flNV)
  | .num s m e =>
    if m = 0 then (0, flUF ||| flNX)
    else if s then (255, flNV)
    else
      let k := e + m.log2
      if k < -127 then (0, flUF ||| flNX)
      else
        let rem := m - 2 ^ m.log2
        let up :=
          match h with
          | .mode .rne => decide (2 ^ m.log2 < 2 * rem) || (decide (2 ^ m.log2 = 2 * rem) && decide ((k + 127) % 2 = 1))
          | .mode .rup => rem != 0
          | .mode .rtz | .mode .rdn => false
          | .draw r => decide (r < rem * 2 ^ 32 / 2 ^ m.log2)
        let c := k + 127 + (if up then 1 else 0)
        let past := (h matches .draw _) && decide (127 ≤ k) && decide (127 < k ∨ rem ≠ 0)
        if 254 < c ∨ past = true then (254, flOF ||| flNX) else (c.toNat, if rem = 0 then 0 else flNX)

/-- Delivery as BS16 (R135). -/
def deliverBs16 (h : Rounding) (v : Val) : Nat × Fl :=
  match v with
  | .nan _ => (0xFF00, flNV)
  | .inf s => if s then (0xFF00, flNV) else (0xFEFF, flNV)
  | .num s m e => if m = 0 then (0, 0) else if s then (0xFF00, flNV) else deliverNum fmtBs16 h false true false m e

/-- Delivery in any format (R135). -/
def deliver (dst : EFmt) (h : Rounding) (ftz sat src : Bool) (v : Val) : Nat × Fl :=
  match EFmt.flt? dst with
  | some f => deliverFloat f h ftz sat v
  | none =>
    if dst = .e8m0 then deliverE8m0 h v
    else if dst = .bs16 then deliverBs16 h v
    else deliverInt (EFmt.unsigned dst) dst.width h src sat v

/-- CVT and CVTS of one element (R135, R146). -/
def convert (dst src : EFmt) (h : Rounding) (ftz sat : Bool) (bits : Nat) : Nat × Fl :=
  let (v, f1) := elemVal src ftz bits
  if EFmt.isScale src = true ∧ dst = src then
    if v.isNan then (if src = .e8m0 then 0xFF else 0xFF00, 0) else (bits % 2 ^ src.width, 0)
  else
    let (z, f2) := deliver dst h ftz sat src.isInt v
    (z, f1 ||| f2 ||| v.sig)

/-! ### The stochastic generator (R136) -/

def mix (z : DWord) : DWord :=
  let z := (z ^^^ (z >>> 30)) * 0xBF58476D1CE4E5B9
  let z := (z ^^^ (z >>> 27)) * 0x94D049BB133111EB
  z ^^^ (z >>> 31)

def nextRng (s : DWord) : DWord := s + 0x9E3779B97F4A7C15
def drawOf (s : DWord) (salt : Word) : Word := hi32 (mix (s ^^^ zext64 salt))

/-! ### Packed slots (R133, R147) -/

/-- Width of a slot and its pitch in a register. -/
def EFmt.pitch (f : EFmt) : Nat := if f.width = 6 then 8 else f.width
def EFmt.slots (f : EFmt) : Nat := 32 / EFmt.pitch f

def slotGet (f : EFmt) (w : Word) (k : Nat) : Nat := w.toNat / 2 ^ (EFmt.pitch f * k) % 2 ^ f.width

/-- PACK: insert a slot, the ignored bits of a 6-bit slot written as zero. -/
def packSlot (f : EFmt) (d a : Word) (k : Nat) : Word :=
  if EFmt.slots f ≤ k then d
  else
    let p := EFmt.pitch f
    let m : Word := BitVec.ofNat 32 (2 ^ p - 1) <<< (p * k)
    (d &&& ~~~m) ||| (BitVec.ofNat 32 (a.toNat % 2 ^ f.width) <<< (p * k))

/-- UNPK: the value of a slot. -/
def unpackSlot (f : EFmt) (f32 : Bool) (a : Word) (k : Nat) : Word × Fl :=
  if EFmt.slots f ≤ k then (0, 0)
  else
    let v := (elemVal f false (slotGet f a k)).1
    if f.isInt && !f32 then (BitVec.ofInt 32 (intOfBits (EFmt.unsigned f) f.width (slotGet f a k)), 0)
    else (BitVec.ofNat 32 (packV fmtF32 .rne false v).1, v.sig)

/-! ### QBLK (R148) -/

/-- The exponent of a format's largest value, and twice its largest magnitude. -/
def qblkQ : EFmt → Int
  | .e5m2 => 15
  | .e4m3 => 8
  | .e3m2 => 4
  | .i8 => 6
  | _ => 2
def qblkL2 : EFmt → Nat
  | .e5m2 => 114688
  | .e4m3 => 896
  | .e3m2 => 56
  | .e2m3 => 15
  | .e2m1 => 12
  | .i8 => 254
  | _ => 14

def qblkF (fmt : EFmt) (bs : Bool) (a : Word) : Nat :=
  match (unpackF fmtF32 false (a.toNat % 2 ^ 31)).1 with
  | .num _ m e =>
    if bs then
      if m = 0 then 0
      else
        let n := m * 2 ^ 65
        (packMag fmtBs16 .rup false true false (n / qblkL2 fmt) (e - 64) (n % qblkL2 fmt != 0)).1
    else if m = 0 then 0x7F
    else (min (max (e + m.log2 - qblkQ fmt) (-127)) 127 + 127).toNat
  | _ => if bs then 0xFF00 else 0xFF

/-! ### Exact sums (R149, R150) -/

/-- The sum of values of which none is a NaN, rounded once; the sign of a zero sum follows R103. -/
def sumMany (rm : Rnd) (ftz : Bool) (vs : List Val) : Nat × Fl :=
  let infs := vs.filter Val.isInf
  if infs ≠ [] then
    let neg := infs.all Val.neg
    if neg || infs.all (fun v => !v.neg) then (fmtF32.signBit neg + fmtF32.infBits, 0) else (fmtF32.nanBits, flNV)
  else
    let t := vs.foldl (fun acc v => acc.add v.dy) ({ n := 0, e := 0 } : Dy)
    if t.n = 0 then
      let zs := vs.all Val.isZero
      let neg := if zs && vs.all Val.neg then true else if zs && vs.all (fun v => !v.neg) then false else rm == .rdn
      (fmtF32.signBit neg, 0)
    else packMag fmtF32 rm ftz false (decide (t.n < 0)) t.n.natAbs t.e false

def Dot4Ty.fmt : Dot4Ty → EFmt
  | .e2m1 => .e2m1
  | .i4 => .i4
def Dot8Ty.fmt : Dot8Ty → EFmt
  | .e5m2 => .e5m2
  | .e4m3 => .e4m3
  | .e3m2 => .e3m2
  | .e2m3 => .e2m3
  | .i8 => .i8
  | .n8 => .n8

/-- DOT4 and DOT8 (R149). A NaN beside 0 × ∞ or opposite infinities gives NV only where vC is a signalling one (DESIGN CHOICE, log entry 33). -/
def dotF (n : Nat) (fa fb : EFmt) (sat : Bool) (a b c : Word) : Word × Fl :=
  let ks := List.range n
  if fa.isInt && fb.isInt then
    let at_ := fun f w k => intOfBits (EFmt.unsigned f) f.width (slotGet f w k)
    (narrow .i sat 32 ((ks.map (fun k => at_ fa a k * at_ fb b k)).foldl (· + ·) 0 + c.toInt), 0)
  else
    let va := ks.map (fun k => (elemVal fa false (slotGet fa a k)).1)
    let vb := ks.map (fun k => (elemVal fb false (slotGet fb b k)).1)
    let vc := (unpackF fmtF32 false c.toNat).1
    if va.any Val.isNan || vb.any Val.isNan || vc.isNan then (BitVec.ofNat 32 fmtF32.nanBits, vc.sig)
    else
      let ps := (va.zip vb).map (fun p => prodV p.1 p.2)
      if ps.contains none then (BitVec.ofNat 32 fmtF32.nanBits, flNV)
      else toWord (sumMany .rne false (ps.filterMap id ++ [vc]))

/-- DOT2H (R150). -/
def dot2hF (f : Fmt) (rm : Rnd) (ftz : Bool) (a b c : Word) : Word × Fl :=
  let el := fun (w : Word) (k : Nat) => unpackF f ftz (w.toNat / 2 ^ (16 * k) % 65536)
  let (a0, g0) := el a 0
  let (a1, g1) := el a 1
  let (b0, g2) := el b 0
  let (b1, g3) := el b 1
  let (vc, g4) := unpackF fmtF32 ftz c.toNat
  let fl := g0 ||| g1 ||| g2 ||| g3 ||| g4 ||| sigFl [a0, a1, b0, b1, vc]
  let bad := fun (x y : Val) => !x.isNan && !y.isNan && prodV x y == none
  let nv : Fl := if bad a0 b0 || bad a1 b1 then flNV else 0
  if [a0, a1, b0, b1, vc].any Val.isNan || nv != 0 then (BitVec.ofNat 32 fmtF32.nanBits, fl ||| nv)
  else
    let (z, f2) := sumMany rm ftz ([prodV a0 b0, prodV a1 b1].filterMap id ++ [vc])
    (BitVec.ofNat 32 z, fl ||| f2)

end Sys2Proof.Machine
end

