-- ==== Sys2Proof/Machine/Access.lean ====
section
/-! DEFINITION. Meanings of the memory access instructions (08). An access is checked and performed at issue, and its counter falls when
it completes (log entry 5). -/

namespace Sys2Proof.Machine

/-! ### Addresses (R168) -/

/-- The offset of an access of scale k. -/
def State.offset (s : State) (r : Ref) (k : Nat) (ux : Bool) (b : Src) : Word :=
  match b with
  | .imm i => BitVec.ofNat 32 k * (if ux then i.setWidth 32 else i.signExtend 32)
  | .v n => s.src32 r (.v n)
  | .g n => s.src32 r (.g n)
  | .lit w => w

/-- The effective address. -/
def State.ea (s : State) (r : Ref) (sp : Space) (a : Reg) (k : Nat) (ux : Bool) (b : Src) : Nat :=
  match sp with
  | .glob => (s.rd64 r a + sext64 (s.offset r k ux b)).toNat
  | .lane | .core | .cmem | .chip => (s.rd r a + s.offset r k ux b).toNat

/-- Bytes of an access. -/
def Size.bytes : Size → Nat
  | .b8 | .s8 => 1
  | .b16 | .s16 => 2
  | .b32 => 4
  | .b64 => 8
  | .b128 => 16

/-- The registers that a load of bytes gives (R182). -/
def loadWords (sz : Size) (bs : List Byte) : List Word :=
  let m := ofBytes bs
  match sz with
  | .s8 => [(BitVec.ofNat 8 m).signExtend 32]
  | .s16 => [(BitVec.ofNat 16 m).signExtend 32]
  | .b8 | .b16 | .b32 | .b64 | .b128 => (toWordsLE m (if bs.length ≤ 4 then 1 else bs.length / 4))
where
  /-- A little-endian number as words. -/
  toWordsLE : Nat → Nat → List Word
    | _, 0 => []
    | m, k + 1 => BitVec.ofNat 32 m :: toWordsLE (m / 2 ^ 32) k

/-- The bytes that a store of registers d, d+1, … writes (R182). -/
def storeBytes (sz : Size) (ws : List Word) : List Byte := ((ws.map bytesOfWord).flatten).take (Size.bytes sz)

/-! ### Loads and stores (R175, R178, R180, R182) -/

/-- The register words of an element of n bytes (R185). -/
def tenWords (f : EFmt) (e : Nat) : List Word :=
  if f.width = 64 then [BitVec.ofNat 32 e, BitVec.ofNat 32 (e / 2 ^ 32)]
  else if f = .i8 ∨ f = .i16 then [BitVec.ofInt 32 (intOfBits false f.width e)]
  else [BitVec.ofNat 32 (e % 2 ^ f.width)]

/-- The register words that a load makes of its bytes. -/
def LoadAs.words : LoadAs → List Byte → List Word
  | .size sz, bs => loadWords sz bs
  | .elem f, bs => tenWords f (ofBytes bs)

/-- The acquire side of a load (R180, R270). -/
def State.acquireAt (s : State) (r : Ref) (o : Order) (w : Where) : State :=
  match o with
  | .rmt _ => s.promote (s.partOf r) w
  | .plain | .sync _ => s

/-- A load that has read its values: a transfer on a vertical bus, or not (R20). -/
def Where.loaded (w : Where) (d : Reg) (ws : List Word) : LoadOp :=
  match w.pa with
  | some pa => if isColumn pa then .fetched pa d ws else .value d ws
  | none => .value d ws

/-- The request to L2 of a core's access to a place (R195). -/
def State.requestAt (s : State) (r : Ref) (w : Where) : Option (Nat × Nat) := w.pa.bind (s.l2Request (s.partOf r) (s.coreOf r))

/-- A place is reached through a column under repair (R20). -/
def State.repairsAt (s : State) (w : Where) : Bool := (w.pa.map s.repairs).getD false

/-- A place lies in a closed Vat part, which refuses every access of a thread (R346). -/
def State.closedAt (s : State) (w : Where) : Bool := (w.pa.map s.vatClosed).getD false

/-- An access issued before its Vat part was closed is refused there: it sets ACCESS in the wave of its thread, if live (R346; log entry 25). -/
def State.refuseLate (s : State) (r : Ref) : State := if (s.thread r).live then s.setCause r causeAccess else s

/-- A load of n bytes aligned to n. It reads at issue, or, behind an earlier operation of its thread, a repair of its column or a change of
domains at its slice, later (R20, R180, R208; log entry 5). -/
def State.load (s : State) (r : Ref) (sp : Space) (o : Order) (ea n : Nat) (d : Reg) (f : LoadAs) : State :=
  match s.check r sp ea n n false false with
  | .error c => s.fail r c
  | .ok (w, t) =>
    let req := s.requestAt r w
    if s.trails r w.loc n || s.repairsAt w || !(s.l2May (s.partOf r) req) then t.pushLoad r (.late req d o w.loc n f)
    else
      let t := t.acquireAt r o w
      t.pushLoad r (w.loaded d (f.words (t.readAt (t.coreOf r) w n)))

/-- The scope at which a store is performed: core scope for a plain one (R180). -/
def Order.storeScope : Order → Scope
  | .sync sc => sc
  | .plain | .rmt _ => .cor

/-- Bytes written by a store; a release carries what the thread did before (R180, R266, R282). -/
def State.storeNow (s : State) (r : Ref) (sc : Scope) (rel : Bool) (w : Where) (bs : List Byte) : State :=
  let s := if rel then s.release r sc else s
  if s.closedAt w then s.refuseLate r
  else
    let s := (s.writeAt (s.partOf r) (s.coreOf r) sc w bs).lay r w
    if rel then s.ownLine (s.coreOf r) sc w else s

/-- A store of a bundle that is still to write some of the n bytes at a location. -/
def StoreOp.writesOf (bun loc n : Nat) (o : StoreOp) : Bool :=
  match o with
  | .write b _ _ l bs => b == bun && spanMeets (some (l, bs.length)) loc n
  | _ => false

/-- A lower thread of the bundle is still to store to some of the bytes (R182). -/
def State.lowerWrites (s : State) (bun : Nat) (r : Ref) (loc n : Nat) : Bool :=
  s.threads.any (fun t => decide (t.tid < r.2) && t.stores.any (StoreOp.writesOf bun loc n))

/-- A store of bytes at their natural alignment, of a bundle: a plain one behind an earlier operation of its thread, or a store of a lower
thread of the bundle, on the same bytes, and a release behind any operation that is not performed, is performed later (R180, R182). -/
def State.store (s : State) (bun : Nat) (r : Ref) (sp : Space) (o : Order) (ea : Nat) (bs : List Byte) : State :=
  match s.check r sp ea bs.length bs.length true false with
  | .error c => s.fail r c
  | .ok (w, t) =>
    let sc := Order.storeScope o
    let rel := o != .plain
    if (rel && s.owes r) || s.trails r w.loc bs.length || s.lowerWrites bun r w.loc bs.length then
      t.pushStore r (.write bun sc rel w.loc bs)
    else (t.storeNow r sc rel w bs).pushStore r (.store sc w.pa)

/-! ### Tensor records (R183, R184, R185) -/

/-- A record's space as a thread's space. -/
def tenThreadSpace (w : List Word) : Option Space :=
  match tenSpace w with
  | 0 => some .lane
  | 1 => some .core
  | 2 => some .cmem
  | 3 => some .chip
  | 4 => some .glob
  | _ => none

/-- R184: the format and space of a record valid for LDT and STT whose coordinates start at register a. -/
def tenValid (w : List Word) (a : Reg) (regs : Nat) : Option (EFmt × Space) :=
  match tenFormat w, tenThreadSpace w with
  | some f, some sp =>
    if tenShape w = true ∧ (sp = .glob ∨ hdrW w 1 = 0) ∧ a.toNat + tenNdim w ≤ regs then some (f, sp) else none
  | _, _ => none

/-- The coordinates (R185). -/
def State.tenX (s : State) (r : Ref) (w : List Word) (a : Reg) : List Int :=
  (List.range (tenNdim w)).map (fun i => tenOrg w i + (s.rd r (a + BitVec.ofNat 8 i)).toInt)

/-- FILL as an element (R185). -/
def tenFill (w : List Word) (f : EFmt) : Nat :=
  if f = .i64 then (sext64 (hdrW w 3)).toNat else if f.width = 64 then (hdrW w 3).toNat else (hdrW w 3).toNat % 2 ^ f.width

/-- The record that a bundle reads, from the state in which it issued (R185): the cause, or its words and the state with the access's
leaf kept. -/
def State.tensor (old s : State) (r : Ref) (b : Src) : Except Nat (List Word × State) :=
  match s.check r .core (s.src32 r b).toNat 128 128 false false with
  | .error c => .error c
  | .ok (w, s) => .ok (wordsOfBytes (old.readAt (s.coreOf r) w 128), s)

/-- What LDT and STT share: the record, its format and space, and, inside, the address. `k` goes on with them. -/
def State.element (old s : State) (r : Ref) (d a : Reg) (b : Src) (k : List Word → EFmt → Space → Option Nat → State → State) : State :=
  match old.tensor s r b with
  | .error c => s.fail r c
  | .ok (w, s1) =>
    let regs := hdrRegs (s.group r.1).hdr
    match tenValid w a regs with
    | none => s.fail r causeAccess
    | some (f, sp) =>
      if f.width = 64 ∧ (d.toNat % 2 = 1 ∨ regs ≤ d.toNat + 1) then s.fail r causeIllegal
      else
        let xs := s.tenX r w a
        k w f sp (if tenInside w xs then some (tenEa w sp xs) else none) s1

/-- LDT and STT read their record as the thread's own earlier stores leave it: behind one, the bundle is held (R180, R185). -/
def State.recordOwed (s : State) (b : Src) (n : Nat) (r : Ref) : Bool := s.trails r (locScratch r.1 (s.src32 r b).toNat) n

/-- LDT for one thread. -/
def State.ldt (old s : State) (r : Ref) (o : Order) (d a : Reg) (b : Src) : State :=
  old.element s r d a b (fun w f sp at_ s =>
    match at_ with
    | some ea => s.load r sp o ea (f.width / 8) d (.elem f)
    | none => s.pushLoad r (.value d (tenWords f (tenFill w f))))

/-- STT for one thread; outside the extents it is suppressed. -/
def State.stt (old s : State) (bun : Nat) (r : Ref) (o : Order) (d a : Reg) (b : Src) : State :=
  old.element s r d a b (fun _ f sp at_ s =>
    match at_ with
    | some ea => s.store bun r sp o ea ((((s.thread r).block d 2).map bytesOfWord).flatten.take (f.width / 8))
    | none => s)

/-! ### Full/empty accesses (R186 to R189) -/

def feSpace (cm : Bool) : Space := if cm then .cmem else .core

/-- The request of a thread that is parked joins those of its word, and is served where the word's state allows. -/
def State.feJoin (s : State) (r : Ref) (loc : Nat) (take : Bool) (ste : Option Word) (d : Reg) : State :=
  let s : State := { s with feQueue := s.feQueue ++ [{ gid := r.1, tid := r.2, loc := loc, take := take, ste := ste, d := d }] }
  s.serveWord loc s.feQueue.length

/-- A request arrives at its word and is served, or its thread parks. -/
def State.feArrive (s : State) (r : Ref) (loc : Nat) (take : Bool) (ste : Option Word) (d : Reg) : State :=
  (s.parkAs r .word).feJoin r loc take ste d

/-- LDF stands behind an earlier operation on its word (R180, R186); STE, a release, behind any that is not performed. -/
def Thread.feBehind (t : Thread) (loc : Nat) (ste : Bool) : Bool :=
  if ste then t.unperformed else t.behind t.ops loc 4 || t.stores.any (fun o => o matches .tags _ _ _)

/-- The location of a full/empty word (R186). -/
def State.feLoc (s : State) (r : Ref) (cm ux : Bool) (a : Reg) (b : Src) : Nat :=
  let ea := s.ea r (feSpace cm) a 4 ux b
  if cm then locCmem ((s.group r.1).cset.getD 0) ea else locScratch r.1 ea

/-- The scope of the full/empty accesses of a location (R187). -/
def feScope (loc : Nat) : Scope := if loc / 2 ^ 64 % 4 = 2 then .clu else .cor

def State.ldf (s : State) (r : Ref) (cm take ux : Bool) (d a : Reg) (b : Src) : State :=
  match s.check r (feSpace cm) (s.ea r (feSpace cm) a 4 ux b) 4 4 false false with
  | .error c => s.fail r c
  | .ok (w, s) => s.feArrive r w.loc take none d

/-- STE, a release (R187). -/
def State.ste (s : State) (r : Ref) (cm ux : Bool) (d a : Reg) (b : Src) : State :=
  match s.check r (feSpace cm) (s.ea r (feSpace cm) a 4 ux b) 4 4 true false with
  | .error c => s.fail r c
  | .ok (w, s) => (s.release r (if cm then .clu else .cor)).feArrive r w.loc false (some (s.rd r d)) d

/-- TAGS: checked as a store of its words at issue; the bits are set, and the release is made, when it is performed. -/
def State.tags (s : State) (r : Ref) (cm full ux : Bool) (a : Reg) (b : Src) (cnt : Nat) : State :=
  match s.check r (feSpace cm) (s.ea r (feSpace cm) a 4 ux b) (4 * cnt) 4 true false with
  | .error c => s.fail r c
  | .ok (w, s) => s.pushStore r (.tags w.loc cnt full)

/-- TAGS is performed: a release, then its bits, each serving the requests that wait on its word (R187, R189). -/
def State.tagsDone (s : State) (r : Ref) (loc cnt : Nat) (full : Bool) : State :=
  (List.range cnt).foldl (fun s k => (s.setFull (loc + 4 * k) full).serveWord (loc + 4 * k) s.feQueue.length) (s.release r (feScope loc))

/-- Bytes of the allocation that a full/empty space has. -/
def State.feSize (s : State) (r : Ref) (cm : Bool) : Nat := if cm then s.cmemSize r.1 else hdrScratch (s.group r.1).hdr

/-- The full/empty bits of the words in the n bytes at a location (R189). -/
def State.fullBits (s : State) (loc n : Nat) : Word :=
  (List.range 32).foldl (fun (v : Word) i => if 4 * i < n && s.isFull (loc + 4 * i) then v ||| (1#32 <<< i) else v) 0

/-- TAGQ: words beyond the allocation read as 0; only those within it are checked against the locks. Behind an earlier TAGS of the thread
it reads later (R180). -/
def State.tagq (s : State) (r : Ref) (cm ux : Bool) (d a : Reg) (b : Src) : State :=
  let sp := feSpace cm
  let ea := s.ea r sp a 4 ux b
  if ea % 128 ≠ 0 then s.fail r causeAlign
  else
    let n := Nat.min 128 (s.feSize r cm - ea)
    let hit :=
      match s.rngOf r sp ea n with
      | some x => s.lockHit (s.dieOf r) (s.partOf r) x false
      | none => false
    if hit then s.fail r causeLockhit
    else
      let loc := s.feLoc r cm ux a b
      if (s.thread r).stores.any (fun o => o matches .tags _ _ _) || (s.thread r).loads.any LoadOp.acquires then s.pushLoad r (.tagq d loc n)
      else s.pushLoad r (.value d [s.fullBits loc n])

/-! ### Meanings -/

/-- R182; the compact form is LD.core.b32 with an unsigned scaled offset (R47, R178). -/
def execLdCompact (d a : Reg) (b : BitVec 8) (s : State) : Host.Outcome State Fault Refusal :=
  .next (s.each .always (fun s r => s.load r .core .plain (s.ea r .core a 4 true (.imm b)) 4 d (.size .b32)))

/-- R182. -/
def execLd (g : Guard) (sp : Space) (sz : Size) (ux : Bool) (o : Order) (d a : Reg) (b : Src) (s : State) :
    Host.Outcome State Fault Refusal :=
  .next (s.each g (fun s r => s.load r sp o (s.ea r sp a (Size.bytes sz) ux b) (Size.bytes sz) d (.size sz)))

/-- R185. -/
def execLdt (g : Guard) (o : Order) (d a : Reg) (b : Src) (s : State) : Host.Outcome State Fault Refusal :=
  .next (s.eachAfter g (fun s r => s.recordOwed b 128 r) (fun t r => s.ldt t r o d a b))

/-- R182; the compact form is ST.core.b32 (R47, R178). -/
def execStCompact (d a : Reg) (b : BitVec 8) (s : State) : Host.Outcome State Fault Refusal :=
  .next (s.bump.each .always (fun t r => t.store s.serial r .core .plain (t.ea r .core a 4 true (.imm b)) (bytesOfWord (t.rd r d))))

/-- R182. -/
def execSt (g : Guard) (sp : Space) (sz : Size) (ux : Bool) (o : Order) (d a : Reg) (b : Src) (s : State) :
    Host.Outcome State Fault Refusal :=
  .next (s.bump.each g (fun t r =>
    t.store s.serial r sp o (t.ea r sp a (Size.bytes sz) ux b) (storeBytes sz ((t.thread r).block d sz.regs))))

/-- R185. -/
def execStt (g : Guard) (o : Order) (d a : Reg) (b : Src) (s : State) : Host.Outcome State Fault Refusal :=
  .next (s.bump.eachAfter g (fun s r => s.recordOwed b 128 r) (fun t r => s.stt t s.serial r o d a b))

/-- R187: the requests of a bundle arrive together, behind earlier operations of its threads. -/
def execLdf (g : Guard) (cm take ux : Bool) (d a : Reg) (b : Src) (s : State) : Host.Outcome State Fault Refusal :=
  .next (s.eachAfter g (fun s r => (s.thread r).feBehind (s.feLoc r cm ux a b) false) (fun s r => s.ldf r cm take ux d a b))

/-- R187. -/
def execSte (g : Guard) (cm ux : Bool) (d a : Reg) (b : Src) (s : State) : Host.Outcome State Fault Refusal :=
  .next (s.eachAfter g (fun s r => (s.thread r).feBehind (s.feLoc r cm ux a b) true) (fun s r => s.ste r cm ux d a b))

/-- R189; the field holds the count less one (R177). -/
def execTags (g : Guard) (cm full ux : Bool) (a : Reg) (b : Src) (cnt : BitVec 8) (s : State) :
    Host.Outcome State Fault Refusal :=
  .next (s.each g (fun s r => s.tags r cm full ux a b (cnt.toNat + 1)))

/-- R189. -/
def execTagq (g : Guard) (cm ux : Bool) (d a : Reg) (b : Src) (s : State) : Host.Outcome State Fault Refusal :=
  .next (s.each g (fun s r => s.tagq r cm ux d a b))

/-! ### PREF (R190) -/

/-- A line is brought into the level named: the core's data cache, L2, or the layer ways. -/
def State.bring (s : State) (part core pa : Nat) (lv : PLevel) : State :=
  match lv with
  | .dc => s.touch part core pa
  | .l2 => s.touchBelow part pa
  | .lay => if isLpddr pa then s.touchWay part pa else s

/-- One line of PREF: dropped where a check of R175 fails, in a locked destination range, and where its way is held (R190). -/
def State.prefLine (s : State) (r : Ref) (lv : PLevel) (va : Nat) : State :=
  let part := s.partOf r
  let core := s.coreOf r
  match s.page part core va 64 .read with
  | .error _ => s
  | .ok (l, pa) =>
    if s.lockHit (s.dieOf r) part { sp := .glob, owner := 0, lo := va, len := 64 } false || s.pathHeld part pa then s
    else (s.keepLeaf part core va l).bring part core pa lv

/-- The lines of a request: from the address rounded down, to the end of its page of 4 KiB at most. -/
def prefLines (ea cnt : Nat) : List Nat :=
  ((List.range cnt).map (fun k => ea / 64 * 64 + 64 * k)).filter (fun va => va / 4096 == ea / 4096)

/-- R190: no register, counter or cause changes; the count field holds the lines less one (R177). -/
def execPref (g : Guard) (lv : PLevel) (ux : Bool) (a : Reg) (b : Src) (cnt : BitVec 8) (s : State) :
    Host.Outcome State Fault Refusal :=
  .next (s.each g (fun s r => (prefLines (s.ea r .glob a 64 ux b) (cnt.toNat + 1)).foldl (fun s va => s.prefLine r lv va) s))

end Sys2Proof.Machine
end

