-- ==== Sys2Proof/Machine/Atomics.lean ====
section
/-! DEFINITION. Meanings of the atomic and barrier instructions (11), and the events that perform atomics and count arrivals. An atomic
is checked at issue and performed whole at its place later (R243; log entry 5). -/

namespace Sys2Proof.Machine

/-! ### Performing an atomic (R239 to R251) -/

/-- The place of an atomic. -/
def AtomReq.place (a : AtomReq) : Where := placeOf a.loc

/-- The new value of an integer operation on n bytes (R248). -/
def intAtom (op : AOp) (n old b : Nat) : Nat :=
  let m := 2 ^ (8 * n)
  let sx := fun (x : Nat) => if m / 2 ≤ x then (x : Int) - m else x
  match op with
  | .add => (old + b) % m
  | .minI => if sx old ≤ sx b then old else b
  | .maxI => if sx old ≤ sx b then b else old
  | .minN => Nat.min old b
  | .maxN => Nat.max old b
  | .and => old &&& b
  | .or => old ||| b
  | .xor => old ^^^ b
  | .exch => b
  | .incw => if b ≤ old then 0 else old + 1

/-- The new value of a float operation; no flag is kept (R250). -/
def fltAtom (op : AFOp) (old b : Nat) : Nat :=
  let pair := fun (f : Fmt) => (pairF (addF f .rne false false false) (BitVec.ofNat 32 old) (BitVec.ofNat 32 b)).1.toNat
  match op with
  | .addF32 => (addF fmtF32 .rne false false false old b).1
  | .minF32 => (minmaxF fmtF32 false false false false old b).1
  | .maxF32 => (minmaxF fmtF32 true false false false old b).1
  | .addF16 => pair fmtF16
  | .addBf16 => pair fmtBf16

/-- What the location holds after an atomic that found `old`; a failed comparison writes nothing (R249). -/
def AtomReq.after (a : AtomReq) (old : Nat) : Option Nat :=
  if a.cas then (if old = a.opnd.toNat then some a.new.toNat else none)
  else
    match a.op with
    | .int o => some (intAtom o a.n old a.opnd.toNat)
    | .flt o => some (fltAtom o old a.opnd.toNat)

/-- A place of cluster scope or wider recalls the line from the data caches first (R241). -/
def State.recallAt (s : State) (part : Nat) (sc : Scope) (w : Where) : State :=
  match w with
  | .own _ => s
  | .phys pa => if 4 ≤ sc.num then s.recall part pa else s

/-- One indivisible step at the place: the value found, and the state after it (R243, R270). -/
def State.atomicAt (s : State) (r : Ref) (a : AtomReq) : Nat × State :=
  let part := s.partOf r
  let core := s.coreOf r
  let w := a.place
  let s := s.lay r w
  let s := if a.rmt then s.promote part w else s
  let s := s.recallAt part a.scope w
  let old := ofBytes (s.readAt core w a.n)
  match a.after old with
  | none => (old, s.ownLine core a.scope w)
  | some new =>
    let s := if a.kind = .rel ∨ a.kind = .ar then s.release r a.scope else s
    (old, (s.writeAt part core a.scope w (toBytes a.n new)).ownLine core a.scope w)

/-! ### Issue -/

/-- The address of an atomic (R244). -/
def State.atomEa (s : State) (r : Ref) (sp : Space) (a : Reg) : Nat :=
  match sp with
  | .glob => (s.rd64 r a).toNat
  | .lane | .core | .cmem | .chip => (s.rd r a).toNat

/-- A request of a bundle, whose place is known. -/
def AOrd.request (o : AOrd) (bun : Nat) (op : REDOp) (cas : Bool) (opnd new : DWord) (loc : Nat) : AtomReq :=
  { bun := bun, loc := loc, n := if o.x64 then 8 else 4, kind := o.kind, rmt := o.rmt, scope := o.scope, op := op, cas := cas, opnd := opnd,
    new := new }

/-- The checks of R244, then `k` with the location. -/
def State.atomAsk (s : State) (r : Ref) (sp : Space) (n : Nat) (a : Reg) (k : State → Nat → State) : State :=
  match s.check r sp (s.atomEa r sp a) n n true false with
  | .error c => s.fail r c
  | .ok (w, s) => k s w.loc

/-- An atomic that returns the old value. -/
def State.atom (s : State) (bun : Nat) (r : Ref) (sp : Space) (o : AOrd) (op : REDOp) (cas : Bool) (opnd new : DWord) (d a : Reg) : State :=
  s.atomAsk r sp (if o.x64 then 8 else 4) a (fun s loc => s.pushLoad r (.atomic d (AOrd.request o bun op cas opnd new loc)))

/-- Operand b of a float atomic (R246). -/
def State.srcAF (s : State) (r : Ref) (op : AFOp) (b : Src) : DWord :=
  match op with
  | .addF16 => zext64 (s.srcH r false b)
  | .addBf16 => zext64 (s.srcH r true b)
  | .addF32 | .minF32 | .maxF32 => zext64 (s.srcF r b)

/-- Operand b of RED. -/
def State.srcRed (s : State) (r : Ref) (x64 : Bool) (op : REDOp) (b : Src) : DWord :=
  match op with
  | .int _ => s.srcW r x64 b
  | .flt o => s.srcAF r o b

/-- RED: an atomic that returns nothing (R251). -/
def State.red (s : State) (bun : Nat) (r : Ref) (sp : Space) (o : AOrd) (op : REDOp) (a : Reg) (b : Src) : State :=
  s.atomAsk r sp (if o.x64 then 8 else 4) a (fun s loc => s.pushStore r (.red (AOrd.request o bun op false (s.srcRed r o.x64 op b) 0 loc)))

/-! ### Barriers (R252 to R260) -/

/-- The cluster barrier's record holder: the cluster of the core. -/
def State.barOf (s : State) (r : Ref) (clu : Bool) (n : Nat) : Option Bar :=
  let g := s.group r.1
  if clu then
    (s.cbars.find? (fun b =>
      b.1 == clusterOfCore g.core && b.2.n == n && (match s.cset b.2.owner with | some c => c.part == g.part | none => false))).map
      (fun b => b.2)
  else (s.ctxOf r).bars.find? (fun b => b.n == n)

/-- The thread's party for a kind of barrier; none where the group has no cluster set. -/
def State.party (s : State) (g : Nat) (clu : Bool) : Option Nat := if clu then (s.group g).cset else some g

/-- The barrier exists for the thread (R252, R256 status 4). -/
def State.barExists (s : State) (r : Ref) (clu : Bool) (n : Nat) : Bool :=
  let g := s.group r.1
  if clu then !isControl g.core && g.cset.isSome else !isControl g.core || decide (n < 16)

/-- The barrier, if the thread's party owns it. -/
def State.myBar (s : State) (r : Ref) (clu : Bool) (n : Nat) : Option Bar :=
  if s.barExists r clu n then (s.barOf r clu n).filter (fun b => s.party r.1 clu == some b.owner) else none

/-- Replace an owned barrier. -/
def State.setBar (s : State) (r : Ref) (clu : Bool) (b : Bar) : State :=
  if clu then
    { s with cbars := s.cbars.map (fun x =>
        if x.1 == clusterOfCore (s.coreOf r) && x.2.n == b.n && x.2.owner == b.owner then (x.1, b) else x) }
  else s.updCtxOf r (fun c => { c with bars := c.bars.map (fun x => if x.n == b.n then b else x) })

/-- Claim a free barrier. -/
def State.addBar (s : State) (r : Ref) (clu : Bool) (b : Bar) : State :=
  if clu then { s with cbars := s.cbars ++ [(clusterOfCore (s.coreOf r), b)] }
  else s.updCtxOf r (fun c => { c with bars := c.bars ++ [b] })

/-- A thread waits for the barrier's next flip. -/
def State.isWaiter (s : State) (r : Ref) (clu : Bool) (n : Nat) (t : Thread) : Bool :=
  t.park == .bar clu n && t.live && s.party t.gid clu == s.party r.1 clu

/-- Every waiter becomes ready at a flip. -/
def State.flipWake (s : State) (r : Ref) (clu : Bool) (n : Nat) : State :=
  { s with threads := s.threads.map (fun t => if s.isWaiter r clu n t then { t with park := .ready } else t) }

/-- A flip of a named barrier counts for the running stream of its group (R305). -/
def State.flipStream (s : State) (g : Nat) (clu : Bool) (n : Nat) : State :=
  if clu then s
  else
    s.updGroup g (fun x =>
      { x with stream := x.stream.map (fun m =>
          { m with flips := upsert (fun p => p.1 == n) (n, 0) (fun p => (n, p.2 + 1)) m.flips }) })

/-- An arrival on an owned barrier is counted; the one that completes the count flips it (R253). -/
def State.tickBar (s : State) (r : Ref) (clu : Bool) (n : Nat) (b : Bar) : State :=
  if b.cnt + 1 = b.exp then ((s.setBar r clu { b with cnt := 0, ph := !b.ph }).flipWake r clu n).flipStream r.1 clu n
  else s.setBar r clu { b with cnt := b.cnt + 1 }

/-- The oldest arrival of a thread leaves its list. -/
def Thread.popStore (t : Thread) : Thread := { t with stores := t.stores.tail }

/-- One arrival is counted: its token, and the flip when the count is complete (R253, R257). -/
def State.arriveOne (s : State) (r : Ref) (clu : Bool) (n : Nat) (sync : Bool) (d : Option Reg) : State :=
  let s := (s.release r (if clu then .clu else .grp)).upd r Thread.popStore
  match s.myBar r clu n with
  | none => s
  | some b =>
    let s :=
      match d with
      | some k => s.upd r (fun t => t.setReg k (boolW b.ph))
      | none => s
    let s := if sync ∧ (s.thread r).park = .barArrive clu n then s.upd r (fun t => { t with park := .bar clu n }) else s
    s.tickBar r clu n b

/-- A pending arrival of a bundle. -/
def StoreOp.ofBundle (bun : Nat) (o : StoreOp) : Bool := match o with | .arrive k _ _ _ _ => k == bun | _ => false

/-- The operations that a thread issued before its arrival of a bundle have been performed (R254). -/
def Thread.mayArrive (bun : Nat) (t : Thread) : Bool :=
  (match t.stores with | o :: _ => o.ofBundle bun | [] => false) && t.loadOps.all (fun p => decide (t.storeNo < p.2))

/-- The threads whose arrivals belong to a bundle, in ascending `%tid`. -/
def State.arrivers (s : State) (bun : Nat) : List Thread :=
  sortKey (fun t => [t.tid]) (s.threads.filter (fun t => t.stores.any (fun o => o.ofBundle bun)))

/-- An operation on a barrier that has issued and is still to be performed: an arrival, BINIT or BQRY. -/
def StoreOp.onBar (clu : Bool) (n : Nat) (o : StoreOp) : Bool := match o with | .arrive _ c m _ _ => c == clu && m == n | _ => false
def LoadOp.onBar (clu : Bool) (n : Nat) (o : LoadOp) : Bool :=
  match o with
  | .binit _ c m _ | .bqry _ c m => c == clu && m == n
  | _ => false

/-- An operation of the thread on the barrier is still pending: its operations on one barrier are performed in issue order (R253). -/
def Thread.barLeft (t : Thread) (clu : Bool) (n : Nat) : Bool := t.stores.any (StoreOp.onBar clu n) || t.loads.any (LoadOp.onBar clu n)

/-- One that it issued before the operation numbered k is. -/
def Thread.barBefore (t : Thread) (k : Nat) (clu : Bool) (n : Nat) : Bool :=
  t.storeOps.any (fun p => decide (p.2 < k) && p.1.onBar clu n) || t.loadOps.any (fun p => decide (p.2 < k) && p.1.onBar clu n)

/-- The limit of the expected count (R252). -/
def barLimit (clu : Bool) : Nat := if clu then 8192 else 1024

/-- BINIT's status, the lowest that applies, from the barrier as it stands (R256). -/
def State.binitStatus (s : State) (r : Ref) (clu : Bool) (n e : Nat) : Nat :=
  let bad := if e = 0 ∨ barLimit clu < e then 3 else if s.barExists r clu n then 0 else 4
  match s.barOf r clu n with
  | none => bad
  | some b =>
    if s.party r.1 clu ≠ some b.owner then 1
    else if b.cnt ≠ 0 ∨ s.threads.any (s.isWaiter r clu n) = true then 2
    else bad

/-- What BINIT does to the barrier. -/
def State.binitDo (s : State) (r : Ref) (clu : Bool) (n e : Nat) : State :=
  if s.binitStatus r clu n e ≠ 0 then s
  else
    match s.barOf r clu n with
    | some b => s.setBar r clu { b with exp := e }
    | none => s.addBar r clu { n := n, owner := (s.party r.1 clu).getD 0, exp := e, cnt := 0, ph := false }

/-- BINIT; behind the thread's own operations on the barrier it is performed later (R253). -/
def State.binit (s : State) (r : Ref) (clu : Bool) (n : Nat) (d : Reg) (e : Nat) : State :=
  if (s.thread r).barLeft clu n then s.pushLoad r (.binit d clu n e)
  else (s.pushLoad r (.value d [BitVec.ofNat 32 (s.binitStatus r clu n e)])).binitDo r clu n e

/-- BARV and BSYNC for one thread (R257, R258). -/
def State.barv (s : State) (bun : Nat) (r : Ref) (clu : Bool) (n : Nat) (sync : Bool) (d : Option Reg) : State :=
  match s.myBar r clu n with
  | none => s.fail r causeBarerr
  | some _ =>
    let s := s.pushStore r (.arrive bun clu n sync d)
    if sync then s.parkAs r (.barArrive clu n) else s

/-- BWAIT; behind the thread's own operations on the barrier it takes its token and tests the phase later (R253, R257). -/
def State.bwait (s : State) (r : Ref) (clu : Bool) (n : Nat) (a : Reg) : State :=
  match s.myBar r clu n with
  | none => s.fail r causeBarerr
  | some b =>
    if (s.thread r).barLeft clu n then s.parkAs r (.barSoon clu n a)
    else if b.ph = (s.rd r a).getLsbD 0 then s.parkAs r (.bar clu n) else s

/-- The token is taken and the phase tested once the thread's own operations on the barrier are performed: a BARV of its own has then written
its token. -/
def State.bwaitGo (s : State) (r : Ref) (clu : Bool) (n : Nat) (a : Reg) : State :=
  match s.myBar r clu n with
  | none => s.wake r
  | some b => if b.ph = (s.rd r a).getLsbD 0 then s.upd r (fun t => { t with park := .bar clu n }) else s.wake r

/-- The snapshot of BQRY (R260). -/
def Bar.word (b : Bar) (mine : Bool) : Word := BitVec.ofNat 32 (b.cnt % 2 ^ 15 + b.exp % 2 ^ 15 * 2 ^ 15) ||| (boolW mine <<< 30) |||
  (boolW b.ph <<< 31)

/-- The hardware has the barrier at all: named ones of the core, cluster ones of its cluster (R252). -/
def barPresent (core : Nat) (clu : Bool) (n : Nat) : Bool := !isControl core || (!clu && decide (n < 16))

/-- What BQRY reads; a barrier that is free reads with owner, EXP and CNT 0; PH of a free barrier, and a barrier that the hardware does not
have, is a free value (log entry 10). -/
def State.bqryVal (s : State) (r : Ref) (clu : Bool) (n : Nat) : Word :=
  if !(barPresent (s.coreOf r) clu n) then lo32 s.freeVal
  else
    match s.barOf r clu n with
    | some b => b.word (s.party r.1 clu == some b.owner)
    | none => boolW (s.freeVal.getLsbD 0) <<< 31

/-- The reading takes a free value. -/
def State.bqryFree (s : State) (r : Ref) (clu : Bool) (n : Nat) : Bool := !(barPresent (s.coreOf r) clu n) || (s.barOf r clu n).isNone

/-- BQRY: the thread never waits; behind its own operations on the barrier the snapshot is taken later (R253, R260). -/
def State.bqry (s : State) (r : Ref) (clu : Bool) (n : Nat) (d : Reg) : State :=
  if (s.thread r).barLeft clu n then s.pushLoad r (.bqry d clu n)
  else (if s.bqryFree r clu n then s.drawn else s).pushLoad r (.value d [s.bqryVal r clu n])

/-! ### Meanings -/

/-- R244, R248. -/
def execAtom (g : Guard) (op : AOp) (sp : Space) (o : AOrd) (d a : Reg) (b : Src) (s : State) : Host.Outcome State Fault Refusal :=
  .next (s.bump.each g (fun t r => t.atom s.serial r sp o (.int op) false (t.srcW r o.x64 b) 0 d a))

/-- R244, R249: vD gives the new value. -/
def execCas (g : Guard) (sp : Space) (o : AOrd) (d a : Reg) (b : Src) (s : State) : Host.Outcome State Fault Refusal :=
  .next (s.bump.each g (fun t r => t.atom s.serial r sp o (.int .exch) true (t.srcW r o.x64 b) (t.rdW r o.x64 d) d a))

/-- R244, R250. -/
def execAtomf (g : Guard) (op : AFOp) (sp : Space) (o : AOrd) (d a : Reg) (b : Src) (s : State) :
    Host.Outcome State Fault Refusal :=
  .next (s.bump.each g (fun t r => t.atom s.serial r sp o (.flt op) false (t.srcAF r op b) 0 d a))

/-- R244, R251. -/
def execRed (g : Guard) (op : REDOp) (sp : Space) (o : AOrd) (a : Reg) (b : Src) (s : State) : Host.Outcome State Fault Refusal :=
  .next (s.bump.each g (fun t r => t.red s.serial r sp o op a b))

/-- R256. -/
def execBinit (g : Guard) (clu : Bool) (n : BitVec 6) (d : Reg) (b : Src) (s : State) : Host.Outcome State Fault Refusal :=
  .next (s.each g (fun s r => s.binit r clu n.toNat d (s.src32 r b).toNat))

/-- R254, R257, R258. -/
def execBarv (g : Guard) (clu : Bool) (n : BitVec 6) (d : Reg) (s : State) : Host.Outcome State Fault Refusal :=
  .next (s.bump.each g (fun t r => t.barv s.serial r clu n.toNat false (some d)))

/-- R257, R258. -/
def execBwait (g : Guard) (clu : Bool) (n : BitVec 6) (a : Reg) (s : State) : Host.Outcome State Fault Refusal :=
  .next (s.each g (fun s r => s.bwait r clu n.toNat a))

/-- R257, R258. -/
def execBsync (g : Guard) (clu : Bool) (n : BitVec 6) (s : State) : Host.Outcome State Fault Refusal :=
  .next (s.bump.each g (fun t r => t.barv s.serial r clu n.toNat true none))

/-- R260. -/
def execBqry (g : Guard) (clu : Bool) (n : BitVec 6) (d : Reg) (s : State) : Host.Outcome State Fault Refusal :=
  .next (s.each g (fun s r => s.bqry r clu n.toNat d))

/-! ### Events -/

/-- The old value reaches the atomic's destination. -/
def AtomReq.dest (a : AtomReq) (d : Reg) (old : Nat) (t : Thread) : Thread :=
  if a.n = 8 then t.setPair d (BitVec.ofNat 64 old) else t.setReg d (BitVec.ofNat 32 old)

/-- A pending atomic of a bundle on the n bytes at a location. -/
def AtomReq.same (a b : AtomReq) : Bool := a.bun == b.bun && spanMeets (some (a.loc, a.n)) b.loc b.n
def Thread.atoms (t : Thread) : List AtomReq :=
  t.loads.filterMap (fun o => match o with | .atomic _ a => some a | _ => Option.none) ++
  t.stores.filterMap (fun o => match o with | .red a => some a | _ => Option.none)

/-- The atomic of a thread numbered k may be performed: nothing of the thread on its bytes and no acquire stands before it, a release stands
behind everything earlier, atomics of its bundle on its location go in ascending `%tid`, and neither a repair of its column nor a change of
domains at its slice holds it (R20, R208, R242, R244, R245). -/
def State.atomMay (s : State) (r : Ref) (a : AtomReq) (k : Nat) : Bool :=
  let t := s.thread r
  !(t.behind k a.loc a.n) && (!(a.kind == .rel || a.kind == .ar) || t.doneBefore k) && !((a.place.pa.map (s.pathHeld (s.partOf r))).getD false) &&
  !(s.threads.any (fun u => decide (u.tid < t.tid) && u.atoms.any (fun b => a.same b)))

/-- R243: group a, thread b; its oldest load, or else its oldest store, is an atomic that may be performed, and it is performed whole, or
refused in a Vat part that has been closed since it issued (R346). -/
def execAtomicPerformed (s : State) : Host.Outcome State Fault Refusal :=
  .next (
    let r : Ref := (s.arg.a, s.arg.b)
    let t := s.thread r
    let byStore : State :=
      match t.stores with
      | .red a :: _ =>
        if !(s.atomMay r a t.storeNo) then s
        else if s.closedAt a.place then (s.refuseLate r).upd r Thread.popStore
        else ((s.atomicAt r a).2).upd r Thread.popStore
      | _ => s
    match t.loads with
    | .atomic d a :: _ =>
      if !(s.atomMay r a t.loadNo) then byStore
      else if s.closedAt a.place then (s.refuseLate r).upd r (fun t => { t with loads := t.loads.tail })
      else
        let x := s.atomicAt r a
        x.2.upd r (fun t => a.dest d x.1 { t with loads := t.loads.tail })
    | _ => byStore)

/-- R253, R254: group a, thread b; the arrivals of the bundle to which the thread's oldest pending arrival belongs are counted in one
step, in ascending `%tid`, once every one of its threads may arrive. -/
def execBarrierArrivalCounted (s : State) : Host.Outcome State Fault Refusal :=
  .next (
    match (s.thread (s.arg.a, s.arg.b)).stores with
    | .arrive bun clu n sync d :: _ =>
      let ts := s.arrivers bun
      if ts.all (Thread.mayArrive bun) then ts.foldl (fun s t => s.arriveOne (t.gid, t.tid) clu n sync d) s else s
    | _ => s)

/-- The threads of a party that are live. -/
def State.liveParty (s : State) (g : Nat) (clu : Bool) : List Thread :=
  s.threads.filter (fun t => t.live && s.party t.gid clu == s.party g clu)

/-- An arrival on a barrier of the party is still to be counted: it can still come (R259). -/
def State.arrivalDue (s : State) (g : Nat) (clu : Bool) : Bool :=
  s.threads.any (fun t => s.party t.gid clu == s.party g clu && t.stores.any (fun o => o matches .arrive _ _ _ _ _))

/-- The state that R259 names, for a party: a group's threads on its named barriers, a set's threads on barriers of either kind. -/
def State.barDead (s : State) (g : Nat) (clu : Bool) : Bool :=
  let ts := s.liveParty g clu
  (s.party g clu).isSome && !ts.isEmpty && ts.all (fun t => match t.park with | .bar c _ => clu || !c | _ => false) && !(s.arrivalDue g clu) &&
  s.groups.all (fun x => s.party x.gid clu != s.party g clu || (match x.stream with | some m => m.window.isEmpty && (m.ended || m.fault.isSome) | none => true))

/-- BARERR for one waiter: with the cause enabled the wait is withdrawn and the thread stands at its BWAIT or BSYNC (R259, R423). -/
def State.barWithdraw (s : State) (t : Thread) : State :=
  let r : Ref := (t.gid, t.tid)
  let s := s.setCause r causeBarerr
  if s.enters r causeBarerr then s.upd r (fun t => { t with park := .ready, pc := t.parkPc }) else s

/-- R259: group a; its party, or its cluster set, can never reach a flip. -/
def execBarrierDeadlockDetect (s : State) : Host.Outcome State Fault Refusal :=
  .next (
    let g := s.arg.a
    let clu := !(s.barDead g false)
    if s.barDead g clu then (s.liveParty g clu).foldl State.barWithdraw s else s)

end Sys2Proof.Machine
end

