-- ==== Sys2Proof/Machine/Narrow.lean ====
section
/-! DEFINITION. Meanings of the narrow-format and conversion instructions and of the operand-buffer reservations (06). -/

namespace Sys2Proof.Machine

/-! ### Conversion (R146 to R150) -/

/-- Bits of a conversion's source: a pair for 64-bit formats, else the register, whose higher bits the element ignores (R146). -/
def State.cvtBits (s : State) (r : Ref) (src : EFmt) (a : Reg) : Nat :=
  if src.width = 64 then (s.rd64 r a).toNat else (s.rd r a).toNat % 2 ^ src.width

/-- A conversion's result: a pair for 64-bit formats, else a register with the higher bits zero (R146). -/
def State.cvtPut (s : State) (r : Ref) (dst : EFmt) (d : Reg) (z : Nat × Fl) : State :=
  (s.putW r (dst.width == 64) d (BitVec.ofNat 64 z.1)).addFlags r z.2

/-- R146. -/
def execCvt (g : Guard) (dst src : EFmt) (rm : Rnd) (sat ftz : Bool) (d a : Reg) (s : State) : Host.Outcome State Fault Refusal :=
  .next (s.each g (fun s r => s.cvtPut r dst d (convert dst src (.mode rm) ftz sat (s.cvtBits r src a))))

/-- R136, R137, R146: the generator state advances, then the draw decides. -/
def execCvts (g : Guard) (dst src : EFmt) (sat ftz : Bool) (d a : Reg) (b : Src) (s : State) : Host.Outcome State Fault Refusal :=
  .next (s.each g (fun s r =>
    let st := nextRng (s.thread r).rng
    let z := convert dst src (.draw (drawOf st (s.src32 r b)).toNat) ftz sat (s.cvtBits r src a)
    (s.upd r (fun t => { t with rng := st })).cvtPut r dst d z))

/-- R147. -/
def execPack (g : Guard) (fmt : EFmt) (d a : Reg) (b : Src) (s : State) : Host.Outcome State Fault Refusal :=
  .next (s.each g (fun s r => s.put r d (packSlot fmt (s.rd r d) (s.rd r a) (s.src32 r b).toNat)))

/-- R147. -/
def execUnpk (g : Guard) (fmt : EFmt) (f32 : Bool) (d a : Reg) (b : Src) (s : State) : Host.Outcome State Fault Refusal :=
  .next (s.each g (fun s r => s.putF r d (unpackSlot fmt f32 (s.rd r a) (s.src32 r b).toNat)))

/-- R148. -/
def execQblk (g : Guard) (fmt : EFmt) (bs : Bool) (d a : Reg) (s : State) : Host.Outcome State Fault Refusal :=
  .next (s.each g (fun s r => s.put r d (BitVec.ofNat 32 (qblkF fmt bs (s.rd r a)))))

/-- R149. -/
def execDot4 (g : Guard) (fa fb : Dot4Ty) (sat : Bool) (d a : Reg) (b : Src) (c : Reg) (s : State) :
    Host.Outcome State Fault Refusal :=
  .next (s.each g (fun s r => s.putF r d (dotF 8 (Dot4Ty.fmt fa) (Dot4Ty.fmt fb) sat (s.rd r a) (s.src32 r b) (s.rd r c))))

/-- R149. -/
def execDot8 (g : Guard) (fa fb : Dot8Ty) (sat : Bool) (d a : Reg) (b : Src) (c : Reg) (s : State) :
    Host.Outcome State Fault Refusal :=
  .next (s.each g (fun s r => s.putF r d (dotF 4 (Dot8Ty.fmt fa) (Dot8Ty.fmt fb) sat (s.rd r a) (s.src32 r b) (s.rd r c))))

/-- R150. -/
def execDot2h (g : Guard) (m : FMod) (d a : Reg) (b : Src) (c : Reg) (s : State) : Host.Outcome State Fault Refusal :=
  .next (s.each g (fun s r => s.putF r d (dot2hF (pairFmt m.bf) m.rm m.ftz (s.rd r a) (s.srcH r m.bf b) (s.rd r c))))

/-! ### Operand-buffer ranges (R138 to R143, R151 to R153) -/

/-- Fields of a reservation record (R139). -/
def recFmt (w : List Word) : Nat := bitsOf (hdrW w 0) 4 0
def recBl (w : List Word) : Nat := bitsOf (hdrW w 0) 6 5
def recSk (w : List Word) : Nat := bitsOf (hdrW w 0) 8 7
def recWide (w : List Word) : Nat := bitsOf (hdrW w 0) 10 9
def recNr (w : List Word) : Nat := bitsOf (hdrW w 0) 13 11
def recBase (w : List Word) : Nat := bitsOf (hdrW w 1) 18 0
def recSize (w : List Word) : Nat := bitsOf (hdrW w 2) 19 0
def recNelem (w : List Word) : Nat := bitsOf (hdrW w 3) 20 0
def recSoff (w : List Word) : Nat := bitsOf (hdrW w 4) 18 0
def recWoff (w : List Word) : Nat := bitsOf (hdrW w 5) 18 0
def recRung (w : List Word) (k : Nat) : Nat := (hdrW w 6).toNat / 2 ^ (8 * k) % 32
def recBlock (w : List Word) : Nat := 16 * 2 ^ recBl w

/-- Widths of the formats that a record may name (R140). -/
def recFmtWidth (c : Nat) : Option Nat :=
  if c = 1 ∨ c = 2 ∨ c = 10 then some 16
  else if c = 3 ∨ c = 4 ∨ c = 9 ∨ c = 13 then some 8
  else if c = 5 ∨ c = 6 then some 6
  else if c = 7 ∨ c = 8 then some 4
  else none

/-- Bytes of a record's three regions: data, scales, wide copy (R140). -/
def recData (w : List Word) : Nat := (recNelem w * (recFmtWidth (recFmt w)).getD 0 + 7) / 8
def recScales (w : List Word) : Nat := if recSk w = 0 then 0 else recNelem w / recBlock w * recSk w
def recWideBytes (w : List Word) : Nat := if recWide w = 0 then 0 else recNelem w * 2 * recWide w

/-- Valid by its fields (R140). -/
def recValid (w : List Word) : Bool :=
  let z := fun (i hi lo : Nat) => bitsOf (hdrW w i) hi lo == 0
  let rungs := (List.range 4).map (recRung w)
  let nr := recNr w
  z 0 31 14 && z 1 31 19 && z 2 31 20 && z 3 31 21 && z 4 31 19 && z 5 31 19 && z 6 31 29 && z 6 23 21 && z 6 15 13 && z 6 7 5 &&
  z 7 31 0 &&
  (recFmtWidth (recFmt w)).isSome && recBl w != 3 && recSk w != 3 && recWide w != 3 && decide (nr ≤ 4) &&
  (if 2 ≤ nr then
     recRung w 0 == recFmt w &&
     (rungs.take nr).all (fun c => 1 ≤ c && c ≤ 7) &&
     (List.range (nr - 1)).all (fun k => decide ((recFmtWidth (recRung w k)).getD 0 < (recFmtWidth (recRung w (k + 1))).getD 0)) &&
     recWide w != 0 && (rungs.drop nr).all (· == 0)
   else rungs.all (· == 0)) &&
  recNelem w != 0 && recNelem w % recBlock w == 0

/-- BASE and SIZE (R141, status 3). -/
def recPlace (w : List Word) : Bool :=
  recBase w % 64 == 0 && recSize w % 64 == 0 && recSize w != 0 && decide (recSize w ≤ 524288) &&
  decide (recBase w + recSize w ≤ 524288)

/-- The regions lie within SIZE and apart (R141, status 5). -/
def recRegions (w : List Word) : Bool :=
  let rs := [(0, recData w), (recSoff w, recScales w), (recWoff w, recWideBytes w)].filter (fun x => x.2 != 0)
  rs.all (fun x => decide (x.1 + x.2 ≤ recSize w)) &&
  (List.range rs.length).all (fun i => (List.range i).all (fun j =>
    let x := rs.getD i (0, 0)
    let y := rs.getD j (0, 0)
    decide (x.1 + x.2 ≤ y.1) || decide (y.1 + y.2 ≤ x.1)))

/-- The status of OBRES (R141): the lowest that applies. -/
def Ctx.obresStatus (c : Ctx) (n : Nat) (w : List Word) : Nat :=
  if c.ranges.any (fun q => q.n == n) then 1
  else if !recValid w then 2
  else if !recPlace w then 3
  else if c.ranges.any (fun q => decide (recBase q.rcd < recBase w + recSize w) && decide (recBase w < recBase q.rcd + recSize q.rcd)) then 4
  else if !recRegions w then 5
  else 0

/-- The range that a stream command names, and whether it writes it (R290). -/
def cmdRange : Instr → Option (Nat × Bool)
  | .mstr _ _ _ n _ _ => some (n.toNat, false)
  | .mepi _ _ _ _ n _ _ => some (n.toNat, true)
  | _ => none

/-- An accepted, unretired command of the group's stream names the range (R142). -/
def State.heldRange (s : State) (g n : Nat) (writesOnly : Bool) : Bool :=
  match (s.group g).stream with
  | none => false
  | some m => m.window.any (fun c => (cmdRange c.ins).any (fun x => x.1 == n && (x.2 || !writesOnly)))

def Ctx.range (c : Ctx) (n : Nat) : Option ObRange := c.ranges.find? (fun q => q.n == n)

/-- Free a range; its bytes keep their contents (R152). -/
def State.obFree (s : State) (r : Ref) (n : Nat) : State :=
  s.updCtxOf r (fun c => { c with ranges := c.ranges.filter (fun q => q.n != n) })

/-- R139, R140, R141, R151. -/
def State.obres (s : State) (r : Ref) (d a : Reg) (n : Nat) : State :=
  match s.check r .core (s.rd r a).toNat 32 32 false false with
  | .error c => s.fail r c
  | .ok (w, s) =>
    let rcd := wordsOfBytes (s.readAt (s.coreOf r) w 32)
    let st := (s.ctxOf r).obresStatus n rcd
    let s := s.pushLoad r (.value d [BitVec.ofNat 32 st])
    if st = 0 then
      let s := s.updCtxOf r (fun c => { c with ranges := c.ranges ++ [{ n := n, owner := r.1, rcd := rcd }] })
      { s with mem := s.mem.clear (locObuf (s.coreOf r) (s.partOf r) (recBase rcd)) (recSize rcd) }
    else s

/-- R152. -/
def State.obrel (s : State) (r : Ref) (d : Reg) (n : Nat) : State :=
  match (s.ctxOf r).range n with
  | some q =>
    if q.owner ≠ r.1 then s.put r d 6
    else if s.heldRange r.1 n false then s.parkAs r (.obrel d n)
    else (s.obFree r n).put r d 0
  | none => s.put r d 6

/-- The checks of R153 for one word: the cause, or its location. -/
def State.obWord (s : State) (r : Ref) (n off : Nat) (store : Bool) : Except Nat Nat :=
  if off % 4 ≠ 0 then .error causeAlign
  else
    match (s.ctxOf r).range n with
    | none => .error causeAccess
    | some q =>
      if q.owner ≠ r.1 ∨ recSize q.rcd ≤ off then .error causeAccess
      else if s.heldRange r.1 n (!store) then .error causeLockhit
      else if s.lockHit (s.dieOf r) (s.partOf r) { sp := .obuf, owner := r.1, lo := n * 2 ^ 24 + off, len := 4 } store then
        .error causeLockhit
      else .ok (locObuf (s.coreOf r) (s.partOf r) (recBase q.rcd + off))

/-- R151: the record is read behind the thread's own earlier operations on it (R180). -/
def execObres (g : Guard) (d a : Reg) (n : BitVec 5) (s : State) : Host.Outcome State Fault Refusal :=
  .next (s.eachAfter g (fun s r => s.trails r (locScratch r.1 (s.rd r a).toNat) 32) (fun s r => s.obres r d a n.toNat))

/-- R152. -/
def execObrel (g : Guard) (d : Reg) (n : BitVec 5) (s : State) : Host.Outcome State Fault Refusal :=
  .next (s.each g (fun s r => s.obrel r d n.toNat))

/-- R153. -/
def execObwr (g : Guard) (a : Reg) (b : Src) (n : BitVec 5) (s : State) : Host.Outcome State Fault Refusal :=
  .next (s.each g (fun s r =>
    match s.obWord r n.toNat (s.src32 r b).toNat true with
    | .error c => s.fail r c
    | .ok loc => ({ s with mem := s.mem.writeN loc (bytesOfWord (s.rd r a)) } : State).pushStore r (.store .cor none)))

/-- R153. -/
def execObrd (g : Guard) (d : Reg) (b : Src) (n : BitVec 5) (s : State) : Host.Outcome State Fault Refusal :=
  .next (s.each g (fun s r =>
    match s.obWord r n.toNat (s.src32 r b).toNat false with
    | .error c => s.fail r c
    | .ok loc => s.pushLoad r (.value d [BitVec.ofNat 32 (ofBytes (s.mem.readN loc 4))])))

end Sys2Proof.Machine
end

