-- ==== Sys2Proof/Machine/Special.lean ====
section
/-! DEFINITION. The special functions (R121 to R123): the exact results, and for every other input a value that the spec bounds and
leaves open: any within the bound, monotone, and between the listed results on either side. The thresholds `Config.sfu` fix it; the bound
is computed with fixed-point approximations of 96 fraction bits (log entry 8). -/

namespace Sys2Proof.Machine

/-! ### Fixed point with 96 fraction bits -/

def fixP : Nat := 96
def fixOne : Nat := 2 ^ 96
def fixLn2 : Nat := 54916777467707473351141471128
def fixPi : Nat := 248902613312231085230521944622
def fixLog2e : Nat := 114302077158074026402637675936

/-- The series of eˣ for 0 ≤ x < 1: term k onward. -/
def expSeries (x : Nat) : Nat → Nat → Nat → Nat
  | 0, _, _ => 0
  | fuel + 1, k, t => t + expSeries x fuel (k + 1) (t * x / fixOne / (k + 1))

/-- 2ᶠ for 0 ≤ f < 1, between one and two. -/
def exp2Fix (f : Nat) : Nat := expSeries (f * fixLn2 / fixOne) 34 0 fixOne

/-- log₂ of x in [1, 2), bit by bit; x has 192 fraction bits. -/
def log2Bits (x : Nat) : Nat → Nat
  | 0 => 0
  | k + 1 =>
    let y := x * x / 2 ^ 192
    if 2 ^ 193 ≤ y then 2 ^ k + log2Bits (y / 2) k else log2Bits y k

/-- The series of sine for 0 ≤ x ≤ π/2: the terms from t of degree k on, alternating. -/
def sinSeries (x2 : Nat) : Nat → Nat → Nat → Int
  | 0, _, _ => 0
  | fuel + 1, k, t => (t : Int) - sinSeries x2 fuel (k + 2) (t * x2 / fixOne / ((k + 1) * (k + 2)))

/-- sin(π t) for t in [0, 2) half-turns. -/
def sinFix (t : Nat) : Int :=
  let neg := decide (fixOne ≤ t)
  let u := t % fixOne
  let u := if 2 * u ≤ fixOne then u else fixOne - u
  let x := u * fixPi / fixOne
  let v := sinSeries (x * x / fixOne) 22 1 x
  if neg then -v else v

/-- m·2^e in units of 2^−p, rounded down. -/
def scaleTo (m : Nat) (e : Int) (p : Nat) : Nat :=
  let k := e + p
  if 0 ≤ k then m * 2 ^ k.toNat else m / 2 ^ (-k).toNat

/-! ### The functions -/

/-- The functions of R122, in its order. -/
inductive Sfu where
  | rcp | rsqrt | exp2 | log2 | sin | cos | tanh
deriving DecidableEq, Repr

def Sfu.num : Sfu → Nat
  | .rcp => 0 | .rsqrt => 1 | .exp2 => 2 | .log2 => 3 | .sin => 4 | .cos => 5 | .tanh => 6

/-- An approximation n·2^e of a finite nonzero operand's function value. -/
def Sfu.approx (fn : Sfu) (neg : Bool) (m : Nat) (e : Int) : Dy :=
  match fn with
  | .rcp =>
    let q : Nat := 2 ^ 128 / m
    { n := if neg then -(q : Int) else q, e := -128 - e }
  | .rsqrt =>
    let odd := (e % 2).toNat
    { n := (isqrt (2 ^ 220 / (m * 2 ^ odd)) 111 0 : Nat), e := -110 - (e - odd) / 2 }
  | .exp2 =>
    let x := if neg then Nat.max 1 (scaleTo m e 96) else scaleTo m e 96
    let n : Int := if neg then -((x + fixOne - 1) / fixOne : Nat) else (x / fixOne : Nat)
    let f := if neg then (fixOne - x % fixOne) % fixOne else x % fixOne
    { n := exp2Fix f, e := n - 96 }
  | .log2 =>
    let k := m.log2
    { n := ((k : Int) + e) * 2 ^ 80 + (log2Bits (m * 2 ^ (192 - k)) 80 : Nat), e := -80 }
  | .sin =>
    if e + m.log2 < -40 then { n := if neg then -((m * fixPi : Nat) : Int) else (m * fixPi : Nat), e := e - 96 }
    else
      let v := sinFix (scaleTo m e 96 % (2 * fixOne))
      { n := if neg then -v else v, e := -96 }
  | .cos => { n := sinFix ((scaleTo m e 96 + fixOne / 2) % (2 * fixOne)), e := -96 }
  | .tanh =>
    let y := scaleTo m (e + 1) 96 * fixLog2e / fixOne
    let x := exp2Fix (y % fixOne) * 2 ^ (y / fixOne)
    let v : Nat := (x - fixOne) * fixOne / (x + fixOne)
    { n := if neg then -(v : Int) else v, e := -96 }

/-- |x| ≤ k·2^q. -/
def Dy.absLe (x : Dy) (k : Nat) (q : Int) : Bool :=
  if x.e ≤ q then decide (x.n.natAbs ≤ k * 2 ^ (q - x.e).toNat) else decide (x.n.natAbs * 2 ^ (x.e - q).toNat ≤ k)

/-- The unit in the last place of FP32 at a value. -/
def Dy.ulp (x : Dy) : Int :=
  let e0 := x.e + x.n.natAbs.log2
  (if e0 < fmtF32.emin then fmtF32.emin else e0) - 23

/-- R122's bound on the error at an operand whose exact result is x. -/
def Sfu.bound (fn : Sfu) (m : Nat) (e : Int) (x : Dy) : Dy :=
  match fn with
  | .rcp | .rsqrt => { n := 1, e := x.ulp }
  | .exp2 | .tanh => { n := 2, e := x.ulp }
  | .sin | .cos => { n := 1, e := -22 }
  | .log2 =>
    let near := decide (-1 ≤ e + m.log2) && (decide (e + m.log2 < 1) || decide (e + m.log2 = 1 ∧ m = 2 ^ m.log2))
    if near then { n := 1, e := -22 } else { n := 2, e := x.ulp }

/-- The place of FP32 bits in the order of their values, −0 below +0, and the bits of a place. -/
def placeF (bits : Nat) : Int := if bits < 2 ^ 31 then bits else -((bits - 2 ^ 31 : Nat) : Int) - 1
def bitsF (o : Int) : Nat := if 0 ≤ o then o.toNat else (-o - 1).toNat + 2 ^ 31

/-- The FP32 value next to a value, upwards or downwards. -/
def Dy.toward (x : Dy) (up : Bool) : Nat :=
  if x.n = 0 then (if up then 2 ^ 31 else 0)
  else (packMag fmtF32 (if up then .rup else .rdn) false false (decide (x.n < 0)) x.n.natAbs x.e false).1

/-- ±2^k, or the zero or infinity beyond the format. -/
def powBits (neg : Bool) (k : Int) : Nat :=
  fmtF32.signBit neg + (if k < -149 then 0 else if 127 < k then fmtF32.infBits else (packMag fmtF32 .rne false false false 1 k false).1)

/-- The listed results of R123 on either side of an operand, between which the function is monotone. -/
def Sfu.ends (fn : Sfu) (neg : Bool) (m : Nat) (e : Int) (x : Dy) : Nat × Nat :=
  let k := e + m.log2
  let one := 127 * 2 ^ 23
  match fn with
  | .rcp => if neg then (powBits true (-k), powBits true (-k - 1)) else (powBits false (-k - 1), powBits false (-k))
  | .rsqrt => (powBits false (-(k / 2) - 1), powBits false (-(k / 2)))
  | .exp2 =>
    let n : Int := if neg then -((scaleTo m e 0 : Nat) : Int) - 1 else (scaleTo m e 0 : Nat)
    (powBits false n, powBits false (n + 1))
  | .log2 => (intBits fmtF32 k, intBits fmtF32 (k + 1))
  | .sin => if 0 < x.n then (fmtF32.signBit neg, one) else (fmtF32.signBit true + one, fmtF32.signBit neg)
  | .cos => if 0 < x.n then (0, one) else (fmtF32.signBit true + one, 0)
  | .tanh => if neg then (fmtF32.signBit true + one, fmtF32.signBit true + 115 * 2 ^ 23) else (115 * 2 ^ 23, one)

/-- The monotone piece in which an operand lies, and whether the function rises there: one for each sign of RCP, half-turns from half to half
for SIN and from whole to whole for COS. -/
def Sfu.piece (fn : Sfu) (neg : Bool) (m : Nat) (e : Int) : Nat × Bool :=
  let side := fun (n : Nat) => 2 * n + neg.toNat
  match fn with
  | .rcp => (side 0, false)
  | .rsqrt => (0, false)
  | .exp2 | .log2 | .tanh => (0, true)
  | .sin => let n := (scaleTo m (e + 1) 0 + 1) / 2; (if n = 0 then 0 else side n, n % 2 == 0)
  | .cos => let n := scaleTo m e 0; (side n, (n % 2 == 0) == neg)

/-- The greatest of the places from y down whose threshold the operand has passed, or the lowest of them. -/
def sfuPick (at_ : Int → Int) (key : Int) (up : Bool) : Nat → Int → Int
  | 0, y => y
  | k + 1, y => if (if up then decide (at_ y ≤ key) else decide (key ≤ at_ y)) then y else sfuPick at_ key up k (y - 1)

/-- The result of an input that R123 does not list: within the bound of R122 and between the listed results, by the thresholds. -/
def Sfu.value (fn : Sfu) (bits : Word) (neg : Bool) (m : Nat) (e : Int) : Nat :=
  let x := fn.approx neg m e
  let b := fn.bound m e x
  let beyond := decide ((fmtF32.emax : Int) < x.e + x.n.natAbs.log2)
  let hi := if beyond && decide (0 < x.n) then fmtF32.infBits else (x.add b).toward false
  let lo := if beyond && decide (x.n < 0) then fmtF32.signBit true + fmtF32.infBits else (x.add { n := -b.n, e := b.e }).toward true
  let z := fn.ends neg m e x
  let top := min (placeF hi) (placeF z.2)
  let low := max (placeF lo) (placeF z.1)
  let (p, up) := fn.piece neg m e
  bitsF (sfuPick (fun y => placeF (Config.sfu fn.num p (BitVec.ofNat 32 (bitsF y))).toNat) (placeF bits.toNat) up (top - low).toNat top)

/-- The delivered value of an input that R123 does not list, with NX, and OF, UF and FZ by the value delivered. -/
def Sfu.inexact (fn : Sfu) (ftz : Bool) (bits : Word) (neg : Bool) (m : Nat) (e : Int) : Nat × Fl :=
  let z := fn.value bits neg m e
  let mag := z % 2 ^ 31
  if mag = fmtF32.infBits then (z, flOF ||| flNX)
  else if mag < 2 ^ 23 then
    if ftz && mag != 0 then (z - mag, flUF ||| flNX ||| flFZ) else (z, flUF ||| flNX)
  else (z, flNX)

/-- A result that R123 lists, delivered exactly. -/
def exactF (ftz neg : Bool) (m : Nat) (e : Int) : Nat × Fl := packMag fmtF32 .rne ftz false neg m e false

/-- An operand that is a power of two: its exponent. -/
def pow2Of (m : Nat) (e : Int) : Option Int := if m = 2 ^ m.log2 then some (e + m.log2) else none

/-- An integer operand: its value. -/
def intOf (m : Nat) (e : Int) : Option Nat :=
  if 0 ≤ e then some (m * 2 ^ e.toNat) else if m % 2 ^ (-e).toNat = 0 then some (m / 2 ^ (-e).toNat) else none

/-- Twice an operand, where that is an integer. -/
def halfOf (m : Nat) (e : Int) : Option Nat := intOf m (e + 1)

/-- The eight functions with their listed results (R122, R123). -/
def sfuF (fn : Sfu) (ftz na : Bool) (bits : Word) : Nat × Fl :=
  let (x, f1) := unpackF fmtF32 ftz bits.toNat
  let nan := fmtF32.nanBits
  let inf := fmtF32.infBits
  let sg := fmtF32.signBit
  let one := 127 * 2 ^ 23
  let key := if na then bits ^^^ 0x80000000 else bits
  let out := fun (z : Nat × Fl) => (z.1, f1 ||| z.2)
  match x.negate na with
  | .nan s => (nan, f1 ||| (if s then flNV else 0))
  | .inf s =>
    match fn with
    | .rcp => out (sg s, 0)
    | .rsqrt => out (if s then (nan, flNV) else (0, 0))
    | .exp2 => out (if s then 0 else inf, 0)
    | .log2 => out (if s then (nan, flNV) else (inf, 0))
    | .sin | .cos => out (nan, flNV)
    | .tanh => out (sg s + one, 0)
  | .num s m e =>
    if m = 0 then
      match fn with
      | .rcp | .rsqrt => out (sg s + inf, flDZ)
      | .exp2 => out (one, 0)
      | .log2 => out (sg true + inf, flDZ)
      | .sin => out (sg s, 0)
      | .cos => out (one, 0)
      | .tanh => out (sg s, 0)
    else
      match fn with
      | .rcp =>
        match pow2Of m e with
        | some k => if -149 ≤ -k ∧ -k ≤ 127 then out (exactF ftz s 1 (-k)) else out (fn.inexact ftz key s m e)
        | none => out (fn.inexact ftz key s m e)
      | .rsqrt =>
        if s then out (nan, flNV)
        else
          match pow2Of m e with
          | some k => if k % 2 = 0 then out (exactF ftz false 1 (-(k / 2))) else out (fn.inexact ftz key s m e)
          | none => out (fn.inexact ftz key s m e)
      | .exp2 =>
        match intOf m e with
        | some n =>
          if s then
            if n ≤ 149 then out (exactF ftz false 1 (-(n : Int))) else out (0, flUF ||| flNX)
          else if n ≤ 127 then out (exactF ftz false 1 n) else out (inf, flOF ||| flNX)
        | none =>
          if 8 ≤ e + m.log2 then (if s then out (0, flUF ||| flNX) else out (inf, flOF ||| flNX))
          else out (fn.inexact ftz key s m e)
      | .log2 =>
        if s then out (nan, flNV)
        else
          match pow2Of m e with
          | some k => out (exactF ftz (decide (k < 0)) k.natAbs 0)
          | none => out (fn.inexact ftz key s m e)
      | .sin =>
        match intOf m e with
        | some _ => out (sg s, 0)
        | none =>
          match halfOf m e with
          | some h => out (sg ((h % 4 == 3) != s) + one, 0)
          | none => out (fn.inexact ftz key s m e)
      | .cos =>
        match intOf m e with
        | some n => out (sg (n % 2 == 1) + one, 0)
        | none =>
          match halfOf m e with
          | some _ => out (0, 0)
          | none => out (fn.inexact ftz key s m e)
      | .tanh =>
        if ({ n := m, e := e } : Dy).absLe 1 (-12) then out (exactF false s m e)
        else if 0 < (({ n := 19, e := 0 } : Dy).add { n := -(m : Int), e := e + 1 }).n then out (fn.inexact ftz key s m e)
        else out (sg s + one, 0)

end Sys2Proof.Machine
end

