-- ==== Sys2Proof/Machine/MatrixSum.lean ====
section
/-! DEFINITION. The arithmetic of the matrix path (13, R293, R294; 14, R309 to R311): elements of ranges and weight tiles, the window sum
of a slice, and the rows of accumulator memory. -/

namespace Sys2Proof.Machine

/-! ### Elements -/

/-- w bits from a bit position on, of bytes given by their offset; at most two bytes hold them (R132). -/
def bitsIn (get : Nat → Byte) (bit w : Nat) : Nat :=
  ((get (bit / 8)).toNat + 256 * (get (bit / 8 + 1)).toNat) / 2 ^ (bit % 8) % 2 ^ w

/-- An element with its block scale, exactly (R131). -/
def blockVal (sc : Option Val) (v : Val) : Val :=
  match sc with
  | none => v
  | some x =>
    if x.isNan then .nan false
    else if x.isZero then .num false 0 0
    else if v.isNan then .nan false
    else (prodV x v).getD (.nan false)

/-- A scale's value from its code and its bytes. -/
def scaleVal (kind b0 b1 : Nat) : Option Val :=
  if kind = 0 then none else if kind = 1 then some (e8m0Val b0) else some (bs16Val (b0 + 256 * b1))

/-- The exact sum of two values; none for a NaN (R310). -/
def sumVal (x y : Val) : Option Val :=
  match x, y with
  | .nan _, _ => none
  | _, .nan _ => none
  | .inf s, .inf t => if s = t then some (.inf s) else none
  | .inf s, _ => some (.inf s)
  | _, .inf t => some (.inf t)
  | _, _ =>
    let d := x.dy.add y.dy
    some (.num (decide (d.n < 0)) d.n.natAbs d.e)

/-- K elements of a slice for a width (R293). -/
def sliceK (w : Nat) : Nat := 768 / w

def recFormat (w : List Word) : EFmt := (EFmt.ofNat? (recFmt w)).getD .i8

/-- Bytes of a range, counted from its base. -/
def State.obByte (s : State) (core part : Nat) (rcd : List Word) (off : Nat) : Byte := s.mem.read (locObuf core part (recBase rcd + off))

/-- Bits of stored element n of a range (R140). -/
def State.obBits (s : State) (core part : Nat) (rcd : List Word) (n : Nat) : Nat :=
  let w := (recFormat rcd).width
  bitsIn (s.obByte core part rcd) (w * n) w

/-- The stored scale of the block of element n. -/
def State.obScale (s : State) (core part : Nat) (rcd : List Word) (n : Nat) : Option Val :=
  let at_ := recSoff rcd + n / recBlock rcd * recSk rcd
  scaleVal (recSk rcd) (s.obByte core part rcd at_).toNat (s.obByte core part rcd (at_ + 1)).toNat

/-- Stored element n with its scale. -/
def State.obElem (s : State) (core part : Nat) (rcd : List Word) (n : Nat) : Val :=
  blockVal (s.obScale core part rcd n) (elemVal (recFormat rcd) false (s.obBits core part rcd n)).1

/-- FP32 bits of wide element n: BF16 or FP32 (R139). -/
def State.obWide (s : State) (core part : Nat) (rcd : List Word) (n : Nat) : Nat :=
  let at_ := fun (o : Nat) => (s.obByte core part rcd (recWoff rcd + o)).toNat
  if recWide rcd = 1 then (at_ (2 * n) + 256 * at_ (2 * n + 1)) * 65536
  else at_ (4 * n) + 256 * at_ (4 * n + 1) + 65536 * at_ (4 * n + 2) + 2 ^ 24 * at_ (4 * n + 3)

/-- Codes of scale kind and block length (R139). -/
def SK.num : SK → Nat
  | .none => 0
  | .e8m0 => 1
  | .bs16 => 2
def BLen.num : BLen → Nat
  | .b16 => 16
  | .b32 => 32
  | .b64 => 64

/-- Bytes of a weight tile: 32 columns and their scales (R293). -/
def tileBytes (fmt : EFmt) (sk : SK) (bl : BLen) : Nat := 3072 + 32 * (sliceK fmt.width / BLen.num bl) * SK.num sk

/-- Element k of column c of a tile with its scale. -/
def tileVal (fmt : EFmt) (sk : SK) (bl : BLen) (bs : List Byte) (c k : Nat) : Val :=
  let get := fun (o : Nat) => bs.getD o 0
  let at_ := 3072 + (c * (sliceK fmt.width / BLen.num bl) + k / BLen.num bl) * SK.num sk
  blockVal (scaleVal (SK.num sk) (get at_).toNat (get (at_ + 1)).toNat)
    (elemVal fmt false (bitsIn get (768 * c + fmt.width * k) fmt.width)).1

/-- A weight of a plane; with `whey` the whey tile's element is added (R310). -/
def Plane.weight (p : Plane) (whey : Bool) (c k : Nat) : Val :=
  match p.fmt with
  | none => .nan false
  | some f =>
    let v := tileVal f p.sk p.bl p.data c k
    match p.whey with
    | some y => if whey then (sumVal v (tileVal f p.sk p.bl y c k)).getD (.nan false) else v
    | none => v

/-! ### The window sum (R294) -/

/-- A slice's sum: its FP32 bits, whether every product is zero, the exponent E, and the window sum n·2^q. -/
structure SliceSum where
  bits : Nat
  zero : Bool
  e : Int
  n : Int
  q : Int
deriving DecidableEq, Repr

/-- A product; none is NaN. -/
def prodE (x y : Val) : Option Val := if x.isNan || y.isNan then none else prodV x y

/-- p / 2^q truncated toward zero. -/
def truncTo (q : Int) : Val → Int
  | .num neg m e =>
    let a := if q ≤ e then m * 2 ^ (e - q).toNat else m / 2 ^ (q - e).toNat
    if neg then -(a : Int) else a
  | .nan _ | .inf _ => 0

/-- Exponent of the leading bit of a nonzero number. -/
def Val.top : Val → Option Int
  | .num _ m e => if m = 0 then none else some (e + m.log2)
  | .nan _ | .inf _ => none

def plainSum (bits : Nat) : SliceSum := { bits := bits, zero := false, e := 0, n := 0, q := 0 }

def sliceSum (w : Nat) (ps : List (Option Val)) : SliceSum :=
  let vs := ps.filterMap id
  let infs := vs.filter Val.isInf
  if ps.any Option.isNone || (infs.any Val.neg && infs.any (fun v => !v.neg)) then plainSum fmtF32.nanBits
  else
    match infs with
    | v :: _ => plainSum (fmtF32.signBit v.neg + fmtF32.infBits)
    | [] =>
      match vs.filterMap Val.top with
      | [] => { bits := 0, zero := true, e := 0, n := 0, q := 0 }
      | t :: ts =>
        let e := ts.foldl max t
        let q := e - (if w ≤ 8 then 55 else 48)
        let n := (vs.map (truncTo q)).foldl (· + ·) 0
        { bits := (packMag fmtF32 .rne false false (decide (n < 0)) n.natAbs q false).1, zero := false, e := e, n := n, q := q }

/-- The addition into the accumulator. -/
def accAdd (a b : Nat) : Nat := (addF fmtF32 .rne false false false a b).1

def fltFinite (bits : Nat) : Bool := bits / 2 ^ 23 % 256 != 255

/-! ### Accumulator memory (R292) -/

/-- A stream's allotment on its core. -/
structure Allot where
  core : Nat
  part : Nat
  base : Nat
deriving DecidableEq, Repr

def Allot.loc (a : Allot) (row c : Nat) : Nat := locAcc a.core a.part ((16 * a.base + row) * 128 + 4 * c)
def State.acc (s : State) (a : Allot) (row c : Nat) : Nat := ofBytes (s.mem.readN (a.loc row c) 4)
def State.setAcc (s : State) (a : Allot) (row c v : Nat) : State := { s with mem := s.mem.writeN (a.loc row c) (toBytes 4 v) }

/-- Write each column of each of m rows from row `row` on. -/
def State.setRows (s : State) (a : Allot) (row m : Nat) (f : State → Nat → Nat → Nat) : State :=
  (List.range m).foldl (fun s r => (List.range 32).foldl (fun s c => s.setAcc a (row + r) c (f s r c)) s) s

/-- The sum of activation row i against column c (R294). -/
def rowSum (w : Nat) (act : List Val) (wt : Nat → Val) : SliceSum := sliceSum w (act.zipIdx.map (fun p => prodE p.1 (wt p.2)))

/-! ### Division by a scale (R304, R309) -/

/-- Bits of v / sc delivered in a format under RNE as with `.sat`; none where both are zero, for which the spec gives no result. -/
def divScale (fmt : EFmt) (v sc : Val) : Option Nat :=
  let out := fun (x : Val) => (deliver fmt (.mode .rne) false true false x).1
  match v, sc with
  | .num s m e, .num _ k d =>
    if k = 0 then (if m = 0 then none else some (out (.inf s)))
    else if m % k = 0 then some (out (.num s (m / k) (e - d)))
    else
      -- The quotient to 64 bits below the point, with a sticky bit, rounds once in every format.
      let n := m * 2 ^ 80
      some (out (.num s (2 * (n / k) + (if n % k = 0 then 0 else 1)) (e - d - 81)))
  | .nan x, _ => some (out (.nan x))
  | .inf s, _ => some (out (if sc.isNan then .nan false else .inf s))
  | _, _ => some (out (.nan false))

/-- The largest magnitude of FP32 bits, a NaN passed over as LRED's maximum does (R115, R148); all NaN give a NaN. -/
def maxMag (xs : List Nat) : Nat :=
  match xs with
  | [] => 0
  | x :: rest => rest.foldl (fun m y => (minmaxF fmtF32 true false false false m (y % 2 ^ 31)).1) (x % 2 ^ 31)

end Sys2Proof.Machine
end

