-- ==== Sys2Proof/Machine/Matrix.lean ====
section
/-! DEFINITION. Meanings of the matrix instructions and stream commands (13), and the events of the matrix sequencer. A command's checks
and its whole computation happen when it issues; its rows then enter and spend activity one by one, and it retires after the last (log
entry 5). -/

namespace Sys2Proof.Machine

/-! ### Streams -/

def Plane.empty : Plane := { fmt := none, sk := .none, bl := .b16, data := [], whey := none }

/-- A stream as MXRUN starts it (R298, R317). -/
def Stream.start (owner : Nat) (at_ : DWord) (tiles base : Nat) : Stream :=
  { owner := owner, fetch := at_, ended := false, fault := none, tiles := tiles, base := base, window := [], accepted := 0, retired := 0,
    last := [], waits := [], flips := [], active := Plane.empty, shadow := Plane.empty, ladTs := 255, ladTu := 255, ladTc := 255,
    ladCb := 0, ladWr := 0, ladDelta := 0, stood := none, served := 0 }

/-- The stream still runs: more commands are to come, or some have not retired. -/
def Stream.running (m : Stream) : Bool := !(m.ended || m.fault.isSome) || !m.window.isEmpty

def State.streamOf (s : State) (g : Nat) : Option Stream := (s.group g).stream
def State.updStream (s : State) (g : Nat) (f : Stream → Stream) : State := s.updGroup g (fun x => { x with stream := x.stream.map f })

/-- Streams that run on a core in a partition's context. -/
def State.streamsOn (s : State) (core part : Nat) : List Stream :=
  (s.groups.filter (fun x => x.core == core && x.part == part)).filterMap (fun x => x.stream.filter Stream.running)

def State.allotOf (s : State) (g : Nat) (m : Stream) : Allot := { core := (s.group g).core, part := (s.group g).part, base := m.base }

/-- The lowest run of n tiles that no running stream holds (R298). -/
def freeRun (ms : List Stream) (n : Nat) : Option Nat :=
  (List.range 129).find? (fun b => decide (b + n ≤ 128) && ms.all (fun m => decide (b + n ≤ m.base) || decide (m.base + m.tiles ≤ b)))

/-- MXRUN's status, the lowest that applies, and the place of the allotment. -/
def State.mxrunStatus (s : State) (g : Nat) (addr : DWord) (n : Nat) : Nat × Nat :=
  let x := s.group g
  if (match x.stream with | some m => m.running | none => false) then (1, 0)
  else if addr.toNat % 64 ≠ 0 then (2, 0)
  else if n = 0 ∨ 128 < n then (3, 0)
  else
    match freeRun (s.streamsOn x.core x.part) n with
    | none => (4, 0)
    | some b => (0, b)

/-- MXRUN once fewer than four streams run on the core (R298). -/
def State.mxrunDone (s : State) (r : Ref) (d : Reg) (addr : DWord) (n : Nat) : State :=
  let (st, b) := s.mxrunStatus r.1 addr n
  let s := s.put r d (BitVec.ofNat 32 st)
  if st ≠ 0 then s
  else
    let x := s.group r.1
    let s := s.updGroup r.1 (fun x => { x with stream := some (Stream.start r.2 addr n b) })
    { s with mem := s.mem.clear (locAcc x.core x.part (b * 2048)) (n * 2048) }

/-- Four streams run already. -/
def State.mxFull (s : State) (g : Nat) : Bool := decide (4 ≤ (s.streamsOn (s.group g).core (s.group g).part).length)

/-- A stream of the group is running. -/
def State.mxOwn (s : State) (g : Nat) : Bool := ((s.streamOf g).map Stream.running).getD false

/-- MXRUN: the thread parks where the core ran four streams as its bundle issued, or where another group's thread of the bundle has just started
the fourth; threads of one group are served together (R298). -/
def State.mxrun (old s : State) (r : Ref) (d : Reg) (addr : DWord) (n : Nat) : State :=
  if old.mxFull r.1 || (s.mxFull r.1 && !(s.mxOwn r.1)) then s.parkAs r (.mxrun d addr n) else s.mxrunDone r d addr n

/-- Of the threads of a core's partition that are parked on MXRUN, the thread issued first (R298). -/
def State.mxFirst (s : State) (r : Ref) : Bool :=
  let t := s.thread r
  let g := s.group r.1
  !(s.threads.any (fun u =>
    (u.park matches .mxrun _ _ _) && (s.group u.gid).core == g.core && (s.group u.gid).part == g.part &&
      keyLess [u.since, u.tid, u.gid] [t.since, t.tid, t.gid]))

/-- A parked MXRUN whose turn has come; once it has started its group's stream, the group's other parked MXRUNs are served too, in issue order
(R298). -/
def State.mxrunWake (s : State) (r : Ref) (d : Reg) (addr : DWord) (n : Nat) : State :=
  let t := (s.wake r).mxrunDone r d addr n
  if !(t.mxOwn r.1) then t
  else
    (sortKey (fun (u : Thread) => [u.since, u.tid]) (t.threads.filter (fun u => u.gid == r.1))).foldl (fun t u =>
      match u.park with
      | .mxrun d addr n => (t.wake (u.gid, u.tid)).mxrunDone (u.gid, u.tid) d addr n
      | _ => t) t

/-- The snapshot of MXQ: FLT and FID tell of the last stream once it has ended (R299). -/
def Stream.word (m : Stream) : Word :=
  let fault := if m.running then none else m.fault
  BitVec.ofNat 32 (m.retired % 65536 + m.window.length % 32 * 2 ^ 16 + (fault.getD 0) % 64 * 2 ^ 24) |||
  (boolW fault.isSome <<< 30) ||| (boolW m.running <<< 31)

/-! ### Commands -/

/-- What a command reads or writes, as kind, first and count: 0 accumulator rows, 1 operand-buffer ranges, 2 the active plane, 3 the
shadow plane, 4 the ladder state (R290, R317, R331). -/
abbrev Res := Nat × Nat × Nat

def rowsRes (t : BitVec 7) (m : Nat) : Res := (0, 16 * t.toNat, m)

def cmdReads : Instr → List Res
  | .mldw _ _ _ _ _ _ => [(4, 0, 1)]
  | .mswap _ => [(2, 0, 1), (3, 0, 1)]
  | .mstr _ lad t n _ m => [(2, 0, 1), (1, n.toNat, 1), rowsRes t (m.toNat + 1)] ++ (if lad then [(4, 0, 1)] else [])
  | .maccst _ t _ m => [rowsRes t (m.toNat + 1)]
  | .mepi _ _ t p _ _ m => [rowsRes t (m.toNat + 1), rowsRes p 2]
  | .mscan _ _ _ ta tb tc m => [rowsRes ta (m.toNat + 1), rowsRes tb (m.toNat + 1), rowsRes tc 1]
  | _ => []

def cmdWrites : Instr → List Res
  | .mldw _ _ _ _ _ _ => [(3, 0, 1)]
  | .mswap _ => [(2, 0, 1), (3, 0, 1)]
  | .mstr _ _ t _ _ m => [rowsRes t (m.toNat + 1)]
  | .mzero _ t m => [rowsRes t (m.toNat + 1)]
  | .maccld _ t _ m => [rowsRes t (m.toNat + 1)]
  | .mepi _ _ _ _ n _ _ => [(1, n.toNat, 1)]
  | .mscan _ _ th _ _ tc m => [rowsRes th (m.toNat + 1), rowsRes tc 1]
  | .mlad _ _ _ _ _ _ _ => [(4, 0, 1)]
  | _ => []

def Res.meets (x y : Res) : Bool := x.1 == y.1 && decide (x.2.1 < y.2.1 + y.2.2) && decide (y.2.1 < x.2.1 + x.2.2)
def resMeet (xs ys : List Res) : Bool := xs.any (fun x => ys.any (fun y => Res.meets x y))

/-- One of the two writes what the other reads or writes. -/
def cmdClash (a b : Instr) : Bool := resMeet (cmdWrites a) (cmdReads b ++ cmdWrites b) || resMeet (cmdWrites b) (cmdReads a)

def isMstr : Instr → Bool
  | .mstr _ _ _ _ _ _ => true
  | _ => false
def isLad : Instr → Bool
  | .mstr _ lad _ _ _ _ => lad
  | _ => false
def isSwap : Instr → Bool
  | .mswap _ => true
  | _ => false
/-- Commands of the accumulator port (R291). -/
def onPort : Instr → Bool
  | .mzero _ _ _ | .maccld _ _ _ _ | .maccst _ _ _ _ | .mepi _ _ _ _ _ _ _ | .mscan _ _ _ _ _ _ _ => true
  | _ => false
def isWaitb (all : Bool) : Instr → Bool
  | .mwaitb _ a _ => a || !all
  | _ => false
/-- Commands that wait for every earlier one. -/
def afterAll : Instr → Bool
  | .mbar _ all _ => all
  | .mend _ => true
  | _ => false
def isMldw : Instr → Bool
  | .mldw _ _ _ _ _ _ => true
  | _ => false
def isMlad : Instr → Bool
  | .mlad _ _ _ _ _ _ _ => true
  | _ => false

/-- Every row has been entered, and every pass of a ladder command decided. -/
def WinCmd.entered (c : WinCmd) : Bool := c.issued && decide (c.total ≤ c.rows) && c.prog.isNone

/-- An earlier unretired command holds a later one back (R290, R315). -/
def WinCmd.blocks (a b : WinCmd) : Bool :=
  isWaitb true a.ins || afterAll b.ins ||
  (cmdClash a.ins b.ins &&
    !(isMstr a.ins && a.entered && (isSwap b.ins || (isMstr b.ins && !(isLad a.ins) && !(isLad b.ins)))))

/-- Every predecessor edge is met (R288). -/
def Stream.edgesMet (m : Stream) (c : WinCmd) : Bool := c.pre.all (fun q => !(m.window.any (fun x => x.seq == q)))

/-- The window allows a command to issue (R289). -/
def Stream.cmdMay (m : Stream) (c : WinCmd) : Bool :=
  !c.issued && m.edgesMet c && (m.window.filter (fun x => decide (x.seq < c.seq))).all (fun x => !x.blocks c) &&
  (!(isMldw c.ins) || c.fetched.isSome)

/-- The array of a core is gated, by heat or by firmware (R13, R403). -/
def State.arrayOff (s : State) (core : Nat) : Bool := (s.die (dieOfCore core)).arraysGated || s.gated.contains (.array core)

/-- The unit that a command needs is free (R291, R315). -/
def State.unitFree (s : State) (g : Nat) (i : Instr) : Bool :=
  let x := s.group g
  let busy := fun (p : Instr → Bool) =>
    (s.streamsOn x.core x.part).any (fun m => m.window.any (fun c => p c.ins && c.issued && !c.entered))
  if isMstr i then !(busy isMstr) else if onPort i then !(busy onPort) else true

/-- The group's partition issues on the group's core: held there, not halted, its slice current. -/
def State.groupRuns (s : State) (g : Nat) : Bool :=
  let x := s.group g
  x.current && s.coreOpen x.core x.part

/-- An MLDW reads through the core's weight column (R300). -/
def isColumnLoad : Instr → Bool
  | .mldw _ bank _ _ _ _ => !bank
  | _ => false

/-- The place in the window of the next command to issue: the earliest that is ready. An MLDW whose transfer is on the way waits for a repair of
its column (R20). -/
def State.nextCmd (s : State) (g : Nat) : Option Nat :=
  match s.streamOf g with
  | none => none
  | some m =>
    if m.fault.isSome then none
    else
      m.window.findIdx? (fun c => m.cmdMay c && decide (c.hold ≤ s.now) && s.unitFree g c.ins &&
        !(isColumnLoad c.ins && s.repair.contains (s.group g).core))

/-! ### Faults in a stream (R295) -/

/-- The thread whose wave takes a stream's cause: MXRUN's, if live, else the first live one. -/
def State.streamThread (s : State) (g : Nat) (owner : Nat) : Option Ref :=
  if (s.thread (g, owner)).live then some (g, owner)
  else (s.threads.find? (fun t => t.gid == g && t.live)).map (fun t => (t.gid, t.tid))

/-- A stream's cause is set; `none` where the group has no live thread. -/
def State.streamCause (s : State) (g : Nat) (owner c : Nat) : Option State := (s.streamThread g owner).map (fun r => s.setCause r c)

/-- The launch of a group whose stream faults with no live thread ends failed with WHY 8. -/
def State.streamOrphan (s : State) (g : Nat) : State :=
  s.updLaunch (s.group g).lid (fun l => { l with why8 := true })

/-- A stream faults: nothing more issues, commands not yet issued are dropped, and the cause is set. -/
def State.streamFault (s : State) (g c fid : Nat) : State :=
  match s.streamOf g with
  | none => s
  | some m =>
    let s := s.updStream g (fun m => { m with fault := some fid, window := m.window.filter (fun x => x.issued) })
    (s.streamCause g m.owner c).getD (s.streamOrphan g)

/-! ### Issue of a command -/

/-- The group and the place in the window of the command that issues. -/
def State.cmdAt (s : State) : Nat × Nat := s.command.getD (0, 0)

def Stream.updCmd (m : Stream) (k : Nat) (f : WinCmd → WinCmd) : Stream := { m with window := m.window.modify k f }

/-- Reference weight at issue of a command that is not charged by rows (R297, R322). -/
def cmdWeight : Instr → Nat
  | .mldw _ _ _ _ _ _ => 4
  | .mswap _ | .mbar _ _ _ | .mwaitb _ _ _ | .mend _ | .mlad _ _ _ _ _ _ _ => 1
  | _ => 0

/-- Nominal cycles between a command's issue and its first row, or its retirement if it has none (R297, R323, R327). -/
def cmdFill : Instr → Nat
  | .mstr _ _ _ _ _ _ => 48
  | .maccld _ _ _ _ | .maccst _ _ _ _ => 22
  | .mepi _ _ _ _ _ _ _ => 30
  | .mscan _ _ _ _ _ _ _ => 24
  | .mldw _ _ _ _ _ _ => 8
  | .mzero _ _ _ | .mswap _ | .mbar _ _ _ | .mlad _ _ _ _ _ _ _ => 4
  | _ => 1

/-- The command that issues: its checks give a cause, or it has its effect and `total` rows still to enter. -/
def State.runCmd (s : State) (k : Cmd) (total : Nat) (check : State → Nat → Stream → Option Nat)
    (f : State → Nat → Stream → State) : State :=
  let (g, idx) := s.cmdAt
  match s.streamOf g with
  | none => s
  | some m =>
    match check s g m with
    | some c => s.streamFault g c k.id.toNat
    | none => (f s g m).updStream g (fun m => m.updCmd idx (fun c =>
        { c with issued := true, total := total, rows := 0, hold := s.now + cmdFill c.ins }))

/-- Rows from tile t on lie within the allotment (R292). -/
def Stream.rowsIn (m : Stream) (t : BitVec 7) (n : Nat) : Bool := decide (16 * t.toNat + n ≤ 16 * m.tiles)

def failIf (bad : Bool) : Option Nat := if bad then some causeAccess else none

/-- The group's own range. -/
def State.ownRange (s : State) (g n : Nat) : Option (List Word) :=
  let x := s.group g
  (((s.ctx x.core x.part).range n).filter (fun q => q.owner == g)).map (fun q => q.rcd)

/-! ### MLDW (R300, R318) -/

/-- Where a weight tile lies: its physical address. -/
def mldwBase (core : Nat) (bank : Bool) : Nat := if bank then 0x2000000000000 + core * 0x2000000 else 0x1000000000000 + core * 0x10000000

/-- The bytes of a tile are there to be read. -/
def State.tileOk (s : State) (g : Nat) (bank : Bool) (off n : Nat) : Bool :=
  let x := s.group g
  let l := (s.part x.part).laydiv
  decide (off + n ≤ (if bank then 0x2000000 - layWays l * 0x200000 - layShadow l * 0x80000 else 0x10000000)) &&
  (!bank || !(s.vatClosed (mldwBase x.core bank + off))) &&
  s.granted x.part (mldwBase x.core bank + off) n

/-- WDELTA as an MLDW's fetch phase found it. -/
def Stream.fetchDelta (m : Stream) (idx : Nat) : Nat := ((m.window[idx]?).bind (fun c => c.fetched)).getD m.ladDelta

def State.mldwCheck (s : State) (g idx : Nat) (m : Stream) (bank : Bool) (fmt : EFmt) (sk : SK) (bl : BLen) (off : Nat) : Bool :=
  let n := tileBytes fmt sk bl
  let wd := m.fetchDelta idx
  s.tileOk g bank (64 * off) n && (wd == 0 || s.tileOk g bank (64 * (off + wd)) n) &&
  (sk == .none || sliceK fmt.width % BLen.num bl == 0)

/-- The bytes of a tile; what was performed at core scope before the stream's commands is seen (R306). -/
def State.tileAt (s : State) (g : Nat) (bank : Bool) (off n : Nat) : List Byte :=
  let core := (s.group g).core
  let pa := mldwBase core bank + off
  (List.range n).map (fun k => s.seen core (pa + k))

def State.mldw (s : State) (g idx : Nat) (m : Stream) (bank : Bool) (fmt : EFmt) (sk : SK) (bl : BLen) (off : Nat) : State :=
  let n := tileBytes fmt sk bl
  let wd := m.fetchDelta idx
  let p : Plane :=
    { fmt := some fmt, sk := sk, bl := bl, data := s.tileAt g bank (64 * off) n,
      whey := if wd = 0 then none else some (s.tileAt g bank (64 * (off + wd)) n) }
  s.updStream g (fun m => { m with shadow := p })

/-! ### MSTR (R302) -/

/-- The checks that every MSTR shares: the range, widths, scales, elements and rows. -/
def State.mstrBad (s : State) (g : Nat) (m : Stream) (t : BitVec 7) (n row0 rows : Nat) : Bool :=
  match s.ownRange g n, m.active.fmt with
  | some rcd, some f =>
    let ke := sliceK (recFormat rcd).width
    (recFormat rcd).width != f.width || (recSk rcd != 0 && ke % recBlock rcd != 0) || decide (recNelem rcd < (row0 + rows) * ke) ||
    !(m.rowsIn t rows)
  | _, _ => true

/-- The further checks of MSTR.lad (R319). -/
def State.ladBad (s : State) (g : Nat) (m : Stream) (n : Nat) : Bool :=
  match s.ownRange g n with
  | some rcd => decide (recNr rcd ≤ 1) || (m.ladDelta != 0 && decide (m.ladWr ≤ recNr rcd - 1) && m.active.whey.isNone)
  | none => true

/-- The activation elements of row i of a range. -/
def State.actRow (s : State) (core part : Nat) (rcd : List Word) (i : Nat) : List Val :=
  let ke := sliceK (recFormat rcd).width
  (List.range ke).map (fun k => s.obElem core part rcd (i * ke + k))

/-- A plain MSTR: every row's slice is added (R294). -/
def State.mstrRows (s : State) (g : Nat) (m : Stream) (t : BitVec 7) (n row0 rows : Nat) : State :=
  match s.ownRange g n with
  | none => s
  | some rcd =>
    let a := s.allotOf g m
    let w := (recFormat rcd).width
    (List.range rows).foldl (fun s r =>
      let act := s.actRow a.core a.part rcd (row0 + r)
      s.setRows a (16 * t.toNat + r) 1 (fun s _ c =>
        accAdd (s.acc a (16 * t.toNat + r) c) (rowSum w act (fun k => m.active.weight false c k)).bits)) s

/-! ### MACCLD and MACCST (R303) -/

def State.accBad (s : State) (g : Nat) (m : Stream) (t : BitVec 7) (off rows : Nat) : Bool :=
  !(m.rowsIn t rows) || decide (hdrScratch (s.group g).hdr < 128 * (off + rows))

/-! ### MEPI (R304) -/

/-- The functions of MEPI on FP32 bits; a NaN gives the canonical one. -/
def epiF (fn : EpiFn) (v : Nat) : Nat :=
  match (unpackF fmtF32 false v).1 with
  | .nan _ => fmtF32.nanBits
  | x =>
    let mx := fun (a b : Nat) => (minmaxF fmtF32 true false false false a b).1
    let mn := fun (a b : Nat) => (minmaxF fmtF32 false false false false a b).1
    match fn with
    | .id => v
    | .relu => mx v 0
    | .lrelu => if x.neg && !x.isZero then (sclF .rne false false v (-3)).1 else v
    | .tanh => (sfuF .tanh false false (BitVec.ofNat 32 v)).1
    | .clip => mn (mx v 0xBF800000) 0x3F800000

def State.mepiBad (s : State) (g : Nat) (m : Stream) (t p : BitVec 7) (n orow rows : Nat) : Bool :=
  match s.ownRange g n with
  | none => true
  | some rcd =>
    decide (recNelem rcd < (orow + rows) * 32) || !(m.rowsIn t rows) || !(m.rowsIn p 2) ||
    (recSk rcd != 0 && (!(recFormat rcd).qblkOk || orow * 32 % recBlock rcd != 0 || rows * 32 % recBlock rcd != 0))

/-- Bytes of a range written from an offset on. -/
def State.obPut (s : State) (a : Allot) (rcd : List Word) (off : Nat) (bs : List Byte) : State :=
  { s with mem := s.mem.writeN (locObuf a.core a.part (recBase rcd + off)) bs }

/-- Elements of w bits, the first lowest, as one number. -/
def joinBits (w : Nat) : List Nat → Nat
  | [] => 0
  | x :: xs => x + 2 ^ w * joinBits w xs

/-- One block of MEPI's results, from element n on: its scale, its elements and its wide copies. A quotient of zero by the zero scale is
a free value (log entry 10). -/
def State.mepiBlock (s : State) (a : Allot) (rcd : List Word) (n : Nat) (vs : List Nat) : State :=
  let f := recFormat rcd
  let kind := recSk rcd
  let val := fun (v : Nat) => (unpackF fmtF32 false v).1
  let sc := qblkF f (kind == 2) (BitVec.ofNat 32 (maxMag vs))
  let bits := vs.zipIdx.map (fun p =>
    if kind = 0 then (deliver f (.mode .rne) false true false (val p.1)).1
    else (divScale f (val p.1) ((scaleVal kind (sc % 256) (sc / 256)).getD (.nan false))).getD (Config.choice s.draws p.2 % 2 ^ f.width))
  let s := s.drawn.obPut a rcd (n * f.width / 8) (toBytes (vs.length * f.width / 8) (joinBits f.width bits))
  let s := if kind = 0 then s else s.obPut a rcd (recSoff rcd + n / recBlock rcd * kind) (toBytes kind sc)
  match recWide rcd with
  | 0 => s
  | 1 => s.obPut a rcd (recWoff rcd + 2 * n) ((vs.map (fun v => toBytes 2 (packV fmtBf16 .rne false (val v)).1)).flatten)
  | _ => s.obPut a rcd (recWoff rcd + 4 * n) ((vs.map (toBytes 4)).flatten)

def State.mepi (s : State) (g : Nat) (m : Stream) (fn : EpiFn) (t p : BitVec 7) (n orow rows : Nat) : State :=
  match s.ownRange g n with
  | none => s
  | some rcd =>
    let a := s.allotOf g m
    let out := fun (e : Nat) =>
      let c := e % 32
      epiF fn (fmaF fmtF32 .rne false false false false (s.acc a (16 * t.toNat + e / 32) c) (s.acc a (16 * p.toNat) c)
        (s.acc a (16 * p.toNat + 1) c)).1
    let blk := if recSk rcd = 0 then 32 else recBlock rcd
    (List.range (32 * rows / blk)).foldl
      (fun z b => z.mepiBlock a rcd (orow * 32 + b * blk) ((List.range blk).map (fun i => out (b * blk + i)))) s

/-! ### MBAR and MWAITB (R305) -/

/-- The group owns the named barrier. -/
def State.cmdBarCheck (s : State) (g n : Nat) : Option Nat := if (s.myBar (g, 0) false n).isSome then none else some causeBarerr

def State.mbarArrive (s : State) (g n : Nat) : State :=
  match s.myBar (g, 0) false n with
  | some b => s.tickBar (g, 0) false n b
  | none => s

/-! ### Meanings -/

/-- R298. -/
def execMxrun (g : Guard) (d a : Reg) (b : Src) (s : State) : Host.Outcome State Fault Refusal :=
  .next (s.eachAfter g State.owes (fun t r => s.mxrun t r d (t.rd64 r a) (t.src32 r b).toNat))

/-- R299: without a stream since the group began, every field is at its reset value. -/
def execMxq (g : Guard) (d : Reg) (s : State) : Host.Outcome State Fault Refusal :=
  .next (s.each g (fun s r => s.put r d (match s.streamOf r.1 with | some m => m.word | none => 0)))

/-- R300, R318. -/
def execMldw (k : Cmd) (bank : Bool) (fmt : EFmt) (sk : SK) (bl : BLen) (off : BitVec 22) (s : State) :
    Host.Outcome State Fault Refusal :=
  .next (s.runCmd k 0 (fun s g m => failIf (!(s.mldwCheck g s.cmdAt.2 m bank fmt sk bl off.toNat)))
    (fun s g m => s.mldw g s.cmdAt.2 m bank fmt sk bl off.toNat))

/-- R301. -/
def execMswap (k : Cmd) (s : State) : Host.Outcome State Fault Refusal :=
  .next (s.runCmd k 0 (fun _ _ _ => none) (fun s g _ => s.updStream g (fun m => { m with active := m.shadow, shadow := m.active })))

/-- R302; with `.lad` the command starts its first pass (R308, R319). -/
def execMstr (k : Cmd) (lad : Bool) (t : BitVec 7) (n : BitVec 5) (row0 : BitVec 16) (m : BitVec 10) (s : State) :
    Host.Outcome State Fault Refusal :=
  let rows := m.toNat + 1
  .next (
    if lad then
      s.runCmd k (Nat.min 16 rows)
        (fun s g x => failIf (s.mstrBad g x t n.toNat row0.toNat rows || s.ladBad g x n.toNat))
        (fun s g _ => s.updStream g (fun x =>
          x.updCmd s.cmdAt.2 (fun c => { c with prog := some { tile := 0, rung := 0, topped := false } })))
    else
      s.runCmd k rows (fun s g x => failIf (s.mstrBad g x t n.toNat row0.toNat rows))
        (fun s g x => s.mstrRows g x t n.toNat row0.toNat rows))

/-- R303. -/
def execMzero (k : Cmd) (t : BitVec 7) (m : BitVec 10) (s : State) : Host.Outcome State Fault Refusal :=
  .next (s.runCmd k (m.toNat + 1) (fun _ _ x => failIf (!(x.rowsIn t (m.toNat + 1))))
    (fun s g x => { s with mem := s.mem.clear ((s.allotOf g x).loc (16 * t.toNat) 0) (128 * (m.toNat + 1)) }))

/-- R303. -/
def execMaccld (k : Cmd) (t : BitVec 7) (off : BitVec 11) (m : BitVec 10) (s : State) : Host.Outcome State Fault Refusal :=
  .next (s.runCmd k (m.toNat + 1) (fun s g x => failIf (s.accBad g x t off.toNat (m.toNat + 1)))
    (fun s g x =>
      { s with mem := s.mem.writeN ((s.allotOf g x).loc (16 * t.toNat) 0)
                        (s.mem.readN (locScratch g (128 * off.toNat)) (128 * (m.toNat + 1))) }))

/-- R303. -/
def execMaccst (k : Cmd) (t : BitVec 7) (off : BitVec 11) (m : BitVec 10) (s : State) : Host.Outcome State Fault Refusal :=
  .next (s.runCmd k (m.toNat + 1) (fun s g x => failIf (s.accBad g x t off.toNat (m.toNat + 1)))
    (fun s g x =>
      { s with mem := s.mem.writeN (locScratch g (128 * off.toNat))
                        (s.mem.readN ((s.allotOf g x).loc (16 * t.toNat) 0) (128 * (m.toNat + 1))) }))

/-- R304. -/
def execMepi (k : Cmd) (fn : EpiFn) (t p : BitVec 7) (n : BitVec 5) (orow : BitVec 16) (m : BitVec 10) (s : State) :
    Host.Outcome State Fault Refusal :=
  .next (s.runCmd k (m.toNat + 1) (fun s g x => failIf (s.mepiBad g x t p n.toNat orow.toNat (m.toNat + 1)))
    (fun s g x => s.mepi g x fn t p n.toNat orow.toNat (m.toNat + 1)))

/-- R305. -/
def execMbar (k : Cmd) (_all : Bool) (n : BitVec 6) (s : State) : Host.Outcome State Fault Refusal :=
  .next (s.runCmd k 0 (fun s g _ => s.cmdBarCheck g n.toNat) (fun s g _ => s.mbarArrive g n.toNat))

/-- R305: the command waits in the window from now on; it retires once the barrier has flipped often enough. -/
def execMwaitb (k : Cmd) (_all : Bool) (n : BitVec 6) (s : State) : Host.Outcome State Fault Refusal :=
  .next (s.runCmd k 0 (fun s g _ => s.cmdBarCheck g n.toNat) (fun s _ _ => s))

/-- R305: it issues once every earlier command has retired, and its retirement ends the stream. -/
def execMend (k : Cmd) (s : State) : Host.Outcome State Fault Refusal := .next (s.runCmd k 0 (fun _ _ _ => none) (fun s _ _ => s))

/-! ### Events of the sequencer -/

/-- The window entry of a command just accepted (R287, R288, R305). -/
def Stream.accept (m : Stream) (now : Nat) (code : List Word) (i : Instr) (k : Cmd) : Stream :=
  let pre := ([k.p0, k.p1].filter (fun p => p != 0x3F#6)).filterMap (fun p => (m.last.find? (fun x => x.1 == p.toNat)).map (fun x => x.2))
  let n := match i with | .mwaitb _ _ b => b.toNat | _ => 64
  let waits := if n < 64 then upsert (fun (x : Nat × Nat) => x.1 == n) (n, 0) (fun x => (n, x.2 + 1)) m.waits else m.waits
  let nth := ((waits.find? (fun x => x.1 == n)).map (fun x => x.2)).getD 0
  let c : WinCmd :=
    { seq := m.accepted, code := code, ins := i, pre := pre, time := now, nth := nth, fetched := none, issued := false, rows := 0, total := 0,
      hold := 0, prog := none }
  { m with window := m.window ++ [c], accepted := m.accepted + 1, waits := waits, ended := (match i with | .mend _ => true | _ => false),
           last := upsert (fun (x : Nat × Nat) => x.1 == k.id.toNat) (k.id.toNat, 0) (fun x => (x.1, m.accepted)) m.last,
           fetch := m.fetch + (if m.fetch.toNat % 64 = 48 then 16 else 12) }

/-- Accept commands of one line from the fetch address on, as places free (R289); a slot that holds no command faults the stream. -/
def State.acceptLine (g : Nat) (ws : List Word) : Nat → State → State
  | 0, s => s
  | fuel + 1, s =>
    match s.streamOf g with
    | none => s
    | some m =>
      if m.ended || m.fault.isSome || decide (16 ≤ m.window.length) then s
      else
        let code := (ws.drop (m.fetch.toNat % 64 / 4)).take 3
        match decodeWords code with
        | .ok (i, 3) =>
          match cmdKey i with
          | some k =>
            let s := s.updStream g (fun m => m.accept s.now code i k)
            if m.fetch.toNat % 64 = 48 then s else State.acceptLine g ws fuel s
          | none => s.drawn.streamFault g causeIllegal (bitsOf s.freeVal 5 0)
        | .ok _ => s.drawn.streamFault g causeIllegal (bitsOf s.freeVal 5 0)
        | .error _ =>
          if bitsOf (code.getD 0 0) 31 30 = 3 then s.streamFault g causeIllegal (bitsOf (code.getD 2 0) 5 0)
          else s.drawn.streamFault g causeIllegal (bitsOf s.freeVal 5 0)

/-- A command of the group's stream may still issue in the present moment; of two that fail in one cycle the earlier in stream order is the
failing one, so the line behind it is not accepted before it has issued (R295). -/
def State.issuesNow (s : State) (g : Nat) : Bool :=
  s.groupRuns g && !(s.actFull (s.group g).core (s.group g).part) && (s.nextCmd g).isSome &&
  ((s.streamOf g).map (fun m => decide (m.served ≤ 2 * s.now))).getD false

/-- R289: group a; the line at the stream's fetch address comes through the instruction cache, unless it must come through a column under
repair or a slice that holds requests (R20, R208), is checked as R36 and R37 give, and its commands are accepted. A failing line that names no
command leaves FID a free value (log entry 10). -/
def execStreamLineFetch (s : State) : Host.Outcome State Fault Refusal :=
  .next (
    let g := s.arg.a
    let x := s.group g
    match x.stream with
    | none => s
    | some m =>
      if m.ended || m.fault.isSome || decide (16 ≤ m.window.length) || s.fetchHeld x.part x.core m.fetch.toNat || s.issuesNow g then s
      else
        match s.fetch x.part x.core m.fetch.toNat with
        | (.cause c, s) => s.drawn.streamFault g c (bitsOf s.freeVal 5 0)
        | (.line line ws, s) =>
          let (ws, s) := if parityGood ws then (ws, s) else s.refetch x.core line
          if !parityGood ws then s.raiseHalt x.part 3 x.core g
          else if (lineStarts ws).isNone then s.drawn.streamFault g causeIllegal (bitsOf s.freeVal 5 0)
          else State.acceptLine g ws 5 s)

/-- When a command of a group's window was accepted. -/
def Group.cmdTime (g : Group) (k : Nat) : Nat := ((g.stream.bind (fun m => m.window[k]?)).map (fun c => c.time)).getD 0

/-- The order in which a core's streams take a unit: the earliest slice deadline, then the command accepted first (R291), at last the
group's number (DESIGN CHOICE, log entry 5). -/
def unitKey (p : Group × Nat) : List Nat := [p.1.deadline, p.1.cmdTime p.2, p.1.gid]

/-- The next command that a core issues in a cycle: of the streams that have not issued in it, the first in that order with its ready
command. -/
def State.issueNext (s : State) (core cyc : Nat) : Option (Nat × Nat) :=
  let on := s.groups.filterMap (fun g =>
    if g.core == core && s.groupRuns g.gid && !(s.actFull core g.part) && ((g.stream.map (fun m => m.served != cyc)).getD false) then
      (s.nextCmd g.gid).map (fun k => (g, k))
    else none)
  ((sortKey unitKey on).head?).map (fun p => (p.1.gid, p.2))

/-- R289, R291: core a, its b-th cycle of this moment; a stream's earliest ready command is chosen, and the next step runs it. -/
def execStreamCommandIssue (s : State) : Host.Outcome State Fault Refusal :=
  .next (
    let cyc := 2 * s.now + s.arg.b + 1
    match s.issueNext s.arg.a cyc with
    | some (g, k) => { s.updStream g (fun m => { m with served := cyc }) with command := some (g, k) }
    | none => s)

/-- A command that may retire: every write complete; an MWAITB's flips have come; MEND is the last (R289, R305). -/
def Stream.mayRetire (m : Stream) (now : Nat) (c : WinCmd) : Bool :=
  c.entered && decide (c.hold ≤ now) &&
  (match c.ins with
   | .mwaitb _ _ n => decide (c.nth ≤ ((m.flips.find? (fun x => x.1 == n.toNat)).map (fun x => x.2)).getD 0)
   | _ => true)

/-- R289: group a; the earliest command that may retire leaves the window. -/
def execStreamCommandRetire (s : State) : Host.Outcome State Fault Refusal :=
  .next (
    match s.streamOf s.arg.a with
    | none => s
    | some m =>
      match m.window.find? (m.mayRetire s.now) with
      | none => s
      | some c =>
        s.updStream s.arg.a (fun m => { m with window := m.window.filter (fun x => x.seq != c.seq), retired := (m.retired + 1) % 65536 }))

/-- Only MWAITB commands stand unretired, and every live thread of the group is parked (R295). -/
def State.mwaitbDead (s : State) (g : Nat) (m : Stream) : Bool :=
  !m.window.isEmpty && m.window.all (fun c => isWaitb false c.ins) &&
  (s.threads.filter (fun t => t.gid == g && t.live)).all (fun t => t.park.counts)

/-- The count of R295 stood still for some cycles. -/
def Stream.standLater (m : Stream) (n : Nat) : Stream := { m with stood := m.stood.map (· + n) }

/-- R295: group a; the count of its stream begins or ends, or has reached 4,096 cycles. -/
def execMwaitbDeadlockDetect (s : State) : Host.Outcome State Fault Refusal :=
  .next (
    let g := s.arg.a
    match s.streamOf g with
    | none => s
    | some m =>
      let n := s.rawClk (s.group g).core
      if !(s.coreOpen (s.group g).core (s.group g).part) then s
      else if !(s.mwaitbDead g m) then s.updStream g (fun m => { m with stood := none })
      else
        match m.stood with
        | none => s.updStream g (fun m => { m with stood := some n })
        | some t =>
          if n - t < 4096 then s
          else
            let fid := ((m.window.head?).bind (fun c => cmdKey c.ins)).elim 0 (fun k => k.id.toNat)
            let s := s.updStream g (fun m => { m with window := [], stood := none })
            if m.fault.isSome then s else s.streamFault g causeBarerr fid)

/-- Occupied cycles of one row on the array: one, or the width ratio of a ladder pass (R316, R402). -/
def State.rowCycles (s : State) (g : Nat) (c : WinCmd) : Nat :=
  match c.ins, c.prog with
  | .mstr _ true _ n _ _, some p =>
    match s.ownRange g n.toNat with
    | some rcd =>
      let w := fun (k : Nat) => (((EFmt.ofNat? (recRung rcd k)).getD .e2m1).width)
      (w p.rung + w 0 - 1) / w 0
    | none => 1
  | _, _ => 1

/-- Units that a command's next row spends as it enters, and a row of an MSTR in every further cycle in which it occupies the array (R297, R316). -/
def State.rowUnits (s : State) (g : Nat) (m : Stream) (c : WinCmd) : Nat :=
  let u := s.weightOf 5
  match c.ins with
  | .mstr _ lad _ n _ _ =>
    if lad then
      let four :=
        match s.ownRange g n.toNat, c.prog with
        | some rcd, some p => ((EFmt.ofNat? (recRung rcd p.rung)).getD .e4m3).width == 4
        | _, _ => false
      if four then u 2 else u 1
    else if (m.active.fmt.map (fun f => f.width)) = some 4 then u 2 else u 1
  | .mzero _ _ _ => if c.rows = 0 then u 1 else 0
  | .maccld _ _ _ _ | .maccst _ _ _ _ => if c.rows % 8 = 0 then u 1 else 0
  | .mepi _ _ _ _ _ _ _ | .mscan _ _ _ _ _ _ _ => if c.rows % 2 = 0 then u 1 else 0
  | _ => 0

/-- Occupied cycles that a power class admits in a window (R28, R402). -/
def classRows (c : Nat) : Nat := if c = 120 then 307 else if c = 150 then 460 else if c = 220 then 716 else 1024

/-- A core's array takes no row in a cycle of its clock: it is gated, the row before still occupies it, or its window's cycles are used up
(R402). -/
def State.arrayHeld (s : State) (core clk : Nat) : Bool :=
  let c := s.coreSt core
  s.arrayOff core || decide (clk < c.busyTo) || decide (classRows s.powerClass ≤ c.occupied)

/-- A row that spends `rate` units in each cycle occupies a core's array for n cycles from this one on (R316, R402). -/
def State.occupy (s : State) (core part clk n rate : Nat) : State :=
  s.updCore core (fun c =>
    { c with occupied := c.occupied + 1, busyTo := clk + n, rowPart := part, rowRate := rate, rowAt := clk + 1 })

/-- A further cycle of the row that occupies a core's array: it counts, and spends its units (R316, R402). -/
def State.rowGoesOn (s : State) (core clk : Nat) : State :=
  let c := s.coreSt core
  if clk < c.busyTo ∧ c.rowAt ≤ clk ∧ s.engineRuns core c.rowPart = true then
    (s.spend core c.rowPart c.rowRate).updCore core (fun c => { c with occupied := c.occupied + 1, rowAt := clk + 1 })
  else s

/-- A command whose next row may enter a unit: the array (true) or the accumulator port. -/
def WinCmd.rowFor (now : Nat) (array : Bool) (c : WinCmd) : Bool :=
  c.issued && decide (c.rows < c.total) && decide (c.hold ≤ now) && isMstr c.ins == array

/-- The group whose row enters a unit next, and its command's place, in the order of R291. A command that has issued goes on while its slice
is not current (R83). -/
def State.rowNext (s : State) (core : Nat) (array : Bool) : Option (Group × Nat) :=
  (sortKey unitKey (s.groups.filterMap (fun g =>
    if g.core == core && s.engineRuns core g.part then
      (g.stream.bind (fun m => m.window.findIdx? (WinCmd.rowFor s.now array))).map (fun k => (g, k))
    else none))).head?

/-- A row of a group's command enters a unit and spends its units. -/
def State.rowEnter (s : State) (g : Group) (m : Stream) (k : Nat) (c : WinCmd) (clk : Nat) : State :=
  let u := s.rowUnits g.gid m c
  let s := s.spend g.core g.part u
  let s := if isMstr c.ins then s.occupy g.core g.part clk (s.rowCycles g.gid c) u else s
  s.updStream g.gid (fun m => m.updCmd k (fun c =>
    { c with rows := c.rows + 1, hold := if isMstr c.ins ∧ c.total ≤ c.rows + 1 then s.now + 16 else c.hold }))

/-- R297, R399, R402: core a, its c-th cycle of this moment; a row enters its array (b is 0) or its accumulator port (b is 1). One that the
budget holds back counts a blocked cycle (R401); the row that still occupies the array goes on (R316). -/
def execMatrixRowEntry (s : State) : Host.Outcome State Fault Refusal :=
  .next (
    let core := s.arg.a
    let array := s.arg.b == 0
    let clk := s.clk core + s.arg.c
    let s := if array then s.rowGoesOn core clk else s
    if array && s.arrayHeld core clk then s
    else
      match s.rowNext core array with
      | none => s
      | some (g, k) =>
        if s.actFull core g.part then s.countBlocked core g.part s.arg.c
        else
          match g.stream with
          | none => s
          | some m =>
            match m.window[k]? with
            | none => s
            | some c => s.rowEnter g m k c clk)

/-- An MLDW's column is under repair, or its column or bank is gated (R20, R300). -/
def State.weightsAway (s : State) (core : Nat) (bank : Bool) : Bool :=
  (!bank && s.repair.contains core) || s.gated.contains (if bank then .bank core else .column core)

/-- The fetch phase of a command may begin: its edges met, a staging tile free, every earlier MLAD retired (R297). -/
def State.mayFetch (s : State) (g : Nat) (m : Stream) (c : WinCmd) : Bool :=
  let x := s.group g
  let staged := ((s.streamsOn x.core x.part).map (fun y => (y.window.filter (fun z => z.fetched.isSome && !z.issued)).length)).foldl (· + ·) 0
  (match c.ins with | .mldw _ bank _ _ _ _ => !(s.weightsAway x.core bank) | _ => false) &&
  c.fetched.isNone && m.edgesMet c && decide (staged < 4) &&
  (m.window.filter (fun z => decide (z.seq < c.seq))).all (fun z => !(isMlad z.ins))

/-- Nominal cycles of a fetch phase (R297). -/
def fetchTime : Instr → Nat
  | .mldw _ bank _ _ _ _ => if bank then 291 else 375
  | _ => 0

/-- The earliest MLDW of a group's stream whose fetch phase may begin. -/
def State.fetchOf (s : State) (g : Nat) : Option Nat :=
  match s.streamOf g with
  | none => none
  | some m => if !(s.groupRuns g) || m.fault.isSome then none else m.window.findIdx? (s.mayFetch g m)

/-- The group whose MLDW takes the next staging tile of a core (R291). -/
def State.fetchNext (s : State) (core : Nat) : Option (Group × Nat) :=
  (sortKey unitKey (s.groups.filterMap (fun g => if g.core == core then (s.fetchOf g.gid).map (fun k => (g, k)) else none))).head?

/-- R297: group a; if its stream is the one that takes the core's next staging tile, the fetch phase of its earliest MLDW that may begin reads
WDELTA. -/
def execMldwFetchStart (s : State) : Host.Outcome State Fault Refusal :=
  .next (
    let g := s.arg.a
    match s.fetchNext (s.group g).core with
    | some (x, k) =>
      if x.gid = g then
        s.updStream g (fun m => m.updCmd k (fun c => { c with fetched := some m.ladDelta, hold := s.now + fetchTime c.ins }))
      else s
    | none => s)

end Sys2Proof.Machine
end

