-- ==== Sys2Proof/Machine/Streams.lean ====
section
/-! DEFINITION. Meanings of the copy, stream-engine, tag and lock-query instructions (10), and the events of copies and boxes. -/

namespace Sys2Proof.Machine

/-! ### Engine ranges (R216, R219) -/

/-- A tag's or engine's owner in a space: the group, its cluster set, or the partition as a whole. -/
def State.engRng (s : State) (g : Nat) (sp : ESpace) (lo len : Nat) : Rng :=
  match sp with
  | .core | .obuf => { sp := sp, owner := g, lo := lo, len := len }
  | .cmem => { sp := sp, owner := (s.group g).cset.getD 0, lo := lo, len := len }
  | .chip | .glob => { sp := sp, owner := 0, lo := lo, len := len }

/-- Fields of an operand-buffer address. -/
def obNum (a : Nat) : Nat := a / 2 ^ 24 % 32
def obOff (a : Nat) : Nat := a % 2 ^ 19

/-- R175 order 2 for an engine range: a global range must be canonical. -/
def rngCanonical (x : Rng) : Bool :=
  x.sp != .glob || x.len == 0 || (canonical x.lo && canonical (x.lo + x.len - 1) && decide (x.lo + x.len ≤ 2 ^ 64))

/-- R175 order 4 and the `.obuf` bound of R216 for an engine range of a group. A range of length 0, of a copy that completes at once, is asked
nothing (R234; DESIGN CHOICE, log entry 16). -/
def State.rngBound (s : State) (g : Nat) (x : Rng) : Bool :=
  let grp := s.group g
  x.len == 0 ||
  (match x.sp with
   | .core => decide (x.lo + x.len ≤ hdrScratch grp.hdr)
   | .cmem => decide (x.lo + x.len ≤ s.cmemSize g)
   | .chip => decide (x.lo < 2 ^ 25) && decide (x.lo % 2 ^ 24 + x.len ≤ ((s.part grp.part).window.getD (chipDie x.lo) (0, 0)).2)
   | .glob => true
   | .obuf =>
     !isControl grp.core && decide (x.lo < 2 ^ 29) && x.lo / 2 ^ 19 % 32 == 0 &&
     (match (s.ctx grp.core grp.part).range (obNum x.lo) with
      | some q => q.owner == g && decide (obOff x.lo + x.len ≤ recSize q.rcd)
      | none => false))

/-! ### One byte as an engine reaches it -/

/-- The place of a byte for an engine of a group, under R175 orders 2, 4, 5 and 6 and the bounds of R216. -/
def State.engPlace (s : State) (g : Nat) (sp : ESpace) (a : Nat) (acc : Acc) : Except Nat Where :=
  let grp := s.group g
  if !(s.rngBound g (s.engRng g sp a 1)) then .error causeAccess
  else
    match sp with
    | .core => .ok (.own (locScratch g a))
    | .cmem => .ok (.own (locCmem (grp.cset.getD 0) a))
    | .chip => .ok (.own (locChip (chipDie a) (((s.part grp.part).window.getD (chipDie a) (0, 0)).1 + a % 2 ^ 24)))
    | .glob => (s.page grp.part grp.core a 1 acc).map (fun p => .phys p.2)
    | .obuf =>
      match (s.ctx grp.core grp.part).range (obNum a) with
      | some q => .ok (.own (locObuf grp.core grp.part (recBase q.rcd + obOff a)))
      | none => .error causeAccess

/-- An engine's access to n bytes wakes the banks and columns that serve them, and uses the caches below the core's (R191, R403). -/
def State.engTouch (s : State) (g : Nat) (sp : ESpace) (a n : Nat) : State :=
  ((List.range (n / 64 + 1)).map (fun k => a + 64 * k) ++ [a + n - 1]).foldl (fun s a =>
    match s.engPlace g sp a .read with
    | .ok (.phys pa) => (s.wakeAt pa).touchBelow (s.group g).part pa
    | _ => s) s

/-- Bytes from an address on, one after the other; a failing one gives its cause and the bytes before it are left out. -/
def State.engRead (s : State) (g : Nat) (sp : ESpace) (a : Nat) : Nat → Except Nat (List Byte)
  | 0 => .ok []
  | n + 1 =>
    match s.engPlace g sp a .read with
    | .error c => .error c
    | .ok w =>
      match State.engRead s g sp (a + 1) n with
      | .error c => .error c
      | .ok bs => .ok (s.readAt (s.group g).core w 1 ++ bs)

/-- Every byte of a run has a place to be written. -/
def State.engOk (s : State) (g : Nat) (sp : ESpace) (a n : Nat) : Except Nat Unit :=
  (List.range n).foldl (fun acc k =>
    match acc with
    | .error c => .error c
    | .ok _ => (s.engPlace g sp (a + k) .write).map (fun _ => ())) (.ok ())

/-- Write bytes at a scope; all have been found to have a place. -/
def State.engWrite (s : State) (g : Nat) (sc : Scope) (sp : ESpace) (a : Nat) : List Byte → State
  | [] => s
  | b :: bs =>
    let s :=
      match s.engPlace g sp a .write with
      | .error _ => s
      | .ok w => s.writeAt (s.group g).part (s.group g).core sc w [b]
    s.engWrite g sc sp (a + 1) bs

/-- Move n bytes: the cause of a failing side, or the state after. -/
def State.engMove (s : State) (g : Nat) (sc : Scope) (ssp dsp : ESpace) (src dst n : Nat) : Except Nat State :=
  match s.engRead g ssp src n with
  | .error c => .error c
  | .ok bs =>
    match s.engOk g dsp dst n with
    | .error c => .error c
    | .ok _ => .ok ((s.engTouch g ssp src n).engWrite g sc dsp dst bs)

/-! ### The lock table (R219 to R221) -/

/-- A matrix command accepted and not retired clashes with an engine range (R220, R290). -/
def State.mxClash (s : State) (x : Rng) (writes : Bool) : Bool :=
  x.sp == .obuf && decide (0 < x.len) && s.heldRange x.owner (obNum x.lo) (!writes)

/-- R220: a new operation waits for the locked ranges that it overlaps; a tag whose count is full holds it too (R225). -/
def State.lockClash (s : State) (op : LockOp) : Bool :=
  let on := s.locks.filter (fun l => l.part == op.part && (l.onDie op.die || op.mirror))
  op.dst.any (fun x => decide (0 < x.len) && on.any (fun l => l.src.any (fun y => y.overlaps x) || l.dst.any (fun y => y.overlaps x))) ||
  op.src.any (fun x => decide (0 < x.len) && on.any (fun l => l.dst.any (fun y => y.overlaps x))) ||
  op.dst.any (fun x => s.mxClash x true) || op.src.any (fun x => s.mxClash x false) ||
  ((op.kind matches .copy | .copyT _ _) && decide (65535 ≤ (s.ctx op.core op.part).tagCnt.getD op.tag 0))

/-- Entries that stand in a die's table, mirrors included. -/
def State.lockCount (s : State) (d : Nat) : Nat := (s.locks.filter (fun l => l.onDie d)).length
def State.lockRoom (s : State) (op : LockOp) : Bool :=
  decide (s.lockCount op.die < 256) && (!op.mirror || decide (s.lockCount (1 - op.die) < 256))

/-- Two registrations wait on one die: each may need an entry of its own die's table, and of the other's for a mirror (R219, R221). -/
def LockOp.sameTable (a b : LockOp) : Bool := a.die == b.die || a.mirror || b.mirror

/-- A registration may go ahead now: it clashes with nothing, entries are free, and no registration that waits for a free entry on a die on
which it needs one stands before it (R221). -/
def State.lockReady (s : State) (before : List LockOp) (op : LockOp) : Bool :=
  !(s.lockClash op) && s.lockRoom op &&
  (before.filter (fun l => l.sameTable op && s.holds l.core l.part)).all (fun l => s.lockClash l)

/-- R225, at issue: the tag's bit falls and its count rises. -/
def Ctx.issueTag (c : Ctx) (tag : Nat) : Ctx :=
  { c with ctag := c.ctag &&& ~~~(BitVec.ofNat 64 (2 ^ tag)), tagCnt := c.tagCnt.set tag (c.tagCnt.getD tag 0 + 1) }

/-- Nominal start-up of an endpoint (R179, R218). -/
def ESpace.startUp : ESpace → Nat
  | .core | .obuf => 22
  | .cmem => 40
  | .chip => 140
  | .glob => 210

/-- Nominal time of what an engine operation has left: each endpoint's start-up, then 64 bytes in a cycle (R218). -/
def LockOp.time (op : LockOp) : Nat :=
  ((op.src ++ op.dst).map (fun x => ESpace.startUp x.sp)).foldl (· + ·) 0 + (op.len - op.done + 63) / 64

/-- Take the entry. A mirrored one still waits for the other die (R219). -/
def State.lockAdd (s : State) (op : LockOp) : State :=
  { s with locks := s.locks ++ [{ op with acked := !op.mirror, again := false, ready := s.now + op.time }] }

/-- The entry of a copy or box with its tag's issue. -/
def State.lockIssue (s : State) (op : LockOp) : State :=
  let s := s.lockAdd op
  match op.kind with
  | .copy | .copyT _ _ => s.updCtx op.core op.part (fun c => c.issueTag op.tag)
  | _ => s

/-- A thread's registration: at once, or its thread is held, or parked where `parked` says so (R220, R221). `done` is what follows the
registration. -/
def State.lockAsk (s : State) (parked : Bool) (op : LockOp) (done : State → LockOp → State) : State :=
  let op := { op with id := s.serial }
  let s := s.bump
  if s.lockReady s.regQueue op then done (s.lockIssue op) op
  else ({ s with regQueue := s.regQueue ++ [op] } : State).parkAs (op.gid, op.tid) (.lockReg parked)

/-- Ranges that need a mirror (R219). -/
def rngMirror (x : Rng) : Bool := decide (0 < x.len) && (x.sp == .glob || x.sp == .chip)

/-- An operation of a thread, not yet registered. -/
def State.newOp (s : State) (r : Ref) (tag : Nat) (sc : Scope) (kind : OpKind) (src dst : List Rng) (len : Nat) : LockOp :=
  { id := 0, die := s.dieOf r, mirror := src.any rngMirror || dst.any rngMirror, acked := false, again := false, part := s.partOf r,
    core := s.coreOf r, gid := r.1, tid := r.2, tag := tag, scope := sc, kind := kind, src := src, dst := dst, len := len, done := 0, ready := 0,
    desc := [] }

/-! ### CPY and CPYT (R222, R234, R235) -/

/-- Issue of a copy between two ranges. A copy of no bytes has no range, so no check of a range is made on it (R234; log entry 16). -/
def State.copyIssue (s : State) (r : Ref) (tag : Nat) (sc : Scope) (kind : OpKind) (src dst : List Rng) (len : Nat) : State :=
  let all := src ++ dst
  if all.any (fun x => !rngCanonical x) then s.fail r causeXlate
  else if all.any (fun x => !(s.rngBound r.1 x)) then s.fail r causeAccess
  else if src.any (fun x => dst.any (fun y => decide (0 < x.len) && decide (0 < y.len) && x.overlaps y)) then s.fail r causeAccess
  else if len = 0 then s.updCtxOf r (fun c => (c.issueTag tag).completeTag tag)
  else s.lockAsk false (s.newOp r tag sc kind src dst len) (fun s _ => s)

/-- An address of a space: only the low word of a pair for the 32-bit spaces (R234). -/
def spAddr (sp : ESpace) (d : DWord) : Nat := if sp = .glob then d.toNat else (lo32 d).toNat

def State.cpy (s : State) (r : Ref) (dsp ssp : ESpace) (sc : Scope) (tag : Nat) (a : Reg) (b : Src) : State :=
  let len := (s.src32 r b).toNat
  let dst := s.engRng r.1 dsp (spAddr dsp (s.rd64 r a)) len
  let src := s.engRng r.1 ssp (spAddr ssp (s.rd64 r (a + 2))) len
  s.copyIssue r tag sc .copy [src] [dst] len

/-- R184 with SPACE 1 to 5, and the alignment of R235: the format and space. -/
def tenEngine (w : List Word) : Option (EFmt × ESpace) :=
  match tenFormat w, tenEngSpace w with
  | some f, some sp =>
    let n := f.width / 8
    if tenShape w = true ∧ (sp = .glob ∨ hdrW w 1 = 0) ∧ (tenBase w).toNat % n = 0 ∧
        (List.range 5).all (fun i => (tenStr w i).toNat % n == 0) = true then some (f, sp) else none
  | _, _ => none

/-- The memory-side range of a box (R229): from the lowest to the highest byte of its elements inside the extents. -/
def tenRange (w : List Word) (f : EFmt) (sp : ESpace) (q : Nat → Nat) : Option (Nat × Nat) :=
  let ds := (List.range (tenNdim w)).map (fun i =>
    let o : Int := tenOrg w i + (q i * tenBox w i : Nat)
    (max o 0, min (o + tenBox w i - 1) ((tenExt w i : Int) - 1), (tenStr w i).toInt))
  if ds.any (fun d => decide (d.2.1 < d.1)) then none
  else
    let lo := (ds.map (fun d => min (d.1 * d.2.2) (d.2.1 * d.2.2))).foldl (· + ·) ((tenBase w).toNat : Int)
    let hi := (ds.map (fun d => max (d.1 * d.2.2) (d.2.1 * d.2.2))).foldl (· + ·) ((tenBase w).toNat : Int)
    some ((lo % (if sp = .glob then 2 ^ 64 else 2 ^ 32)).toNat, (hi - lo).toNat + f.width / 8)

/-- The records agree (R235). -/
def tenAgree (a b : List Word) (fa fb : EFmt) : Bool :=
  tenNdim a == tenNdim b && fa.width == fb.width && (List.range 5).all (fun i => tenBox a i == tenBox b i)

def State.cpyt (old s : State) (r : Ref) (sc : Scope) (tag : Nat) (a : Reg) (b : Src) : State :=
  match s.check r .core (s.rd r a).toNat 128 128 false false, s.check r .core (s.src32 r b).toNat 128 128 false false with
  | .error c, _ => s.fail r c
  | _, .error c => s.fail r c
  | .ok (wd, _), .ok (ws, _) =>
    let dr := wordsOfBytes (old.readAt (s.coreOf r) wd 128)
    let sr := wordsOfBytes (old.readAt (s.coreOf r) ws 128)
    match tenEngine dr, tenEngine sr with
    | some (fd, dsp), some (fs, ssp) =>
      if !tenAgree dr sr fd fs then s.fail r causeAccess
      else
        let rng := fun (w : List Word) (f : EFmt) (sp : ESpace) =>
          match tenRange w f sp noBoxes with
          | some (lo, n) => [s.engRng r.1 sp lo n]
          | none => []
        s.copyIssue r tag sc (.copyT dr sr) (rng sr fs ssp) (rng dr fd dsp) (tenBoxSize dr * (fd.width / 8))
    | _, _ => s.fail r causeAccess

/-- An element of a tensor as an engine reads it: FILL outside the extents (R229). -/
def State.tenGet (s : State) (g : Nat) (w : List Word) (f : EFmt) (sp : ESpace) (q : Nat → Nat) (k : Nat) : Except Nat (List Byte) :=
  let xs := tenCoord w q k
  if tenInside w xs then s.engRead g sp (tenAddr w sp xs) (f.width / 8) else .ok (toBytes (f.width / 8) (tenFill w f))

/-- Where an engine writes an element of a tensor: nowhere outside the extents. -/
def tenPut (w : List Word) (sp : ESpace) (q : Nat → Nat) (k : Nat) : Option (ESpace × Nat) :=
  let xs := tenCoord w q k
  if tenInside w xs then some (sp, tenAddr w sp xs) else none

/-! ### Completion (R225, R227) -/

/-- A fault that an engine operation met: its tag's error bit, and its cause in the wave of the thread that issued it, if live (R227). -/
def State.engFault (s : State) (core part tag : Nat) (r : Ref) (c : Nat) : State :=
  let s := s.updCtx core part (fun x => { x with tagErr := x.tagErr ||| BitVec.ofNat 64 (2 ^ tag) })
  if (s.thread r).live then s.setCause r c else s

def State.lockById (s : State) (id : Nat) : Option LockOp := s.locks.find? (fun l => l.id == id)
def State.lockDrop (s : State) (id : Nat) : State := { s with locks := s.locks.filter (fun l => l.id != id) }

/-! ### Stream engines (R228 to R231, R236) -/

/-- The ring record (R228, R236 status 2). -/
def ringValid (w : List Word) (ndim : Nat) (cset : Bool) : Bool :=
  bitsOf (hdrW w 2) 31 8 == 0 && bitsOf (hdrW w 3) 31 19 == 0 && bitsOf (hdrW w 6) 31 16 == 0 && hdrW w 7 == 0 &&
  decide (1 ≤ ringNslot w) && decide (ringNslot w ≤ 64) && ringPbase w % 64 == 0 && ringHbase w % 4 == 0 &&
  ringSstr w % 64 == 0 && decide (64 ≤ ringSstr w) && decide (ringSstr w ≤ 262144) && (!ringCm w || cset) &&
  (List.range 5).all (fun i => if i < ndim then decide (1 ≤ ringCnt w i) else ringCnt w i == 0) &&
  decide (ringBoxes w ndim < 2 ^ 32)

/-- Payloads and headers lie in the allocation and apart (R236 status 3); a slot counts with its whole stride. -/
def ringFits (w : List Word) (size : Nat) : Bool :=
  let p := ringNslot w * ringSstr w
  let h := 4 * ringNslot w
  decide (ringPbase w + p ≤ size) && decide (ringHbase w + h ≤ size) &&
  (decide (ringPbase w + p ≤ ringHbase w) || decide (ringHbase w + h ≤ ringPbase w))

def Ctx.eng (c : Ctx) (e : Bool) : Option SeBind := if e then c.eng1 else c.eng0
def Ctx.setEng (c : Ctx) (e : Bool) (x : Option SeBind) : Ctx := if e then { c with eng1 := x } else { c with eng0 := x }

/-- Boxes of a binding. -/
def SeBind.boxes (b : SeBind) : Nat := b.total

/-- The location of a ring's word at an offset. -/
def State.ringLoc (s : State) (b : SeBind) (off : Nat) : Nat :=
  if ringCm b.ring then locCmem ((s.group b.gid).cset.getD 0) off else locScratch b.gid off
/-- Header of slot s. -/
def State.headLoc (s : State) (b : SeBind) (slot : Nat) : Nat := s.ringLoc b (ringHbase b.ring + 4 * slot)
def State.headWord (s : State) (b : SeBind) (slot : Nat) : Word := BitVec.ofNat 32 (ofBytes (s.mem.readN (s.headLoc b slot) 4))

/-- Write a header's contents and bit in one step; requests that wait on the word are served (R186, R187). -/
def State.setHead (s : State) (b : SeBind) (slot : Nat) (w : Word) (full : Bool) : State :=
  let loc := s.headLoc b slot
  let s := ({ s with mem := s.mem.writeN loc (bytesOfWord w) } : State).setFull loc full
  s.serveWord loc s.feQueue.length

/-- The threads own the header of box j (R231). -/
def State.slotMine (s : State) (b : SeBind) (j : Nat) : Bool :=
  let k := j % ringNslot b.ring
  decide (j < b.boxes) && s.headWord b k == BitVec.ofNat 32 j && s.isFull (s.headLoc b k) == !b.drain

/-- The engine owns it and may start box j (R231). -/
def State.slotEngine (s : State) (b : SeBind) (j : Nat) : Bool :=
  let k := j % ringNslot b.ring
  s.headWord b k == BitVec.ofNat 32 j && s.isFull (s.headLoc b k) == b.drain

/-- The status of SEBIND (R236). -/
def State.bindStatus (s : State) (r : Ref) (e : Bool) (ring ten : List Word) : Nat :=
  let size := if ringCm ring then s.cmemSize r.1 else hdrScratch (s.group r.1).hdr
  if ((s.ctxOf r).eng e).isSome then 1
  else if !ringValid ring (tenNdim ten) (s.group r.1).cset.isSome then 2
  else if !ringFits ring size then 3
  else
    match tenEngine ten with
    | none => 4
    | some (f, _) => if ringSstr ring < f.width / 8 * tenBoxSize ten then 4 else 0

/-- SEBIND (R236). A full tag count makes the issue wait (R225). -/
def State.sebind (s : State) (r : Ref) (drain : Bool) (sc : Scope) (e : Bool) (tag : Nat) (d a : Reg) (b : Src) : State :=
  match s.check r .core (s.rd r a).toNat 32 32 false false, s.check r .core (s.src32 r b).toNat 128 128 false false with
  | .error c, _ => s.fail r c
  | _, .error c => s.fail r c
  | .ok (wr, _), .ok (wt, _) =>
    let ring := wordsOfBytes (s.readAt (s.coreOf r) wr 32)
    let ten := wordsOfBytes (s.readAt (s.coreOf r) wt 128)
    let st := s.bindStatus r e ring ten
    if st ≠ 0 then s.put r d (BitVec.ofNat 32 st)
    else if 65535 ≤ (s.ctxOf r).tagCnt.getD tag 0 then s.parkAs r (.tagFull tag)
    else
      let x : SeBind :=
        { gid := r.1, tid := r.2, drain := drain, scope := sc, tag := tag, ring := ring, tensor := ten, total := ringBoxes ring (tenNdim ten), next := 0, finished := 0,
          freeing := false }
      let s := (List.range (ringNslot ring)).foldl (fun s k => s.setHead x k (BitVec.ofNat 32 k) false) s
      (s.updCtxOf r (fun c => (c.setEng e (some x)).issueTag tag)).put r d 0

/-- Boxes of an engine that are in flight or wait for their entries. -/
def isBoxOf (core part : Nat) (e : Bool) (l : LockOp) : Bool :=
  l.core == core && l.part == part && (match l.kind with | .box x _ => x == e | _ => false)
def State.boxesOut (s : State) (core part : Nat) (e : Bool) : Nat :=
  (s.locks.filter (isBoxOf core part e)).length + (s.regQueue.filter (isBoxOf core part e)).length

/-- Unbind an engine with nothing in flight; one that has not finished completes on its tag (R236). -/
def State.unbind (s : State) (core part : Nat) (e : Bool) : State :=
  s.updCtx core part (fun c =>
    match c.eng e with
    | none => c
    | some b => (if b.finished < b.boxes then c.completeTag b.tag else c).setEng e none)

/-- SEFREE once nothing is in flight: the number of boxes completed. -/
def State.sefreeDone (s : State) (r : Ref) (e : Bool) (d : Reg) : State :=
  match (s.ctxOf r).eng e with
  | none => s.put r d 0
  | some b => (s.unbind (s.coreOf r) (s.partOf r) e).put r d (BitVec.ofNat 32 b.finished)

/-- The engine that the thread's group owns. -/
def State.myEng (s : State) (r : Ref) (e : Bool) : Option SeBind := ((s.ctxOf r).eng e).filter (fun b => b.gid == r.1)

def State.sefree (s : State) (r : Ref) (e : Bool) (d : Reg) : State :=
  match s.myEng r e with
  | none => s.fail r causeAccess
  | some b =>
    let core := s.coreOf r
    let part := s.partOf r
    let s : State := { s with regQueue := s.regQueue.filter (fun l => !(isBoxOf core part e l)) }
    if s.boxesOut core part e = 0 then s.sefreeDone r e d
    else (s.updCtxOf r (fun c => c.setEng e (some { b with freeing := true }))).parkAs r (.sefree e d)

def State.slotw (s : State) (r : Ref) (e : Bool) (d : Reg) (j : Nat) : State :=
  match s.myEng r e with
  | none => s.fail r causeAccess
  | some b =>
    if b.boxes ≤ j then s.fail r causeAccess
    else if s.slotMine b j then s.put r d (slotAddr b j)
    else s.parkAs r (.slotw e j d)

/-- SLOTREL: threads of one bundle that release the same box release it once, so ownership is judged before the bundle. -/
def State.slotrel (old s : State) (r : Ref) (e : Bool) (j : Nat) : State :=
  match s.myEng r e with
  | none => s.fail r causeAccess
  | some b =>
    if !(old.slotMine b j) then s.fail r causeAccess
    else if !(s.slotMine b j) then s
    else
      let k := j % ringNslot b.ring
      let s := s.release r (if ringCm b.ring then .clu else .cor)
      if b.drain then s.setHead b k (BitVec.ofNat 32 j) true
      else s.setHead b k (BitVec.ofNat 32 (j + ringNslot b.ring)) false

/-- The entry of box j. -/
def State.boxOp (s : State) (core part : Nat) (e : Bool) (b : SeBind) (j : Nat) : Option LockOp :=
  match tenEngine b.tensor with
  | none => none
  | some (f, sp) =>
    let n := f.width / 8 * tenBoxSize b.tensor
    let slot := s.engRng b.gid (if ringCm b.ring then .cmem else .core) (slotAddr b j).toNat n
    let mem :=
      match tenRange b.tensor f sp (boxIdx b j) with
      | some (lo, len) => [s.engRng b.gid sp lo len]
      | none => []
    let op := s.newOp (b.gid, b.tid) b.tag b.scope (.box e j) (if b.drain then [slot] else mem) (if b.drain then mem else [slot]) n
    some { op with id := s.serial, die := dieOfCore core, core := core, part := part }

/-! ### Moving the bytes of an operation (R227, R229, R234, R238) -/

/-- One unit of 64 bytes of a box, from the element numbered `k0` on: every element of it is read and has a place before any is written, so a
failing one stops the operation at the unit (R227; log entry 16). `get` gives an element's n bytes, `from_` where they stand, `place` where
they go. -/
def State.boxUnit (s : State) (g : Nat) (sc : Scope) (n total k0 : Nat) (get : Nat → Except Nat (List Byte))
    (from_ place : Nat → Option (ESpace × Nat)) : Except Nat (State × Nat) :=
  let m := Nat.min (64 / n) (total - k0)
  let found : Except Nat (List (ESpace × Nat × List Byte)) := (List.range m).foldl (fun (acc : Except Nat (List (ESpace × Nat × List Byte))) i =>
    match acc, get (k0 + i), place (k0 + i) with
    | .error c, _, _ => .error c
    | _, .error c, _ => .error c
    | .ok l, .ok _, none => .ok l
    | .ok l, .ok bs, some (sp, a) => (s.engOk g sp a n).map (fun _ => l ++ [(sp, a, bs)])) (.ok [])
  let t := ((List.range m).filterMap (fun i => from_ (k0 + i))).foldl (fun s x => s.engTouch g x.1 x.2 n) s
  found.map (fun l => (l.foldl (fun s x => s.engWrite g sc x.1 x.2.1 x.2.2) t, (k0 + m) * n))

/-- One 64-byte unit of an operation's destination, from what it has moved: the cause of a failing side, or the state after and the bytes moved. -/
def State.opUnit (s : State) (op : LockOp) : Except Nat (State × Nat) :=
  match op.kind, op.src, op.dst with
  | .copy, [x], [y] =>
    let n := Nat.min (op.len - op.done) (64 - (y.lo + op.done) % 64)
    (s.engMove op.gid op.scope x.sp y.sp (x.lo + op.done) (y.lo + op.done) n).map (fun t => (t, op.done + n))
  | .copyT dr sr, _, _ =>
    match tenEngine dr, tenEngine sr with
    | some (fd, dsp), some (fs, ssp) =>
      let n := fd.width / 8
      s.boxUnit op.gid op.scope n (tenBoxSize dr) (op.done / n) (s.tenGet op.gid sr fs ssp noBoxes)
        (tenPut sr ssp noBoxes) (tenPut dr dsp noBoxes)
    | _, _ => .ok (s, op.len)
  | .box e j, _, _ =>
    match (s.ctx op.core op.part).eng e with
    | none => .ok (s, op.len)
    | some b =>
      match tenEngine b.tensor with
      | none => .ok (s, op.len)
      | some (f, sp) =>
        let n := f.width / 8
        let rsp : ESpace := if ringCm b.ring then .cmem else .core
        let base := (slotAddr b j).toNat
        if b.drain then
          s.boxUnit b.gid b.scope n (tenBoxSize b.tensor) (op.done / n) (fun k => s.engRead b.gid rsp (base + n * k) n)
            (fun k => some (rsp, base + n * k)) (tenPut b.tensor sp (boxIdx b j))
        else
          s.boxUnit b.gid b.scope n (tenBoxSize b.tensor) (op.done / n) (s.tenGet b.gid b.tensor f sp (boxIdx b j))
            (tenPut b.tensor sp (boxIdx b j)) (fun k => some (rsp, base + n * k))
  | _, _, _ => .ok (s, op.len)

/-- Move units until `stop` bytes have been moved: the state, the bytes moved, and the cause at which it stopped before; `fuel` bounds the
units. -/
def State.opGo (s : State) (op : LockOp) (stop : Nat) : Nat → State × Nat × Option Nat
  | 0 => (s, op.done, none)
  | fuel + 1 =>
    if stop ≤ op.done then (s, op.done, none)
    else
      match s.opUnit op with
      | .error c => (s, op.done, some c)
      | .ok (t, k) => State.opGo t { op with done := k } stop fuel

/-- All that an operation has left to move: the state after, and the cause that it met. -/
def State.opRun (s : State) (op : LockOp) : State × Option Nat :=
  let x := s.opGo op op.len (op.len / 64 + 2)
  (x.1, x.2.2)

/-- Bytes that an operation has moved by now at its nominal rate (R218; log entry 4). -/
def State.opReached (s : State) (op : LockOp) : Nat :=
  let lead := ((op.src ++ op.dst).map (fun x => ESpace.startUp x.sp)).foldl (· + ·) 0
  let units := s.now - (op.ready - op.time) - lead
  if units = 0 then op.done
  else
    let short := match op.kind, op.dst with | .copy, [y] => (y.lo + op.done) % 64 | _, _ => 0
    Nat.min op.len (op.done + 64 * units - short)

/-- The copy is one of the sixteen that its core's copy unit has in flight; later ones wait behind them (R218). -/
def State.copyInUnit (s : State) (op : LockOp) : Bool :=
  ((s.locks.filter (fun l => l.core == op.core && l.part == op.part && (l.kind matches .copy | .copyT _ _))).take 16).any (fun l => l.id == op.id)

/-- An operation stops at a 64-byte boundary of its destination and records its progress (R238); a copy that its unit has not taken up has
moved nothing (R218). -/
def State.opStopped (s : State) (op : LockOp) : State × LockOp :=
  if op.acked && op.recorded && ((op.kind matches .box _ _) || s.copyInUnit op) then
    let x := s.opGo op (s.opReached op) (op.len / 64 + 2)
    (x.1, { op with done := x.2.1 })
  else (s, op)

/-- An operation reaches through a column under repair, or a slice that holds requests (R20, R208). -/
def State.opRepairs (s : State) (op : LockOp) : Bool :=
  (!s.repair.isEmpty || !s.domNew.isEmpty) && (op.src ++ op.dst).any (fun x =>
    x.sp == .glob && (List.range (x.len / 64 + 2)).any (fun k =>
      match s.engPlace op.gid .glob (x.lo + 64 * k) .read with
      | .ok (.phys pa) => s.pathHeld op.part pa
      | _ => false))

/-- What an engine operation leaves in flight may complete: its mirror has been acknowledged, its engine runs, and its column is not under
repair. -/
def State.opMay (s : State) (op : LockOp) : Bool := op.acked && s.engineRuns op.core op.part && !(s.opRepairs op)

/-- One step: the writes, the release of the entry, the tag (R225). -/
def State.copyDone (s : State) (op : LockOp) : State :=
  let (s, f) := s.opRun op
  let s :=
    match f with
    | some c => s.engFault op.core op.part op.tag (op.gid, op.tid) c
    | none => s
  (s.lockDrop op.id).updCtx op.core op.part (fun c => c.completeTag op.tag)

/-- A box's completion step: the transfer, its header, whose release is at cluster scope for a ring in cluster memory, its entry; the last one
completes the engine on its tag (R231). -/
def State.boxDone (s : State) (op : LockOp) (e : Bool) (j : Nat) : State :=
  match (s.ctx op.core op.part).eng e with
  | none => s.lockDrop op.id
  | some b =>
    let (s, f) := s.opRun op
    let s :=
      match f with
      | some c => s.engFault op.core op.part b.tag (b.gid, b.tid) c
      | none => s
    let k := j % ringNslot b.ring
    let s := if ringCm b.ring then s.flushCore op.part op.core else s
    let s := if b.drain then s.setHead b k (BitVec.ofNat 32 (j + ringNslot b.ring)) false else s.setHead b k (BitVec.ofNat 32 j) true
    let b' := { b with finished := b.finished + 1 }
    (s.lockDrop op.id).updCtx op.core op.part (fun c =>
      (if b'.finished = b'.boxes then c.completeTag b.tag else c).setEng e (some b'))

/-! ### Tags (R237) -/

/-- TAGWAIT's condition. -/
def tagMet (all : Bool) (ctag m : DWord) : Bool := if all then ctag &&& m == m else ctag &&& m != 0

def State.tagwait (s : State) (r : Ref) (all : Bool) (d : Reg) (m : DWord) : State :=
  let c := (s.ctxOf r).ctag
  if tagMet all c m then s.put64 r d (c &&& m) else s.parkAs r (.tag all m d)

/-- Index of the lowest set bit, or 64. -/
def lowestBit (x : DWord) : Nat := ((List.range 64).find? (fun k => x.getLsbD k)).getD 64

def State.tagff (s : State) (r : Ref) (clr : Bool) (d : Reg) (m : DWord) : State :=
  let k := lowestBit ((s.ctxOf r).ctag &&& m)
  let s := s.put r d (BitVec.ofNat 32 k)
  if clr && k < 64 then s.updCtxOf r (fun c => { c with ctag := c.ctag &&& ~~~(BitVec.ofNat 64 (2 ^ k)) }) else s

/-! ### LOCKQ (R237) -/

/-- The address of LOCKQ.addr: its offset counts bytes. -/
def State.lockqEa (s : State) (r : Ref) (sp : Space) (a : Reg) (b : Src) : Nat :=
  match sp with
  | .glob => (s.rd64 r a + sext64 (s.src32 r b)).toNat
  | .lane | .core | .cmem | .chip => (s.rd r a + s.src32 r b).toNat

def State.lockqAddr (s : State) (r : Ref) (sp : Space) (ea : Nat) : Word :=
  match s.rngOf r sp ea 1 with
  | none => 0
  | some x =>
    let on := s.locks.filter (fun l => l.part == s.partOf r && l.onDie (s.dieOf r))
    boolW (on.any (fun l => l.src.any (fun y => y.overlaps x))) ||| (boolW (on.any (fun l => l.dst.any (fun y => y.overlaps x))) <<< 1)

/-! ### Meanings -/

/-- R234: it issues once its threads' earlier loads and stores have been performed (R272). -/
def execCpy (g : Guard) (dsp ssp : ESpace) (sc : Scope) (tag : BitVec 6) (a : Reg) (b : Src) (s : State) :
    Host.Outcome State Fault Refusal :=
  .next (s.eachAfter g State.owes (fun s r => s.cpy r dsp ssp sc tag.toNat a b))

/-- R235; as CPY (R272). -/
def execCpyt (g : Guard) (sc : Scope) (tag : BitVec 6) (a : Reg) (b : Src) (s : State) : Host.Outcome State Fault Refusal :=
  .next (s.eachAfter g State.owes (fun t r => s.cpyt t r sc tag.toNat a b))

/-- R236: the boxes come after its threads' earlier loads and stores (R272). -/
def execSebind (g : Guard) (drain : Bool) (sc : Scope) (eng : Bool) (tag : BitVec 6) (d a : Reg) (b : Src) (s : State) :
    Host.Outcome State Fault Refusal :=
  .next (s.eachAfter g State.owes (fun s r => s.sebind r drain sc eng tag.toNat d a b))

/-- R236. -/
def execSefree (g : Guard) (eng : Bool) (d : Reg) (s : State) : Host.Outcome State Fault Refusal :=
  .next (s.each g (fun s r => s.sefree r eng d))

/-- R236. -/
def execSlotw (g : Guard) (eng : Bool) (d : Reg) (b : Src) (s : State) : Host.Outcome State Fault Refusal :=
  .next (s.each g (fun s r => s.slotw r eng d (s.src32 r b).toNat))

/-- R236: a release, behind its threads' earlier loads and stores (R265). -/
def execSlotrel (g : Guard) (eng : Bool) (b : Src) (s : State) : Host.Outcome State Fault Refusal :=
  .next (s.eachAfter g State.owes (fun t r => s.slotrel t r eng (t.src32 r b).toNat))

/-- R237. -/
def execTagwait (g : Guard) (all : Bool) (d : Reg) (b : Src) (s : State) : Host.Outcome State Fault Refusal :=
  .next (s.each g (fun s r => s.tagwait r all d (s.src64 r b)))

/-- R237. -/
def execTagff (g : Guard) (clr : Bool) (d : Reg) (b : Src) (s : State) : Host.Outcome State Fault Refusal :=
  .next (s.each g (fun s r => s.tagff r clr d (s.src64 r b)))

/-- R237. -/
def execTagclr (g : Guard) (b : Src) (s : State) : Host.Outcome State Fault Refusal :=
  .next (s.each g (fun s r => s.updCtxOf r (fun c => { c with ctag := c.ctag &&& ~~~(s.src64 r b) })))

/-- R237. -/
def execLockqAddr (g : Guard) (sp : Space) (d a : Reg) (b : Src) (s : State) : Host.Outcome State Fault Refusal :=
  .next (s.each g (fun s r => s.put r d (s.lockqAddr r sp (s.lockqEa r sp a b))))

/-- R237. -/
def execLockqFree (g : Guard) (d : Reg) (s : State) : Host.Outcome State Fault Refusal :=
  .next (s.each g (fun s r => s.put r d (BitVec.ofNat 32 (256 - s.lockCount (s.dieOf r)))))

/-- R237. -/
def execLockqErr (g : Guard) (d : Reg) (b : Src) (s : State) : Host.Outcome State Fault Refusal :=
  .next (s.each g (fun s r =>
    let m := s.src64 r b
    let e := (s.ctxOf r).tagErr
    (s.updCtxOf r (fun c => { c with tagErr := c.tagErr &&& ~~~m })).put64 r d (e &&& m)))

/-! ### Events -/

/-- What an operation does as soon as its mirror stands: a path's array of cells is zero (R219, R375). -/
def State.ackDo (s : State) (op : LockOp) : State :=
  match op.kind with
  | .path _ _ =>
    op.dst.foldl (fun (s : State) x =>
      { s with mem := s.mem.clear (locChip (chipDie x.lo) (((s.part op.part).window.getD (chipDie x.lo) (0, 0)).1 + x.lo % 2 ^ 24)) x.len }) s
  | .copy | .copyT _ _ | .box _ _ | .rowput _ _ | .draw _ _ | .ring _ _ => s

/-- R219: operation a; the other die has acknowledged its mirror. -/
def execLockMirrorAck (s : State) : Host.Outcome State Fault Refusal :=
  .next (
    match s.lockById s.arg.a with
    | some op =>
      if op.acked then s
      else ({ s with locks := s.locks.map (fun l => if l.id = s.arg.a then { l with acked := true } else l) } : State).ackDo op
    | none => s)

/-- The entry of an operation still waits for its mirror: the operation moves no byte (R219). -/
def State.unacked (s : State) (id : Nat) : Bool := (s.lockById id).any (fun l => !l.acked)

/-- R225: operation a, a copy whose mirror has been acknowledged. -/
def execCopyComplete (s : State) : Host.Outcome State Fault Refusal :=
  .next (
    match s.lockById s.arg.a with
    | some op =>
      if s.opMay op && s.copyInUnit op && (op.kind matches .copy | .copyT _ _) then s.copyDone op else s
    | none => s)

/-- The next box of an engine may start: four at most in flight, none waiting for its entry, its slot the engine's (R231). -/
def State.boxMay (s : State) (core part : Nat) (e : Bool) : Bool :=
  match (s.ctx core part).eng e with
  | none => false
  | some b =>
    s.engineRuns core part && !b.freeing && decide (b.next < b.boxes) && decide (s.boxesOut core part e < 4) && !(s.regQueue.any (isBoxOf core part e)) &&
    s.slotEngine b b.next

/-- R231: core a, partition b, engine c; its next box starts its registration. -/
def execBoxStart (s : State) : Host.Outcome State Fault Refusal :=
  .next (
    let core := s.arg.a
    let part := s.arg.b
    let e := s.arg.c == 1
    if !(s.boxMay core part e) then s
    else
      match (s.ctx core part).eng e with
      | none => s
      | some b =>
        match s.boxOp core part e b b.next with
        | none => s
        | some op =>
          let s := s.bump.updCtx core part (fun c => c.setEng e (some { b with next := b.next + 1 }))
          if s.lockReady s.regQueue op then s.lockAdd op else { s with regQueue := s.regQueue ++ [op] })

/-- R231: operation a, a box whose mirror has been acknowledged. -/
def execBoxComplete (s : State) : Host.Outcome State Fault Refusal :=
  .next (
    match s.lockById s.arg.a with
    | some op =>
      match op.kind with
      | .box e j => if s.opMay op then s.boxDone op e j else s
      | _ => s
    | none => s)

end Sys2Proof.Machine
end

