-- ==== Sys2Proof/Machine/Nodes.lean ====
section
/-! DEFINITION. Record rings and node launches, shared by the fixed nodes and the dispatcher (17, 18): the node descriptor, the next slot
of a ring in ring order, the publication of a record, and the launch that a node starts. -/

namespace Sys2Proof.Machine

/-! ### The node descriptor (R404) -/

def nodeQbase (w : List Word) : Nat := bitsOf (hdrW w 0) 23 0
/-- Bytes of a record. -/
def nodeRec (w : List Word) : Nat := 16 * (bitsOf (hdrW w 1) 31 24 + 1)
def nodeSlots (w : List Word) : Nat := bitsOf (hdrW w 1) 11 0 + 1
def nodeThr (w : List Word) : Nat := bitsOf (hdrW w 2) 10 0
def nodeAge (w : List Word) : Nat := if bitsOf (hdrW w 3) 16 0 = 0 then 4096 else bitsOf (hdrW w 3) 16 0
def nodeTmpl (w : List Word) : DWord := hdrD w 4

/-- The bytes of slot k lie in the chip scratchpad of the node's die. -/
def State.slotLoc (s : State) (n : Node) (k : Nat) : Nat :=
  locChip n.die (((s.part n.part).window.getD n.die (0, 0)).1 + nodeQbase n.desc + k * nodeRec n.desc)

/-! ### Slots in ring order -/

/-- The next slot of the ring. -/
def Node.next (n : Node) : Nat := if n.slots.isEmpty then 0 else n.head % n.slots.length

/-- The next slot, if its header is empty. -/
def Node.free? (n : Node) : Option Nat := if n.slots[n.next]? = some .empty then some n.next else none

/-- The first slot from the next on whose header is empty (R341). -/
def Node.firstEmpty (n : Node) : Option Nat :=
  ((List.range n.slots.length).map (fun k => (n.next + k) % n.slots.length)).find? (fun k => n.slots[k]? == some .empty)

/-- A slot is taken, and the ring goes on after it. -/
def Node.take (n : Node) (k : Nat) (x : SlotSt) : Node := { n.setSlot k x with head := (k + 1) % n.slots.length }

/-- The next slot is taken for a record or a wave. -/
def Node.claim (n : Node) (x : SlotSt) : Node := n.take n.next x

/-- The record of slot k is published: its header is full, and it is pending (R405, R416). -/
def State.publish (s : State) (die part node k : Nat) : State :=
  s.updNode die part node (fun n =>
    { n.setSlot k .full with pending := n.pending ++ [(k, s.dieClk die)] })

/-! ### Launches of nodes (R387, R405) -/

/-- A launch of one group from a node's template: its records or positions, and the deadline of a sample wave. -/
def State.nodeRun (s : State) (n : Node) (dl : Option Nat) (recs : List Nat) (poss : List (Nat × Nat × Nat × Nat)) : State :=
  let l : Launch :=
    { id := s.serial, seq := n.lref, part := n.part, prio := hdrPrio n.hdr, hdr := n.hdr, hdrVa := nodeTmpl n.desc, ginit := n.ginit, next := 0, total := 1,
      live := 0, dl := dl, time := s.dtb, requeue := [], failed := false, why8 := false, die := some n.die, node := some n.id,
      recs := recs, poss := poss, raised := [] }
  let s := s.bump
  ({ s with launches := s.launches ++ [l] } : State).updNode n.die n.part n.id (fun y => { y with running := y.running + 1 })

end Sys2Proof.Machine
end

