-- ==== Sys2Proof/Machine/Raster.lean ====
section
/-! DEFINITION. Meanings of the raster node's instructions (17, R361 to R374), and the events of the raster and blend nodes. The bytes that
the node keeps in the binned-geometry buffer have the node's own layout; the triangles stand in the draw slot, and each entry writes 32
bytes of free values at a place of the buffer (log entry 10). -/

namespace Sys2Proof.Machine

/-! ### Memory as the fixed nodes reach it -/

/-- The core number at which a die's fixed units reach the TLB of their die. -/
def dieCore (die : Nat) : Nat := 128 + 16 * die

/-- The first cause that an access of a die to n bytes of a partition meets, page by page (R175 orders 2, 5 and 6). -/
def State.spanBad (s : State) (die part va n : Nat) (acc : Acc) : Option Nat :=
  if n = 0 then none
  else
    (List.range ((va + n - 1) / 4096 + 1 - va / 4096)).findSome? (fun k =>
      let lo := Nat.max va ((va / 4096 + k) * 4096)
      let hi := Nat.min (va + n) ((va / 4096 + k + 1) * 4096)
      match s.page part (dieCore die) lo (hi - lo) acc with
      | .error c => some c
      | .ok _ => none)

/-- Bytes below the core data caches, as a `.dev` read finds them, each in its own line and page; none where one cannot be read. -/
def State.fixRead (s : State) (die part va : Nat) : Nat → Except Nat (List Byte)
  | 0 => .ok []
  | n + 1 =>
    match s.page part (dieCore die) va 1 .read with
    | .error c => .error c
    | .ok (_, pa) => (State.fixRead s die part (va + 1) n).map (fun bs => (s.recall part pa).below pa :: bs)

/-- The places of bytes to be written, one after the other, or the cause of the first that has none. -/
def State.fixPlaces (s : State) (die part va : Nat) : Nat → Except Nat (List Nat)
  | 0 => .ok []
  | n + 1 =>
    match s.page part (dieCore die) va 1 .write with
    | .error c => .error c
    | .ok (_, pa) => (State.fixPlaces s die part (va + 1) n).map (fun ps => pa :: ps)

/-- Bytes written at `.dev`, if every one of them has a place. -/
def State.fixWrite (s : State) (die part va : Nat) (bs : List Byte) : Except Nat State :=
  (s.fixPlaces die part va bs.length).map (fun ps =>
    (ps.zip bs).foldl (fun s p => ((s.wakeAt p.1).recall part p.1).putBelow part p.1 p.2) s)

/-! ### The draw descriptor (R365) -/

def drawBase (w : List Word) : Nat := (hdrD w 0).toNat
def drawSize (w : List Word) : Nat := bitsOf (hdrW w 2) 31 16 * 65536
def drawVH (w : List Word) : Nat := bitsOf (hdrW w 3) 31 16
def drawVW (w : List Word) : Nat := bitsOf (hdrW w 3) 15 0
def drawFnode (w : List Word) : Nat := bitsOf (hdrW w 4) 15 0
def drawZtest (w : List Word) : Bool := (hdrW w 5).getLsbD 1
def drawKeep (w : List Word) : Bool := (hdrW w 5).getLsbD 0
def drawColour (w : List Word) : Nat := (hdrD w 6).toNat
def drawDepth (w : List Word) : Nat := (hdrD w 8).toNat

/-- Status 2 of PROBE.open does not apply, the node apart. -/
def drawFields (w : List Word) : Bool :=
  let in4096 := fun (n : Nat) => decide (1 ≤ n) && decide (n ≤ 4096)
  bitsOf (hdrW w 2) 15 0 == 0 && bitsOf (hdrW w 4) 31 16 == 0 && bitsOf (hdrW w 5) 31 2 == 0 &&
  (List.range 6).all (fun i => hdrW w (10 + i) == 0) && in4096 (bitsOf (hdrW w 2) 31 16) && in4096 (drawVH w) && in4096 (drawVW w) &&
  drawBase w % 65536 == 0

/-- Status 3 of PROBE.open. -/
def State.drawSpans (s : State) (die part : Nat) (w : List Word) : Bool :=
  let n := drawVW w * drawVH w
  (s.spanBad die part (drawBase w) (drawSize w) .write).isSome || (s.spanBad die part (drawColour w) (8 * n) .write).isSome ||
  (drawZtest w && (s.spanBad die part (drawDepth w) (4 * n) .write).isSome)

def Die.draw (d : Die) (n : Nat) : Option DrawSlot := d.draws.find? (fun w => w.n == n)
/-- The draw of a lock entry. -/
def Die.drawBy (d : Die) (lock : Nat) : Option DrawSlot := d.draws.find? (fun w => w.lock == lock)

def State.updDraw (s : State) (die lock : Nat) (f : DrawSlot → DrawSlot) : State :=
  s.updDie die (fun d => { d with draws := d.draws.map (fun w => if w.lock == lock then f w else w) })

/-- The status of PROBE.open, the lowest that applies. Node 1,022 and node 1,023 receive no fragment records: the Separator fills the one, and the
blend node is the other (DESIGN CHOICE, log entry 22). -/
def State.drawStatus (s : State) (die part n : Nat) (w : List Word) : Nat :=
  if ((s.die die).draw n).any (fun x => x.st == .opened) then 1
  else if !(drawFields w) || decide (1021 < drawFnode w) || (s.node die part (drawFnode w)).isNone then 2
  else if s.drawSpans die part w then 3
  else 0

/-- PROBE.open with its buffer registered: the slot is OPEN, or the status has changed while it waited. -/
def State.drawOpen (s : State) (op : LockOp) (n : Nat) (d : Reg) : State :=
  let r : Ref := (op.gid, op.tid)
  let st := s.drawStatus op.die op.part n op.desc
  let s := (s.wake r).put r d (BitVec.ofNat 32 st)
  if st ≠ 0 then s.lockDrop op.id
  else
    let w : DrawSlot :=
      { n := n, part := op.part, owner := op.gid, lock := op.id, st := .opened, desc := op.desc, seq := 0, tris := [], used := 0,
        recycled := false, fail := none, ending := false, rastered := false, emit := [], frags := [], noted := false }
    s.updDie op.die (fun y => { y with draws := y.draws.filter (fun x => x.n != n) ++ [w] })

/-- A slot that belongs to another partition (R361). -/
def State.drawForeign (s : State) (r : Ref) (n : Nat) : Bool := ((s.die (s.dieOf r)).draw n).any (fun w => w.part != s.partOf r)

/-- A slot that is not FREE and belongs to another partition: a FREE one may be opened by any (log entry 22). -/
def State.drawTaken (s : State) (r : Ref) (n : Nat) : Bool :=
  ((s.die (s.dieOf r)).draw n).any (fun w => w.part != s.partOf r && w.st != .free)

def State.probeOpen (s : State) (r : Ref) (n : Nat) (d a : Reg) : State :=
  if s.drawTaken r n then s.fail r causeAccess
  else
    match s.check r .core (s.rd r a).toNat 64 64 false false with
    | .error c => s.fail r c
    | .ok (w, s) =>
      let desc := wordsOfBytes (s.readAt (s.coreOf r) w 64)
      let st := s.drawStatus (s.dieOf r) (s.partOf r) n desc
      if st ≠ 0 then s.put r d (BitVec.ofNat 32 st)
      else
        let buf : Rng := { sp := .glob, owner := 0, lo := drawBase desc, len := drawSize desc }
        s.lockAsk true { s.newOp r 0 .dev (.draw n d) [] [buf] 0 with desc := desc } (fun s op => s.drawOpen op n d)

/-- PROBE.tri (R366). -/
def State.probeTri (s : State) (r : Ref) (n : Nat) (a : Reg) : State :=
  let die := s.dieOf r
  let blk := (s.thread r).block a 8
  match (s.die die).draw n with
  | none => s.fail r causeAccess
  | some w =>
    if w.part ≠ s.partOf r ∨ w.st ≠ .opened ∨ w.ending = true ∨ 2 < (hdrW blk 7).toNat then s.fail r causeAccess
    else (s.updDraw die w.lock (fun w => { w with seq := (w.seq + 1) % 2 ^ 32 })).pushStore r (.tri w.lock w.seq blk)

/-- The status of PROBE.end on a BROKEN slot, the lowest that applies: 4 with its cause where a buffer or target access had failed, else 5. -/
def State.drawBroken (s : State) (r : Ref) (w : DrawSlot) (d : Reg) : State :=
  match w.fail with
  | some c => (s.put r d 4).setCause r c
  | none => s.put r d 5

/-- PROBE.end (R370): it parks on its draw. -/
def State.probeEnd (s : State) (r : Ref) (n : Nat) (d : Reg) : State :=
  let die := s.dieOf r
  if s.drawForeign r n then s.fail r causeAccess
  else
    match (s.die die).draw n with
    | none => s.put r d 6
    | some w =>
      match w.st with
      | .closed | .free => s.put r d 6
      | .broken => s.drawBroken r w d
      | .opened => (s.updDraw die w.lock (fun w => { w with ending := true })).parkAs r (.draw w.lock d)

/-! ### Triangles (R366, R367, R369) -/

def vx (blk : List Word) (k : Nat) : Int := bitsOf (hdrW blk k) 15 0
def vy (blk : List Word) (k : Nat) : Int := bitsOf (hdrW blk k) 31 16

/-- Twice the signed area of three points. -/
def area2 (ax ay bx by_ cx cy : Int) : Int := (bx - ax) * (cy - ay) - (cx - ax) * (by_ - ay)

def triArea (blk : List Word) : Int := area2 (vx blk 0) (vy blk 0) (vx blk 1) (vy blk 1) (vx blk 2) (vy blk 2)

/-- Zero area, or rejected by its cull field. -/
def triCulled (blk : List Word) : Bool :=
  let a := triArea blk
  let c := (hdrW blk 7).toNat
  a == 0 || (c == 1 && decide (0 < a)) || (c == 2 && decide (a < 0))

def triMin (f : Nat → Int) : Nat := (min (f 0) (min (f 1) (f 2))).toNat
def triMax (f : Nat → Int) : Nat := (max (f 0) (max (f 1) (f 2))).toNat

/-- First and last pixel column and row of the bounding box. -/
def triBox (blk : List Word) : Nat × Nat × Nat × Nat :=
  (triMin (vx blk) / 16, triMax (vx blk) / 16, triMin (vy blk) / 16, triMax (vy blk) / 16)

def drawBinsX (w : List Word) : Nat := (drawVW w + 255) / 256
def drawBinsY (w : List Word) : Nat := (drawVH w + 255) / 256

/-- Entries that a triangle takes (R367). -/
def triEntries (w : List Word) (blk : List Word) : Nat :=
  let (x0, x1, y0, y1) := triBox blk
  if triCulled blk then 0
  else if 256 < x1 - x0 + 1 ∨ 256 < y1 - y0 + 1 then 1
  else (Nat.min (x1 / 256 + 1) (drawBinsX w) - x0 / 256) * (Nat.min (y1 / 256 + 1) (drawBinsY w) - y0 / 256)

/-- Entries that a buffer holds. -/
def drawCap (w : List Word) : Nat := (drawSize w - 64 * (drawBinsX w * drawBinsY w)) / 32

/-- An edge that owns the points on it, the triangle being clockwise: a top edge or a left edge. -/
def ownsEdge (ax ay bx by_ : Int) : Bool := decide (by_ < ay) || (decide (by_ = ay) && decide (ax < bx))

/-- E₀, E₁, E₂ at a point in the submitted vertex order, if the triangle covers it (R369). -/
def triCover (blk : List Word) (cx cy : Int) : Option (Int × Int × Int) :=
  let flip := decide (triArea blk < 0)
  let i := if flip then 2 else 1
  let j := if flip then 1 else 2
  let e := fun (p q : Nat) => area2 (vx blk p) (vy blk p) (vx blk q) (vy blk q) cx cy
  let on := fun (p q : Nat) => decide (0 < e p q) || (decide (e p q = 0) && ownsEdge (vx blk p) (vy blk p) (vx blk q) (vy blk q))
  if triArea blk ≠ 0 ∧ on i j = true ∧ on j 0 = true ∧ on 0 i = true then
    some (e i j, if flip then e 0 i else e j 0, if flip then e j 0 else e 0 i)
  else none

/-- n/den times 2^e, rounded once to FP32. -/
def ratioF32 (n : Int) (e : Int) (den : Nat) : Nat :=
  (packMag fmtF32 .rne false false (decide (n < 0)) (n.natAbs * 2 ^ 64 / den) (e - 64) (n.natAbs * 2 ^ 64 % den != 0)).1

/-- z at a covered point (R369). -/
def triZ (blk : List Word) (es : Int × Int × Int) : Nat :=
  let z := fun (k : Nat) => (unpackF fmtF32 false (hdrW blk (3 + k)).toNat).1
  let term := fun (n : Int) (v : Val) => prodV (.num (decide (n < 0)) n.natAbs 0) v
  let vs := [term es.1 (z 0), term es.2.1 (z 1), term es.2.2 (z 2)]
  let ps := vs.filterMap id
  let pos := ps.any (fun v => v.isInf && !v.neg)
  let neg := ps.any (fun v => v.isInf && v.neg)
  if [z 0, z 1, z 2].any Val.isNan || vs.any Option.isNone || (pos && neg) then fmtF32.nanBits
  else if pos then fmtF32.infBits
  else if neg then fmtF32.signBit true + fmtF32.infBits
  else
    let sum := ps.foldl (fun (d : Dy) v => d.add v.dy) { n := 0, e := 0 }
    ratioF32 sum.n sum.e (triArea blk).natAbs

/-- b₁ and b₂. -/
def triB (blk : List Word) (es : Int × Int × Int) : Nat × Nat :=
  (ratioF32 es.2.1 0 (triArea blk).natAbs, ratioF32 es.2.2 0 (triArea blk).natAbs)

/-- The fragment record of a triangle at a pixel, if it is covered. -/
def triFrag (slot seq : Nat) (blk : List Word) (px py : Nat) : Option Frag :=
  match triCover blk (16 * px + 8) (16 * py + 8) with
  | none => none
  | some es =>
    let b := triB blk es
    some { px := px, py := py, seq := seq, home := none, ans := none,
           rcd := [BitVec.ofNat 32 (py * 65536 + px), BitVec.ofNat 32 seq, BitVec.ofNat 32 (triZ blk es), BitVec.ofNat 32 b.1,
             BitVec.ofNat 32 b.2, hdrW blk 6, BitVec.ofNat 32 slot, 0] }

/-- Numbers from lo to hi. -/
def between (lo hi : Nat) : List Nat := (List.range (hi + 1 - lo)).map (fun k => lo + k)

/-- The fragments of a triangle in a rectangle of pixels, row by row. -/
def triFrags (slot : Nat) (t : Nat × List Word) (x0 x1 y0 y1 : Nat) : List Frag :=
  let (bx0, bx1, by0, by1) := triBox t.2
  (between (Nat.max y0 by0) (Nat.min y1 by1)).flatMap (fun py =>
    (between (Nat.max x0 bx0) (Nat.min x1 bx1)).filterMap (fun px => triFrag slot t.1 t.2 px py))

/-- The fine bins of a viewport in the order of R370: coarse bins row by row, and the fine bins of each row by row. -/
def fineBins (vw vh : Nat) : List (Nat × Nat) :=
  (List.range ((vh + 255) / 256)).flatMap (fun by_ =>
    (List.range ((vw + 255) / 256)).flatMap (fun bx =>
      (List.range 8).flatMap (fun fy =>
        (List.range 8).filterMap (fun fx =>
          let p := (256 * bx + 32 * fx, 256 * by_ + 32 * fy)
          if p.1 < vw ∧ p.2 < vh then some p else none))))

/-- Every fragment of the triangles held, in the order in which the node emits them (R370). -/
def DrawSlot.fragments (w : DrawSlot) : List Frag :=
  let vw := drawVW w.desc
  let vh := drawVH w.desc
  (fineBins vw vh).flatMap (fun p =>
    w.tris.flatMap (fun t => triFrags w.n t p.1 (Nat.min (p.1 + 31) (vw - 1)) p.2 (Nat.min (p.2 + 31) (vh - 1))))

/-! ### PROBE.smp (R371) -/

/-- The better of two hits: greater z, or the same z and the later number. -/
def smpBetter (a b : Nat × Nat × Nat × Nat) : Bool :=
  (cmpF .gt false b.2.1 a.2.1).1 || ((cmpF .eq false b.2.1 a.2.1).1 && decide (a.1 < b.1))

def DrawSlot.sample (w : DrawSlot) (pos : Word) : List Word :=
  let X := bitsOf pos 15 0
  let Y := bitsOf pos 31 16
  let inGrid := decide (X / 4096 < drawBinsX w.desc) && decide (Y / 4096 < drawBinsY w.desc)
  let hits := w.tris.filterMap (fun t =>
    match triCover t.2 X Y with
    | some es =>
      let z := triZ t.2 es
      let b := triB t.2 es
      if (unpackF fmtF32 false z).1.isNan then none else some (t.1, z, b.1, b.2)
    | none => none)
  let best := hits.foldl (fun (acc : Option (Nat × Nat × Nat × Nat)) h =>
    match acc with
    | none => some h
    | some a => if smpBetter a h then some h else some a) none
  if w.recycled then [0xFFFFFFFE, 0, 0, 0]
  else
    match best with
    | some (n, z, b1, b2) => if inGrid then [BitVec.ofNat 32 n, BitVec.ofNat 32 z, BitVec.ofNat 32 b1, BitVec.ofNat 32 b2] else [0xFFFFFFFF, 0, 0, 0]
    | none => [0xFFFFFFFF, 0, 0, 0]

def State.probeSmp (s : State) (r : Ref) (n : Nat) (d a : Reg) : State :=
  match (s.die (s.dieOf r)).draw n with
  | none => s.fail r causeAccess
  | some w =>
    if w.part ≠ s.partOf r ∨ w.st ≠ .closed then s.fail r causeAccess
    else s.pushLoad r (.value d (w.sample (s.rd r a)))

/-! ### The blend node (R373, R374) -/

/-- A record with a reserved bit or an op that does not exist is `.none`. -/
def blendOp (w : List Word) : Nat :=
  if bitsOf (hdrW w 5) 31 10 = 0 ∧ bitsOf (hdrW w 5) 7 3 = 0 ∧ hdrW w 6 = 0 ∧ hdrW w 7 = 0 ∧ bitsOf (hdrW w 5) 2 0 < 6 then
    bitsOf (hdrW w 5) 2 0
  else 0

/-- A fragment that a blend record answers. -/
def Frag.fits (f : Frag) (w : List Word) : Bool :=
  f.home.isSome && f.ans.isNone && BitVec.ofNat 32 (f.py * 65536 + f.px) == hdrW w 0 && BitVec.ofNat 32 f.seq == hdrW w 1

/-- A published blend record answers its fragment; without one it does nothing. -/
def State.blendIn (s : State) (die part : Nat) (w : List Word) : State :=
  s.updDie die (fun d =>
    { d with draws := d.draws.map (fun x =>
        if x.n = bitsOf (hdrW w 5) 9 8 ∧ x.part = part then
          { x with frags := x.frags.map (fun f => if f.fits w then { f with ans := some w } else f) }
        else x) })

/-- A channel of the new destination (R373). -/
def blendChannel (op sa s d : Nat) : Nat :=
  let v := fun (b : Nat) => (unpackF fmtF16 false b).1
  match op with
  | 1 => (packV fmtF16 .rne false (v s)).1
  | 2 =>
    if (v sa).isNan || (v s).isNan || (v d).isNan then fmtF16.nanBits
    else
      let om : Val :=
        match v sa with
        | .num neg m e =>
          let x := Dy.add { n := 1, e := 0 } ((Val.num neg m e).negate true).dy
          .num (decide (x.n < 0)) x.n.natAbs x.e
        | x => x.negate true
      match prodV (v d) om with
      | none => fmtF16.nanBits
      | some p => (sumV fmtF16 .rne false (v s) p).1
  | 3 => (addF fmtF16 .rne false false false s d).1
  | 4 => (minmaxF fmtF16 false false false false s d).1
  | 5 => (minmaxF fmtF16 true false false false s d).1
  | _ => d

def chan (bs : List Byte) (k : Nat) : Nat := ofBytes ((bs.drop (2 * k)).take 2)

/-- An answered fragment is applied: the cause that its target met, and the state after. -/
def State.blendApply (s : State) (die : Nat) (w : DrawSlot) (f : Frag) (a : List Word) : State × Option Nat :=
  let op := blendOp a
  let i := f.py * drawVW w.desc + f.px
  let za := drawDepth w.desc + 4 * i
  let ca := drawColour w.desc + 8 * i
  if op = 0 then (s, none)
  else
    let z := (hdrW a 4).toNat
    let pass : Except Nat Bool :=
      if drawZtest w.desc then (s.fixRead die w.part za 4).map (fun bs => (cmpF .ge false z (ofBytes bs)).1) else .ok true
    match pass with
    | .error c => (s, some c)
    | .ok false => (s, none)
    | .ok true =>
      match s.fixRead die w.part ca 8 with
      | .error c => (s, some c)
      | .ok d =>
        let src := bytesOfWord (hdrW a 2) ++ bytesOfWord (hdrW a 3)
        let out := ((List.range 4).map (fun k => toBytes 2 (blendChannel op (chan src 3) (chan src k) (chan d k)))).flatten
        let s1 := if drawZtest w.desc then (s.fixWrite die w.part za (toBytes 4 z)) else .ok s
        match s1 with
        | .error c => (s, some c)
        | .ok s1 =>
          match s1.fixWrite die w.part ca out with
          | .error c => (s1, some c)
          | .ok s2 => (s2, none)

/-- The first fragment of a draw whose answer may be applied: no earlier one of its pixel is unresolved. -/
def firstReady (done : List Frag) : List Frag → Option Frag
  | [] => none
  | f :: fs =>
    if f.ans.isSome ∧ done.all (fun g => g.px != f.px || g.py != f.py) = true then some f else firstReady (f :: done) fs

/-! ### Meanings -/

/-- R365; the descriptor is read as the thread's own earlier stores leave it. -/
def execProbeOpen (g : Guard) (slot : BitVec 2) (d a : Reg) (s : State) : Host.Outcome State Fault Refusal :=
  .next (s.eachAfter g (fun s r => s.trails r (locScratch r.1 (s.rd r a).toNat) 64) (fun s r => s.probeOpen r slot.toNat d a))

/-- R366. -/
def execProbeTri (g : Guard) (slot : BitVec 2) (a : Reg) (s : State) : Host.Outcome State Fault Refusal :=
  .next (s.each g (fun s r => s.probeTri r slot.toNat a))

/-- R370. -/
def execProbeEnd (g : Guard) (slot : BitVec 2) (d : Reg) (s : State) : Host.Outcome State Fault Refusal :=
  .next (s.each g (fun s r => s.probeEnd r slot.toNat d))

/-- R371, R372; it comes after its threads' acquires. -/
def execProbeSmp (g : Guard) (slot : BitVec 2) (d a : Reg) (s : State) : Host.Outcome State Fault Refusal :=
  .next (s.eachAfter g State.acquires (fun s r => s.probeSmp r slot.toNat d a))

/-! ### Events -/

/-- A triangle of a draw is still to be binned. -/
def StoreOp.triOf (draw : Nat) : StoreOp → Option Nat
  | .tri k seq _ => if k = draw then some seq else none
  | .store _ _ | .write _ _ _ _ _ | .red _ | .tags _ _ _ | .arrive _ _ _ _ _ | .maint _ | .tlbinv _ | .priow _ _ _ _ | .priowWt _ _
  | .vput _ _ _ _ | .rowput _ _ _ | .curve _ _ _ => none

def State.trisLeft (s : State) (draw : Nat) : Bool := s.threads.any (fun t => t.stores.any (fun o => (o.triOf draw).isSome))

/-- No triangle of the draw with a lower number is still to be binned. -/
def State.triFirst (s : State) (draw seq : Nat) : Bool :=
  s.threads.all (fun t => t.stores.all (fun o => match o.triOf draw with | some k => decide (seq ≤ k) | none => true))

/-- The entries of a triangle are written into the buffer. -/
def State.binWrite (s : State) (die : Nat) (w : DrawSlot) : Nat → Nat → State
  | 0, _ => s
  | k + 1, n =>
    let va := drawBase w.desc + 64 * (drawBinsX w.desc * drawBinsY w.desc) + 32 * n
    let bs := toBytes 32 ((List.range 4).foldl (fun a i => a * 2 ^ 64 + (Config.freeWord (s.draws + i)).toNat) 0)
    match s.fixWrite die w.part va bs with
    | .error c => s.updDraw die w.lock (fun w => { w with fail := some c })
    | .ok s => State.binWrite { s with draws := s.draws + 4 } die w k (n + 1)

/-- A triangle goes into the bins; a full buffer is rasterised and emptied first (R367, R368). -/
def State.binTri (s : State) (die : Nat) (w : DrawSlot) (seq : Nat) (blk : List Word) : State :=
  let n := triEntries w.desc blk
  let full := decide (drawCap w.desc < w.used + n)
  let w := if full then { w with emit := w.emit ++ w.fragments, tris := [], used := 0, recycled := true } else w
  let s := s.updDraw die w.lock (fun _ => if n = 0 then w else { w with tris := w.tris ++ [(seq, blk)], used := w.used + n })
  s.binWrite die w n w.used

/-- R367, R368: group a, thread b; the thread's oldest store, a triangle, is binned in its turn, once the buffer's entry is mirrored (R219). The
die's units wait for a repair of a column (R20; log entry 15). -/
def execTriangleBin (s : State) : Host.Outcome State Fault Refusal :=
  .next (
    let r : Ref := (s.arg.a, s.arg.b)
    match (s.thread r).stores with
    | .tri draw seq blk :: rest =>
      if !(s.triFirst draw seq) || s.unacked draw || !s.repair.isEmpty then s
      else
        let s := s.upd r (fun t => { t with stores := rest })
        match (s.die (s.dieOf r)).drawBy draw with
        | some w => if w.st = .opened then s.binTri (s.dieOf r) w seq blk else s
        | none => s
    | _ => s)

/-- A fragment record goes to the next slot of its node's ring; where the node's records are shorter, only its first bytes do (DESIGN CHOICE, log
entry 22). -/
def State.emitFrag (s : State) (die : Nat) (w : DrawSlot) (f : Frag) (rest : List Frag) : State :=
  match s.node die w.part (drawFnode w.desc) with
  | none => s
  | some n =>
    match n.free? with
    | none => s
    | some k =>
      let bs := ((f.rcd.map bytesOfWord).flatten).take (nodeRec n.desc)
      let s : State := { s with mem := s.mem.writeN (s.slotLoc n k) bs }
      let s := (s.updNode die w.part n.id (fun n => n.claim .full)).publish die w.part n.id k
      s.updDraw die w.lock (fun w => { w with emit := rest, frags := w.frags ++ [{ f with home := some (n.id, k) }] })

/-- R368, R370: die a, draw slot b; the next fragment record is emitted, or the bins of a draw that ends are rasterised. -/
def execBinRasterise (s : State) : Host.Outcome State Fault Refusal :=
  .next (
    let die := s.arg.a
    match (s.die die).draw s.arg.b with
    | none => s
    | some w =>
      match w.emit with
      | f :: rest => s.emitFrag die w f rest
      | [] =>
        if w.st = .opened ∧ w.ending = true ∧ w.rastered = false ∧ s.trisLeft w.lock = false then
          s.updDraw die w.lock (fun w =>
            { w with emit := w.fragments, rastered := true, tris := if drawKeep w.desc then w.tris else [] })
        else s)

/-- R373: die a; the first answered fragment that may be applied is resolved. -/
def execBlendRecord (s : State) : Host.Outcome State Fault Refusal :=
  .next (
    let die := s.arg.a
    match (s.die die).draws.findSome? (fun w => (firstReady [] w.frags).map (fun f => (w, f))) with
    | none => s
    | some (w, f) =>
      if !s.repair.isEmpty then s
      else
      let (s, c) := s.blendApply die w f (f.ans.getD blendNone)
      s.updDraw die w.lock (fun w => { w with frags := w.frags.erase f, fail := w.fail.or c }))

/-- PROBE.end's wait is over: its status, and the state after (R370). A completion is a release at `.dev` (R372): it stands behind what the
thread has not performed. -/
def State.drawDone (s : State) (r : Ref) (lock : Nat) (d : Reg) : Option State :=
  let die := s.dieOf r
  match (s.die die).drawBy lock with
  | none => some ((s.wake r).put r d 6)
  | some w =>
    match w.st with
    | .closed | .free => some ((s.wake r).put r d 6)
    | .broken => some ((s.wake r).drawBroken r w d)
    | .opened =>
      if w.rastered && w.emit.isEmpty && w.frags.isEmpty && !(s.thread r).unperformed then
        let s := ((s.wake r).release r .dev).lockDrop lock
        let gone := s.updDraw die lock DrawSlot.freed
        match w.fail with
        | some c => some ((gone.put r d 4).setCause r c)
        | none =>
          let s := if drawKeep w.desc then s.updDraw die lock (fun w => { w with st := .closed }) else gone
          some (s.put r d (if w.noted then 7 else 0))
      else none

end Sys2Proof.Machine
end

