-- ==== Sys2Proof/Machine/System.lean ====
section
/-! DEFINITION. Meanings of the trap and system instructions (19), but for the context moves, which stand in Context.lean. -/

namespace Sys2Proof.Machine

/-! ### Special registers (R52, R436) -/

/-- The work identifier of a thread (R59). -/
def State.workOf (s : State) (r : Ref) : Nat :=
  let g := s.group r.1
  g.index * 2 ^ hdrBg g.hdr + r.2

/-- `%slice` (R395). -/
def State.sliceWord (s : State) (g : Nat) : DWord :=
  let x := s.group g
  joinW (if hdrBudget x.hdr = 0 then 0xFFFFFFFF else BitVec.ofNat 32 x.left) (BitVec.ofNat 32 (x.deadline / 2 ^ 10))

/-- `%act` of a core's context (R401). -/
def Ctx.actWord (c : Ctx) : Word := BitVec.ofNat 32 (c.blk % 65536 * 65536 + Nat.min c.act 65535)

/-- The value of a special register for a thread; its low word for a 32-bit register. `%clu` on a control core is a free value: the
spec gives those cores no cluster (log entry 10). -/
def State.special (s : State) (r : Ref) (n : Nat) : DWord :=
  let g := s.group r.1
  let d := BitVec.ofNat 64
  match n with
  | 0x00 => d r.2
  | 0x01 => d (s.widOf r)
  | 0x02 => d (s.laneOf r)
  | 0x03 => d (hdrWave g.hdr)
  | 0x04 => d (s.workOf r)
  | 0x05 | 0x06 | 0x07 | 0x08 | 0x09 | 0x0A => d ((hdrFields g.hdr (s.workOf r)).getD (n - 5) 0)
  | 0x0B => d g.core
  | 0x0C => if isControl g.core then s.freeVal else d (clusterOfCore g.core)
  | 0x0D => d (dieOfCore g.core)
  | 0x10 => d (s.clk g.core)
  | 0x11 => d s.dtb
  | 0x12 => (s.ctxOf r).ctag
  | 0x13 => (s.waveOf r).cause
  | 0x14 => (s.waveOf r).tmask
  | 0x15 => zext64 (s.thread r).fflags
  | 0x16 => d (s.lcOf r)
  | 0x17 => d (s.scOf r)
  | 0x18 => d (s.ccOf r)
  | 0x19 => d (s.tcOf r.1)
  | 0x1A => zext64 (s.ctxOf r).actWord
  | 0x1B => (s.thread r).tpc
  | 0x1C => s.sliceWord r.1
  | _ => 0

/-- SRD: `%tpc` outside handler mode is ILLEGAL (R52). -/
def State.srd (s : State) (r : Ref) (d : Reg) (n : BitVec 8) : State :=
  if n = 0x1B ∧ (s.thread r).handler = false then s.fail r causeIllegal
  else
    let v := s.special r n.toNat
    let s := if n = 0x0C then s.drawn else s
    s.putW r (sr64 n) d v

/-- Bits of `%tmask` that name a cause (R419). -/
def tmaskBits : DWord := 0xFF07FFFF
/-- A value as `%tmask` keeps it: reserved bits 0, bits 2 to 0 fixed at 1 (R49, R419). -/
def tmaskOf (d : DWord) : DWord := (d &&& tmaskBits) ||| 7

def State.setTmask (s : State) (r : Ref) (d : DWord) : State := s.updWaveOf r (fun w => { w with tmask := tmaskOf d })

/-- SWR: a write to a read-only register is ignored (R6, R436). -/
def State.swr (s : State) (r : Ref) (n : BitVec 8) (b : Src) : State :=
  if n = 0x14 then s.setTmask r (s.src64 r b)
  else if n = 0x15 then s.upd r (fun t => { t with fflags := s.src32 r b &&& 0x3F })
  else if n = 0x1B then
    if (s.thread r).handler then s.upd r (fun t => { t with tpc := s.src64 r b }) else s.fail r causeIllegal
  else s

/-- TRET in handler mode waits for the line that it goes to (R20, R208). -/
def State.tretHeld (s : State) (r : Ref) : Bool :=
  (s.thread r).handler && s.fetchHeld (s.partOf r) (s.coreOf r) (s.thread r).tpc.toNat

/-- TRET (R438): outside handler mode ILLEGAL; else handler mode ends and the thread stands at `%tpc`, with checks 1 to 4 of R72. -/
def State.tret (s : State) (r : Ref) : State :=
  let t := s.thread r
  if !t.handler then s.fail r causeIllegal
  else
    let s := s.upd r (fun t => { t with handler := false, pc := t.tpc })
    match s.target (s.partOf r) (s.coreOf r) t.tpc false with
    | (.refuse c, s) => if c = causeTarget then s.note r c else (s.parkAs r (.unfetched c)).note r c
    | (.parity, s) => s.raiseHalt (s.partOf r) 3 (s.coreOf r) r.1
    | (.taken u bad, s) =>
      let s := s.upd r (fun t => { t with line := some u })
      if bad then s.note r causeIllegal else s

/-- TMASK: the old value, then the new one (R439). -/
def State.tmaskTo (s : State) (r : Ref) (d : Reg) (f : DWord → DWord) : State :=
  let old := (s.waveOf r).tmask
  (s.put64 r d old).setTmask r (f old)

/-! ### HALTQ (R441) -/

/-- Spares in service on a die: wide cores, control cores, lanes steered, L2 ways (R433). -/
def State.sparesOf (s : State) (d : Nat) : Word :=
  let on := s.spares.filter (fun c => dieOfCore c == d)
  let wide := (on.filter (fun c => !isControl c)).length
  let ctl := (on.filter isControl).length
  let lanes := ((s.lanes.filter (fun l => l.1 / 64 == d)).map (fun l => l.2)).foldl (· + ·) 0
  BitVec.ofNat 32 (wide % 16 + ctl % 16 * 2 ^ 4 + lanes % 4096 * 2 ^ 8 + (s.spareWays.count d) % 4096 * 2 ^ 20)

def State.haltq (s : State) (q : Nat) (sel : Nat) : DWord :=
  let p := s.part q
  match sel with
  | 0 => BitVec.ofNat 64 (p.halts % 2 ^ 48 + p.haltCode % 256 * 2 ^ 56)
  | 1 => BitVec.ofNat 64 p.haltTime
  | 2 => joinW (BitVec.ofNat 32 p.haltGroup) (BitVec.ofNat 32 (p.haltCore % 256))
  | 3 => joinW (s.sparesOf 1) (s.sparesOf 0)
  | _ => joinW (BitVec.ofNat 32 (p.stops.countP (fun x => x.state == 1))) (BitVec.ofNat 32 p.stops.length)

/-! ### Meanings -/

/-- R436, R47. -/
def execSrdCompact (d : Reg) (n : BitVec 8) (s : State) : Host.Outcome State Fault Refusal :=
  .next (s.each .always (fun s r => s.srd r d n))

/-- R436. -/
def execSrd (g : Guard) (d : Reg) (n : BitVec 8) (s : State) : Host.Outcome State Fault Refusal :=
  .next (s.each g (fun s r => s.srd r d n))

/-- R436. -/
def execSwr (g : Guard) (n : BitVec 8) (b : Src) (s : State) : Host.Outcome State Fault Refusal :=
  .next (s.each g (fun s r => s.swr r n b))

/-- R437: the instruction completes, so `%tpc` will be the next instruction. -/
def execTrap (g : Guard) (code : BitVec 3) (s : State) : Host.Outcome State Fault Refusal :=
  .next (s.each g (fun s r => s.note r (causeSwtrap code.toNat)))

/-- R438. -/
def execTret (g : Guard) (s : State) : Host.Outcome State Fault Refusal := .next (s.eachAfter g State.tretHeld (fun s r => s.tret r))

/-- R439. -/
def execCclr (g : Guard) (b : Src) (s : State) : Host.Outcome State Fault Refusal :=
  .next (s.each g (fun s r => s.updWaveOf r (fun w => { w with cause := w.cause &&& ~~~(s.src64 r b) })))

/-- R439. -/
def execTmaskOr (g : Guard) (d : Reg) (b : Src) (s : State) : Host.Outcome State Fault Refusal :=
  .next (s.each g (fun s r => s.tmaskTo r d (fun old => old ||| s.src64 r b)))

/-- R439. -/
def execTmaskAndn (g : Guard) (d : Reg) (b : Src) (s : State) : Host.Outcome State Fault Refusal :=
  .next (s.each g (fun s r => s.tmaskTo r d (fun old => old &&& ~~~(s.src64 r b))))

/-- R439. -/
def execTmaskWr (g : Guard) (d : Reg) (b : Src) (s : State) : Host.Outcome State Fault Refusal :=
  .next (s.each g (fun s r => s.tmaskTo r d (fun _ => s.src64 r b)))

/-- R437: `%tpc` is the BKPT itself; with the enable clear it acts as NOP after setting its bit. -/
def execBkpt (g : Guard) (s : State) : Host.Outcome State Fault Refusal :=
  .next (s.each g (fun s r => s.fail r causeBkpt))

/-- R441. -/
def execHaltq (g : Guard) (sel : BitVec 3) (d : Reg) (s : State) : Host.Outcome State Fault Refusal :=
  .next (s.each g (fun s r => s.put64 r d (s.haltq (s.partOf r) sel.toNat)))

end Sys2Proof.Machine
end

