-- ==== Sys2Proof/Machine/Trace.lean ====
section
/-! DEFINITION. Meanings of the traversal node's instructions (17, R382 to R385), and the event that completes a trace. Every FP32 value is
taken as an integer number of units of 2^-149, so every test is exact. -/

namespace Sys2Proof.Machine

/-! ### Vectors and ratios -/

/-- A vector in units of 2^-149. -/
structure V3 where
  x : Int
  y : Int
  z : Int
deriving DecidableEq, Repr

def V3.sub (a b : V3) : V3 := { x := a.x - b.x, y := a.y - b.y, z := a.z - b.z }
def V3.dot (a b : V3) : Int := a.x * b.x + a.y * b.y + a.z * b.z
def V3.cross (a b : V3) : V3 := { x := a.y * b.z - a.z * b.y, y := a.z * b.x - a.x * b.z, z := a.x * b.y - a.y * b.x }

/-- A ratio with a positive denominator. -/
structure Ratio where
  n : Int
  d : Nat
deriving DecidableEq, Repr

def Ratio.of (n d : Int) : Ratio := { n := if d < 0 then -n else n, d := d.natAbs }
def Ratio.le (a b : Ratio) : Bool := decide (a.n * b.d ≤ b.n * a.d)

/-- Rounded once to FP32. -/
def Ratio.f32 (a : Ratio) : Nat :=
  let k := 64 + a.d.log2
  (packMag fmtF32 .rne false false (decide (a.n < 0)) (a.n.natAbs * 2 ^ k / a.d) (-(k : Int)) (a.n.natAbs * 2 ^ k % a.d != 0)).1

/-- A finite FP32 in units of 2^-149. -/
def unitsOf (w : Word) : Int :=
  let ex := bitsOf w 30 23
  let m := if ex = 0 then bitsOf w 22 0 else (2 ^ 23 + bitsOf w 22 0) * 2 ^ (ex - 1)
  if w.getLsbD 31 then -(m : Int) else m

def finite (w : Word) : Bool := bitsOf w 30 23 != 255

def vecAt (ws : List Word) (k : Nat) : V3 := { x := unitsOf (hdrW ws k), y := unitsOf (hdrW ws (k + 1)), z := unitsOf (hdrW ws (k + 2)) }

/-! ### Hits (R383, R384) -/

/-- A triangle that the exact line meets within its limits: t, identifier, b₁, b₂, whether from behind, whether `.cullb` rejects it, and
its edges on which the point lies. An edge is its endpoints' patterns, in the triangle's order. -/
structure Hit where
  t : Ratio
  id : Nat
  b1 : Ratio
  b2 : Ratio
  back : Bool
  culled : Bool
  edges : List (Nat × Nat)
deriving DecidableEq, Repr

/-- A vertex as a 96-bit pattern. -/
def vertexBits (ws : List Word) (k : Nat) : Nat := (hdrW ws k).toNat + (hdrW ws (k + 1)).toNat * 2 ^ 32 + (hdrW ws (k + 2)).toNat * 2 ^ 64

/-- A leaf against a ray's eight words. -/
def leafHit (ray leaf : List Word) (cullb : Bool) : Option Hit :=
  let o := vecAt ray 0
  let d := vecAt ray 3
  let v := fun (k : Nat) => vecAt leaf (3 * k)
  let n := ((v 1).sub (v 0)).cross ((v 2).sub (v 0))
  let den := d.dot n
  if !((List.range 9).all (fun k => finite (hdrW leaf k))) || den == 0 then none
  else
    let a := (v 0).sub o
    let b := (v 1).sub o
    let c := (v 2).sub o
    let w0 := d.dot (b.cross c)
    let w1 := d.dot (c.cross a)
    let w2 := d.dot (a.cross b)
    let inside := fun (w : Int) => decide (0 ≤ w * (if den < 0 then -1 else 1))
    let t := Ratio.of (a.dot n) den
    let lim := fun (k : Nat) => ({ n := unitsOf (hdrW ray k), d := 2 ^ 149 } : Ratio)
    if inside w0 && inside w1 && inside w2 && (lim 6).le t && t.le (lim 7) then
      let p := fun (k : Nat) => vertexBits leaf (3 * k)
      let back := decide (0 < den)
      some { t := t, id := (hdrW leaf 9).toNat, b1 := Ratio.of w1 den, b2 := Ratio.of w2 den, back := back,
             culled := cullb && back && !(hdrW leaf 10).getLsbD 1,
             edges := (if w0 = 0 then [(p 1, p 2)] else []) ++ (if w1 = 0 then [(p 2, p 0)] else []) ++
               (if w2 = 0 then [(p 0, p 1)] else []) }
    else none

/-- With `.any` a hit ends the trace if it counts whatever else is hit: it is not rejected, and no shared edge can take it away (R383). -/
def Hit.ends (h : Hit) : Bool := !h.culled && (h.edges.isEmpty || !(h.edges.all (fun e => decide (e.2 < e.1))))

/-- On shared edges the point counts for the other triangle: each edge it lies on descends here and stands reversed in another hit. -/
def Hit.yields (h : Hit) (all : List Hit) : Bool :=
  !h.edges.isEmpty && h.edges.all (fun e => decide (e.2 < e.1) && all.any (fun g => g.edges.contains (e.2, e.1)))

/-- The nearer hit, and of equal ones the lower identifier. -/
def Hit.before (a b : Hit) : Bool := if a.t.le b.t && b.t.le a.t then decide (a.id ≤ b.id) else a.t.le b.t

/-- The hit that a trace returns. -/
def bestHit (all : List Hit) : Option Hit :=
  (all.filter (fun h => !h.culled && !(h.yields all))).foldl (fun (acc : Option Hit) h =>
    match acc with
    | none => some h
    | some g => if g.before h then some g else some h) none

/-! ### Boxes (R382, R383) -/

/-- A child's bound on an axis in units of 2^-149, rounded outward to FP32; none where it is infinite. -/
def boxBound (o : Word) (q : Nat) (ex : Int) (up : Bool) : Option Int :=
  let s := (unpackF fmtF32 false o.toNat).1.dy.add { n := q, e := ex }
  let b := (packMag fmtF32 (if up then .rup else .rdn) false false (decide (s.n < 0)) s.n.natAbs s.e false).1
  if fltFin b then some (unitsOf (BitVec.ofNat 32 b)) else none
where
  /-- Not an infinity. -/
  fltFin (b : Nat) : Bool := b / 2 ^ 23 % 256 != 255

/-- The limits that an axis sets on t: lower and upper, or none where the ray runs beside the slab. -/
def axisLimits (o d : Int) (lo hi : Option Int) : Option (List Ratio × List Ratio) :=
  let tAt := fun (v : Option Int) => match v with
    | some v => [Ratio.of (v - o) d]
    | none => []
  if d = 0 then
    (if lo.all (fun v => decide (v ≤ o)) && hi.all (fun v => decide (o ≤ v)) then some ([], []) else none)
  else if 0 < d then some (tAt lo, tAt hi)
  else some (tAt hi, tAt lo)

/-- Byte n of a node. -/
def nodeByte (node : List Word) (n : Nat) : Nat := (hdrW node (n / 4)).toNat / 2 ^ (8 * (n % 4)) % 256

/-- The exact ray meets the box of child k; a node whose origin is not finite shuts nothing out. -/
def boxMeets (ray node : List Word) (k : Nat) : Bool :=
  if !((List.range 3).all (fun i => finite (hdrW node i))) then true
  else
    let ax := (List.range 3).map (fun i =>
      let ex := (BitVec.ofNat 8 (nodeByte node (12 + i))).toInt
      axisLimits (unitsOf (hdrW ray i)) (unitsOf (hdrW ray (3 + i))) (boxBound (hdrW node i) (nodeByte node (64 + 6 * k + i)) ex false)
        (boxBound (hdrW node i) (nodeByte node (64 + 6 * k + 3 + i)) ex true))
    let lim := fun (k : Nat) => ({ n := unitsOf (hdrW ray k), d := 2 ^ 149 } : Ratio)
    if ax.any Option.isNone then false
    else
      let ls := lim 6 :: (ax.map (fun a => (a.getD ([], [])).1)).flatten
      let us := lim 7 :: (ax.map (fun a => (a.getD ([], [])).2)).flatten
      ls.all (fun l => us.all (fun u => l.le u))

/-- A node's format is good (R382, R384). -/
def nodeGood (node : List Word) : Bool :=
  let vmask := bitsOf (hdrW node 3) 31 24
  let lmask := bitsOf (hdrW node 6) 7 0
  bitsOf (hdrW node 6) 31 8 == 0 && hdrW node 7 == 0 && (List.range 4).all (fun i => hdrW node (28 + i) == 0) &&
  (List.range 8).all (fun k =>
    bitsOf (hdrW node (8 + k)) 31 29 == 0 && (lmask / 2 ^ k % 2 == 0 || vmask / 2 ^ k % 2 == 1) &&
    (vmask / 2 ^ k % 2 == 0 || lmask / 2 ^ k % 2 == 1 || bitsOf (hdrW node (8 + k)) 25 0 % 8 == 0)) &&
  bitsOf (hdrW node 4) 6 0 == 0

/-! ### The walk -/

/-- A place still to be visited: a node with its depth, or the leaves of a run. -/
inductive Visit where
  | node (addr depth : Nat)
  | leaf (addr : Nat)
deriving DecidableEq, Repr

/-- The children of a node that the ray may meet, in order. -/
def children (ray node : List Word) (depth : Nat) : List Visit :=
  (List.range 8).flatMap (fun k =>
    if (hdrW node 3).getLsbD (24 + k) && boxMeets ray node k then
      let a := ((hdrD node 4).toNat + 16 * bitsOf (hdrW node (8 + k)) 25 0) % 2 ^ 64
      if (hdrW node 6).getLsbD k then
        (List.range (bitsOf (hdrW node (8 + k)) 28 26 + 1)).map (fun i => .leaf ((a + 48 * i) % 2 ^ 64))
      else [.node a (depth + 1)]
    else [])

/-- Words of a node or leaf, 16 bytes at a time, as the thread's core sees them after its earlier stores (R175, R385). -/
def State.traceRead (s : State) (r : Ref) (addr : Nat) : Nat → Except Nat (List Word)
  | 0 => .ok []
  | n + 1 =>
    match s.check r .glob addr 16 16 false false with
    | .error c => .error c
    | .ok (w, s1) =>
      match State.traceRead s r ((addr + 16) % 2 ^ 64) n with
      | .error c => .error c
      | .ok ws => .ok (wordsOfBytes (s1.readAt (s1.coreOf r) w 16) ++ ws)

/-- How a walk ended: its hits, whether a limit was reached, the cause of a fault, and the nodes and leaves that it read. -/
structure Walk where
  hits : List Hit
  limit : Bool
  fault : Option Nat
  read : List Nat := []
deriving DecidableEq, Repr

/-- A walk that read one more node or leaf first. -/
def Walk.reads (w : Walk) (a : Nat) : Walk := { w with read := a :: w.read }

/-- Visit what is still to be visited; `fuel` counts the visits left (R384), and with `.any` the first hit that is accepted ends it. -/
def State.walkRay (s : State) (r : Ref) (ray : List Word) (any cullb : Bool) : Nat → List Visit → List Hit → Walk
  | _, [], hits => { hits := hits, limit := false, fault := none }
  | 0, _ :: _, hits => { hits := hits, limit := true, fault := none }
  | fuel + 1, .leaf a :: rest, hits =>
    match s.traceRead r a 3 with
    | .error c => { hits := hits, limit := false, fault := some c }
    | .ok ws =>
      match leafHit ray ws cullb with
      | none => (State.walkRay s r ray any cullb fuel rest hits).reads a
      | some h =>
        if any && h.ends then { hits := [h], limit := false, fault := none, read := [a] }
        else (State.walkRay s r ray any cullb fuel rest (hits ++ [h])).reads a
  | fuel + 1, .node a depth :: rest, hits =>
    if 64 < depth then { hits := hits, limit := true, fault := none }
    else if a % 128 ≠ 0 then { hits := hits, limit := false, fault := some causeAlign }
    else
      match s.traceRead r a 8 with
      | .error c => { hits := hits, limit := false, fault := some c }
      | .ok ws =>
        if !(nodeGood ws) then { hits := hits, limit := false, fault := some causeAccess, read := [a] }
        else (State.walkRay s r ray any cullb fuel (children ray ws depth ++ rest) hits).reads a

/-! ### The hit register -/

def hitMiss : List Word := [0x7F800000, 0xFFFFFFFF, 0, 0]

def Hit.words (h : Hit) : List Word :=
  [BitVec.ofNat 32 h.t.f32, BitVec.ofNat 32 h.id, BitVec.ofNat 32 h.b1.f32, BitVec.ofNat 32 h.b2.f32]

/-- Status and quad of a walk (R384). -/
def Walk.result (w : Walk) : List Word × Word :=
  let extra : Word := (boolW w.limit <<< 2) ||| (boolW w.fault.isSome <<< 3)
  match bestHit w.hits with
  | some h => (h.words, 1 ||| (boolW h.back <<< 1) ||| extra)
  | none => (hitMiss, extra)

/-- A ray that completes at once (R383). -/
def rayBad (ray : List Word) : Bool :=
  !(ray.all finite) || (vecAt ray 3 == ({ x := 0, y := 0, z := 0 } : V3)) || decide (unitsOf (hdrW ray 7) < unitsOf (hdrW ray 6))

/-- A trace of the thread is outstanding. -/
def Thread.tracing (t : Thread) : Bool := t.loads.any (fun o => match o with | .trace _ _ _ _ => true | _ => false)

/-- TRACE for one thread whose previous one has completed. -/
def State.trace (s : State) (r : Ref) (any cullb : Bool) (a : Reg) (b : Src) : State :=
  let ray := (s.thread r).block a 8
  if rayBad ray then s.upd r (fun t => { t with hit := hitMiss, hitSt := 16 })
  else s.pushLoad r (.trace ray (s.src64 r b) any cullb)

/-- What HITR copies: the quad, or the status word. -/
def State.hitrGo (s : State) (r : Ref) (st : Bool) (d : Reg) : State :=
  if st then s.put r d (s.thread r).hitSt else s.putBlock r d (s.thread r).hit

/-- HITR waits, not ready, for the thread's last trace (R384). -/
def State.hitr (s : State) (r : Ref) (st : Bool) (d : Reg) : State :=
  if (s.thread r).tracing then s.parkAs r (.hitr st d) else s.hitrGo r st d

/-! ### Meanings -/

/-- R383: it waits at issue while a previous one has not completed. -/
def execTrace (g : Guard) (any cullb : Bool) (a : Reg) (b : Src) (s : State) : Host.Outcome State Fault Refusal :=
  .next (s.eachAfter g (fun s r => (s.thread r).tracing) (fun s r => s.trace r any cullb a b))

/-- R384. -/
def execHitr (g : Guard) (d : Reg) (s : State) : Host.Outcome State Fault Refusal :=
  .next (s.each g (fun s r => s.hitr r false d))

/-- R384. -/
def execHitrSt (g : Guard) (d : Reg) (s : State) : Host.Outcome State Fault Refusal :=
  .next (s.each g (fun s r => s.hitr r true d))

/-! ### Event -/

/-- R383 to R385: group a, thread b; the thread's oldest load, a trace, is walked once its earlier operations are performed, and the hit
register holds the result. The die's units wait for a repair of a column (R20; log entry 15). -/
def execTraceComplete (s : State) : Host.Outcome State Fault Refusal :=
  .next (
    let r : Ref := (s.arg.a, s.arg.b)
    match (s.thread r).loads with
    | .trace ray root any cullb :: rest =>
      if !((s.thread r).doneBefore (s.thread r).loadNo) || !s.repair.isEmpty then s
      else
      let w := s.walkRay r ray any cullb 65536 [.node root.toNat 1] []
      let (quad, st) := w.result
      let s := w.read.foldl (fun s a => s.engTouch r.1 .glob a 128) (s.upd r (fun t => { t with loads := rest, hit := quad, hitSt := st }))
      match w.fault with
      | some c => if (s.thread r).live then s.setCause r c else s
      | none => s
    | _ => s)

end Sys2Proof.Machine
end

