-- ==== Sys2Proof/Machine/Launch.lean ====
section
/-! DEFINITION. Meanings of the mailbox, journal, launch, slice, node and record instructions (18), and the dispatcher's events: placing
groups, node launches, slices, retirement and the windows of activity and occupancy. -/

namespace Sys2Proof.Machine

/-! ### Mailboxes (R386, R408) -/

/-- A mailbox as firmware leaves it: empty, of partition 0. -/
def Mailbox.fresh (n : Nat) : Mailbox := { n := n, part := 0, full := false, tag := 0, msg := [] }

def State.mailbox (s : State) (n : Nat) : Mailbox := (s.mailboxes.find? (fun m => m.n == n)).getD (Mailbox.fresh n)
def State.updMailbox (s : State) (n : Nat) (f : Mailbox → Mailbox) : State :=
  { s with mailboxes := upsert (fun m => m.n == n) (Mailbox.fresh n) f s.mailboxes }

/-- The 64 message bytes; one that was never written is zero (log entry 14). -/
def Mailbox.bytes (m : Mailbox) : List Byte :=
  (List.range 64).map (fun k => ((m.msg.find? (fun c => c.1 == k)).map (fun c => c.2)).getD 0)

/-- The lowest full mailbox of a bank's mask that the partition holds. -/
def State.mailFull (s : State) (part bank : Nat) (m : DWord) : Option Nat :=
  ((List.range 64).find? (fun i => m.getLsbD i && (s.mailbox (64 * bank + i)).full && (s.mailbox (64 * bank + i)).part == part)).map
    (fun i => 64 * bank + i)

def State.mbwait (s : State) (r : Ref) (poll : Bool) (bank : Nat) (d : Reg) (m : DWord) : State :=
  match s.mailFull (s.partOf r) bank m with
  | some n => s.put r d (BitVec.ofNat 32 n)
  | none => if poll then s.put r d 256 else s.parkAs r (.mail bank m d)

/-- A mailbox is another partition's, or does not exist. -/
def State.mailForeign (s : State) (part n : Nat) : Bool := decide (255 < n) || (s.mailbox n).part != part

/-- MBTAKE's one step (R408): the bytes, the accepted entry, TAG and SEQ, and the mailbox is empty. -/
def State.mailTake (s : State) (r : Ref) (n : Nat) (w : Where) (d : Reg) : State :=
  let part := s.partOf r
  let m := s.mailbox n
  let seq := (s.part part).jseq
  let s := s.writeAt part (s.coreOf r) .cor w m.bytes
  let s := s.journal part 0 n noRef (sha3Low m.bytes).toNat 0 0 0
  let s := (s.put r d (m.tag.setWidth 32)).put r (d + 1) (BitVec.ofNat 32 seq)
  s.updMailbox n (fun m => { m with full := false })

/-- A taker waits for the mailbox already. -/
def State.mailWaits (s : State) (n : Nat) : Bool :=
  s.mailQueue.any (fun q =>
    match (s.thread q).park with
    | .mailTake k _ _ => k == n
    | _ => false)

def State.mbtake (s : State) (r : Ref) (n ea : Nat) (d : Reg) : State :=
  if s.mailForeign (s.partOf r) n then s.fail r causeAccess
  else
    match s.check r .core ea 64 64 true false with
    | .error c => s.fail r c
    | .ok (w, t) =>
      if (t.mailbox n).full && !(t.mailWaits n) then t.mailTake r n w d
      else ({ t with mailQueue := t.mailQueue ++ [r] } : State).parkAs r (.mailTake n ea d)

/-! ### Host mailboxes (R409, R457, R458) -/

def HostBox.fresh (h : Nat) : HostBox := { h := h, ring := 0, part := 0, prod := 0 }
def State.hostBox (s : State) (h : Nat) : HostBox := (s.hostBoxes.find? (fun b => b.h == h)).getD (HostBox.fresh h)
def State.updHostBox (s : State) (h : Nat) (f : HostBox → HostBox) : State :=
  { s with hostBoxes := upsert (fun b => b.h == h) (HostBox.fresh h) f s.hostBoxes }

def HostBox.on (b : HostBox) : Bool := b.ring.getLsbD 0
/-- Entries of the ring. -/
def HostBox.size (b : HostBox) : Nat := 2 ^ bitsOf b.ring 4 1
/-- The ring's physical address (R192). -/
def HostBox.base (b : HostBox) : Nat := 0x8000000000000 + b.ring.toNat / 4096 * 4096

/-- Vector h is raised: its message is sent, or it is pending while it is masked (R457). -/
def State.raiseVector (s : State) (h : Nat) : State :=
  if s.msixMask.contains h then { s with msixPending := insertNat h s.msixPending } else { s with msixSent := s.msixSent ++ [h] }

/-- The ring of a host mailbox has room: its consumer index is read from host memory (R409, R458). -/
def State.postRoom (s : State) (b : HostBox) : Bool :=
  decide ((b.prod + 2 ^ 64 - ofBytes ((List.range 8).map (fun k => s.below (b.base + 128 * b.size + k)))) % 2 ^ 64 < b.size)

/-- A message of 64 bytes goes into the ring of a host mailbox, with its sequence word, and the vector is raised (R409). -/
def State.post (s : State) (h : Nat) (nosig : Bool) (msg : List Byte) : State :=
  let b := s.hostBox h
  let next := (b.prod + 1) % 2 ^ 64
  let s := s.writeSys (b.base + 128 * (b.prod % b.size)) (msg ++ toBytes 8 next ++ List.replicate 56 0)
  let s := s.updHostBox h (fun b => { b with prod := next })
  if nosig then s else s.raiseVector h

/-- MBPOST (R409). -/
def State.mbpost (s : State) (r : Ref) (nosig : Bool) (d a : Reg) (h : Nat) : State :=
  let b := s.hostBox h
  if 63 < h ∨ b.on = false ∨ b.part ≠ s.partOf r then s.put r d 2
  else
    if !(s.postRoom b) then s.put r d 1
    else ((s.release r .sys).post h nosig (((s.thread r).block a 16).map bytesOfWord).flatten).put r d 0

/-- JNL.fail (R410). -/
def State.jnlFail (s : State) (r : Ref) (d : Reg) (n : Nat) (lref : Word) : State :=
  if s.mailForeign (s.partOf r) n then s.put r d 1
  else (s.journal (s.partOf r) 3 n lref.toNat 0 0 7 0).put r d 0

/-! ### Headers and placement tables (R390 to R392, R411) -/

/-- n bytes of global memory as a plain `.dev` load of the thread, if they can be read. -/
def State.readDev (s : State) (r : Ref) (va n al : Nat) : Option (List Byte × State) :=
  match s.check r .glob va n al false false with
  | .error _ => none
  | .ok (w, s) => some (s.readAt (s.coreOf r) w n, s)

/-- A line of a range that a thread is about to read waits on its way: the column is under repair, or the slice holds requests (R20, R208). -/
def State.spanHeld (s : State) (r : Ref) (va n : Nat) : Bool :=
  decide (0 < n) &&
  (List.range ((va + n - 1) / 64 + 1 - va / 64)).any (fun k =>
    match s.page (s.partOf r) (s.coreOf r) ((va / 64 + k) * 64) 64 .read with
    | .error _ => false
    | .ok (_, pa) => s.pathHeld (s.partOf r) pa)

/-- Reserved bits of the header are zero. -/
def hdrReserved (h : List Word) : Bool :=
  bitsOf (hdrW h 0) 4 0 == 0 && bitsOf (hdrD h 1) 63 36 == 0 && bitsOf (hdrW h 9) 31 29 == 0 && bitsOf (hdrW h 9) 15 13 == 0 &&
  bitsOf (hdrW h 10) 31 19 == 0 && bitsOf (hdrW h 10) 15 15 == 0 && bitsOf (hdrW h 11) 31 16 == 0 && bitsOf (hdrD h 12) 63 48 == 0 &&
  bitsOf (hdrW h 15) 15 7 == 0 && bitsOf (hdrW h 26) 31 16 == 0 && (List.range 5).all (fun i => hdrW h (27 + i) == 0)

/-- The fields meet R56 and R58. -/
def hdrFieldsOk (h : List Word) : Bool :=
  let k := hdrK h
  let g := hdrGB h
  let c := hdrCB h
  decide (k ≤ 5) && decide (1 ≤ g) && decide (g ≤ k + 1) && (c == 0 || (decide (g < c) && decide (c ≤ k + 1))) &&
  decide (hdrB h (k + 1) ≤ 64) && 2 ^ hdrWid h 0 == hdrWave h &&
  (List.range 6).all (fun i => if i ≤ k then decide (hdrExt h i ≤ 2 ^ hdrWid h i) else hdrExt h i == 1 && hdrWid h i == 0) &&
  decide (hdrBg h ≤ 10) && (c == 0 || decide (hdrB h c - hdrBg h ≤ 3)) && decide (hdrThreads h ≤ 1024) &&
  decide (hdrScratch h ≤ 262144) && decide (hdrLane h ≤ 262144) && decide (hdrCmem h ≤ 1048576) && decide (hdrNG h ≤ 64) &&
  (decide (hdrNode h ≤ 1022) || hdrNode h == 0xFFFF) && (decide (hdrPnode h ≤ 1021) || hdrPnode h == 0xFFFF) &&
  (if c = 0 then hdrNset h == 1 else hdrNset h == hdrProd h g c) && (hdrEntry h).toNat % 64 == 0

/-- R391, but for WW beside control cores, which the placement table shows. -/
def hdrValid (h : List Word) : Bool :=
  hdrReserved h && hdrFieldsOk h && canonical (hdrEntry h).toNat && canonical (hdrHandler h).toNat && canonical (hdrPlace h).toNat &&
  canonical (hdrGinit h).toNat

/-- Entries of the placement table for the groups from the n-th on, with their group indices. -/
def State.readTable (s : State) (r : Ref) (h : List Word) : Nat → Nat → Option (List (Nat × Nat) × State)
  | 0, _ => some ([], s)
  | left + 1, n =>
    let i := hdrIndex h n
    match s.readDev r ((hdrPlace h).toNat + 2 * i) 2 2 with
    | none => none
    | some (bs, s) => (State.readTable s r h left (n + 1)).map (fun t => ((i, ofBytes bs) :: t.1, t.2))

/-- The whole table; none of it where PLACE is 0 (R392). -/
def State.readPlace (s : State) (r : Ref) (h : List Word) : Option (List (Nat × Nat) × State) :=
  if hdrPlace h = 0 then some ([], s) else s.readTable r h (hdrGroups h) 0

/-- The NG values at GINIT; without a place for them they are zero. -/
def State.readGinit (s : State) (r : Ref) (h : List Word) : Nat → Nat → Option (List DWord × State)
  | 0, _ => some ([], s)
  | left + 1, i =>
    match s.readDev r ((hdrGinit h).toNat + 8 * i) 8 8 with
    | none => none
    | some (bs, s) => (State.readGinit s r h left (i + 1)).map (fun t => (BitVec.ofNat 64 (ofBytes bs) :: t.1, t.2))

/-- The cluster set's index of a group index. -/
def hdrSet (h : List Word) (i : Nat) : Nat := i / 2 ^ (hdrB h (hdrCB h) - hdrBg h)

/-- An entry names a core of the partition, of a kind that the kernel may have. -/
def State.entryOk (s : State) (part : Nat) (h : List Word) (e : Nat) : Bool :=
  e == 0xFFFF ||
  (if e < 128 then (s.part part).clusters.getLsbD (e / 8)
   else decide (e < 160) && (s.part part).controls.getLsbD (e - 128) && hdrCB h == 0 && hdrWave h == 8)

/-- Two named groups of one set stand on different clusters. -/
def setSplit (h : List Word) (es : List (Nat × Nat)) : Bool :=
  hdrCB h != 0 && es.any (fun x => es.any (fun y =>
    x.2 != 0xFFFF && y.2 != 0xFFFF && hdrSet h x.1 == hdrSet h y.1 && x.2 / 8 != y.2 / 8))

/-- Every entry read is valid (R411, status 2). -/
def State.tableOk (s : State) (part : Nat) (h : List Word) (es : List (Nat × Nat)) : Bool :=
  es.all (fun x => s.entryOk part h x.2) && !(setSplit h es)

/-- What a launch reads waits on its way: its header, its placement table or its GINIT values. -/
def State.launchHeld (s : State) (r : Ref) (va : Nat) : Bool :=
  (!s.repair.isEmpty || !s.domNew.isEmpty) &&
  (s.spanHeld r va 128 ||
   (match s.readDev r va 128 128 with
    | none => false
    | some (bs, _) =>
      let h := wordsOfBytes bs
      hdrValid h &&
      (s.spanHeld r (hdrGinit h).toNat (8 * hdrNG h) ||
       (hdrPlace h != 0 && (List.range (hdrGroups h)).any (fun n => s.spanHeld r ((hdrPlace h).toNat + 2 * hdrIndex h n) 2)))))

/-! ### What a core holds (R60, R397) -/

/-- Thread slots, registers, lane memory and scratchpad of a core. -/
def coreSlots (core : Nat) : Nat := if isControl core then 64 else 1024
def coreRegs (core : Nat) : Nat := if isControl core then 16384 else 131072
def coreLane (core : Nat) : Nat := if isControl core then 65536 else 262144
def coreScratch (core : Nat) : Nat := if isControl core then 65536 else 262144

def State.energyOf (s : State) (h : List Word) : Nat := s.cw.getD (hdrEnergy h) 0

/-- m groups of a header fit on an empty core. -/
def State.fitsEmpty (s : State) (h : List Word) (core m : Nat) : Bool :=
  decide (m * hdrThreads h ≤ coreSlots core) && decide (m * hdrThreads h * hdrRegs h ≤ coreRegs core) &&
  decide (m * hdrThreads h * hdrLane h ≤ coreLane core) && decide (m * hdrScratch h ≤ coreScratch core) &&
  decide (m * s.energyOf h ≤ (s.coreSt core).elim)

/-- Groups of a launch that the table puts on an entry's core together: those of its set. -/
def sameCore (h : List Word) (es : List (Nat × Nat)) (x : Nat × Nat) : Nat :=
  if hdrCB h = 0 then 1 else (es.filter (fun y => y.2 == x.2 && hdrSet h y.1 == hdrSet h x.1)).length

/-- A wide core of the partition on which a group fits. -/
def State.someCore (s : State) (part : Nat) (h : List Word) : Bool :=
  (List.range 128).any (fun n => (s.part part).clusters.getLsbD (n / 8) && s.fitsEmpty h n 1)

/-- R411, status 3 does not apply. -/
def State.canFit (s : State) (part : Nat) (h : List Word) (es : List (Nat × Nat)) : Bool :=
  (if es.isEmpty then s.someCore part h
   else es.all (fun x => if x.2 = 0xFFFF then s.someCore part h else s.fitsEmpty h x.2 (sameCore h es x)))

/-! ### LAUNCH (R411) -/

/-- A launch has a group that stands nowhere. -/
def Launch.waits (l : Launch) : Bool := decide (l.next < l.total) || !l.requeue.isEmpty

/-- Launches that stand in a queue of a partition; a node launch takes no place in it. -/
def State.queued (s : State) (part q : Nat) : List Launch :=
  s.launches.filter (fun l => l.part == part && l.prio == q && l.node.isNone && l.waits)

/-- What LAUNCH finds: a status, or header, GINIT values and the state after its loads. -/
def State.launchRead (s : State) (r : Ref) (va : Nat) : Except Nat (List Word × List DWord × State) :=
  match s.readDev r va 128 128 with
  | none => .error 1
  | some (bs, s) =>
    let h := wordsOfBytes bs
    if !hdrValid h then .error 1
    else
      match s.readGinit r h (hdrNG h) 0 with
      | none => .error 1
      | some (gi, s) =>
        match s.readPlace r h with
        | none => .error 2
        | some (es, s) =>
          if hdrWave h ≠ 8 ∧ es.any (fun x => 128 ≤ x.2 && decide (x.2 < 160)) = true then .error 1
          else if !(s.tableOk (s.partOf r) h es) then .error 2
          else if !(s.canFit (s.partOf r) h es) then .error 3
          else if 64 ≤ (s.queued (s.partOf r) (hdrPrio h)).length then .error 4
          else .ok (h, gi, s)

/-- The producer count of the nodes that a launch feeds rises (R405): the bindings, named by their launched entries. -/
def State.fed (s : State) (part : Nat) (h : List Word) : List Nat :=
  (s.nodes.filter (fun n => n.part == part && n.id == hdrPnode h)).map (fun n => n.lref)

/-- The launch is queued. -/
def State.enqueue (s : State) (part : Nat) (h : List Word) (va : DWord) (gi : List DWord) (seq : Nat) : State :=
  let fed := s.fed part h
  let l : Launch :=
    { id := s.serial, seq := seq, part := part, prio := hdrPrio h, hdr := h, hdrVa := va, ginit := gi, next := 0, total := hdrGroups h,
      live := 0, dl := none, time := s.dtb, requeue := [], failed := false, why8 := false, die := none, node := none, recs := [],
      poss := [], raised := fed }
  let s := s.bump
  let s : State := { s with
    launches := s.launches ++ [l],
    nodes := s.nodes.map (fun n => if n.part == part && fed.contains n.lref then { n with producers := n.producers + 1 } else n) }
  s.updPart part (fun p => { p with refs := p.refs ++ [{ seq := seq, lid := l.id, ended := false }] })

def State.launch (s : State) (r : Ref) (d : Reg) (va : DWord) (lref : Word) : State :=
  let part := s.partOf r
  match s.launchRead r va.toNat with
  | .error st => (s.journal part 3 noMbox lref.toNat 0 0 st 0).put r d (BitVec.ofNat 32 st)
  | .ok (h, gi, s) =>
    let seq := (s.part part).jseq
    let s := s.release r .dev
    let s := s.journal part 1 noMbox lref.toNat (sha3Low ((h.map bytesOfWord).flatten)).toNat va.toNat 0 0
    ((s.enqueue part h va gi seq).put r d 0).put r (d + 1) (BitVec.ofNat 32 seq)

/-! ### SLICE (R412) -/

/-- The launch that bears a reference: status 1 without one, 2 once it has ended. -/
def State.bears (s : State) (part : Nat) (w : Word) : Except Nat Launch :=
  let p := s.part part
  match (p.refs.filter (fun j => j.seq % 2 ^ 32 == w.toNat && decide (p.jseq ≤ j.seq + 2 ^ p.jlog))).getLast? with
  | none => .error 1
  | some j =>
    if j.ended then .error 2
    else
      match s.launchOf j.lid with
      | some l => .ok l
      | none => .error 2

def State.sliceDl (s : State) (r : Ref) (d : Reg) (w : Word) (dl : DWord) : State :=
  match s.bears (s.partOf r) w with
  | .error st => s.put r d (BitVec.ofNat 32 st)
  | .ok l =>
    let s := s.updLaunch l.id (fun l => { l with dl := some dl.toNat })
    ({ s with groups := s.groups.map (fun g => if g.lid = l.id then { g with deadline := dl.toNat } else g) } : State).put r d 0

/-- A launch loses what is not placed. -/
def State.dropUnplaced (s : State) (id : Nat) : State :=
  s.updLaunch id (fun l => { l with failed := true, next := l.total, requeue := [] })

def State.sliceKill (s : State) (r : Ref) (d : Reg) (w : Word) : State :=
  match s.bears (s.partOf r) w with
  | .error st => s.put r d (BitVec.ofNat 32 st)
  | .ok l =>
    let s := (s.journal l.part 3 noMbox (l.seq % 2 ^ 32) 0 0 6 0).dropUnplaced l.id
    let mine := (s.groups.filter (fun g => g.lid == l.id)).map (fun g => g.gid)
    ((mine.foldl (fun s g => s.killGroup g false false) s).launchCheck l.id).put r d 0

/-! ### NODEGO (R404, R405, R413) -/

/-- Node launch of the next R pending records. -/
def State.nodeGo (s : State) (n : Node) : State :=
  let recs := (n.pending.take (nodeThr n.desc)).map (fun p => p.1)
  let s := s.updNode n.die n.part n.id (fun y =>
    { (recs.foldl (fun (y : Node) k => y.setSlot k .taken) y) with pending := y.pending.drop (nodeThr n.desc) })
  s.nodeRun n none recs []

/-- Words of the descriptor, in range; node 1,022 ignores THR, AGE and RSZ (R405), so only QBASE is held to the window (log entry 9). -/
def State.descOk (s : State) (part die id : Nat) (w : List Word) : Bool :=
  let free := id == 1022
  bitsOf (hdrW w 0) 31 24 == 0 && nodeQbase w % 64 == 0 && bitsOf (hdrW w 1) 23 12 == 0 && bitsOf (hdrW w 2) 31 11 == 0 &&
  bitsOf (hdrW w 3) 31 17 == 0 && hdrW w 6 == 0 && hdrW w 7 == 0 && canonical (nodeTmpl w).toNat &&
  (free || (decide (1 ≤ nodeThr w) && decide (nodeThr w ≤ 1024))) &&
  (free || bitsOf (hdrW w 3) 16 0 == 0 || (decide (256 ≤ bitsOf (hdrW w 3) 16 0) && decide (bitsOf (hdrW w 3) 16 0 ≤ 65536))) &&
  decide (if free then nodeQbase w < ((s.part part).window.getD die (0, 0)).2
    else nodeQbase w + nodeSlots w * nodeRec w ≤ ((s.part part).window.getD die (0, 0)).2)

/-- TMPL is valid for the node: its header, NODE, size, and a placement on the node's die of one group that can fit. -/
def State.tmplOk (s : State) (part die id : Nat) (w h : List Word) (es : List (Nat × Nat)) : Bool :=
  hdrValid h && hdrNode h == id && hdrNset h == 1 && (id == 1022 || decide (nodeThr w ≤ hdrThreads h)) &&
  s.tableOk part h es && (es.take 1).all (fun x => x.2 == 0xFFFF || dieOfCore x.2 == die) &&
  s.canFit part (if id = 1022 then hdrSample h else h) (es.take 1)

/-- Header, placement table and GINIT values of a template. -/
def State.tmplRead (s : State) (r : Ref) (w : List Word) : Option (List Word × List (Nat × Nat) × List DWord × State) :=
  match s.readDev r (nodeTmpl w).toNat 128 128 with
  | none => none
  | some (bs, s) =>
    let h := wordsOfBytes bs
    if !hdrValid h then none
    else
      match s.readPlace r h with
      | none => none
      | some (es, s) => (s.readGinit r h (hdrNG h) 0).map (fun t => (h, es, t.1, t.2))

/-- The ring's bytes as the node's destination lock (R404); node 1,022 has none. -/
def ringRng (die id : Nat) (w : List Word) : Rng :=
  { sp := .chip, owner := 0, lo := die * 2 ^ 24 + nodeQbase w, len := if id = 1022 then 0 else nodeSlots w * nodeRec w }

/-- The bytes of a word pair. -/
def splitD (d : DWord) : List Word := [lo32 d, hi32 d]

/-- The node is bound once its lock stands; the operation's `desc` holds descriptor, header and GINIT values. -/
def State.ringOpen (s : State) (op : LockOp) (id : Nat) (d : Reg) : State :=
  let r : Ref := (op.gid, op.tid)
  if (s.node op.die op.part id).isSome then ((s.lockDrop op.id).wake r).put r d 1
  else
    let w := op.desc.take 8
    let h := (op.desc.drop 8).take 32
    let gi := op.desc.drop 40
    let seq := (s.part op.part).jseq
    let n : Node :=
      { die := op.die, part := op.part, id := id, desc := w, hdr := h,
        ginit := (List.range (hdrNG h)).map (fun i => hdrD gi (2 * i)), lref := seq, slots := List.replicate (nodeSlots w) .empty,
        head := 0, pending := [], producers := 0, running := 0, count := 0, lock := op.id }
    let s := s.journal op.part 1 noMbox noRef (sha3Low ((h.map bytesOfWord).flatten)).toNat (nodeTmpl w).toNat 0 0
    (({ s with nodes := s.nodes ++ [n] } : State).wake r).put r d 0

/-- NODEGO.cfg with its descriptor's words. -/
def State.nodeCfg (s : State) (r : Ref) (d : Reg) (id : Nat) (w : List Word) : State :=
  let part := s.partOf r
  let die := s.dieOf r
  if !(s.descOk part die id w) then s.put r d 2
  else
    match s.tmplRead r w with
    | none => s.put r d 2
    | some (h, es, gi, t) =>
      if !(t.tmplOk part die id w h es) then s.put r d 2
      else if 1023 ≤ id then s.put r d 4
      else
        let t := t.release r .dev
        let op := t.newOp r 0 .dev (.ring id d) [] [ringRng die id w] 0
        t.lockAsk true { op with desc := w ++ h ++ (gi.map splitD).flatten } (fun s op => s.ringOpen op id d)

def State.nodegoCfg (s : State) (r : Ref) (d : Reg) (id ea : Nat) : State :=
  if 1024 ≤ id then s.put r d 4
  else if (s.node (s.dieOf r) (s.partOf r) id).isSome then s.put r d 1
  else if ea % 32 ≠ 0 then s.put r d 2
  else
    match s.check r .core ea 32 32 false false with
    | .error c => s.fail r c
    | .ok (w, s) => s.nodeCfg r d id (wordsOfBytes (s.readAt (s.coreOf r) w 32))

/-- What NODEGO.cfg reads through its descriptor waits on its way. -/
def State.tmplHeld (s : State) (r : Ref) (ea : Nat) : Bool :=
  s.launchHeld r (nodeTmpl (wordsOfBytes (s.mem.readN (locScratch r.1 ea) 32))).toNat

def State.nodegoFlush (s : State) (r : Ref) (d : Reg) (id : Nat) : State :=
  if 1024 ≤ id then s.put r d 4
  else
    match s.node (s.dieOf r) (s.partOf r) id with
    | none => s.put r d 1
    | some n => if n.pending.isEmpty then s.put r d 4 else (s.nodeGo n).put r d 0

def State.nodegoQ (s : State) (r : Ref) (d : Reg) (id : Nat) : State :=
  if 1024 ≤ id then s.put r d 4
  else
    match s.node (s.dieOf r) (s.partOf r) id with
    | none => s.put r d 1
    | some n =>
      (s.put r d (BitVec.ofNat 32 n.pending.length)).put r (d + 1) (BitVec.ofNat 32 (n.producers % 65536 + n.running % 65536 * 65536))

def State.nodegoOff (s : State) (r : Ref) (d : Reg) (id : Nat) : State :=
  let die := s.dieOf r
  let part := s.partOf r
  if 1024 ≤ id then s.put r d 4
  else
    match s.node die part id with
    | none => s.put r d 1
    | some n =>
      if !n.pending.isEmpty || decide (0 < n.running) then s.put r d 3
      else
        let s := s.journal part 2 noMbox (n.lref % 2 ^ 32) 0 0 0 0
        let s : State := { s.lockDrop n.lock with nodes := s.nodes.filter (fun y => !(y.die == die && y.part == part && y.id == id)) }
        let s := if id = 1022 then s.updDie die (fun x => { x with display := x.display.map (fun y => { y with wave := [] }) }) else s
        s.put r d 0

/-! ### ADMITQ (R414) -/

/-- Groups resident on a core for the partition that holds it. -/
def State.residents (s : State) (core part : Nat) : List Group := s.groups.filter (fun g => g.core == core && g.part == part)

/-- Cores exist as 0 to 127 and 128 to 159. -/
def coreExists (n : Nat) : Bool := decide (n < 160)

/-- Sum of CW over a core's resident groups. -/
def State.energySum (s : State) (core : Nat) : Nat :=
  ((s.groups.filter (fun g => g.core == core && s.holds core g.part)).map (fun g => s.energyOf g.hdr)).foldl (· + ·) 0

def State.admitEnergy (s : State) (n : Nat) : Word × Word :=
  if coreExists n then (BitVec.ofNat 32 (s.energySum n), BitVec.ofNat 32 (s.coreSt n).elim) else (0, 0)

/-- Ceilings of the logic and of the DRAM, in 1/256 °C (R13, R398). -/
def ceilLogic : Word := 105 * 256
def ceilDram : Word := 95 * 256

/-- The part of a cell with the smaller margin, the logic on a tie: its prediction and its ceiling (R398). -/
def binding (c : Word × Word) : Word × Word :=
  if ceilLogic.toInt - c.1.toInt ≤ ceilDram.toInt - c.2.toInt then (c.1, ceilLogic) else (c.2, ceilDram)

def State.admitTherm (s : State) (die n : Nat) : Word × Word :=
  if n < 64 then binding ((s.die die).cells.getD n (0, 0)) else (0, 0)

/-- `%act` of the context that stands on a core: of the partition that holds it. -/
def State.actOf (s : State) (n : Nat) : Word :=
  (((List.range 4).find? (fun q => s.holds n q)).map (fun q => (s.ctx n q).actWord)).getD 0

def State.admitAct (s : State) (n : Nat) : Word × Word :=
  if coreExists n then
    (s.actOf n, BitVec.ofNat 32 (((List.range 4).map (fun k => s.weightOf 0 (k + 1) % 256 * 2 ^ (8 * k))).foldl (· + ·) 0))
  else (0, 0)

/-- A bitmap of 64 gated engines. -/
def State.gateMap (s : State) (f : Nat → Engine) : Nat :=
  (List.range 64).foldl (fun m k => if s.gated.contains (f k) then m + 2 ^ k else m) 0

def State.admitGate (s : State) (die n : Nat) : DWord :=
  match n with
  | 0 => BitVec.ofNat 64 (s.gateMap (fun k => .core (64 * die + k)))
  | 1 => BitVec.ofNat 64 (s.gateMap (fun k => .slice k))
  | 2 =>
    BitVec.ofNat 64 ((List.range 64).foldl (fun m k => if s.arrayOff (64 * die + k) then m + 2 ^ k else m) 0)
  | _ => 0

/-- Groups of a launch that stand nowhere. -/
def Launch.unplaced (l : Launch) : Nat := l.total - l.next + l.requeue.length

def State.admitQueue (s : State) (part q : Nat) : Word × Word :=
  if q < 8 then
    let ls := s.queued part q
    (BitVec.ofNat 32 ls.length, BitVec.ofNat 32 (Nat.min ((ls.map Launch.unplaced).foldl (· + ·) 0) 0xFFFFFFFF))
  else (0, 0)

def State.putTwo (s : State) (r : Ref) (d : Reg) (x : Word × Word) : State := (s.put r d x.1).put r (d + 1) x.2

/-! ### Records (R415 to R417) -/

/-- The blend node's slots: the model gives each die 4,096 (log entry 32). -/
def blendSlots : Nat := 4096

/-- A handle: slot, node, reservation count. -/
def recHandle (slot node count : Nat) : Word := BitVec.ofNat 32 (slot * 2 ^ 20 + node * 2 ^ 10 + count % 2 ^ 10)

/-- Reserve the next slot of a node, if it is empty (R415). -/
def State.recTake (s : State) (r : Ref) (node : Nat) (d : Reg) : Option State :=
  let die := s.dieOf r
  let part := s.partOf r
  if node = 1023 then
    let x := s.die die
    if x.blendRes.any (fun b => b.slot == x.blendHead) then none
    else
      let c := s.serial % 1024
      some ((s.bump.updDie die (fun x =>
        { x with blendRes := x.blendRes ++ [{ slot := x.blendHead, gid := r.1, tid := r.2, count := c }],
                 blendHead := (x.blendHead + 1) % blendSlots })).put r d (recHandle x.blendHead 1023 c))
  else
    match s.node die part node with
    | none => none
    | some n =>
      match n.free? with
      | none => none
      | some k =>
        let c := (n.count + 1) % 1024
        let s := s.updNode die part node (fun n => { n.claim (.reserved r.1 r.2 c) with count := c })
        some ((s.upd r (fun t => { t with holds := t.holds ++ [{ node := node, lock := n.lock, slot := k, count := c }] })).put r d (recHandle k node c))

def State.recalloc (s : State) (r : Ref) (d : Reg) (node : Nat) : State :=
  if node = 1022 ∨ 1024 ≤ node ∨ (node ≠ 1023 ∧ (s.node (s.dieOf r) (s.partOf r) node).isNone) then s.fail r causeAccess
  else
    match s.recTake r node d with
    | some s => s
    | none => s.parkAs r (.record node d)

/-- RECEMIT of a shader node's record. -/
def State.recPublish (s : State) (r : Ref) (node slot : Nat) (w : Where) (n : Node) : State :=
  let bs := s.readAt (s.coreOf r) w (nodeRec n.desc)
  let s := s.release r .die
  let s : State := { s with mem := s.mem.writeN (s.slotLoc n slot) bs }
  let s := (s.publish n.die n.part node slot).upd r (fun t =>
    { t with holds := t.holds.filter (fun h => !(h.node == node && h.lock == n.lock && h.slot == slot)) })
  s.pushStore r (.store .die none)

/-- RECEMIT of a blend record (R373). -/
def State.recBlend (s : State) (r : Ref) (slot : Nat) (w : Where) : State :=
  let die := s.dieOf r
  let ws := wordsOfBytes (s.readAt (s.coreOf r) w 32)
  let s := s.release r .die
  let s := (s.blendIn die (s.partOf r) ws).updDie die (fun x => { x with blendRes := x.blendRes.filter (fun b => b.slot != slot) })
  s.pushStore r (.store .die none)

def State.recemit (s : State) (r : Ref) (h : Word) (ea : Nat) : State :=
  let slot := bitsOf h 31 20
  let node := bitsOf h 19 10
  let cnt := bitsOf h 9 0
  let n := s.node (s.dieOf r) (s.partOf r) node
  let mine :=
    if node = 1023 then (s.die (s.dieOf r)).blendRes.any (fun b => b.slot == slot && b.gid == r.1 && b.tid == r.2 && b.count == cnt)
    else (s.thread r).holds.any (fun x => x.node == node && some x.lock == n.map (fun n => n.lock) && x.slot == slot && x.count == cnt)
  if !mine || (node != 1023 && n.isNone) then s.fail r causeAccess
  else
    let size := if node = 1023 then 32 else (n.map (fun n => nodeRec n.desc)).getD 0
    match s.check r .core ea size 16 false false with
    | .error c => s.fail r c
    | .ok (w, s) =>
      match n with
      | some n => s.recPublish r node slot w n
      | none => s.recBlend r slot w

def State.recrd (s : State) (r : Ref) (d : Reg) (k : Nat) : State :=
  let t := s.thread r
  match t.record with
  | none => s.fail r causeAccess
  | some (node, slot) =>
    match s.node (s.dieOf r) (s.partOf r) node with
    | none => s.fail r causeAccess
    | some n =>
      if t.recDone = true ∨ nodeRec n.desc / 4 ≤ k then s.fail r causeAccess
      else
        s.pushLoad r (.record d (BitVec.ofNat 32 (ofBytes (s.mem.readN (s.slotLoc n slot + 4 * k) 4))))

/-! ### Placing groups (R392, R393, R396 to R398) -/

/-- Thread slots that a group takes: those of threads that run or still have loads on their way (R81). -/
def State.slotsOf (s : State) (g : Nat) : Nat := (s.threads.filter (fun t => t.gid == g && (t.live || !t.loads.isEmpty))).length

def sumOf {α : Type} (l : List α) (f : α → Nat) : Nat := (l.map f).foldl (· + ·) 0

/-- R60. -/
def State.fits (s : State) (part core : Nat) (h : List Word) : Bool :=
  let rs := s.residents core part
  decide (sumOf rs (fun g => s.slotsOf g.gid) + hdrThreads h ≤ coreSlots core) &&
  decide (sumOf rs (fun g => s.slotsOf g.gid * hdrRegs g.hdr) + hdrThreads h * hdrRegs h ≤ coreRegs core) &&
  decide (sumOf rs (fun g => hdrThreads g.hdr * hdrLane g.hdr) + hdrThreads h * hdrLane h ≤ coreLane core) &&
  decide (sumOf rs (fun g => hdrScratch g.hdr) + hdrScratch h ≤ coreScratch core)

/-- The thermal cell of a core (log entry 16). -/
def cellOfCore (core : Nat) : Nat := if isControl core then Config.cellOf core % 64 else core % 64

/-- What a density at a core's cell adds to the prediction of another: nothing where it is 0 (R398). -/
def riseAt (core dens k part : Nat) : Int := if dens = 0 then 0 else (Config.rise dens (cellOfCore core) k part : Int)

/-- R398: with the density at the core's cell, every cell of its die stays 2 °C below both ceilings. -/
def State.cool (s : State) (core dens : Nat) : Bool :=
  (List.range 64).all (fun k =>
    let c := (s.die (dieOfCore core)).cells.getD k (0, 0)
    decide (c.1.toInt + riseAt core dens k 0 ≤ ceilLogic.toInt - 512) &&
    decide (c.2.toInt + riseAt core dens k 1 ≤ ceilDram.toInt - 512))

/-- Energy and thermal admission (R397, R398). -/
def State.admits (s : State) (part core : Nat) (h : List Word) : Bool :=
  decide (sumOf (s.residents core part) (fun g => s.energyOf g.hdr) + s.energyOf h ≤ (s.coreSt core).elim) && s.cool core (hdrDens h)

def State.may (s : State) (part core : Nat) (h : List Word) : Bool := s.holds core part && s.fits part core h && s.admits part core h

def State.freeSlotsOf (s : State) (part core : Nat) : Nat := 1024 - sumOf (s.residents core part) (fun g => s.slotsOf g.gid)

/-- choose(): the core with the most free slots among those allowed; ties to the lowest. -/
def State.choose (s : State) (part : Nat) (h : List Word) (ok : List Nat) : Option Nat :=
  (ok.filter (fun n => s.may part n h)).foldl (fun (best : Option Nat) n =>
    match best with
    | none => some n
    | some b => if s.freeSlotsOf part b < s.freeSlotsOf part n then some n else best) none

/-- mix() of R136: the generator's state at thread start. -/
def mixStart (work : Nat) : DWord := mix (BitVec.ofNat 64 work)

/-- A thread at its start (R50, R58, R136). -/
def threadStart (gid tid : Nat) (l : Launch) (idx n : Nat) : Thread :=
  let work := idx * 2 ^ hdrBg l.hdr + tid
  let pos := l.poss.getD n (0, 0, 0, 0)
  { Thread.none with
    gid := gid, tid := tid, regs := List.replicate (hdrRegs l.hdr) 0, pc := hdrEntry l.hdr, rng := mixStart work, live := true,
    hit := hitMiss, spos := joinW (BitVec.ofNat 32 pos.2.2.2) (BitVec.ofNat 32 (pos.2.1 % 65536 * 65536 + pos.1 % 65536)),
    srow := BitVec.ofNat 32 pos.2.2.1,
    record := if l.node.isSome && l.poss.isEmpty then (l.recs[n]?).map (fun k => (l.node.getD 0, k)) else none }

/-- How many of a group's threads start: those with a record or a position in a node's launch (R405). -/
def Launch.starts (l : Launch) : Nat :=
  match l.node with
  | none => hdrThreads l.hdr
  | some _ => Nat.min (hdrThreads l.hdr) (if l.poss.isEmpty then l.recs.length else l.poss.length)

/-- A group becomes resident on a core and its threads start (R170, R275, R393, R394); one of a resident program is privileged (R421). -/
def State.startGroup (s : State) (l : Launch) (idx tries core : Nat) (cset : Option Nat) : State :=
  let gid := s.serial
  let h := l.hdr
  let ts := (List.range l.starts).map (fun n => threadStart gid (hdrTid h n) l idx n)
  let wids := (ts.map (fun t => t.tid / hdrWave h)).eraseDups
  let ws := wids.map (fun w => ({ Wave.none with gid := gid, wid := w, tmask := tmaskOf (hdrTmask h) } : Wave))
  let g : Group :=
    { gid := gid, part := l.part, lref := l.seq, lid := l.id, index := idx, core := core, priv := l.resident, hdr := h,
      gregs := (List.range 64).map (fun i => l.ginit.getD i 0), current := true,
      deadline := (match l.dl with
        | some d => d
        | none => if hdrDl h = 0 then 2 ^ 64 - 1 else l.time + hdrDl h),
      left := hdrBudget h, release := s.dtb, tries := tries, cset := cset, stream := none, node := l.node }
  let s := s.bump
  let s : State := { s with groups := s.groups ++ [g], threads := s.threads ++ ts, waves := s.waves ++ ws }
  s.updLaunch l.id (fun l =>
    { l with live := l.live + 1, requeue := l.requeue.filter (fun q => q.1 != idx),
             next := if l.next < l.total ∧ hdrIndex h l.next = idx then l.next + 1 else l.next })

/-- The lowest unplaced group index of a launch with its relaunches. -/
def Launch.lowest (l : Launch) : Option (Nat × Nat) :=
  let q := l.requeue.foldl (fun (b : Option (Nat × Nat)) x =>
    match b with
    | none => some x
    | some y => if x.1 < y.1 then some x else b) none
  if l.next < l.total then
    let i := hdrIndex l.hdr l.next
    match q with
    | some x => if x.1 < i then some x else some (i, 0)
    | none => some (i, 0)
  else q

/-- Put a group index with its tries into an ascending list. -/
def insertIdx (l : List (Nat × Nat)) (x : Nat × Nat) : List (Nat × Nat) :=
  match l with
  | [] => [x]
  | y :: ys => if x.1 < y.1 then x :: y :: ys else y :: insertIdx ys x

/-- S of place(): the lowest unplaced group, or the whole cluster set that holds it, with relaunches. -/
def Launch.batch (l : Launch) : List (Nat × Nat) :=
  match l.lowest with
  | none => []
  | some x =>
    if hdrCB l.hdr = 0 then [x]
    else
      let ord := fun (p : Nat × Nat) => hdrSet l.hdr p.1 == hdrSet l.hdr x.1
      let re := l.requeue.filter ord
      let new := ((List.range (hdrNset l.hdr)).map (fun k => (hdrIndex l.hdr (l.next + k), 0))).filter
        (fun p => ord p && decide (l.next < l.total))
      (re ++ new).foldl insertIdx []

/-- A placement entry as the dispatcher reads it: none where it cannot be read. -/
def State.entryFor (s : State) (l : Launch) (die idx : Nat) : Option Nat :=
  if hdrPlace l.hdr = 0 then some 0xFFFF
  else
    let va := (hdrPlace l.hdr).toNat + 2 * idx
    if va % 2 ≠ 0 then none
    else
      match s.page l.part (dieCore die) va 2 .read with
      | .error _ => none
      | .ok (_, pa) => some (ofBytes ((List.range 2).map (fun k => s.below (pa + k))))

/-- A read of the dispatcher wakes what serves it (R403). -/
def State.wakePath (s : State) (part va pa : Nat) : State := { s with gated := (((s.walkWakes part va).wakeAt pa).touchBelow part pa).gated }

/-- The entries of S are read. -/
def State.wakeEntries (s : State) (l : Launch) (die : Nat) : State :=
  if hdrPlace l.hdr = 0 then s
  else
    l.batch.foldl (fun s g =>
      let va := (hdrPlace l.hdr).toNat + 2 * g.1
      match s.page l.part (dieCore die) va 2 .read with
      | .error _ => s
      | .ok (_, pa) => s.wakePath l.part va pa) s

/-- One after another, the groups of S become resident on named or chosen cores. `res` lists reserved cores. -/
def State.placeAll (s : State) (l : Launch) (ok res : List Nat) (cset : Option Nat) : List ((Nat × Nat) × Nat) → Option State
  | [] => some s
  | ((idx, tries), e) :: rest =>
    let core := if e = 0xFFFF then s.choose l.part l.hdr (ok.filter (fun n => !(res.contains n))) else some e
    match core with
    | none => none
    | some n =>
      if s.may l.part n l.hdr && !(res.contains n) then (s.startGroup l idx tries n cset).placeAll l ok res cset rest else none

/-- Bytes of cluster memory taken on a cluster. -/
def State.cmemUsed (s : State) (part cluster : Nat) : Nat :=
  sumOf (s.csets.filter (fun c => c.part == part && c.cluster == cluster)) (fun c => c.size)

/-- A whole set on a cluster. -/
def State.placeSet (s : State) (l : Launch) (res : List Nat) (cl : Nat) (gs : List ((Nat × Nat) × Nat)) : Option State :=
  if 1048576 < s.cmemUsed l.part cl + hdrCmem l.hdr then none
  else
    let id := s.serial
    let c : CSet := { id := id, part := l.part, cluster := cl, size := hdrCmem l.hdr, groups := gs.length }
    let t : State := { s.bump with csets := s.csets ++ [c] }
    t.placeAll l ((List.range 8).map (fun k => 8 * cl + k)) res (some id) gs

/-- Free slots of a cluster's eight positions. -/
def State.clusterFree (s : State) (part cl : Nat) : Nat := sumOf (List.range 8) (fun k => s.freeSlotsOf part (8 * cl + k))

/-- The cluster that the dispatcher chooses for a set without named entries: the one with the most free slots on which the set fits. -/
def State.setCluster (s : State) (l : Launch) (die : Nat) (res : List Nat) (gs : List ((Nat × Nat) × Nat)) : Option Nat :=
  ((List.range 8).map (fun k => 8 * die + k)).foldl (fun (best : Option Nat) cl =>
    if (s.part l.part).clusters.getLsbD cl && (s.placeSet l res cl gs).isSome then
      match best with
      | none => some cl
      | some b => if s.clusterFree l.part b < s.clusterFree l.part cl then some cl else best
    else best) none

/-- What a try to place S gives. -/
inductive Placed where
  | done (s : State)
  /-- The launch fails with WHY 2. -/
  | bad
  /-- S is for the other die. -/
  | other
  /-- S must wait; the cores it names are reserved. -/
  | wait (named : List Nat)

def State.tryPlace (s : State) (l : Launch) (die : Nat) (res : List Nat) : Placed :=
  let gs := l.batch
  let es := gs.map (fun g => s.entryFor l die g.1)
  if es.any (fun e => e.isNone) then .bad
  else
    let ps := gs.zip (es.map (fun e => e.getD 0))
    if !(s.tableOk l.part l.hdr (ps.map (fun p => (p.1.1, p.2)))) then .bad
    else
      let named := (ps.map (fun p => p.2)).filter (fun e => e != 0xFFFF)
      if named.any (fun e => dieOfCore e != die) then .other
      else
        let t :=
          if hdrCB l.hdr = 0 then s.placeAll l ((List.range 64).map (fun k => 64 * die + k)) res none ps
          else
            match (match named with
              | e :: _ => some (clusterOfCore e)
              | [] => s.setCluster l die res ps) with
            | none => none
            | some cl => s.placeSet l res cl ps
        match t with
        | some t => .done t
        | none => .wait named

/-- A launch whose table proves invalid fails with WHY 2 (R392); records of a node launch are released. -/
def State.placeFail (s : State) (l : Launch) : State :=
  let s := (s.journal l.part 3 noMbox (l.seq % 2 ^ 32) 0 0 2 0).dropUnplaced l.id
  let s :=
    match l.die, l.node with
    | some d, some n => if n = 1022 then s else l.recs.foldl (fun s k => s.releaseSlot d l.part n k) s
    | _, _ => s
  s.launchCheck l.id

/-- place() over launches in the order of the scan. `stop` is the queue whose scan has stopped. -/
def State.placeScan (s : State) (die : Nat) (stop : Option Nat) (res : List Nat) : List Launch → State
  | [] => s
  | l :: ls =>
    if some l.prio = stop then s.placeScan die stop res ls
    else
      let s := s.wakeEntries l die
      match s.tryPlace l die res with
      | .done t => t
      | .bad => s.placeFail l
      | .other => s.placeScan die stop res ls
      | .wait named => s.placeScan die (some l.prio) (res ++ named) ls

/-- Launches of a partition for a die in scan order: queues from 7 down, each oldest first. -/
def State.scanOrder (s : State) (die part : Nat) : List Launch :=
  (List.range 8).flatMap (fun q => s.launches.filter (fun l =>
    l.part == part && l.prio == 7 - q && l.waits && (l.die.isNone || l.die == some die)))

/-! ### Retirement and slices (R82, R394, R396) -/

/-- The engines of a group that retires are freed: no further box starts (R236). -/
def Ctx.freeing (c : Ctx) (g : Nat) : Ctx :=
  { c with eng0 := c.eng0.map (fun b => if b.gid = g then { b with freeing := true } else b),
           eng1 := c.eng1.map (fun b => if b.gid = g then { b with freeing := true } else b) }

/-- Threads, stores, copies and the stream of a group are done (R82). -/
def State.groupDone (s : State) (g : Nat) : Bool :=
  s.groups.any (fun x => x.gid == g) &&
  s.threads.all (fun t => t.gid != g || (!t.live && t.loads.isEmpty && t.stores.isEmpty && s.ccOf (t.gid, t.tid) == 0)) &&
  s.tcOf g == 0

/-- Boxes of a group in flight. -/
def State.groupBoxes (s : State) (g : Nat) : Bool := s.locks.any (fun l => l.gid == g && (l.kind matches .box _ _))

/-- An engine of the group unbinds as SEFREE does. -/
def State.unbindOf (s : State) (g : Nat) (e : Bool) : State :=
  let x := s.group g
  match (s.ctx x.core x.part).eng e with
  | some b => if b.gid = g then s.unbind x.core x.part e else s
  | none => s

def State.retire (s : State) (g : Nat) : State :=
  let x := s.group g
  let s := s.updCtx x.core x.part (fun c => c.freeing g)
  let s : State := { s with regQueue := s.regQueue.filter (fun l => l.gid != g) }
  if s.groupBoxes g then s
  else
    let s := (s.unbindOf g false).unbindOf g true
    let s := s.flushCore x.part x.core
    let s := ((s.freeCore g).freeRecords g false).removeGroup g
    let s := match x.cset with
      | none => s
      | some c => s.csetLess c
    s.launchLess x.lid

/-- The group's slice ends now (R394). -/
def Group.sliceEnd (g : Group) (now : Nat) : Group :=
  if hdrDl g.hdr = 0 then { g with current := false, release := now }
  else { g with current := false, release := Nat.max now g.deadline, deadline := g.deadline + hdrDl g.hdr }

/-- Every live thread is yielded or parked, at least one is yielded, and no handler-mode thread is ready (R83); a thread that is held at issue is
neither. -/
def State.yields (s : State) (g : Nat) : Bool :=
  let ts := s.threads.filter (fun t => t.gid == g && t.live)
  ts.any (fun t => t.park == .yielded) && ts.all (fun t => t.park.counts)

/-- The group's next slice begins. -/
def State.sliceBegin (s : State) (g : Nat) : State :=
  let s := s.updGroup g (fun x => { x with current := true, left := hdrBudget x.hdr })
  { s with threads := s.threads.map (fun t => if t.gid = g ∧ t.park = .yielded then { t with park := .ready } else t) }

/-! ### Meanings -/

/-- R408. -/
def execMbwait (g : Guard) (poll : Bool) (bank : BitVec 2) (d : Reg) (b : Src) (s : State) : Host.Outcome State Fault Refusal :=
  .next (s.each g (fun s r => s.mbwait r poll bank.toNat d (s.src64 r b)))

/-- R408; it writes behind its threads' earlier accesses to the 64 bytes (R180). -/
def execMbtake (g : Guard) (d a : Reg) (b : Src) (s : State) : Host.Outcome State Fault Refusal :=
  .next (s.eachAfter g (fun s r => s.trails r (locScratch r.1 (s.src32 r b).toNat) 64) (fun s r => s.mbtake r (s.rd r a).toNat (s.src32 r b).toNat d))

/-- R409: a release, behind what its threads have issued before. -/
def execMbpost (g : Guard) (nosig : Bool) (d a : Reg) (b : Src) (s : State) : Host.Outcome State Fault Refusal :=
  .next (s.eachAfter g State.owes (fun s r => s.mbpost r nosig d a (s.src32 r b).toNat))

/-- R410. -/
def execJnlSeq (g : Guard) (d : Reg) (s : State) : Host.Outcome State Fault Refusal :=
  .next (s.each g (fun s r => s.put64 r d (BitVec.ofNat 64 (s.part (s.partOf r)).jseq)))

/-- R410. -/
def execJnlFail (g : Guard) (d a : Reg) (b : Src) (s : State) : Host.Outcome State Fault Refusal :=
  .next (s.each g (fun s r => s.jnlFail r d (s.rd r a).toNat (s.src32 r b)))

/-- R411: it reads behind its threads' earlier stores, and is a release of all that they have issued before (R275). -/
def execLaunch (g : Guard) (d a : Reg) (b : Src) (s : State) : Host.Outcome State Fault Refusal :=
  .next (s.eachAfter g (fun s r => s.owes r || s.launchHeld r (s.rd64 r a).toNat) (fun s r => s.launch r d (s.rd64 r a) (s.src32 r b)))

/-- R412. -/
def execSliceDl (g : Guard) (d a : Reg) (b : Src) (s : State) : Host.Outcome State Fault Refusal :=
  .next (s.each g (fun s r => s.sliceDl r d (s.rd r a) (s.src64 r b)))

/-- R412. -/
def execSliceKill (g : Guard) (d a : Reg) (s : State) : Host.Outcome State Fault Refusal :=
  .next (s.each g (fun s r => s.sliceKill r d (s.rd r a)))

/-- R413; as LAUNCH, it reads behind its threads' earlier stores. -/
def execNodegoCfg (g : Guard) (d a : Reg) (b : Src) (s : State) : Host.Outcome State Fault Refusal :=
  .next (s.eachAfter g (fun s r => s.owes r || s.tmplHeld r (s.src32 r b).toNat) (fun s r => s.nodegoCfg r d (s.rd r a).toNat (s.src32 r b).toNat))

/-- R413. -/
def execNodegoFlush (g : Guard) (d a : Reg) (s : State) : Host.Outcome State Fault Refusal :=
  .next (s.each g (fun s r => s.nodegoFlush r d (s.rd r a).toNat))

/-- R413. -/
def execNodegoQ (g : Guard) (d a : Reg) (s : State) : Host.Outcome State Fault Refusal :=
  .next (s.each g (fun s r => s.nodegoQ r d (s.rd r a).toNat))

/-- R413. -/
def execNodegoOff (g : Guard) (d a : Reg) (s : State) : Host.Outcome State Fault Refusal :=
  .next (s.each g (fun s r => s.nodegoOff r d (s.rd r a).toNat))

/-- R414. -/
def execAdmitqEnergy (g : Guard) (d a : Reg) (s : State) : Host.Outcome State Fault Refusal :=
  .next (s.each g (fun s r => s.putTwo r d (s.admitEnergy (s.rd r a).toNat)))

/-- R414. -/
def execAdmitqTherm (g : Guard) (d a : Reg) (s : State) : Host.Outcome State Fault Refusal :=
  .next (s.each g (fun s r => s.putTwo r d (s.admitTherm (s.dieOf r) (s.rd r a).toNat)))

/-- R414. -/
def execAdmitqAct (g : Guard) (d a : Reg) (s : State) : Host.Outcome State Fault Refusal :=
  .next (s.each g (fun s r => s.putTwo r d (s.admitAct (s.rd r a).toNat)))

/-- R414. -/
def execAdmitqGate (g : Guard) (d a : Reg) (s : State) : Host.Outcome State Fault Refusal :=
  .next (s.each g (fun s r => s.put64 r d (s.admitGate (s.dieOf r) (s.rd r a).toNat)))

/-- R414. -/
def execAdmitqQueue (g : Guard) (d a : Reg) (s : State) : Host.Outcome State Fault Refusal :=
  .next (s.each g (fun s r => s.putTwo r d (s.admitQueue (s.partOf r) (s.rd r a).toNat)))

/-- R415. -/
def execRecalloc (g : Guard) (d a : Reg) (s : State) : Host.Outcome State Fault Refusal :=
  .next (s.each g (fun s r => s.recalloc r d (s.rd r a).toNat))

/-- R416: a release, behind what its threads have issued before. -/
def execRecemit (g : Guard) (a : Reg) (b : Src) (s : State) : Host.Outcome State Fault Refusal :=
  .next (s.eachAfter g State.owes (fun s r => s.recemit r (s.rd r a) (s.src32 r b).toNat))

/-- R417; it comes after its threads' acquires. -/
def execRecrd (g : Guard) (d : Reg) (b : Src) (s : State) : Host.Outcome State Fault Refusal :=
  .next (s.eachAfter g State.acquires (fun s r => s.recrd r d (s.src32 r b).toNat))

/-- R417. -/
def execRecfin (g : Guard) (s : State) : Host.Outcome State Fault Refusal := .next (s.each g (fun s r => s.dropRecord r))

/-- R405: die a, partition b, node c; THR records are pending, or one is and the node has no producers. -/
def execNodeLaunch (s : State) : Host.Outcome State Fault Refusal :=
  .next (
    match s.node s.arg.a s.arg.b s.arg.c with
    | none => s
    | some n =>
      if n.id ≠ 1022 ∧ n.pending ≠ [] ∧ (nodeThr n.desc ≤ n.pending.length ∨ n.producers = 0) then s.nodeGo n else s)

/-- R405: die a, partition b, node c; AGE cycles have passed since the oldest pending record was published. -/
def execNodeAgeExpiry (s : State) : Host.Outcome State Fault Refusal :=
  .next (
    match s.node s.arg.a s.arg.b s.arg.c with
    | none => s
    | some n =>
      match n.pending with
      | [] => s
      | p :: _ => if n.id ≠ 1022 ∧ nodeAge n.desc ≤ s.dieClk n.die - p.2 then s.nodeGo n else s)

/-- R393: die a, partition b; at most one group or cluster set is placed. -/
def execDispatchPlace (s : State) : Host.Outcome State Fault Refusal :=
  .next (
    if (s.part s.arg.b).contained || (s.part s.arg.b).inReset then s
    else s.placeScan s.arg.a none [] (s.scanOrder s.arg.a s.arg.b))

/-- R82: group a. -/
def execGroupRetire (s : State) : Host.Outcome State Fault Refusal :=
  .next (if s.groupDone s.arg.a then s.retire s.arg.a else s)

/-- R83, R394: group a; a slice whose threads have yielded ends, and the next one begins once its time has come. -/
def execSliceRelease (s : State) : Host.Outcome State Fault Refusal :=
  .next (
    let g := s.arg.a
    let s := if (s.group g).current && s.yields g then s.updGroup g (fun x => x.sliceEnd s.dtb) else s
    if !(s.group g).current && decide ((s.group g).release ≤ s.dtb) then s.sliceBegin g else s)

/-- R396: group a; BUDGET in every wave with a live thread, and the slice ends. -/
def execBudgetExhausted (s : State) : Host.Outcome State Fault Refusal :=
  .next (
    let g := s.arg.a
    let x := s.group g
    if !(x.current && hdrBudget x.hdr != 0 && x.left == 0) then s
    else
      let s : State := { s with waves := s.waves.map (fun w =>
        if w.gid = g ∧ s.threads.any (fun t => t.gid == g && t.live && t.tid / hdrWave x.hdr == w.wid) = true then
          { w with cause := w.cause ||| causeBit causeBudget } else w) }
      s.updGroup g (fun x => x.sliceEnd s.dtb))

/-- R399: core a; a window of 32 cycles begins. A context that is saved away keeps its accumulator (R426, R428). -/
def execActivityWindow (s : State) : Host.Outcome State Fault Refusal :=
  .next { s with ctxs := s.ctxs.map (fun c => if c.core = s.arg.a ∧ s.holds c.core c.part = true then { c with act := c.act - 96 } else c) }

/-- R402: core a; a window of 1,024 cycles begins. -/
def execOccupancyWindow (s : State) : Host.Outcome State Fault Refusal := .next (s.updCore s.arg.a (fun c => { c with occupied := 0 }))

/-- R415, R188: group a, thread b; a wait of more than 2^24 cycles sets RECFULL once, and an enabled cause withdraws the wait. -/
def execRecfullTimeout (s : State) : Host.Outcome State Fault Refusal :=
  .next (
    let r : Ref := (s.arg.a, s.arg.b)
    let t := s.thread r
    if !(t.park matches .record _ _) || t.counted || decide (s.rawClk (s.coreOf r) - t.since ≤ 2 ^ 24) then s
    else
      let s := (s.setCause r causeRecfull).upd r (fun t => { t with counted := true })
      if s.enters r causeRecfull then s.upd r (fun t => { t with park := .ready, pc := t.parkPc }) else s)

end Sys2Proof.Machine
end

