-- ==== Sys2Proof/Machine/Context.lean ====
section
/-! DEFINITION. Meanings of PREEMPT, CTXSV and CTXLD (19): which partition holds which cluster, what a save takes out of the die's tables,
and what a restore brings back. A saved context stays in its own records and does not issue (log entry 21). -/

namespace Sys2Proof.Machine

/-! ### Clusters and holders (R22, R440) -/

/-- The clusters of a mask. -/
def clustersOf (m : Word) : List Nat := (List.range 16).filter (fun c => m.getLsbD c)

def State.holderOf (s : State) (c : Nat) : Option Nat := (s.held.find? (fun h => h.1 == c)).map (fun h => h.2)

/-- The one partition that holds every cluster of a mask. -/
def State.commonHolder (s : State) (m : Word) : Option Nat :=
  match clustersOf m with
  | [] => none
  | c :: cs =>
    match s.holderOf c with
    | none => none
    | some h => if cs.all (fun x => s.holderOf x == some h) then some h else none

def Part.owns (p : Part) (m : Word) : Bool := (clustersOf m).all (fun c => p.clusters.getLsbD c)

/-- The partition has a saved context on every cluster of a mask. -/
def Part.savedOn (p : Part) (m : Word) : Bool := (clustersOf m).all (fun c => p.saved.any (fun e => e.clusters.getLsbD c))

/-- The clusters of a mask on a die. -/
def dieMask (m : Word) (d : Nat) : BitVec 16 := m.setWidth 16 &&& (if d = 0 then 0x00FF#16 else 0xFF00#16)

/-- The shadow store of a die takes a save: it is free, or it holds exactly the context that is being restored. -/
def State.shadowFree (s : State) (d q : Nat) (restore : Bool) (m : Word) : Bool :=
  s.parts.all (fun p => p.saved.all (fun e =>
    e.place != 0 || e.clusters &&& (if d = 0 then 0x00FF#16 else 0xFF00#16) == 0 ||
    (restore && p.part == q && e.clusters == dieMask m d)))

/-- The slot of a partition in LPDDR 6 holds no context. -/
def State.slotFree (s : State) (h : Nat) : Bool := (s.part h).saved.all (fun e => e.place != 1)

/-- Where the save of a die's part goes: 0 the shadow store, 1 the slot. -/
def State.savePlace (s : State) (d h q : Nat) (restore : Bool) (m : Word) : Option Nat :=
  if s.shadowFree d q restore m then some 0 else if s.slotFree h then some 1 else none

/-- The dies on which a mask has clusters. -/
def diesOf (m : Word) : List Nat := [0, 1].filter (fun d => dieMask m d != 0)

/-- The status, the lowest that applies; op is 0 for PREEMPT, 1 for CTXSV, 2 for CTXLD. -/
def State.ctxStatus (s : State) (own op : Nat) (q b : Word) : Nat :=
  let m := b &&& 0xFFFF
  let holder := s.commonHolder m
  if 3 < q.toNat ∨ b >>> 16 ≠ 0 ∨ m = 0 then 1
  else if !((s.part own).owns m) || (op != 1 && !((s.part q.toNat).owns m)) then 2
  else if (op = 0 ∧ (holder = none ∨ holder = some q.toNat)) ∨ (op = 1 ∧ holder = none) ∨
      (op = 2 ∧ ((clustersOf m).any (fun c => (s.holderOf c).isSome) || !((s.part q.toNat).savedOn m)) = true) then 3
  else if op ≠ 2 ∧ (diesOf m).any (fun d => (s.savePlace d (holder.getD 0) q.toNat (op == 0) m).isNone) = true then 4
  else 0

/-! ### Save (R426) -/

/-- A group of the partition stands on a cluster of the mask. -/
def Group.within (g : Group) (h : Nat) (m : Word) : Bool := g.part == h && !isControl g.core && m.getLsbD (clusterOfCore g.core)

/-- Outstanding loads, stores and atomics are complete, no bundle is held at its instruction, and the instructions that run to completion have done
so (R426 step 2). -/
def State.atRest (s : State) (h : Nat) (m : Word) : Bool :=
  s.waiting.all (fun b => b.refs.all (fun r => !((s.group r.1).within h m))) &&
  s.threads.all (fun t =>
    !((s.group t.gid).within h m) ||
    (t.loads.isEmpty && t.stores.isEmpty &&
      !(t.park matches .domset _ | .laydivw _ | .pgmap _ _ _ _ | .pgunmap _ _ | .pgunmapped _ _)))

/-- A command as it is saved: a ladder pass starts over, an MLDW fetch in flight is discarded (R307, R321). -/
def WinCmd.stopped (c : WinCmd) : WinCmd :=
  { c with rows := if c.prog.isSome then 0 else c.rows, fetched := if c.issued then c.fetched else none }

/-- An entry that belongs to the saved context: a copy, a box or a ROWPUT. -/
def LockOp.saves (l : LockOp) (h : Nat) (m : Word) : Bool :=
  l.part == h && !isControl l.core && m.getLsbD (clusterOfCore l.core) &&
  (l.recorded || (l.kind matches .rowput _ _))

/-- The engine operations of the context stop at a 64-byte boundary of their destination (R426 step 3, R238). -/
def State.stopOps (s : State) (h : Nat) (m : Word) : State :=
  (s.locks.filter (fun l => l.saves h m)).foldl (fun s l =>
    let x := s.opStopped l
    { x.1 with locks := x.1.locks.map (fun y => if y.id = l.id then x.2 else y) }) s

/-- The context of partition h on the clusters of m is saved, with the stop records of its operations; a meeting is saved held. q and
`restore` say where it goes. -/
def State.save (s : State) (h q : Nat) (restore : Bool) (m : Word) : State :=
  let s := s.stopOps h m
  let gone := s.locks.filter (fun l => l.saves h m)
  let recs := (diesOf m).map (fun d =>
    ({ clusters := dieMask m d, place := (s.savePlace d h q restore m).getD 0, time := s.dieClk d,
       stops := s.stopsOf h (fun n => !isControl n && (dieMask m d).getLsbD (clusterOfCore n)) } : Saved))
  let s : State := { s with
    held := s.held.filter (fun x => !(m.getLsbD x.1)),
    locks := s.locks.filter (fun l => !(l.saves h m)),
    regQueue := s.regQueue ++ gone.map (fun l => { l with again := true }),
    groups := s.groups.map (fun g =>
      if g.within h m then
        { g with stream := g.stream.map (fun x => { x with window := x.window.map WinCmd.stopped }) }
      else g),
    threads := s.threads.map (fun t => if (s.group t.gid).within h m then { t with formed := none } else t) }
  s.updPart h (fun p => { p with saved := p.saved ++ recs })

/-! ### Restore (R426, R238) -/

/-- Time that a saved core spent away. -/
def State.away (s : State) (q core : Nat) : Nat :=
  match (s.part q).saved.find? (fun e => e.clusters.getLsbD (clusterOfCore core)) with
  | some e => s.dieClk (dieOfCore core) - e.time
  | none => 0

/-- A saved record less the clusters restored. -/
def Saved.less (e : Saved) (m : Word) : Saved := { e with clusters := e.clusters &&& ~~~(m.setWidth 16) }

/-- Partition q holds the clusters of m; its context there, if any, comes back: its entries are registered again after those that wait, and
before copies that it held at issue (R238); its wait counts stand where they stood (R188). -/
def State.restore (s : State) (q : Nat) (m : Word) : State :=
  let mine := fun (l : LockOp) => l.part == q && !isControl l.core && m.getLsbD (clusterOfCore l.core)
  let t : State := { s with
    held := s.held ++ (clustersOf m).map (fun c => (c, q)),
    regQueue := s.regQueue.filter (fun l => !(mine l)) ++ s.regQueue.filter (fun l => mine l && l.again) ++
      s.regQueue.filter (fun l => mine l && !l.again),
    threads := s.threads.map (fun t =>
      if (s.group t.gid).within q m then { t with line := none, since := t.since + s.away q (s.group t.gid).core } else t),
    groups := s.groups.map (fun g => if g.within q m then { g with stream := g.stream.map (fun x => x.standLater (s.away q g.core)) } else g) }
  t.updPart q (fun p => { p with saved := (p.saved.map (fun e => e.less m)).filter (fun e => e.clusters != 0) })

/-! ### The three instructions -/

/-- Containment runs in a partition involved. -/
def State.ctxHalted (s : State) (own op : Nat) (q b : Word) : Bool :=
  let h := s.commonHolder (b &&& 0xFFFF)
  (s.part own).contained || (op != 1 && (s.part q.toNat).contained) ||
  (match h with | some h => (s.part h).contained | none => false)

/-- A context move is tried: its status once it can be given. -/
def State.ctxTry (s : State) (r : Ref) (op : Nat) (d : Reg) (q b : Word) : Option State :=
  let own := s.partOf r
  let m := b &&& 0xFFFF
  let st := s.ctxStatus own op q b
  if s.ctxHalted own op q b then none
  else if st ≠ 0 then some ((s.wake r).put r d (BitVec.ofNat 32 st))
  else
    match op, s.commonHolder m with
    | 2, _ => some (((s.wake r).put r d 0).restore q.toNat m)
    | 0, some h =>
      if s.atRest h m then some ((((s.wake r).put r d 0).save h q.toNat true m).restore q.toNat m) else none
    | _, some h => if s.atRest h m then some (((s.wake r).put r d 0).save h q.toNat false m) else none
    | _, none => none

/-- PREEMPT, CTXSV and CTXLD: the thread parks until the move is complete (R440). -/
def State.ctxMove (s : State) (r : Ref) (op : Nat) (d a : Reg) (b : Src) : State :=
  let q := s.rd r a
  let m := s.src32 r b
  let s := s.parkAs r (.ctx op d q m)
  match s.ctxTry r op d q m with
  | some s => s
  | none => s

/-- R440. -/
def execPreempt (g : Guard) (d a : Reg) (b : Src) (s : State) : Host.Outcome State Fault Refusal :=
  .next (s.each g (fun s r => s.ctxMove r 0 d a b))

/-- R440. -/
def execCtxsv (g : Guard) (d a : Reg) (b : Src) (s : State) : Host.Outcome State Fault Refusal :=
  .next (s.each g (fun s r => s.ctxMove r 1 d a b))

/-- R440. -/
def execCtxld (g : Guard) (d a : Reg) (b : Src) (s : State) : Host.Outcome State Fault Refusal :=
  .next (s.each g (fun s r => s.ctxMove r 2 d a b))

end Sys2Proof.Machine
end

