-- ==== Sys2Proof/Machine/Control.lean ====
section
/-! DEFINITION. Meanings of the control and issue instructions (03). -/

namespace Sys2Proof.Machine

/-! ### Control transfers (R72, R73, R77 to R79) -/

/-- A transfer to `pc` under the checks of R72. `ok` is what else the instruction does when the transfer takes effect. -/
def State.transfer (s : State) (r : Ref) (pc : DWord) (ok : State → State) : State :=
  match s.target (s.partOf r) (s.coreOf r) pc true with
  | (.refuse c, s) => s.fail r c
  | (.parity, s) => (s.upd r (fun t => t.goto s.bnd.pc)).raiseHalt (s.partOf r) 3 (s.coreOf r) r.1
  | (.taken u bad, s) =>
    let s := (ok s).upd r (fun t => { t with pc := pc, line := some u })
    if bad then s.note r causeIllegal else s

/-- A displacement in slots from the issuing instruction's address (R77). -/
def dispBytes : Disp → DWord
  | .short d => d.signExtend 64 <<< 2
  | .long d => d.signExtend 64 <<< 2

/-- b of BRX and CALLX in slots (R78). -/
def State.brxB (s : State) (r : Ref) (b : Src) : DWord :=
  match b with
  | .v n => sext64 (s.rd r n)
  | .g n => s.greg r.1 n
  | .imm k => k.signExtend 64
  | .lit w => w.signExtend 64

/-- Offset of call-stack entry n in the lane-memory slice (R73). -/
def callSlot (lane n : Nat) : Nat := lane - 8 * (n + 1)

/-- The location of entry n of a thread's call stack (R73). -/
def State.entryLoc (s : State) (r : Ref) (n : Nat) : Nat := locLane r.1 r.2 (callSlot (hdrLane (s.group r.1).hdr) n)

/-- The push of CALL: the address of the following instruction (R77). -/
def State.push (s : State) (r : Ref) : State :=
  ({ s with mem := s.mem.writeN (s.entryLoc r (s.thread r).depth) (toBytes 8 s.bnd.npc.toNat) } : State).upd r
    (fun t => { t with depth := t.depth + 1 })

/-- CALL and CALLX to a target (R77). -/
def State.callTo (s : State) (r : Ref) (pc : DWord) : State :=
  if hdrLane (s.group r.1).hdr < 8 * ((s.thread r).depth + 1) then s.fail r causeStack
  else s.transfer r pc (fun s => s.push r)

/-- The address in the newest entry of the call stack (R79). -/
def State.retPc (s : State) (r : Ref) : DWord := BitVec.ofNat 64 (ofBytes (s.mem.readN (s.entryLoc r ((s.thread r).depth - 1)) 8))

/-- RET (R79). -/
def State.ret (s : State) (r : Ref) : State :=
  if (s.thread r).depth = 0 then s.fail r causeStack
  else s.transfer r (s.retPc r) (fun s => s.upd r (fun t => { t with depth := t.depth - 1 }))

/-- A transfer waits for the line of its target (R20, R208). -/
def State.targetHeld (s : State) (r : Ref) (pc : DWord) : Bool := s.fetchHeld (s.partOf r) (s.coreOf r) pc.toNat

/-- CALL waits for the thread's own operations on the entry that it pushes, and RET for those on the entry that it pops (R73, R180). -/
def State.callHeld (s : State) (r : Ref) (pc : DWord) : Bool := s.trails r (s.entryLoc r (s.thread r).depth) 8 || s.targetHeld r pc
def State.retHeld (s : State) (r : Ref) : Bool :=
  s.trails r (s.entryLoc r ((s.thread r).depth - 1)) 8 || s.targetHeld r (s.retPc r)

/-- The target of a transfer by a displacement, and of one by an address pair (R77, R78). -/
def State.nearPc (s : State) (d : Disp) : DWord := s.bnd.pc + dispBytes d
def State.farPc (s : State) (r : Ref) (a : Reg) (b : Src) : DWord := s.rd64 r a + (s.brxB r b <<< 2)

/-! ### Waiting (R83 to R85) -/

/-- The limits of WAIT hold (R84). -/
def State.waitMet (s : State) (r : Ref) (l sc c t : Nat) : Bool :=
  decide (s.lcOf r ≤ l) && decide (s.scOf r ≤ sc) && decide (s.ccOf r ≤ c) && decide (s.tcOf r.1 ≤ t)

def State.waitOn (s : State) (r : Ref) (l sc c t : Nat) : State :=
  if s.waitMet r l sc c t then s else s.parkAs r (.wait l sc c t)

/-- Park until the timebase reaches a wake time (R85). -/
def State.sleepTo (s : State) (r : Ref) (wake : Nat) : State := if wake ≤ s.dtb then s else s.parkAs r (.sleep wake)

/-! ### Meanings -/

/-- R77, R47. -/
def execBraCompact (d : BitVec 24) (s : State) : Host.Outcome State Fault Refusal :=
  .next (s.eachAfter .always (fun s r => s.targetHeld r (s.nearPc (.short d))) (fun s r => s.transfer r (s.nearPc (.short d)) (fun s => s)))

/-- R77. -/
def execBra (g : Guard) (d : Disp) (s : State) : Host.Outcome State Fault Refusal :=
  .next (s.eachAfter g (fun s r => s.targetHeld r (s.nearPc d)) (fun s r => s.transfer r (s.nearPc d) (fun s => s)))

/-- R78. -/
def execBrx (g : Guard) (a : Reg) (b : Src) (s : State) : Host.Outcome State Fault Refusal :=
  .next (s.eachAfter g (fun s r => s.targetHeld r (s.farPc r a b)) (fun s r => s.transfer r (s.farPc r a b) (fun s => s)))

/-- R77, R47. -/
def execCallCompact (d : BitVec 24) (s : State) : Host.Outcome State Fault Refusal :=
  .next (s.eachAfter .always (fun s r => s.callHeld r (s.nearPc (.short d))) (fun s r => s.callTo r (s.nearPc (.short d))))

/-- R77. -/
def execCall (g : Guard) (d : Disp) (s : State) : Host.Outcome State Fault Refusal :=
  .next (s.eachAfter g (fun s r => s.callHeld r (s.nearPc d)) (fun s r => s.callTo r (s.nearPc d)))

/-- R78. -/
def execCallx (g : Guard) (a : Reg) (b : Src) (s : State) : Host.Outcome State Fault Refusal :=
  .next (s.eachAfter g (fun s r => s.callHeld r (s.farPc r a b)) (fun s r => s.callTo r (s.farPc r a b)))

/-- R79. -/
def execRet (g : Guard) (s : State) : Host.Outcome State Fault Refusal := .next (s.eachAfter g State.retHeld (fun s r => s.ret r))

/-- R80. -/
def execNopCompact (s : State) : Host.Outcome State Fault Refusal := .next (s.each .always (fun s _ => s))

/-- R80: the literal is ignored. -/
def execNop (g : Guard) (_l : Option (BitVec 32)) (s : State) : Host.Outcome State Fault Refusal :=
  .next (s.each g (fun s _ => s))

/-- R81. -/
def execExit (g : Guard) (s : State) : Host.Outcome State Fault Refusal :=
  .next (s.each g (fun s r => s.endThread r))

/-- R83: a NOP in handler mode and without a slice budget. -/
def execYield (g : Guard) (s : State) : Host.Outcome State Fault Refusal :=
  .next (s.each g (fun s r =>
    if (s.thread r).handler || hdrBudget (s.group r.1).hdr == 0 then s else s.parkAs r .yielded))

/-- R84, R47. -/
def execWaitCompact (l sc c t : BitVec 6) (s : State) : Host.Outcome State Fault Refusal :=
  .next (s.each .always (fun s r => s.waitOn r l.toNat sc.toNat c.toNat t.toNat))

/-- R84. -/
def execWait (g : Guard) (l sc c t : BitVec 6) (s : State) : Host.Outcome State Fault Refusal :=
  .next (s.each g (fun s r => s.waitOn r l.toNat sc.toNat c.toNat t.toNat))

/-- R85, relative. -/
def execSleep (g : Guard) (b : Src) (s : State) : Host.Outcome State Fault Refusal :=
  .next (s.each g (fun s r => s.sleepTo r (s.dtb + (s.src32 r b).toNat)))

/-- R85, absolute. -/
def execSleepAbs (g : Guard) (a : Reg) (s : State) : Host.Outcome State Fault Refusal :=
  .next (s.each g (fun s r => s.sleepTo r (s.rd64 r a).toNat))

end Sys2Proof.Machine
end

