-- ==== Sys2Proof/Machine/CrossLane.lean ====
section
/-! DEFINITION. Meanings of the cross-lane instructions (07). Issued in an ordinary bundle, the instruction only holds its threads for
a meeting (R155); issued as a formed meeting, it takes effect for all present threads on the values they hold then (R156, R159). -/

namespace Sys2Proof.Machine

/-! ### Masks and meetings -/

/-- Lanes that the launch started in a wave (R58, R154). -/
def State.started (s : State) (g w : Nat) : DWord :=
  (s.threads.filter (fun t => t.gid == g && s.widOf (g, t.tid) == w)).foldl
    (fun m t => m ||| BitVec.ofNat 64 (2 ^ s.laneOf (g, t.tid))) 0

def laneBit (l : Nat) : DWord := BitVec.ofNat 64 (2 ^ l)

/-- The effective mask of a thread (R154). -/
def State.effMask (s : State) (r : Ref) (m : Mask) : DWord :=
  let base :=
    match m with
    | .full => s.started r.1 (s.widOf r)
    | .pair c => s.rd64 r c
  (base &&& BitVec.ofNat 64 (2 ^ s.waveW r.1 - 1)) ||| laneBit (s.laneOf r)

/-- The threads of the bundle are held with their effective masks, the guarded-off ones too (R155, R157). -/
def State.gather (s : State) (m : Mask) : State :=
  s.bnd.refs.foldl (fun s r => s.upd r (fun t => { t with meet := some (s.effMask r m), formed := none })) s

/-- One present thread leaves the meeting; where its guard holds the effect follows, on the values of the state before. -/
def State.attend (old : State) (g : Guard) (f : State → Ref → State → State) (s : State) (r : Ref) : State :=
  let s := s.upd r (fun t => { t with pc := s.bnd.npc, meet := none, formed := none })
  if guardHolds g (old.thread r) then f old r s else s

/-- A cross-lane instruction: it gathers, or as a formed meeting performs `f` for every present thread and sets MEETPART once where
the meeting found the state that R155 marks (R158). -/
def State.cross (s : State) (m : Mask) (g : Guard) (f : State → Ref → State → State) : State :=
  match s.bnd.meeting with
  | none => s.gather m
  | some part =>
    let t := s.bnd.refs.foldl (State.attend s g f) s
    if part then
      match s.bnd.refs with
      | r :: _ => t.setCause r causeMeetpart
      | [] => t
    else t

/-- The voters: present, named and guard-true (R164). -/
def State.voters (s : State) (g : Guard) : List Ref := s.bnd.refs.filter (fun r => guardHolds g (s.thread r))

/-- The voter at a lane. -/
def State.voterAt (s : State) (g : Guard) (l : Nat) : Option Ref := (s.voters g).find? (fun r => s.laneOf r == l)

/-- The mask of the meeting. -/
def State.metMask (s : State) : DWord :=
  match s.bnd.refs with
  | r :: _ => (s.thread r).meet.getD 0
  | [] => 0

def lanesWhere (p : Nat → Bool) : DWord := (List.range 64).foldl (fun m l => if p l then m ||| laneBit l else m) 0

/-! ### Exchange (R163) -/

/-- The lane that a reader at lane l takes its value from. -/
def xchLane (mode : XMode) (wrap : Bool) (w l k : Nat) : Option Nat :=
  let j : Int :=
    match mode with
    | .idx => k
    | .up => (l : Int) - k
    | .down => (l : Int) + k
    | .xor => (l ^^^ k : Nat)
  if j < 0 ∨ (w : Int) ≤ j then (if wrap then some (j % (w : Int)).toNat else none) else some j.toNat

/-! ### The reduction tree (R165) -/

/-- Combines of the tree with the flags that they raise. -/
def redOp (op : ROp) (ty : RTy) (x y : Word) : Word × Fl :=
  match op, ty with
  | .add, .f32 => toWord (addF fmtF32 .rne false false false x.toNat y.toNat)
  | .add, _ => (x + y, 0)
  | .min, .f32 => toWord (minmaxF fmtF32 false false false false x.toNat y.toNat)
  | .min, .i32 => (if x.toInt ≤ y.toInt then x else y, 0)
  | .min, .n32 => (if x.toNat ≤ y.toNat then x else y, 0)
  | .max, .f32 => toWord (minmaxF fmtF32 true false false false x.toNat y.toNat)
  | .max, .i32 => (if x.toInt ≤ y.toInt then y else x, 0)
  | .max, .n32 => (if x.toNat ≤ y.toNat then y else x, 0)
  | .and, _ => (x &&& y, 0)
  | .or, _ => (x ||| y, 0)
  | .xor, _ => (x ^^^ y, 0)

def redJoin (op : ROp) (ty : RTy) (x y : Option (Word × Fl)) : Option (Word × Fl) :=
  match x, y with
  | none, y => y
  | x, none => x
  | some (a, f), some (b, h) =>
    let (z, k) := redOp op ty a b
    some (z, f ||| h ||| k)

/-- The tree over lanes lo to lo + 2^k − 1; `none` is EMPTY. -/
def redTree (op : ROp) (ty : RTy) (leaf : Nat → Option Word) : Nat → Nat → Option (Word × Fl)
  | 0, lo => (leaf lo).map (fun w => (w, 0))
  | k + 1, lo => redJoin op ty (redTree op ty leaf k lo) (redTree op ty leaf k (lo + 2 ^ k))

/-- The identities of R167. -/
def redIdent : ROp → RTy → Word
  | .min, .i32 => 0x7FFFFFFF
  | .min, .n32 => 0xFFFFFFFF
  | .min, .f32 => 0x7F800000
  | .max, .i32 => 0x80000000
  | .max, .f32 => 0xFF800000
  | .and, _ => 0xFFFFFFFF
  | _, _ => 0

/-- The fold of R167 over block sizes 2^k down to 1: the accumulated prefix from lane lo. -/
def scanFold (op : ROp) (ty : RTy) (leaf : Nat → Option Word) (m : Nat) : Nat → Nat → Option (Word × Fl) → Option (Word × Fl)
  | 0, _, acc => acc
  | k + 1, lo, acc =>
    if m.testBit k then scanFold op ty leaf m k (lo + 2 ^ k) (redJoin op ty acc (redTree op ty leaf k lo))
    else scanFold op ty leaf m k lo acc

/-- The contributing value of a lane (R165). -/
def State.leafOfLane (s : State) (g : Guard) (a : Reg) (l : Nat) : Option Word := (s.voterAt g l).map (fun r => s.rd r a)

/-! ### Meanings -/

/-- R163. -/
def execLxch (g : Guard) (mode : XMode) (wrap x64 : Bool) (m : Mask) (d a : Reg) (b : Src) (s : State) :
    Host.Outcome State Fault Refusal :=
  .next (s.cross m g (fun old r s =>
    let v :=
      match xchLane mode wrap (old.waveW r.1) (old.laneOf r) (old.src32 r b).toNat with
      | some j => ((old.voterAt g j).map (fun q => old.rdW q x64 a)).getD 0
      | none => 0
    s.putW r x64 d v))

/-- R164. -/
def execLvoteAny (g : Guard) (m : Mask) (pd pa : BitVec 3) (s : State) : Host.Outcome State Fault Refusal :=
  .next (s.cross m g (fun old r s => s.putPred r pd ((old.voters g).any (fun q => old.pr q pa))))

/-- R164. -/
def execLvoteAll (g : Guard) (m : Mask) (pd pa : BitVec 3) (s : State) : Host.Outcome State Fault Refusal :=
  .next (s.cross m g (fun old r s =>
    s.putPred r pd ((List.range 64).all (fun l =>
      !old.metMask.getLsbD l || (match old.voterAt g l with | some q => old.pr q pa | none => false)))))

/-- R164. -/
def execLvoteBal (g : Guard) (m : Mask) (d : Reg) (pa : BitVec 3) (s : State) : Host.Outcome State Fault Refusal :=
  .next (s.cross m g (fun old r s =>
    s.put64 r d (lanesWhere (fun l => match old.voterAt g l with | some q => old.pr q pa | none => false))))

/-- R164. -/
def execLmatch (g : Guard) (x64 : Bool) (m : Mask) (d a : Reg) (s : State) : Host.Outcome State Fault Refusal :=
  .next (s.cross m g (fun old r s =>
    s.put64 r d (lanesWhere (fun l => match old.voterAt g l with | some q => old.rdW q x64 a == old.rdW r x64 a | none => false))))

/-- R164: the voter of lowest virtual lane. -/
def execLelect (g : Guard) (m : Mask) (pd : BitVec 3) (s : State) : Host.Outcome State Fault Refusal :=
  .next (s.cross m g (fun old r s => s.putPred r pd ((old.voters g).all (fun q => decide (old.laneOf r ≤ old.laneOf q)))))

/-- R166. -/
def execLred (g : Guard) (op : ROp) (ty : RTy) (m : Mask) (d a : Reg) (s : State) : Host.Outcome State Fault Refusal :=
  .next (s.cross m g (fun old r s => s.putF r d ((redTree op ty (old.leafOfLane g a) 6 0).getD (redIdent op ty, 0))))

/-- R167. -/
def execLscan (g : Guard) (op : ROp) (ty : RTy) (exc : Bool) (m : Mask) (d a : Reg) (s : State) :
    Host.Outcome State Fault Refusal :=
  .next (s.cross m g (fun old r s =>
    s.putF r d ((scanFold op ty (old.leafOfLane g a) (old.laneOf r + (if exc then 0 else 1)) 6 0 none).getD (redIdent op ty, 0))))

end Sys2Proof.Machine
end

