-- ==== Sys2Proof/Machine/Curve.lean ====
section
/-! DEFINITION. Meanings of the curve node's instructions (17, R375 to R381), and the events that add a segment and close a path. A
parameter is a multiple of 2^-62; every contribution is formed exactly and rounded once to 2^-16. -/

namespace Sys2Proof.Machine

/-! ### Polynomials with integer coefficients, lowest first -/

/-- The coefficients of a coordinate in units of 2^-8 (R376). -/
def curvePoly (kind : CKind) (p : Nat → Int) : List Int :=
  match kind with
  | .line => [p 0, p 1 - p 0]
  | .quad => [p 0, 2 * (p 1 - p 0), p 0 - 2 * p 1 + p 2]
  | .cubic => [p 0, 3 * (p 1 - p 0), 3 * (p 0 - 2 * p 1 + p 2), p 3 - 3 * p 2 + 3 * p 1 - p 0]

/-- Leading zeros dropped, down to a constant (R377). -/
def polyTrim (cs : List Int) : List Int :=
  match cs.reverse.dropWhile (· == 0) with
  | [] => [0]
  | r => r.reverse

/-- The sum of cₖ·Tᵏ·D^(n−k): the value at T/D times D^n, where n is the degree. -/
def polyAt (cs : List Int) (T D : Int) : Int :=
  (cs.zipIdx.map (fun c => c.1 * T ^ c.2 * D ^ (cs.length - 1 - c.2))).foldl (· + ·) 0

def polyDer (cs : List Int) : List Int := (cs.zipIdx.map (fun c => c.1 * (c.2 : Int))).drop 1

def polyMul (a b : List Int) : List Int :=
  (List.range (a.length + b.length - 1)).map (fun k =>
    ((List.range (k + 1)).map (fun i => a.getD i 0 * b.getD (k - i) 0)).foldl (· + ·) 0)

/-- Parameter 1. -/
def tOne : Nat := 2 ^ 62

/-- The least U from lo on, up to 2^fuel beyond, at which p holds; p is monotone. -/
def leastU (p : Nat → Bool) (lo : Nat) : Nat → Nat
  | 0 => if p lo then lo else lo + 1
  | k + 1 => if p (lo + 2 ^ k - 1) then leastU p lo k else leastU p (lo + 2 ^ k) k

/-- The multiple of 2^-62 nearest to a root: U is the least number of half units at or beyond it; a tie goes to the even one. -/
def nearT (U : Nat) (exact : Bool) : Nat := if U % 2 = 1 ∧ exact = true ∧ U / 2 % 2 = 1 then U / 2 + 1 else U / 2

/-- The value of a polynomial at U half units, up to a positive factor. -/
def polyHalf (cs : List Int) (U : Nat) : Int := polyAt cs U (2 ^ 63)

/-! ### Splitting (R377) -/

/-- Interior roots of a polynomial of degree 1 or 2, each a multiple of 2^-62. -/
def polyRoots (cs : List Int) : List Nat :=
  match polyTrim cs with
  | [c, b] =>
    let s : Int := if b < 0 then -1 else 1
    let v := fun (U : Nat) => s * polyHalf [c, b] U
    if v 0 < 0 ∧ 0 < v (2 ^ 63) then
      let U := leastU (fun U => decide (0 ≤ v U)) 0 63
      [nearT U (v U == 0)]
    else []
  | [c, b, a] =>
    let s : Int := if a < 0 then -1 else 1
    let v := fun (U : Nat) => s * polyHalf [c, b, a] U
    let past := fun (U : Nat) => decide (0 ≤ 2 * (s * a) * U + s * b * 2 ^ 63)
    if b * b - 4 * a * c < 0 then []
    else
      let p1 := fun (U : Nat) => decide (v U ≤ 0) || past U
      let p2 := fun (U : Nat) => decide (0 ≤ v U) && past U
      let root := fun (p : Nat → Bool) (inside : Bool) =>
        if inside then (let U := leastU p 0 63; [nearT U (v U == 0)]) else []
      let two := decide (0 < b * b - 4 * a * c)
      let in1 := !(p1 0) && p1 (2 ^ 63) && !(v (2 ^ 63) == 0 && !(past (2 ^ 63) && two))
      let in2 := two && !(p2 0) && p2 (2 ^ 63) && decide (0 < v (2 ^ 63))
      root p1 in1 ++ root p2 in2
  | _ => []

/-- Cells that a piece crosses. -/
def cellOf (cs : List Int) (T : Nat) : Int := polyAt cs T tOne / (256 * (tOne : Int) ^ (cs.length - 1))
def cellsOf (x y : List Int) (a b : Nat) : Nat :=
  1 + (cellOf x b - cellOf x a).natAbs + (cellOf y b - cellOf y a).natAbs

/-- The parameter midpoint as a multiple of 2^-62, ties to even. -/
def midT (a b : Nat) : Nat := let m := (a + b) / 2; if (a + b) % 2 = 1 ∧ m % 2 = 1 then m + 1 else m

/-- Split a piece until no part of it crosses more than 4,096 cells: the inner parameters, in order. -/
def halve (x y : List Int) (a b : Nat) : Nat → List Nat
  | 0 => []
  | fuel + 1 =>
    let m := midT a b
    if cellsOf x y a b ≤ 4096 ∨ m = a ∨ m = b then [] else halve x y a m fuel ++ [m] ++ halve x y m b fuel

/-- Cuts of a monotone piece where a coordinate is an integer; beyond the piece the polynomial may turn. -/
def crossings (cs : List Int) (a b : Nat) : List Nat :=
  let den : Int := 256 * (tOne : Int) ^ (cs.length - 1)
  let va := polyAt cs a tOne
  let vb := polyAt cs b tOne
  let up := decide (va < vb)
  let lo := (min va vb) / den + 1
  let hi := -((-(max va vb)) / den) - 1
  (List.range (hi - lo + 1).toNat).map (fun (k : Nat) =>
    let n := lo + (k : Int)
    let v := fun (U : Nat) => polyHalf (match cs with | c :: r => (c - 256 * n) :: r | [] => []) U
    let U := leastU (fun U => decide (2 * b ≤ U) || (if up then decide (0 ≤ v U) else decide (v U ≤ 0))) (2 * a) 63
    Nat.max a (Nat.min b (nearT U (v U == 0))))

/-- The parameters of a list in order, each clamped between 0 and 1. -/
def insertT (x : Nat) : List Nat → List Nat
  | [] => [x]
  | y :: ys => if x < y then x :: y :: ys else if x = y then y :: ys else y :: insertT x ys

/-- Neighbours in a list. -/
def steps : List Nat → List (Nat × Nat)
  | a :: b :: rest => (a, b) :: steps (b :: rest)
  | _ => []

/-- The end parameters of the subpieces of a segment. -/
def subpieces (x y : List Int) : List (Nat × Nat) :=
  let ext := (polyRoots (polyDer x) ++ polyRoots (polyDer y)).foldl (fun l t => insertT (Nat.min t tOne) l) [0, tOne]
  let split := (steps ext).foldl (fun l p => (halve x y p.1 p.2 64).foldl (fun l t => insertT t l) l) ext
  let cuts := (steps split).foldl
    (fun l p => (crossings x p.1 p.2 ++ crossings y p.1 p.2).foldl (fun l t => insertT t l) l) split
  steps cuts

/-! ### Contributions (R378) -/

/-- Nearest integer, ties to even. -/
def roundEven (n : Int) (d : Nat) : Int :=
  let q := n / d
  let r := n % d
  if d < 2 * r ∨ (2 * r = d ∧ q % 2 = 1) then q + 1 else q

/-- The integral of a polynomial between two parameters, times 60·2^(62·N) with N its number of coefficients. -/
def polyInt60 (cs : List Int) (a b : Nat) : Int :=
  let anti := 0 :: cs.zipIdx.map (fun c => c.1 * (60 / ((c.2 : Int) + 1)))
  polyAt anti b tOne - polyAt anti a tOne

/-- What a subpiece adds: row, column, area and cover in units of 2^-16. -/
def contribution (x y : List Int) (w h : Nat) (a b : Nat) : Option (Nat × Nat × Int × Int) :=
  let ux : Int := 256 * (2 ^ 63 : Int) ^ (x.length - 1)
  let uy : Int := 256 * (2 ^ 63 : Int) ^ (y.length - 1)
  let i := polyHalf x (a + b) / ux
  let j := polyHalf y (a + b) / uy
  if j < 0 ∨ (h : Int) ≤ j ∨ (w : Int) ≤ i then none
  else
    let cover := roundEven (256 * (polyAt y b tOne - polyAt y a tOne)) (tOne ^ (y.length - 1))
    if i < 0 then some (j.toNat, 0, cover, cover)
    else
      let f := match x with
        | c :: r => (256 * (i + 1) - c) :: r.map (fun v => -v)
        | [] => []
      let g := polyMul f (match polyDer y with | [] => [0] | l => l)
      some (j.toNat, i.toNat, roundEven (polyInt60 g a b) (60 * tOne ^ g.length), cover)

/-! ### The path slots (R375, R376, R380) -/

def pathCbase (w : List Word) : Nat := bitsOf (hdrW w 0) 23 0
def pathH (w : List Word) : Nat := bitsOf (hdrW w 1) 31 16
def pathW (w : List Word) : Nat := bitsOf (hdrW w 1) 15 0

def pathFields (w : List Word) : Bool :=
  bitsOf (hdrW w 0) 31 24 == 0 && pathCbase w % 8 == 0 && decide (1 ≤ pathH w) && decide (pathH w ≤ 4096) && decide (1 ≤ pathW w) &&
  decide (pathW w ≤ 4096) && (List.range 6).all (fun i => hdrW w (2 + i) == 0)

def pathBytes (w : List Word) : Nat := 8 * (pathW w * pathH w)

def Die.path (d : Die) (n : Nat) : Option PathSlot := d.paths.find? (fun w => w.n == n)
def Die.pathBy (d : Die) (lock : Nat) : Option PathSlot := d.paths.find? (fun w => w.lock == lock)

def State.updPath (s : State) (die lock : Nat) (f : PathSlot → PathSlot) : State :=
  s.updDie die (fun d => { d with paths := d.paths.map (fun w => if w.lock == lock then f w else w) })

/-- A partition's chip-scratchpad window on a die. -/
def State.windowOf (s : State) (part die : Nat) : Nat × Nat := (s.part part).window.getD die (0, 0)

/-- The status of PATHEND.open, the lowest that applies. -/
def State.pathStatus (s : State) (die part n : Nat) (w : List Word) : Nat :=
  if ((s.die die).path n).any (fun x => x.st == .opened) then 1
  else if !(pathFields w) then 2
  else if (s.windowOf part die).2 < pathCbase w + pathBytes w then 3
  else 0

/-- The location of a cell. -/
def State.cellLoc (s : State) (die part : Nat) (w : List Word) (i j : Nat) : Nat :=
  locChip die ((s.windowOf part die).1 + pathCbase w + 8 * (j * pathW w + i))

/-- PATHEND.open with its array registered: the slot is OPEN, its cells to be zeroed as soon as the mirror stands (R219), or the status has changed
while it waited. -/
def State.pathOpen (s : State) (op : LockOp) (n : Nat) (d : Reg) : State :=
  let r : Ref := (op.gid, op.tid)
  let st := s.pathStatus op.die op.part n op.desc
  let s := (s.wake r).put r d (BitVec.ofNat 32 st)
  if st ≠ 0 then s.lockDrop op.id
  else
    let w : PathSlot := { n := n, part := op.part, owner := op.gid, lock := op.id, st := .opened, desc := op.desc, rule := none, pending := [] }
    s.updDie op.die (fun y => { y with paths := y.paths.filter (fun x => x.n != n) ++ [w] })

/-- A slot that belongs to another partition (R361). -/
def State.pathForeign (s : State) (r : Ref) (n : Nat) : Bool := ((s.die (s.dieOf r)).path n).any (fun w => w.part != s.partOf r)

/-- A slot that is not FREE and belongs to another partition: a FREE one may be opened by any (log entry 22). -/
def State.pathTaken (s : State) (r : Ref) (n : Nat) : Bool :=
  ((s.die (s.dieOf r)).path n).any (fun w => w.part != s.partOf r && w.st != .free)

def State.pathendOpen (s : State) (r : Ref) (n : Nat) (d a : Reg) : State :=
  if s.pathTaken r n then s.fail r causeAccess
  else
    match s.check r .core (s.rd r a).toNat 32 32 false false with
    | .error c => s.fail r c
    | .ok (w, s) =>
      let desc := wordsOfBytes (s.readAt (s.coreOf r) w 32)
      let st := s.pathStatus (s.dieOf r) (s.partOf r) n desc
      if st ≠ 0 then s.put r d (BitVec.ofNat 32 st)
      else
        let arr : Rng := { sp := .chip, owner := 0, lo := s.dieOf r * 2 ^ 24 + pathCbase desc, len := pathBytes desc }
        s.lockAsk true { s.newOp r 0 .die (.path n d) [] [arr] 0 with desc := desc } (fun s op => s.pathOpen op n d)

/-- Words that a segment uses. -/
def CKind.words : CKind → Nat
  | .line => 4
  | .quad => 6
  | .cubic => 8

/-- A coordinate whose high bits copy bit 23. -/
def coordOk (w : Word) : Bool := (w.setWidth 24).signExtend 32 == w

/-- CURVE (R376). -/
def State.curve (s : State) (r : Ref) (kind : CKind) (n : Nat) (a : Reg) : State :=
  let blk := ((s.thread r).block a 8).take (CKind.words kind)
  match (s.die (s.dieOf r)).path n with
  | none => s.fail r causeAccess
  | some w =>
    if w.part ≠ s.partOf r ∨ w.st ≠ .opened ∨ w.rule.isSome = true ∨ blk.all coordOk = false then s.fail r causeAccess
    else s.pushStore r (.curve w.lock kind blk)

/-- PATHEND.nz and .eo: the close step, after which the thread parks (R380). -/
def State.pathEnd (s : State) (r : Ref) (n : Nat) (eo : Bool) (d : Reg) : State :=
  let die := s.dieOf r
  if s.pathForeign r n then s.fail r causeAccess
  else
    match (s.die die).path n with
    | none => s.put r d 6
    | some w =>
      match w.st with
      | .broken => s.put r d 5
      | .closed | .free => s.put r d 6
      | .opened =>
        if w.rule.isSome then s.put r d 6
        else (s.updPath die w.lock (fun w => { w with rule := some eo })).parkAs r (.path w.lock d)

/-- CVG (R381). -/
def State.cvg (s : State) (r : Ref) (n : Nat) (raw : Bool) (d a : Reg) : State :=
  let i := bitsOf (s.rd r a) 15 0
  let j := bitsOf (s.rd r a) 31 16
  match (s.die (s.dieOf r)).path n with
  | none => s.fail r causeAccess
  | some w =>
    if w.part ≠ s.partOf r ∨ w.st ≠ .closed ∨ pathW w.desc ≤ i ∨ pathH w.desc ≤ j then s.fail r causeAccess
    else
      let bs := s.mem.readN (s.cellLoc (s.dieOf r) w.part w.desc i j) 8
      let v := if raw then ofBytes (bs.take 4) else (packMag fmtF32 .rne false false false (ofBytes (bs.drop 4)) (-16) false).1
      s.pushLoad r (.value d [BitVec.ofNat 32 v])

/-! ### Adding and closing -/

/-- Add to the two words of a cell, modulo 2^32. -/
def State.addCell (s : State) (die : Nat) (w : PathSlot) (c : Nat × Nat × Int × Int) : State :=
  let at_ := s.cellLoc die w.part w.desc c.2.1 c.1
  let bs := s.mem.readN at_ 8
  let add := fun (old : List Byte) (v : Int) => toBytes 4 (BitVec.ofInt 32 (ofBytes old + v)).toNat
  { s with mem := s.mem.writeN at_ (add (bs.take 4) c.2.2.1 ++ add (bs.drop 4) c.2.2.2) }

/-- The two coordinate polynomials of a segment's words, at their true degrees. -/
def segPolys (kind : CKind) (blk : List Word) : List Int × List Int :=
  (polyTrim (curvePoly kind (fun k => (hdrW blk (2 * k)).toInt)), polyTrim (curvePoly kind (fun k => (hdrW blk (2 * k + 1)).toInt)))

/-- Every contribution of a segment is added (R377, R378). -/
def State.addSegment (s : State) (die : Nat) (w : PathSlot) (kind : CKind) (blk : List Word) : State :=
  let (x, y) := segPolys kind blk
  if x.length = 1 ∧ y.length = 1 then s
  else
    ((subpieces x y).filterMap (fun p => contribution x y (pathW w.desc) (pathH w.desc) p.1 p.2)).foldl (fun s c => s.addCell die w c) s

/-- The coverage of |A| under a rule. -/
def coverageOf (eo : Bool) (a : Nat) : Nat :=
  if eo then (if a % 131072 ≤ 65536 then a % 131072 else 131072 - a % 131072) else Nat.min a 65536

/-- One row of a close, from column i on with the running cover (R380). -/
def State.closeRow (s : State) (die : Nat) (w : PathSlot) (eo : Bool) (j : Nat) : Nat → Nat → BitVec 32 → State
  | 0, _, _ => s
  | left + 1, i, run =>
    let at_ := s.cellLoc die w.part w.desc i j
    let bs := s.mem.readN at_ 8
    let A := run + BitVec.ofNat 32 (ofBytes (bs.take 4))
    let s : State := { s with mem := s.mem.writeN at_ (toBytes 4 A.toNat ++ toBytes 4 (coverageOf eo A.toInt.natAbs)) }
    State.closeRow s die w eo j left (i + 1) (run + BitVec.ofNat 32 (ofBytes (bs.drop 4)))

/-! ### Meanings -/

/-- R376. -/
def execCurve (g : Guard) (kind : CKind) (slot : BitVec 4) (a : Reg) (s : State) : Host.Outcome State Fault Refusal :=
  .next (s.each g (fun s r => s.curve r kind slot.toNat a))

/-- R375; the descriptor is read as the thread's own earlier stores leave it. -/
def execPathendOpen (g : Guard) (slot : BitVec 4) (d a : Reg) (s : State) : Host.Outcome State Fault Refusal :=
  .next (s.eachAfter g (fun s r => s.trails r (locScratch r.1 (s.rd r a).toNat) 32) (fun s r => s.pathendOpen r slot.toNat d a))

/-- R380. -/
def execPathendNz (g : Guard) (slot : BitVec 4) (d : Reg) (s : State) : Host.Outcome State Fault Refusal :=
  .next (s.each g (fun s r => s.pathEnd r slot.toNat false d))

/-- R380. -/
def execPathendEo (g : Guard) (slot : BitVec 4) (d : Reg) (s : State) : Host.Outcome State Fault Refusal :=
  .next (s.each g (fun s r => s.pathEnd r slot.toNat true d))

/-- R381; it comes after its threads' acquires. -/
def execCvg (g : Guard) (raw : Bool) (slot : BitVec 4) (d a : Reg) (s : State) : Host.Outcome State Fault Refusal :=
  .next (s.eachAfter g State.acquires (fun s r => s.cvg r slot.toNat raw d a))

/-! ### Events -/

/-- R377, R378: group a, thread b; every contribution of the thread's oldest store, a segment, is added, once the array's entry is mirrored (R219). -/
def execCurveSegmentAdd (s : State) : Host.Outcome State Fault Refusal :=
  .next (
    let r : Ref := (s.arg.a, s.arg.b)
    match (s.thread r).stores with
    | .curve path kind blk :: rest =>
      if s.unacked path then s
      else
        let s := s.upd r (fun t => { t with stores := rest })
        match (s.die (s.dieOf r)).pathBy path with
        | some w => if w.st = .opened then s.addSegment (s.dieOf r) w kind blk else s
        | none => s
    | _ => s)

/-- A segment of the path is still to be added. -/
def State.curvesLeft (s : State) (lock : Nat) : Bool :=
  s.threads.any (fun t => t.stores.any (fun o => match o with | .curve p _ _ => p == lock | _ => false))

/-- The thread that closed the path gets 0. -/
def Thread.pathClosed (lock : Nat) (t : Thread) : Thread :=
  match t.park with
  | .path k d => if k = lock then { t.setReg d 0 with park := .ready } else t
  | _ => t

/-- The threads whose PATHEND closed a path: one, unless its group has been killed. -/
def State.closers (s : State) (lock : Nat) : List Ref :=
  (s.threads.filter (fun t => match t.park with | .path k _ => k == lock | _ => false)).map (fun t => (t.gid, t.tid))

/-- R380: die a, path slot b; the slot whose segments have all been added is closed. The completion is a release at `.die`: it stands behind what
the thread has not performed, and carries what it did. -/
def execPathClose (s : State) : Host.Outcome State Fault Refusal :=
  .next (
    let die := s.arg.a
    match (s.die die).path s.arg.b with
    | none => s
    | some w =>
      match w.rule with
      | none => s
      | some eo =>
        let rs := s.closers w.lock
        if w.st ≠ .opened ∨ s.curvesLeft w.lock = true ∨ s.unacked w.lock = true ∨ rs.any s.owes = true then s
        else
          let s := w.pending.foldl (fun s c => s.addSegment die w c.1 c.2) s
          let s := (List.range (pathH w.desc)).foldl (fun s j => s.closeRow die w eo j (pathW w.desc) 0 0) s
          let s := rs.foldl (fun s r => s.release r .die) s
          let s := (s.lockDrop w.lock).updPath die w.lock (fun w => { w with st := .closed, pending := [] })
          { s with threads := s.threads.map (Thread.pathClosed w.lock) })

/-- PATHEND's wait is over without the close: the slot is BROKEN, or gone (R362, R380). -/
def State.pathDone (s : State) (r : Ref) (lock : Nat) (d : Reg) : Option State :=
  match (s.die (s.dieOf r)).pathBy lock with
  | none => some ((s.wake r).put r d 6)
  | some w =>
    match w.st with
    | .broken => some ((s.wake r).put r d 5)
    | .free => some ((s.wake r).put r d 6)
    | .opened | .closed => none

end Sys2Proof.Machine
end

