-- ==== Sys2Proof/Machine/Fences.lean ====
section
/-! DEFINITION. Meanings of the fence instructions (12), and the event that completes a fence. The order S of FENCE.sc (R271) is the order
in which the model's steps complete them (log entry 5). -/

namespace Sys2Proof.Machine

/-- Every counted operation of a thread is complete: what happens before its fence is performed (R283). -/
def Thread.settled (t : Thread) : Bool := t.loads.isEmpty && t.stores.isEmpty

/-- A location on a layer: a weight column or an SRAM bank (R284). -/
def onLayer (loc : Nat) : Bool := decide (loc < 2 ^ 52) && (bufferOf loc).isSome

/-- An operation still to be accepted by a layer's write buffer (R284). -/
def StoreOp.toLayer : StoreOp → Bool
  | .store _ pa => (pa.map onLayer).getD false
  | .write _ _ _ loc _ => onLayer loc
  | .red a => onLayer a.loc
  | .tags _ _ _ | .arrive _ _ _ _ _ | .maint _ | .tlbinv _ | .priow _ _ _ _ | .priowWt _ _ | .vput _ _ _ _ | .rowput _ _ _ | .tri _ _ _
  | .curve _ _ _ => false

/-- An atomic still to be performed at a layer (R284). -/
def LoadOp.toLayer : LoadOp → Bool
  | .atomic _ a => onLayer a.loc
  | .value _ _ | .fetched _ _ _ | .record _ _ | .late _ _ _ _ _ _ | .tagq _ _ _ | .binit _ _ _ _ | .bqry _ _ _ | .trace _ _ _ _ => false

/-- A write through a column under repair has been sent and not acknowledged: fences of cluster scope or wider wait for the repair
(R276; log entry 15). -/
def State.repairDue (s : State) : Bool := s.buffered.any s.bufRepair

/-- What a fence waits for has come: `.acq` waits for the thread's earlier loads to have read, a release for everything counted, and where it
reaches beyond the core for the repairs that its writes cross (R276, R283). -/
def State.fenceMet (s : State) (r : Ref) (k : FKind) (sc : Scope) : Bool :=
  match k with
  | .acq => !((s.thread r).loads.any LoadOp.unperformed)
  | .rel | .ar | .sc => (s.thread r).settled && !(decide (4 ≤ sc.num) && s.repairDue)

/-- Of the writes through a column under repair, one is the thread's own: LFENCE waits for its own writes alone (R284). -/
def State.repairOwn (s : State) (r : Ref) : Bool := s.buffered.any (fun b => s.bufRepair b && (s.thread r).laid.contains b)

/-- LFENCE's wait is over (R284). -/
def State.lfenceMet (s : State) (r : Ref) : Bool :=
  !((s.thread r).stores.any StoreOp.toLayer) && !((s.thread r).loads.any LoadOp.toLayer) && !(s.repairOwn r)

/-- EFENCE's engines have completed, and its thread's operations (R285). -/
def State.efenceMet (s : State) (r : Ref) (mx : Bool) : Bool :=
  decide (s.ccOf r = 0) && (!mx || decide (s.tcOf r.1 = 0)) && (s.thread r).settled

/-- A fence of cluster scope or wider writes back the core's dirty lines (R282). -/
def State.fenceFlush (s : State) (r : Ref) (sc : Scope) : State := s.release r sc

def State.fence (s : State) (r : Ref) (k : FKind) (sc : Scope) : State :=
  let s := s.fenceFlush r sc
  if s.fenceMet r k sc then s else s.parkAs r (.fence k sc)

/-- The dirty lines of the layers go to their write buffers (R284). -/
def State.layerFlush (s : State) (r : Ref) : State := s.writeBack (s.partOf r) (s.coreOf r) 0x1000000000000 0x1000100000000

def State.lfence (s : State) (r : Ref) : State :=
  let s := s.layerFlush r
  if s.lfenceMet r then s else s.parkAs r .lfence

/-- The write buffers that LFENCE.array names for a core (R284). -/
def arrayBufs (n : Nat) (mask : BitVec 5) : List Nat :=
  ((List.range 4).filter (fun l => mask.getLsbD l)).map (fun l => 4 * n + l) ++ (if mask.getLsbD 4 then [512 + n] else [])

/-- LFENCE.array: it waits for the named buffers that hold writes, gated ones apart, and for those under repair (R284). -/
def State.lfenceArray (s : State) (r : Ref) (n : Nat) (mask : BitVec 5) : State :=
  if 128 ≤ n ∨ ((s.part (s.partOf r)).clusters.getLsbD (clusterOfCore n)) = false then s.fail r causeAccess
  else
    let bufs := (arrayBufs n mask).filter (fun b => !(s.gated.contains (bufEngine b)) && (s.buffered.contains b || s.bufRepair b))
    if bufs.isEmpty then s else s.parkAs r (.lfenceArray bufs)

/-- The completion of EFENCE, if it can come: what happens before it is performed at its scope, behind the repairs that those writes cross (R276,
R285). -/
def State.efenceDone (s : State) (r : Ref) (mx : Bool) (sc : Scope) : Option State :=
  let t := s.fenceFlush r sc
  if s.efenceMet r mx && !(decide (4 ≤ sc.num) && t.repairDue) then some t else none

def State.efence (s : State) (r : Ref) (mx : Bool) (sc : Scope) : State := (s.efenceDone r mx sc).getD (s.parkAs r (.efence mx sc))

/-! ### Meanings -/

/-- R282, R283. -/
def execFence (g : Guard) (k : FKind) (sc : Scope) (s : State) : Host.Outcome State Fault Refusal :=
  .next (s.each g (fun s r => s.fence r k sc))

/-- R284. -/
def execLfence (g : Guard) (s : State) : Host.Outcome State Fault Refusal := .next (s.each g (fun s r => s.lfence r))

/-- R284. -/
def execLfenceArray (g : Guard) (b : Src) (mask : BitVec 5) (s : State) : Host.Outcome State Fault Refusal :=
  .next (s.each g (fun s r => s.lfenceArray r (s.src32 r b).toNat mask))

/-- R285. -/
def execEfence (g : Guard) (mx : Bool) (sc : Scope) (s : State) : Host.Outcome State Fault Refusal :=
  .next (s.each g (fun s r => s.efence r mx sc))

/-! ### Events -/

/-- A write buffer holds nothing that LFENCE.array waits for: its column is not under repair and all is committed (R284). -/
def State.bufIdle (s : State) (b : Nat) : Bool := !(s.bufRepair b) && !(s.buffered.contains b)

/-- A fence's wait is over, with what it does at its end: what was written since it issued leaves the core too. -/
def State.fenceDone (s : State) (r : Ref) : Option State :=
  match (s.thread r).park with
  | .fence k sc => if s.fenceMet r k sc then some (s.fenceFlush r sc) else none
  | .lfence => if s.lfenceMet r then some (s.layerFlush r) else none
  | .lfenceArray bufs => if bufs.all s.bufIdle then some s else none
  | .efence mx sc => s.efenceDone r mx sc
  | _ => none

/-- R282 to R286: group a, thread b; the fence on which the thread is parked completes. -/
def execFenceComplete (s : State) : Host.Outcome State Fault Refusal :=
  .next (
    let r : Ref := (s.arg.a, s.arg.b)
    match s.fenceDone r with
    | some s => s.wake r
    | none => s)

/-- The addresses that a write buffer serves. -/
def bufRange (b : Nat) : Nat × Nat :=
  if b < 512 then (0x1000000000000 + b * 0x4000000, 0x4000000) else (0x2000000000000 + (b - 512) * 0x2000000, 0x2000000)

/-- The wait of every LFENCE.array for a buffer ends, and it holds no more writes of the thread, unless its core's data cache does. -/
def State.bufferDone (s : State) (buf : Nat) (t : Thread) : Thread :=
  let t := match t.park with
    | .lfenceArray bufs => { t with park := .lfenceArray (bufs.filter (· != buf)) }
    | _ => t
  let dirty := Cells.within s.dcache (cacheKey (s.group t.gid).core (bufRange buf).1) (bufRange buf).2
  if dirty.isEmpty then { t with laid := t.laid.filter (· != buf) } else t

/-- R276: write buffer a, whose column is not under repair, commits its writes to the cells. -/
def execWriteBufferCommit (s : State) : Host.Outcome State Fault Refusal :=
  .next (
    if s.bufRepair s.arg.a then s
    else
      { s with buffered := s.buffered.filter (· != s.arg.a), threads := s.threads.map (s.bufferDone s.arg.a) })

end Sys2Proof.Machine
end

