-- ==== Sys2Proof/Machine/Sampling.lean ====
section
/-! DEFINITION. Meanings of the sampling and Vat instructions (16), and the events of the Separator, the Vat controller, the overlap ingest
unit and the row engine. -/

namespace Sys2Proof.Machine

/-! ### The display registers (R335 to R337) -/

/-- The partition that holds a die's output. -/
def State.outputOf (s : State) (die : Nat) : Option Part := s.parts.find? (fun p => p.outputs.getLsbD die)

/-- The units that serve a thread: those of its die, when its partition holds the output and the row engine is enabled. -/
def State.dispOf (s : State) (r : Ref) : Option Display :=
  if (s.outputOf (s.dieOf r)).any (fun p => p.part == s.partOf r) then (s.die (s.dieOf r)).display else none

/-- Node 1,022 of a die, of the partition that holds its output (R341). -/
def State.sampleNode (s : State) (die : Nat) : Option Node := (s.outputOf die).bind (fun p => s.node die p.part 1022)

/-- An instruction of the chapter for one thread: ACCESS without its units (R335). -/
def State.onDisp (s : State) (r : Ref) (f : Display → State) : State :=
  match s.dispOf r with
  | some x => f x
  | none => s.fail r causeAccess

def State.updDisp (s : State) (die : Nat) (f : Display → Display) : State :=
  s.updDie die (fun d => { d with display := d.display.map f })

def DispCfg.tw (c : DispCfg) : Nat := (c.ncol + 7) / 8
def DispCfg.th (c : DispCfg) : Nat := (c.nrow + 7) / 8

/-- The tile of an operand, tx in the low half and ty in the high half (R351). -/
def tileOf (c : DispCfg) (w : Word) : Option Nat :=
  let tx := bitsOf w 15 0
  let ty := bitsOf w 31 16
  if tx < DispCfg.tw c ∧ ty < DispCfg.th c then some (ty * DispCfg.tw c + tx) else none

/-- L(a) (R337). -/
def Display.light (x : Display) (a : Int) : Int := x.t0 + a * (x.cfg.rpn : Int) / (x.cfg.rpd : Int)

/-- The absolute row that a 32-bit value names: nearest NL, the lower of two (R337). -/
def Display.unwrap (x : Display) (w : Word) : Int := (x.nl : Int) + (w - BitVec.ofNat 32 x.nl).toInt

/-! ### Values by tile -/

def tileGet (l : List (Nat × Nat)) (i : Nat) : Nat := ((l.find? (fun p => p.1 == i)).map (fun p => p.2)).getD 0

def tileSet (l : List (Nat × Nat)) (i v : Nat) : List (Nat × Nat) :=
  match l with
  | [] => if v = 0 then [] else [(i, v)]
  | (j, w) :: rest =>
    if i < j then (if v = 0 then (j, w) :: rest else (i, v) :: (j, w) :: rest)
    else if i = j then (if v = 0 then rest else (i, v) :: rest)
    else (j, w) :: tileSet rest i v

def Display.map (x : Display) : SMap → List (Nat × Nat)
  | .gaze => x.gaze
  | .mot => x.mot
  | .err => x.err

def Display.setMap (x : Display) (m : SMap) (i v : Nat) : Display :=
  match m with
  | .gaze => { x with gaze := tileSet x.gaze i v }
  | .mot => { x with mot := tileSet x.mot i v }
  | .err => { x with err := tileSet x.err i v }

/-- P(i) (R339). -/
def Display.prio (x : Display) (i : Nat) : Nat :=
  Nat.min 65535 ((bitsOf x.weights 15 0 * tileGet x.gaze i + bitsOf x.weights 31 16 * tileGet x.mot i +
    bitsOf x.weights 47 32 * tileGet x.err i) / 4096)

def Display.quant (x : Display) : Nat := bitsOf x.weights 63 48

/-- A counter of SEPQ rises (R354). -/
def Display.count (x : Display) (k n : Nat) : Display := { x with counters := x.counters.set k ((x.counters.getD k 0 + n) % 2 ^ 64) }

/-! ### Instructions on the Separator -/

/-- The serial number of a record that is still to be placed: placements of a die are made in its order (R345). -/
def StoreOp.ordered (o : StoreOp) : Option Nat := match o with | .vput n _ _ false => some n | _ => none

/-- What a PRIOW still to be applied writes, with its serial number: a map's entry, or the weight image (R348). -/
def StoreOp.sepEntry (o : StoreOp) : Option (Nat × Option (SMap × Word)) :=
  match o with
  | .priow n m w _ => some (n, some (m, w))
  | .priowWt n _ => some (n, none)
  | _ => none

/-- A store to Separator state, and a placement, that are still to be applied: the thread's own readings of this chapter stand behind them. -/
def StoreOp.toSep (o : StoreOp) : Bool := o matches .priow _ _ _ _ | .priowWt _ _
def StoreOp.toVat (o : StoreOp) : Bool := o matches .vput _ _ _ false

/-- The record at the head of a thread, with its serial number, is next on its die: no earlier acquire of the thread is to be performed, and the
number is the lowest that stands in any thread of the die (log entry 25). -/
def State.firstOrdered (s : State) (r : Ref) (n : Nat) : Bool :=
  let die := s.dieOf r
  !((s.thread r).acquiring (s.thread r).storeNo) && s.threads.all (fun t =>
    dieOfCore (s.group t.gid).core != die || t.stores.all (fun o => match o.ordered with | some m => decide (n ≤ m) | none => true))

/-- The PRIOW at place k of a thread's stores may be applied: no acquire of the thread stands before it, nor a PRIOW of the thread, or of a lower
thread of its bundle, on the same entry (R348). -/
def State.priowMay (s : State) (r : Ref) (k : Nat) : Bool :=
  let t := s.thread r
  match t.storeOps[k]? with
  | none => false
  | some p =>
    match p.1.sepEntry with
    | none => false
    | some e =>
      !(t.acquiring p.2) && !((t.stores.take k).any (fun o => (o.sepEntry.map (fun x => x.2)) == some e.2)) &&
      !(s.threads.any (fun u => decide (u.tid < t.tid) && u.stores.any (fun o => o.sepEntry == some e)))

/-- The places of those that may be applied. -/
def State.priows (s : State) (r : Ref) : List Nat := (List.range (s.thread r).stores.length).filter (s.priowMay r)

/-- PRIOW of a thread; n is its bundle's serial number. -/
def State.priow (s : State) (n : Nat) (r : Ref) (m : SMap) (a : Reg) (b : Src) : State :=
  s.onDisp r (fun x =>
    match tileOf x.cfg (s.rd r a) with
    | none => s.fail r causeAccess
    | some _ => s.pushStore r (.priow n m (s.rd r a) ((s.src32 r b).setWidth 16)))

def State.prior (s : State) (r : Ref) (sel : PSel) (d a : Reg) : State :=
  s.onDisp r (fun x =>
    match tileOf x.cfg (s.rd r a) with
    | none => s.fail r causeAccess
    | some i =>
      let v :=
        match sel with
        | .gaze => tileGet x.gaze i
        | .mot => tileGet x.mot i
        | .err => tileGet x.err i
        | .pri => x.prio i
        | .acc => tileGet x.acc i
      s.pushLoad r (.value d [BitVec.ofNat 32 v]))

/-- PRIOR and SEPQ read what the thread's own PRIOWs leave (R180, R348). -/
def State.sepOwed (s : State) (r : Ref) : Bool := s.acquires r || (s.thread r).stores.any StoreOp.toSep
/-- VGET and VQRY read what its own VPUTs leave (R349). -/
def State.vatOwed (s : State) (r : Ref) : Bool := s.acquires r || (s.thread r).stores.any StoreOp.toVat

/-- The snapshot of SEPQ (R354). -/
def Display.query (x : Display) (sel : Nat) : DWord :=
  match sel with
  | 5 => x.weights
  | 6 => BitVec.ofNat 64 x.cfg.rlat
  | 7 => BitVec.ofNat 64 x.cfg.lead
  | k => BitVec.ofNat 64 (x.counters.getD k 0)

def State.pushPair (s : State) (r : Ref) (d : Reg) (v : DWord) : State := s.pushLoad r (.value d [lo32 v, hi32 v])

/-- The thread was launched on a sample wave (R341). -/
def State.onWave (s : State) (r : Ref) : Bool := (s.group r.1).node == some 1022

/-! ### The Vat (R342 to R346, R356 to R358) -/

/-- The bank of tile i, and where its slot k stands. -/
def vatBank (die i : Nat) : Nat := die * 64 + i % 64
def vatLoc (die vd i k : Nat) : Nat := 0x2000000000000 + vatBank die i * 0x2000000 + (i / 64 * vd + k) * 32

def State.vatHead (s : State) (die i : Nat) : Nat := tileGet (s.die die).vatHeads i

def State.vatRec (s : State) (die vd i k : Nat) : List Word := wordsOfBytes (s.mem.readN (vatLoc die vd i k) 32)

/-- A placement (R345). -/
def State.place (s : State) (die vd i : Nat) (blk : List Word) : State :=
  let h := s.vatHead die i
  let s := s.wakeEngine (.bank (vatBank die i))
  let s : State := { s with mem := s.mem.writeN (vatLoc die vd i h) (blk.map bytesOfWord).flatten }
  s.updDie die (fun d => { d with vatHeads := tileSet d.vatHeads i ((h + 1) % vd) })

/-- VAL, the age against t1, and the radiance of a channel. -/
def vatValid (w : List Word) : Bool := (hdrW w 7).getLsbD 16
def vatAge (t1 : Word) (w : List Word) : Nat := (t1 - hdrW w 1).toNat

/-- The tile's slots from the record placed last to the oldest. -/
def State.vatRecs (s : State) (die vd i : Nat) : List (List Word) :=
  let h := s.vatHead die i
  (List.range vd).map (fun k => s.vatRec die vd i ((h + 2 * vd - 1 - k) % vd))

/-- The tile of a record's X and Y, both 12.4 (R356). -/
def sampleTile (c : DispCfg) (w : Word) : Option Nat :=
  let tx := bitsOf w 15 0 / 128
  let ty := bitsOf w 31 16 / 128
  if tx < DispCfg.tw c ∧ ty < DispCfg.th c then some (ty * DispCfg.tw c + tx) else none

/-- Word 7 as VPUT stores it. -/
def vputFlags (die : Nat) (w : Word) : Word := (w &&& 0xFFF8FFFF) ||| 0x10000 ||| BitVec.ofNat 32 (die % 2 * 2 ^ 18)

def State.vput (s : State) (r : Ref) (a : Reg) (ovl : Bool) : State :=
  s.onDisp r (fun x =>
    let blk := (s.thread r).block a 8
    match sampleTile x.cfg (hdrW blk 0) with
    | none => s.fail r causeAccess
    | some _ => s.bump.pushStore r (.vput s.serial (blk.set 7 (vputFlags (s.dieOf r) (hdrW blk 7))) ovl false))

/-- n/den rounded once into a format (R135). -/
def ratioIn (f : Fmt) (neg : Bool) (n den : Nat) : Nat :=
  (packMag f .rne false true neg (n * 2 ^ 64 / den) (-64) (n * 2 ^ 64 % den != 0)).1

def exactIn (dst : EFmt) (v : Val) : Nat := (deliver dst (.mode .rne) false true false v).1

/-- A dyadic value n·2^e. -/
def dyVal (n : Int) (e : Int) : Val := .num (decide (n < 0)) n.natAbs e

/-- Feature f of a record in a format (R357). -/
def vatFeature (dst : EFmt) (flt : Fmt) (tx ty : Nat) (t1 : Word) (w : List Word) (f : Nat) : Nat :=
  let rad := fun (lo : Nat) => exactIn dst (dyVal (bitsOf (hdrW w 4) (lo + 8) lo) ((bitsOf (hdrW w 4) 31 27 : Int) - 24))
  let sn := fun (x : BitVec 16) => let n := max x.toInt (-32767); ratioIn flt (decide (n < 0)) n.natAbs 32767
  match f with
  | 0 => exactIn dst (dyVal ((bitsOf (hdrW w 0) 15 0 : Int) - 128 * tx) (-4))
  | 1 => exactIn dst (dyVal ((bitsOf (hdrW w 0) 31 16 : Int) - 128 * ty) (-4))
  | 2 => exactIn dst (dyVal (vatAge t1 w) (-4))
  | 3 => exactIn dst (unpackF fmtF32 false (hdrW w 2).toNat).1
  | 4 => exactIn dst (unpackF fmtF16 false (bitsOf (hdrW w 3) 15 0)).1
  | 5 => exactIn dst (unpackF fmtF16 false (bitsOf (hdrW w 3) 31 16)).1
  | 6 => rad 0
  | 7 => rad 9
  | 8 => rad 18
  | 9 => sn (BitVec.ofNat 16 (bitsOf (hdrW w 5) 15 0))
  | 10 => sn (BitVec.ofNat 16 (bitsOf (hdrW w 5) 31 16))
  | 11 => ratioIn flt false (bitsOf (hdrW w 6) 31 16) 65535
  | 12 => exactIn dst (dyVal (bitsOf (hdrW w 6) 7 0) 0)
  | 13 => ratioIn flt false (bitsOf (hdrW w 7) 15 0) 65535
  | 14 => exactIn dst (dyVal (bitsOf (hdrW w 7) 17 17) 0)
  | _ => exactIn dst (dyVal 1 0)

/-- Insert into a list that rises by a key; equal keys keep their order. -/
def insertBy {α : Type} (key : α → Nat) (x : α) : List α → List α
  | [] => [x]
  | y :: ys => if key x < key y then x :: y :: ys else y :: insertBy key x ys

def sortBy {α : Type} (key : α → Nat) (l : List α) : List α := l.foldl (fun acc x => insertBy key x acc) []

/-- The checks of VGET on its range: the format and the record. -/
def State.vgetRange (s : State) (r : Ref) (n k orow : Nat) : Except Nat (EFmt × List Word) :=
  match s.ownRange r.1 n with
  | none => .error causeAccess
  | some rcd =>
    let f := recFormat rcd
    if (f = .f16 ∨ f = .bf16) ∧ recSk rcd = 0 ∧ (orow + k) * 16 ≤ recNelem rcd then
      (if s.heldRange r.1 n false then .error causeLockhit else .ok (f, rcd))
    else .error causeAccess

def State.vget (s : State) (r : Ref) (n : Nat) (a : Reg) (b : Src) : State :=
  s.onDisp r (fun x =>
    let k := (s.src32 r b).toNat
    let tw := s.rd r a
    let t1 := s.rd r (a + 1)
    let span := (s.rd r (a + 2)).toNat
    let orow := (s.rd r (a + 3)).toNat
    match tileOf x.cfg tw with
    | none => s.fail r causeAccess
    | some i =>
      if k = 0 ∨ 64 < k then s.fail r causeAccess
      else
        match s.vgetRange r n k orow with
        | .error c => s.fail r c
        | .ok (dst, rcd) =>
          let flt := if dst = .bf16 then fmtBf16 else fmtF16
          let all := (s.vatRecs (s.dieOf r) x.cfg.vd i).filter (fun w => vatValid w && decide (vatAge t1 w ≤ span))
          let hit := sortBy (vatAge t1) all
          let rows := (List.range k).map (fun j =>
            match hit[j]? with
            | some w => (List.range 16).map (fun f => vatFeature dst flt (bitsOf tw 15 0) (bitsOf tw 31 16) t1 w f)
            | none => List.replicate 16 0)
          let bytes := (rows.flatten.map (toBytes 2)).flatten
          let s := s.wakeEngine (.bank (vatBank (s.dieOf r) i))
          ({ s with mem := s.mem.writeN (locObuf (s.coreOf r) (s.partOf r) (recBase rcd + orow * 32)) bytes } : State).pushLoad r (.value 0 []))

def State.vqry (s : State) (r : Ref) (d a : Reg) : State :=
  s.onDisp r (fun x =>
    match tileOf x.cfg (s.rd r a) with
    | none => s.fail r causeAccess
    | some i =>
      let recs := (s.vatRecs (s.dieOf r) x.cfg.vd i).filter vatValid
      (s.wakeEngine (.bank (vatBank (s.dieOf r) i))).pushLoad r
        (.value d [BitVec.ofNat 32 recs.length, (recs.head?.map (fun w => hdrW w 1)).getD 0]))

/-! ### Pixel delivery (R338, R350, R359) -/

/-- ROWPUT registered: it is a release at `.dsp`, and it waits while its row is 256 or more ahead. -/
def State.rowputGo (s : State) (op : LockOp) (row : Int) (x0 : Nat) : State :=
  let r : Ref := (op.gid, op.tid)
  let s := s.release r .dsp
  let nl := ((s.die op.die).display.map (fun x => x.nl)).getD 0
  if 256 ≤ row - nl then s.upd r (fun t => { t with park := .rowdist op.id row x0 })
  else (s.wake r).pushStore r (.rowput op.id row x0)

def RSpace.eng : RSpace → ESpace
  | .core => .core
  | .chip => .chip
  | .glob => .glob

/-- R175 orders 2 to 6 for the source words of ROWPUT. -/
def State.rowputBad (s : State) (g : Nat) (x : Rng) : Option Nat :=
  if !(rngCanonical x) then some causeXlate
  else if x.lo % 4 ≠ 0 then some causeAlign
  else if !(s.rngBound g x) then some causeAccess
  else
    (List.range (x.len / 4)).findSome? (fun k =>
      match s.engPlace g x.sp (x.lo + 4 * k) .read with
      | .error c => some c
      | .ok _ => none)

def State.rowput (s : State) (r : Ref) (sp : RSpace) (d a : Reg) (b : Src) : State :=
  s.onDisp r (fun x =>
    let w := s.src32 r b
    let x0 := bitsOf w 15 0
    let cnt := bitsOf w 23 16 + 1
    if bitsOf w 31 24 ≠ 0 ∨ x.cfg.ncol < x0 + cnt then s.fail r causeAccess
    else
      let esp := RSpace.eng sp
      let rng := s.engRng r.1 esp (spAddr esp (s.rdW r (sp == .glob) a)) (4 * cnt)
      match s.rowputBad r.1 rng with
      | some c => s.fail r c
      | none =>
        let row := x.unwrap (s.rd r d)
        s.lockAsk false (s.newOp r 0 .dsp (.rowput row x0) [rng] [] (4 * cnt)) (fun s op => s.rowputGo op row x0))

/-! ### Meanings -/

/-- R348, R353. -/
def execPriow (g : Guard) (map : SMap) (a : Reg) (b : Src) (s : State) : Host.Outcome State Fault Refusal :=
  .next (s.bump.each g (fun t r => t.priow s.serial r map a b))

/-- R348, R353. -/
def execPriowWt (g : Guard) (b : Src) (s : State) : Host.Outcome State Fault Refusal :=
  .next (s.bump.each g (fun t r => t.onDisp r (fun _ => t.pushStore r (.priowWt s.serial (t.src64 r b)))))

/-- R353. -/
def execPrior (g : Guard) (sel : PSel) (d a : Reg) (s : State) : Host.Outcome State Fault Refusal :=
  .next (s.eachAfter g State.sepOwed (fun s r => s.prior r sel d a))

/-- R354. -/
def execSepq (g : Guard) (sel : BitVec 3) (d : Reg) (s : State) : Host.Outcome State Fault Refusal :=
  .next (s.eachAfter g State.sepOwed (fun s r => s.onDisp r (fun x => s.pushPair r d (x.query sel.toNat))))

/-- R355. -/
def execSposPos (g : Guard) (d : Reg) (s : State) : Host.Outcome State Fault Refusal :=
  .next (s.each g (fun s r =>
    s.onDisp r (fun _ => if s.onWave r then s.put64 r d (s.thread r).spos else s.fail r causeAccess)))

/-- R355. -/
def execSposRow (g : Guard) (d : Reg) (s : State) : Host.Outcome State Fault Refusal :=
  .next (s.each g (fun s r =>
    s.onDisp r (fun _ => if s.onWave r then s.put r d (s.thread r).srow else s.fail r causeAccess)))

/-- R356. -/
def execVput (g : Guard) (a : Reg) (s : State) : Host.Outcome State Fault Refusal :=
  .next (s.each g (fun s r => s.vput r a false))

/-- R356. -/
def execVputOvl (g : Guard) (a : Reg) (s : State) : Host.Outcome State Fault Refusal :=
  .next (s.each g (fun s r => s.vput r a true))

/-- R357. -/
def execVget (g : Guard) (n : BitVec 5) (a : Reg) (b : Src) (s : State) : Host.Outcome State Fault Refusal :=
  .next (s.eachAfter g State.vatOwed (fun s r => s.vget r n.toNat a b))

/-- R358. -/
def execVqry (g : Guard) (d a : Reg) (s : State) : Host.Outcome State Fault Refusal :=
  .next (s.eachAfter g State.vatOwed (fun s r => s.vqry r d a))

/-- R358. -/
def execVqryCfg (g : Guard) (d : Reg) (s : State) : Host.Outcome State Fault Refusal :=
  .next (s.each g (fun s r => s.onDisp r (fun x =>
    s.pushLoad r (.value d [BitVec.ofNat 32 (DispCfg.th x.cfg * 65536 + DispCfg.tw x.cfg), BitVec.ofNat 32 x.cfg.vd]))))

/-- R359. -/
def execRowdlRow (g : Guard) (d : Reg) (b : Src) (s : State) : Host.Outcome State Fault Refusal :=
  .next (s.each g (fun s r => s.onDisp r (fun x => s.put r d (BitVec.ofNat 32 x.nl + s.src32 r b))))

/-- R359. -/
def execRowdlTime (g : Guard) (d : Reg) (b : Src) (s : State) : Host.Outcome State Fault Refusal :=
  .next (s.each g (fun s r => s.onDisp r (fun x => s.put64 r d (BitVec.ofInt 64 (x.light (x.unwrap (s.src32 r b)))))))

/-- R350, R359: a release, behind what its threads have issued before. -/
def execRowput (g : Guard) (sp : RSpace) (d a : Reg) (b : Src) (s : State) : Host.Outcome State Fault Refusal :=
  .next (s.eachAfter g State.owes (fun s r => s.rowput r sp d a b))

/-! ### Events -/

/-- What a PRIOW does to the Separator's state. -/
def StoreOp.sepApply (o : StoreOp) (x : Display) : Display :=
  match o with
  | .priow _ m w v => (match tileOf x.cfg w with | some i => x.setMap m i v.toNat | none => x)
  | .priowWt _ w => { x with weights := w }
  | _ => x

/-- The store at place k of a thread has been performed: the oldest leaves the count at once, another in its turn (R69). -/
def Thread.performed (t : Thread) (k : Nat) : Thread :=
  { t with stores := if k = 0 then t.stores.tail else t.stores.set k (.store .die Option.none) }

/-- The Separator applies the PRIOW at place k of a thread's stores. -/
def State.sepTake (s : State) (r : Ref) (k : Nat) : State :=
  (s.updDisp (s.dieOf r) (fun x => (((s.thread r).stores[k]?).map (fun o => o.sepApply x)).getD x)).upd r (fun t => t.performed k)

/-- R348: group a, thread b; the Separator applies one of the thread's PRIOWs; which of those that may be applied comes first is a free choice. -/
def execSeparatorApply (s : State) : Host.Outcome State Fault Refusal :=
  .next (
    let r : Ref := (s.arg.a, s.arg.b)
    match s.priows r with
    | [] => s
    | [k] => s.sepTake r k
    | ks => (s.sepTake r (ks.getD (Config.choice s.draws s.serial % ks.length) 0)).drawn)

/-- R345, R349: group a, thread b; the thread's oldest store, a VPUT, is placed. With `.ovl` the record goes to the other die, and the
store still counts. -/
def execVatPlacement (s : State) : Host.Outcome State Fault Refusal :=
  .next (
    let r : Ref := (s.arg.a, s.arg.b)
    let die := s.dieOf r
    match (s.thread r).stores with
    | .vput n blk ovl false :: rest =>
      if !(s.firstOrdered r n) then s
      else
        let s :=
          match (s.die die).display with
          | some x =>
            (match sampleTile x.cfg (hdrW blk 0) with
             | some i => s.place die x.cfg.vd i blk
             | none => s)
          | none => s
        if ovl then
          (s.updDie (1 - die) (fun d => { d with overlap := d.overlap ++ [{ blk := blk, gid := r.1, tid := r.2 }] })).upd r
            (fun t => { t with stores := .vput n blk ovl true :: rest })
        else s.upd r (fun t => { t with stores := rest })
    | _ => s)

/-- R347: X' and Y' of a record, where they exist. A DEPTH that is no finite number gives none, whatever SX is (DESIGN CHOICE, log entry 25). -/
def ingestXY (c : DispCfg) (w : List Word) : Option (Int × Int) :=
  let v := fun (b : Word) => (unpackF fmtF32 false b.toNat).1
  match v (hdrW w 2) with
  | .num neg m e =>
    let fix := fun (d : Dy) =>
      let (n, _) := roundAt .rne (decide (d.n < 0)) d.n.natAbs d.e false 0
      if d.n < 0 then -(n : Int) else n
    let x : Dy := Dy.add (Dy.add { n := bitsOf (hdrW w 0) 15 0, e := 0 } (Dy.mul { n := 16, e := 0 } (v c.ox).dy))
      (Dy.mul { n := 16, e := 0 } (Dy.mul (v c.sx).dy (Val.dy (.num neg m e))))
    let y : Dy := Dy.add { n := bitsOf (hdrW w 0) 31 16, e := 0 } (Dy.mul { n := 16, e := 0 } (v c.oy).dy)
    let X := fix x
    let Y := fix y
    if X < 0 ∨ Y < 0 ∨ (DispCfg.tw c : Int) ≤ X / 128 ∨ (DispCfg.th c : Int) ≤ Y / 128 then none else some (X, Y)
  | .nan _ | .inf _ => none

/-- R347: die a; the oldest record that waits at its overlap ingest unit is placed or dropped, and its VPUT no longer counts. On a die whose row
engine is not enabled it is dropped, and no counter of SEPQ stands there to count it (DESIGN CHOICE, log entry 25). -/
def execOverlapIngest (s : State) : Host.Outcome State Fault Refusal :=
  .next (
    let die := s.arg.a
    match (s.die die).overlap with
    | [] => s
    | o :: rest =>
      let s := s.updDie die (fun d => { d with overlap := rest })
      let s :=
        match (s.die die).display with
        | none => s
        | some x =>
          match ingestXY x.cfg o.blk with
          | none => s.updDisp die (fun x => x.count 3 1)
          | some (X, Y) =>
            let blk := (o.blk.set 0 (BitVec.ofInt 32 (Y * 65536 + X))).set 7 (hdrW o.blk 7 ||| 0x20000)
            s.place die x.cfg.vd ((Y / 128).toNat * DispCfg.tw x.cfg + (X / 128).toNat) blk
      s.upd (o.gid, o.tid) (fun t =>
        match t.stores with
        | .vput _ _ _ true :: rest => { t with stores := rest }
        | _ => t))

/-- A segment issued before on the same die, for the same row, still waits, or its thread is parked on the row's distance on the same core:
segments arrive in the order of issue, within a bundle in ascending `%tid` (R359). -/
def State.rowputBefore (s : State) (op : LockOp) (row : Int) : Bool :=
  s.threads.any (fun t =>
    s.dieOf (t.gid, t.tid) == op.die && t.stores.any (fun o => match o with | .rowput k y _ => decide (k < op.id) && y == row | _ => false)) ||
  s.threads.any (fun t =>
    s.coreOf (t.gid, t.tid) == op.core && s.partOf (t.gid, t.tid) == op.part &&
    (match t.park with | .rowdist k y _ => decide (k < op.id) && y == row | _ => false)) ||
  s.regQueue.any (fun l => l.die == op.die && decide (l.id < op.id) && (match l.kind with | .rowput y _ => y == row | _ => false))

/-- A row has locked, or locks in this tick: the lock comes before any delivery of its tick (R338). -/
def State.rowLocked (s : State) (x : Display) (row : Int) : Bool := decide (row < x.nl) || decide (x.light row - 4096 ≤ (s.dtb : Int))

/-- The words of a segment reach the line buffer of their row. -/
def Display.deliver (x : Display) (row : Int) (x0 : Nat) (ws : List Word) : Display :=
  if row < x.nl then x.count 4 1
  else { x with lines := (ws.zipIdx.map (fun p => (row.toNat, x0 + p.2, p.1))).reverse ++ x.lines }

/-- R359: group a, thread b; the thread's oldest store, a segment whose registration the other die has acknowledged where it must, is copied to
its line buffer, or dropped if its row has locked. A word
that can no longer be read stops the copy, and its cause goes to the thread's wave (R227). -/
def execRowputCopy (s : State) : Host.Outcome State Fault Refusal :=
  .next (
    let r : Ref := (s.arg.a, s.arg.b)
    match (s.thread r).stores with
    | .rowput k row x0 :: rest =>
      match s.lockById k with
      | none => s.upd r (fun t => { t with stores := rest })
      | some op =>
        if s.rowputBefore op row || !op.acked || s.opRepairs op then s
        else
          let late := ((s.die op.die).display.map (fun x => s.rowLocked x row)).getD true
          let s :=
            if late then s.updDisp op.die (fun x => x.count 4 1)
            else
              match op.src with
              | [x] =>
                match s.engRead op.gid x.sp x.lo x.len with
                | .ok bs => (s.engTouch op.gid x.sp x.lo x.len).updDisp op.die (fun y => y.deliver row x0 (wordsOfBytes bs))
                | .error c => if (s.thread r).live then s.setCause r c else s
              | _ => s
          (s.lockDrop k).upd r (fun t => { t with stores := rest })
    | _ => s)

/-! ### The Separator (R340, R341) -/

/-- The visit after row a. -/
def DispCfg.nextVisit (c : DispCfg) (a : Nat) : Nat := if a % c.nrow + 8 < c.nrow then a + 8 else (a / c.nrow + 1) * c.nrow

/-- Position number s of a tile. -/
def tilePos (tx ty s : Nat) : Nat × Nat :=
  (128 * tx + (s * 49471 + (tx * 40503 + ty * 9973) % 65536) % 65536 / 512,
   128 * ty + (s * 37345 + (tx * 9973 + ty * 40503) % 65536) % 65536 / 512)

/-- One tile of a visit. -/
def Display.tileVisit (x : Display) (ty a : Nat) (tx : Nat) : Display :=
  let q := x.quant
  if q = 0 then x
  else
    let i := ty * DispCfg.tw x.cfg + tx
    let t := tileGet x.acc i + x.prio i
    let n := Nat.min (t / q) 255
    let s0 := tileGet x.sn i
    let ps := (List.range n).map (fun j =>
      let p := tilePos tx ty ((s0 + j) % 65536)
      (p.1, p.2, a))
    { x with acc := tileSet x.acc i (Nat.min (t - n * q) 65535), sn := tileSet x.sn i ((s0 + n) % 65536), queue := x.queue ++ ps }

/-- The time of the visit of absolute row a, and the deadline of its positions. -/
def Display.visitAt (x : Display) (a : Nat) : Int := x.light a - x.cfg.rlat - x.cfg.lead
def Display.deadline (x : Display) (a : Nat) : Int := x.light a - x.cfg.rlat

/-- R340: die a; the visit whose time has come. -/
def execSeparatorVisit (s : State) : Host.Outcome State Fault Refusal :=
  .next (
    s.updDisp s.arg.a (fun x =>
      if (s.dtb : Int) < x.visitAt x.visit then x
      else
        let y := (List.range (DispCfg.tw x.cfg)).foldl (fun (x : Display) tx => x.tileVisit (x.visit % x.cfg.nrow / 8) x.visit tx) x
        { y with visit := DispCfg.nextVisit x.cfg x.visit }))

/-- The wave being formed goes out: the next empty header of node 1,022 is set full, and one group is launched with the wave's deadline. -/
def State.waveOut (s : State) (die : Nat) (x : Display) (n : Node) : State :=
  let row := ((x.wave.head?).map (fun p => p.2.2.1)).getD 0
  let k := n.firstEmpty.getD n.next
  let s := s.updDisp die (fun x => { x.count 2 1 with wave := [] })
  let s := s.updNode die n.part 1022 (fun n => n.take k .full)
  s.nodeRun { n with hdr := hdrSample n.hdr } (some (x.deadline row).toNat) [k] x.wave

/-- The head of the issue queue is issued into the wave being formed, which goes out when it is full or its visit has no more. -/
def State.issuePos (s : State) (die : Nat) (x : Display) (n : Node) (p : Nat × Nat × Nat) (rest : List (Nat × Nat × Nat)) : State :=
  let y := { x.count 0 1 with queue := rest, wave := x.wave ++ [(p.1, p.2.1, p.2.2, s.dtb / 64 % 2 ^ 32)] }
  let s := s.updDisp die (fun _ => y)
  if y.wave.length = hdrWave n.hdr ∨ rest.all (fun q => q.2.2 != p.2.2) = true then s.waveOut die y n else s

/-- The head of the queue is dropped; a wave that waited for its visit's further positions goes out once none is left. -/
def State.dropPos (s : State) (die : Nat) (x : Display) (node : Option Node) (rest : List (Nat × Nat × Nat)) : State :=
  let y := { x.count 1 1 with queue := rest }
  let s := s.updDisp die (fun _ => y)
  match node, y.wave with
  | some n, p :: _ => if rest.all (fun q => q.2.2 != p.2.2.1) then s.waveOut die y n else s
  | none, _ => s.updDisp die (fun x => { x with wave := [] })
  | _, [] => s

/-- R341: die a; the position at the head of the issue queue has its turn. -/
def execPositionIssue (s : State) : Host.Outcome State Fault Refusal :=
  .next (
    let die := s.arg.a
    match (s.die die).display with
    | none => s
    | some x =>
      match x.queue with
      | [] => s
      | p :: rest =>
        match s.sampleNode die with
        | none => s.dropPos die x none rest
        | some n =>
          if x.deadline p.2.2 ≤ (s.dtb : Int) then s.dropPos die x (some n) rest
          else if x.waiting then s
          else
            match n.firstEmpty with
            | some _ => s.issuePos die x n p rest
            | none => s.updDisp die (fun x => { x with waiting := true }))

/-- R341: die a; a header of node 1,022 is empty again, and the Separator no longer waits. -/
def execSeparatorHeaderRetry (s : State) : Host.Outcome State Fault Refusal :=
  .next (
    s.updDisp s.arg.a (fun x =>
      match s.sampleNode s.arg.a with
      | some n => if n.firstEmpty.isSome then { x with waiting := false } else x
      | none => { x with waiting := false }))

/-! ### The row engine (R338, R343, R344, R346, R461, R462) -/

/-- R338: die a; the row whose lock time has come is formed: delivered pixels go to the held image, and the rest of it stands. The ignored bits
[31:30] of a delivered pixel are written back as 0 (DESIGN CHOICE, log entry 25). -/
def execRowLock (s : State) : Host.Outcome State Fault Refusal :=
  .next (
    let die := s.arg.a
    match (s.die die).display with
    | none => s
    | some x =>
      if (s.dtb : Int) < x.light x.nl - 4096 then s
      else
        let px := (x.lines.filter (fun p => p.1 == x.nl)).reverse
        let m := px.foldl (fun (m : Memory) p =>
          m.writeN (x.cfg.held + (x.nl % x.cfg.nrow * x.cfg.ncol + p.2.1) * 4) (bytesOfWord (p.2.2 &&& 0x3FFFFFFF))) s.mem
        ({ s with mem := m } : State).updDisp die (fun x => { x with lines := x.lines.filter (fun p => p.1 != x.nl), nl := x.nl + 1 }))

/-- The Vat bytes of the geometry on each bank. -/
def DispCfg.vatBytes (c : DispCfg) : Nat := (DispCfg.tw c * DispCfg.th c + 63) / 64 * c.vd * 32

/-- The multi-byte fields of a row-deadline block (R463). -/
def blkField (b : List Byte) (at_ n : Nat) : Nat := ofBytes ((b.drop at_).take n)

/-- A row-deadline block that is valid for a die's eye (R463). -/
def blkValid (b : List Byte) (die : Nat) : Bool :=
  b.length == 32 && (b.take 8 == [0x7E, 0x00, 29, 0x3A, 0xD4, 0x92, 0x01, 0x01]) &&
  decide (8 ≤ blkField b 8 2) && decide (blkField b 8 2 ≤ 4096) && decide (8 ≤ blkField b 10 2) && decide (blkField b 10 2 ≤ 4096) &&
  blkField b 16 2 != 0 && decide (512 * blkField b 16 2 ≤ blkField b 12 4) && decide (blkField b 12 4 ≤ 20480 * blkField b 16 2) &&
  decide (blkField b 18 1 < 2) && blkField b 19 1 == die &&
  [20, 24, 28].all (fun k => fltFinite (blkField b k 4))

/-- The display registers that the block and firmware's own settings give; a transform that the host has supplied for the eye takes the place of
the block's (R461). -/
def State.dispCfg (s : State) (die : Nat) (b : List Byte) (c : DispSet) : DispCfg :=
  let xf := ((s.eyes.find? (fun e => e.1 == die)).map (fun e => e.2)).getD
    (BitVec.ofNat 32 (blkField b 20 4), BitVec.ofNat 32 (blkField b 24 4), BitVec.ofNat 32 (blkField b 28 4))
  { rpn := blkField b 12 4, rpd := blkField b 16 2, nrow := blkField b 8 2, ncol := blkField b 10 2, vd := c.vd, rlat := c.rlat, lead := c.lead,
    sx := xf.1, ox := xf.2.1, oy := xf.2.2, held := c.held }

/-- The region of LPDDR 6 that firmware reserves for a die's held image (R336, R464; log entry 11). -/
def heldBase (die : Nat) : Nat := 0x3F90000000 + die * 0x4000000
def heldRoom : Nat := 0x4000000

/-- Firmware enables a row engine with these registers (R336, R343, R461, R462): the Vat holds the slots, the link carries the panel, with DSC
where the sink permits it, and the held image lies in its reserved region. -/
def dispValid (c : DispCfg) (die vat : Nat) (dsc : Bool) : Bool :=
  [16, 32, 64, 128, 256].contains c.vd && decide (c.rlat < 2 ^ 32) && decide (c.lead < 2 ^ 32) &&
  decide (DispCfg.vatBytes c ≤ vat * 0x80000) &&
  (decide (30 * c.ncol * c.rpd * 1024 ≤ 72000 * c.rpn) || (dsc && decide (12 * c.ncol * c.rpd * 1024 ≤ 72000 * c.rpn))) &&
  decide (heldBase die ≤ c.held) && decide (c.held + c.nrow * c.ncol * 4 ≤ heldBase die + heldRoom)

/-- Every division that a partition has, or that LAYDIVW has accepted for it, has the VAT field (R210, R344). -/
def Part.vatIs (p : Part) (vat : Nat) : Bool := layVat p.laydiv == vat && p.laydivNew.all (fun l => layVat l.2.2 == vat)

/-- Every byte of the Vat parts of a die's banks is zero (R346). -/
def State.clearVat (s : State) (die vat : Nat) : State :=
  (List.range 64).foldl (fun (s : State) n =>
    let z := (0x2000000000000 + (64 * die + n) * 0x2000000, vat * 0x80000)
    { s.uncache z with mem := s.mem.clear z.1 z.2 }) s

/-- A row engine as it starts at time e with its registers. -/
def Display.start (c : DispCfg) (vat e : Nat) : Display :=
  { cfg := c, vat := vat, t0 := e + c.rlat + c.lead, nl := 0, gaze := [], mot := [], err := [], acc := [], sn := [],
    weights := 0, visit := 0, queue := [], wave := [], waiting := false, counters := [0, 0, 0, 0, 0], lines := [] }

/-- R336, R339, R346, R461: die a, the sink's block in `data`, firmware's own settings in `disp`; firmware enables the row engine, and the Vat,
the heads, the Separator and the held image are zero. -/
def execRowEngineEnable (s : State) : Host.Outcome State Fault Refusal :=
  .next (
    let die := s.arg.a
    match s.arg.disp, s.outputOf die with
    | some d, some p =>
      let c := s.dispCfg die s.arg.data d
      let vat := layVat p.laydiv
      if die < 2 ∧ (s.die die).display = none ∧ blkValid s.arg.data die = true ∧
          dispValid c die vat ((s.arg.data.getD 18 0).getLsbD 0) = true ∧ s.parts.all (fun q => !(q.onDie die) || q.vatIs vat) = true then
        let s := s.clearVat die vat
        ({ s with mem := s.mem.clear c.held (c.nrow * c.ncol * 4) } : State).updDie die
          (fun d => { d with display := some (Display.start c vat ((s.dtb + 1023) / 1024 * 1024)), vatHeads := [] })
      else s
    | _, _ => s)

/-- R346, R470: die a; firmware disables the row engine. -/
def execRowEngineDisable (s : State) : Host.Outcome State Fault Refusal :=
  .next (s.updDie s.arg.a (fun d => { d with display := none, vatHeads := [] }))

end Sys2Proof.Machine
end

