-- ==== Sys2Proof/Machine/Weight.lean ====
section
/-! DEFINITION. The pipe and reference weight of every instruction (R66, R399, R400 and the timing tables of the chapters), and which
counters it raises (R68). -/

namespace Sys2Proof.Machine

/-- Weight 2 for a 64-bit form of the integer pipe, else 1 (R86). -/
def x64Weight (x64 : Bool) : Nat × Nat := (0, if x64 then 2 else 1)

/-- Pipe and reference weight of an instruction; weight 0 for what spends nothing when it issues: the commands charged by their rows,
and events. Pipes are numbered as in R400. -/
def pipeWeight : Instr → Nat × Nat
  | .braCompact _ | .bra _ _ | .brx _ _ _ | .callCompact _ | .call _ _ | .callx _ _ _ | .ret _ | .nopCompact | .nop _ _ | .exit _
  | .yield _ | .waitCompact _ _ _ _ | .wait _ _ _ _ _ | .sleep _ _ | .sleepAbs _ _ => (4, 1)
  | .movCompact _ _ | .mov _ _ _ | .movG _ _ _ | .movl _ _ _ | .movlG _ _ _ | .addCompact _ _ _ | .add _ _ _ _ _ _ | .sub _ _ _ _ _ _
  | .min _ _ _ _ _ | .max _ _ _ _ _ | .abs _ _ _ _ | .andCompact _ _ _ | .shlCompact _ _ _ | .bext _ _ _ _ _ _ | .bins _ _ _ _ _
  | .plut _ _ _ _ _ _ => (0, 1)
  | .sel _ x _ _ _ _ | .and _ _ x _ _ _ | .or _ _ x _ _ _ | .xor _ _ x _ _ _ | .shl _ x _ _ _ | .shr _ x _ _ _ | .sar _ x _ _ _
  | .popc _ x _ _ | .clz _ x _ _ | .brev _ x _ _ => x64Weight x
  | .icmp _ _ _ _ _ _ _ => (0, 1)
  | .mulCompact _ _ _ | .mul _ _ _ _ _ _ | .mulhi _ _ _ _ _ | .mad _ _ _ _ _ _ _ | .add64 _ _ _ _ _ _ _ | .mad64 _ _ _ _ _ _ _
  | .lea _ _ _ _ _ _ => (0, 2)
  | .faddCompact _ _ _ | .fadd _ _ _ _ _ | .fmin _ _ _ _ _ | .fmax _ _ _ _ _ | .fmulCompact _ _ _ | .fmul _ _ _ _ _ | .fscl _ _ _ _ _
  | .fcmp _ _ _ _ _ _ | .fcls _ _ _ | .frint _ _ _ _ | .cvt _ _ _ _ _ _ _ _ | .pack _ _ _ _ _ | .unpk _ _ _ _ _ _
  | .qblk _ _ _ _ _ => (1, 2)
  | .fmaCompact _ _ _ | .fma _ _ _ _ _ _ | .h2add _ _ _ _ _ | .h2mul _ _ _ _ _ | .h2fmaCompact _ _ _ | .h2fma _ _ _ _ _ _
  | .h2min _ _ _ _ _ | .h2max _ _ _ _ _ | .cvts _ _ _ _ _ _ _ _ | .dot2h _ _ _ _ _ _ => (1, 3)
  | .dot4 _ _ _ _ _ _ _ _ | .dot8 _ _ _ _ _ _ _ _ => (1, 4)
  | .rcp _ _ _ _ | .rsqrt _ _ _ _ | .sqrt _ _ _ _ | .exp2 _ _ _ _ | .log2 _ _ _ _ | .sin _ _ _ _ | .cos _ _ _ _ | .tanh _ _ _ _ => (2, 4)
  | .fdiv _ _ _ _ _ => (2, 6)
  | .obres _ _ _ _ => (4, 4)
  | .obrel _ _ _ => (4, 1)
  | .obwr _ _ _ _ | .obrd _ _ _ _ => (4, 2)
  | .lvoteAny _ _ _ _ | .lvoteAll _ _ _ _ | .lvoteBal _ _ _ _ | .lelect _ _ _ | .lmatch _ _ _ _ _ => (4, 2)
  | .lxch _ _ _ x _ _ _ _ => (4, if x then 4 else 3)
  | .lred _ _ _ _ _ _ | .lscan _ _ _ _ _ _ _ => (4, 4)
  | .ldCompact _ _ _ | .ld _ _ _ _ _ _ _ _ | .stCompact _ _ _ | .st _ _ _ _ _ _ _ _ | .ldf _ _ _ _ _ _ _ | .ste _ _ _ _ _ _ => (3, 2)
  | .ldt _ _ _ _ _ | .stt _ _ _ _ _ => (3, 3)
  | .tags _ _ _ _ _ _ _ | .tagq _ _ _ _ _ _ | .pref _ _ _ _ _ _ => (3, 1)
  | .cwb _ _ _ _ | .cinv _ _ _ _ | .cwbi _ _ _ _ | .iinv _ _ _ _ | .tlbinv _ _ | .tlbinvAll _ | .pgmap _ _ _ _ _ | .pgunmap _ _ _ => (3, 2)
  | .fbar _ | .pgqPte _ _ _ | .pgqZero _ _ _ | .pgqRoot _ _ => (3, 1)
  | .domset _ _ _ | .laydivw _ _ _ => (3, 4)
  | .cpy _ _ _ _ _ _ _ => (3, 3)
  | .cpyt _ _ _ _ _ | .sebind _ _ _ _ _ _ _ _ => (3, 4)
  | .sefree _ _ _ | .slotw _ _ _ _ | .slotrel _ _ _ => (3, 2)
  | .tagwait _ _ _ _ | .tagff _ _ _ _ | .tagclr _ _ | .lockqAddr _ _ _ _ _ | .lockqFree _ _ | .lockqErr _ _ _ => (3, 1)
  | .atom _ _ _ _ _ _ _ | .cas _ _ _ _ _ _ | .atomf _ _ _ _ _ _ _ => (3, 3)
  | .red _ _ _ _ _ _ | .binit _ _ _ _ _ => (3, 2)
  | .barv _ _ _ _ | .bwait _ _ _ _ | .bsync _ _ _ | .bqry _ _ _ _ => (3, 1)
  | .fence _ _ _ | .lfence _ | .lfenceArray _ _ _ | .efence _ _ _ => (3, 2)
  | .mxrun _ _ _ _ => (4, 2)
  | .mxq _ _ | .ladcnt _ _ _ | .ladclr _ _ | .carryGet _ _ _ | .carrySet _ _ _ => (4, 1)
  | .mldw _ _ _ _ _ _ => (5, 4)
  | .mswap _ | .mbar _ _ _ | .mwaitb _ _ _ | .mend _ | .mlad _ _ _ _ _ _ _ => (5, 1)
  | .mstr _ _ _ _ _ _ | .mzero _ _ _ | .maccld _ _ _ _ | .maccst _ _ _ _ | .mepi _ _ _ _ _ _ _ | .mscan _ _ _ _ _ _ _ => (5, 0)
  | .scan _ _ _ _ _ _ _ => (4, 4)
  | .stepk _ _ _ _ _ => (4, 3)
  | .priow _ _ _ _ | .priowWt _ _ | .prior _ _ _ _ | .sepq _ _ _ | .sposPos _ _ | .sposRow _ _ | .vqry _ _ _ | .vqryCfg _ _
  | .rowdlRow _ _ _ | .rowdlTime _ _ _ => (4, 1)
  | .vput _ _ | .vputOvl _ _ => (4, 3)
  | .vget _ _ _ _ => (4, 4)
  | .rowput _ _ _ _ _ | .probeOpen _ _ _ _ | .probeTri _ _ _ | .probeSmp _ _ _ _ | .curve _ _ _ _ | .pathendOpen _ _ _ _
  | .pathendNz _ _ _ | .pathendEo _ _ _ => (4, 2)
  | .probeEnd _ _ _ | .cvg _ _ _ _ _ | .hitr _ _ | .hitrSt _ _ => (4, 1)
  | .trace _ _ _ _ _ => (4, 3)
  | .mbwait _ _ _ _ _ | .jnlSeq _ _ | .recrd _ _ _ | .recfin _ => (4, 1)
  | .admitqEnergy _ _ _ | .admitqTherm _ _ _ | .admitqAct _ _ _ | .admitqGate _ _ _ | .admitqQueue _ _ _ => (4, 1)
  | .mbtake _ _ _ _ | .mbpost _ _ _ _ _ => (4, 3)
  | .jnlFail _ _ _ _ | .sliceDl _ _ _ _ | .sliceKill _ _ _ | .nodegoCfg _ _ _ _ | .nodegoFlush _ _ _ | .nodegoQ _ _ _ | .nodegoOff _ _ _
  | .recalloc _ _ _ | .recemit _ _ _ => (4, 2)
  | .launch _ _ _ _ | .preempt _ _ _ _ | .ctxsv _ _ _ _ | .ctxld _ _ _ _ => (4, 4)
  | .srdCompact _ _ | .srd _ _ _ | .swr _ _ _ | .trap _ _ | .tret _ | .cclr _ _ | .tmaskOr _ _ _ | .tmaskAndn _ _ _ | .tmaskWr _ _ _
  | .bkpt _ | .haltq _ _ _ => (4, 1)
  | _ => (4, 0)

/-- The instruction raises lc (R68). -/
def raisesLc : Instr → Bool
  | .ldCompact _ _ _ | .ld _ _ _ _ _ _ _ _ | .ldt _ _ _ _ _ | .tagq _ _ _ _ _ _ | .pgqPte _ _ _ | .pgqZero _ _ _ | .pgqRoot _ _
  | .atom _ _ _ _ _ _ _ | .cas _ _ _ _ _ _ | .atomf _ _ _ _ _ _ _ | .binit _ _ _ _ _ | .bqry _ _ _ _ | .obres _ _ _ _ | .obrd _ _ _ _
  | .prior _ _ _ _ | .sepq _ _ _ | .vget _ _ _ _ | .vqry _ _ _ | .vqryCfg _ _ | .probeSmp _ _ _ _ | .cvg _ _ _ _ _ | .trace _ _ _ _ _
  | .recrd _ _ _ => true
  | _ => false

/-- The instruction raises sc (R68). -/
def raisesSc : Instr → Bool
  | .stCompact _ _ _ | .st _ _ _ _ _ _ _ _ | .stt _ _ _ _ _ | .tags _ _ _ _ _ _ _ | .cwb _ _ _ _ | .cinv _ _ _ _ | .cwbi _ _ _ _
  | .iinv _ _ _ _ | .tlbinv _ _ | .tlbinvAll _ | .red _ _ _ _ _ _ | .barv _ _ _ _ | .bsync _ _ _ | .obwr _ _ _ _ | .priow _ _ _ _
  | .priowWt _ _ | .vput _ _ | .vputOvl _ _ | .rowput _ _ _ _ _ | .probeTri _ _ _ | .curve _ _ _ _ | .recemit _ _ _ => true
  | _ => false

/-- The instruction raises cc (R68). -/
def raisesCc : Instr → Bool
  | .cpy _ _ _ _ _ _ _ | .cpyt _ _ _ _ _ => true
  | _ => false

/-- Nominal latency of a space (R15, R179). -/
def Space.latency : Space → Nat
  | .lane | .core => 22
  | .cmem => 40
  | .chip => 140
  | .glob => 210

/-- Nominal cycles from the issue of a counted instruction to the completion of what it counts; an atomic is performed before its thread
goes on (log entry 4). -/
def latencyOf : Instr → Nat
  | .ldCompact _ _ _ => 22
  | .stCompact _ _ _ => 4
  | .ld _ sp _ _ _ _ _ _ => Space.latency sp
  | .st _ sp _ _ ord _ _ _ => if ord = .plain then 4 else Space.latency sp
  | .ldt _ _ _ _ _ | .stt _ _ _ _ _ => 232
  | .tags _ cm _ _ _ _ _ | .tagq _ cm _ _ _ _ => if cm then 40 else 22
  | .cwb _ _ _ _ | .cinv _ _ _ _ | .cwbi _ _ _ _ => 30
  | .iinv _ _ _ _ => 40
  | .tlbinv _ _ => 300
  | .tlbinvAll _ => 2000
  | .pgqPte _ _ _ | .pgqZero _ _ _ | .pgqRoot _ _ => 210
  | .binit _ clu _ _ _ => if clu then 48 else 8
  | .barv _ _ _ _ | .bsync _ _ _ => 4
  | .bqry _ clu _ _ => if clu then 40 else 4
  | .obres _ _ _ _ => 30
  | .obwr _ _ _ _ | .obrd _ _ _ _ => 22
  | .priow _ _ _ _ | .priowWt _ _ | .prior _ _ _ _ | .sepq _ _ _ | .cvg _ _ _ _ _ | .recemit _ _ _ | .recrd _ _ _ => 140
  | .vput _ _ | .vputOvl _ _ | .vget _ _ _ _ | .vqry _ _ _ | .vqryCfg _ _ => 260
  | .rowput _ _ _ _ _ => 22
  | .probeTri _ _ _ | .curve _ _ _ _ => 8
  | .probeSmp _ _ _ _ => 300
  | .trace _ _ _ _ _ => 600
  | _ => 0

end Sys2Proof.Machine
end

