-- ==== Sys2Proof/Machine/Issue.lean ====
section
/-! DEFINITION. Issue (03, 07): the instruction at a pc and the checks of R48 on it, readiness, the picker, meetings, lines, waking,
handler entry; and the completion of loads, stores and registrations. -/

namespace Sys2Proof.Machine

/-! ### The instruction at a program counter (R32, R48) -/

/-- The line that a thread holds, if its pc lies in it. -/
def Thread.lineAt (t : Thread) : Option UsedLine := t.line.filter (fun u => u.va == t.pc.toNat / 64 * 64)

/-- What stands at a pc of a line: the cause of R48 orders 2 to 4, or the instruction. R32 makes every program counter a multiple of 4; one
that software set otherwise (a HANDLER address, `%tpc`) is taken down to its slot (DESIGN CHOICE, log entry 15). -/
def readIns (words : List Word) (pc : DWord) : Except Nat Instr :=
  match lineStarts words with
  | none => .error causeIllegal
  | some st =>
    if !(st.any (fun p => p.1 == pc.toNat % 64 / 4)) then .error causeIllegal
    else
      match decodeWords ((words.take 15).drop (pc.toNat % 64 / 4)) with
      | .ok (i, _) => .ok i
      | .error _ => .error causeIllegal

/-- The successor of an instruction (R32). -/
def nextPc (words : List Word) (pc : DWord) : DWord :=
  let slot := pc.toNat % 64 / 4
  match lineStarts words with
  | none => pc + 4
  | some st =>
    match st.find? (fun p => p.1 == slot) with
    | none => pc + 4
    | some p =>
      if st.any (fun q => q.1 == slot + p.2) then pc + BitVec.ofNat 64 (4 * p.2)
      else BitVec.ofNat 64 (pc.toNat / 64 * 64 + 64)

/-- Orders 5 to 8 of R48 for a thread's stream on a core: the cause, if one applies. -/
def issueCheck (i : Instr) (regs : Nat) (control priv : Bool) : Option Nat :=
  if regs < regTop i then some causeIllegal
  else
    match runsOn i with
    | .stream | .event => some causeIllegal
    | .control => if !control then some causeIllegal else if isPrivileged i && !priv then some causePriv else none
    | .wide => if control then some causeIllegal else none
    | .both => if isPrivileged i && !priv then some causePriv else none

/-! ### Readiness (R62, R69, R394) -/

/-- R422's condition. -/
def State.trapped (s : State) (t : Thread) : Bool :=
  let w := s.waveOf (t.gid, t.tid)
  !t.handler && w.cause &&& w.tmask != 0

/-- The guard of an instruction (R42, R44). -/
def guardIn (i : Instr) : Guard :=
  match codeOf i with
  | some (.long f) => f.gd
  | some (.short _ _) | none => .always

/-- The instructions stand in two of the four pipes that pair (R66). -/
def pairs (i j : Instr) : Bool :=
  decide ((pipeWeight i).1 < 4) && decide ((pipeWeight j).1 < 4) && (pipeWeight i).1 != (pipeWeight j).1

/-- The second instruction of a pair of a line: the one at npc, where the PAIR bit before it is set and the two may pair (R66, R67). -/
def pairedWith (words : List Word) (pc npc : DWord) (i : Instr) : Option Instr :=
  if npc.toNat / 64 = pc.toNat / 64 ∧ linePair words (npc.toNat % 64 / 4 - 1) = true then
    match readIns words npc with
    | .ok j => if pairs i j then some j else none
    | .error _ => none
  else none

/-- A counter that stands at n, which an instruction raises, and the second of its pair too, would exceed 63 (R69). -/
def past63 (n : Nat) (first second : Bool) : Bool := (first || second) && decide (63 < n + first.toNat + second.toNat)

/-- The thread's next instruction would raise a counter above 63 (R69); one whose guard is false raises none (R68). A pair is one issue slot,
which waits for room for both; the second's guard counts as true (R67). -/
def State.counterHeld (s : State) (t : Thread) : Bool :=
  match t.lineAt with
  | none => false
  | some u =>
    match readIns u.words t.pc with
    | .error _ => false
    | .ok i =>
      let on := guardHolds (guardIn i) t
      let j := pairedWith u.words t.pc (nextPc u.words t.pc) i
      past63 t.loads.length (on && raisesLc i) (j.any raisesLc) || past63 t.stores.length (on && raisesSc i) (j.any raisesSc) ||
        past63 (s.ccOf (t.gid, t.tid)) (on && raisesCc i) (j.any raisesCc)

/-- The core is open for the thread: its partition issues there, and its slice is current or it is in handler mode. -/
def State.mayIssue (s : State) (t : Thread) : Bool :=
  let g := s.group t.gid
  s.coreOpen g.core g.part && (g.current || t.handler)

def State.ready (s : State) (t : Thread) : Bool :=
  t.live && t.park == .ready && t.meet.isNone && (t.lineAt.map (fun u => !u.bad)).getD false && !(s.trapped t) && s.mayIssue t &&
  !(s.counterHeld t)

/-- The ready threads of a core. -/
def State.rdy (s : State) (core : Nat) : List Thread := s.threads.filter (fun t => (s.group t.gid).core == core && s.ready t)

/-! ### The picker (R63) -/

/-- The line of a thread is in the instruction cache of its core. -/
def State.affine (s : State) (core : Nat) (t : Thread) : Bool :=
  (t.lineAt.map (fun u => (s.coreSt core).icache.any (fun c => c.line == u.line))).getD false

/-- The group has a bundle partly formed: threads that gather for a meeting (R63; log entry 19). -/
def State.gathering (s : State) (g : Nat) : Bool := s.threads.any (fun t => t.gid == g && t.live && t.meet.isSome)

/-- The order of groups: deadline, code affinity, launch; groups of one launch by number. -/
def State.groupKey (s : State) (core : Nat) (ts : List Thread) (g : Nat) : List Nat :=
  let x := s.group g
  [x.deadline, if ts.any (fun t => t.gid == g && s.affine core t) || s.gathering g then 0 else 1, x.lid, g]

/-- The same kernel: the same code under the same launch terms. -/
def State.sameKernel (s : State) (g h : Nat) : Bool :=
  let x := s.group g
  let y := s.group h
  x.part == y.part && x.priv == y.priv && hdrEntry x.hdr == hdrEntry y.hdr && hdrW x.hdr 0 == hdrW y.hdr 0

def bundleMax (core : Nat) : Nat := if isControl core then 8 else 64

/-- The groups of ready threads in group order. -/
def State.groupOrder (s : State) (core : Nat) (ts : List Thread) : List Nat :=
  sortKey (s.groupKey core ts) ((ts.map (fun t => t.gid)).eraseDups)

/-- gather: the threads of the group at pc, then those of other groups of the kernel, each ascending. -/
def State.gatherAt (s : State) (core : Nat) (ts : List Thread) (g : Nat) (pc : DWord) (line : Option UsedLine) : List Ref :=
  let here := fun (h : Nat) => sortKey (fun (r : Ref) => [r.2])
    ((ts.filter (fun t => t.gid == h && t.pc == pc && t.lineAt == line)).map (fun t => (t.gid, t.tid)))
  let others := (s.groupOrder core ts).filter (fun h => h != g && s.sameKernel g h)
  (here g ++ others.flatMap here).take (bundleMax core)

/-- The lowest pc of a group among the ready threads. -/
def lowestPc (ts : List Thread) (g : Nat) : Option Thread :=
  (sortKey (fun (t : Thread) => [t.pc.toNat, t.tid]) (ts.filter (fun t => t.gid == g))).head?

/-- The thread from which the bundle grows: an aged one (R64), else the group order and the lowest pc. -/
def State.pickFirst (s : State) (core : Nat) (ts : List Thread) (aged : Bool) : Option Thread :=
  let old := if aged then ts.filter (fun t => decide (1024 ≤ t.age)) else []
  match (sortKey (fun (t : Thread) => [2 ^ 64 - t.age, t.tid, (s.group t.gid).lid, t.gid]) old).head? with
  | some t => some t
  | none =>
    match s.groupOrder core ts with
    | g :: _ => lowestPc ts g
    | [] => none

/-- The picker's roster of a bundle (R61): each virtual lane's place in it. -/
def State.setRosters (s : State) (refs : List Ref) : State :=
  refs.zipIdx.foldl (fun s p =>
    s.updWaveOf p.1 (fun w =>
      let n := s.waveW p.1.1
      let l := if w.roster.length = n then w.roster else List.range n
      { w with roster := l.set (s.laneOf p.1) p.2 })) s

/-- The bundle is chosen to issue; its threads take effect in ascending `%tid` (R51, R182), those of equal `%tid` in the order of gathering. -/
def State.latch (s : State) (core : Nat) (t : Thread) (refs : List Ref) (meeting : Option Bool) : State :=
  let words := (t.lineAt.map (fun u => u.words)).getD []
  let b : Bundle := { core := core, pc := t.pc, npc := nextPc words t.pc, refs := sortKey (fun (r : Ref) => [r.2]) refs, meeting := meeting,
                      lat := 0, second := false }
  let s := s.setRosters refs
  ({ s with bundle := some b, threads := s.threads.map (fun t =>
      if refs.contains (t.gid, t.tid) then { t with age := 0 } else t) } : State)

/-- A picker cycle: budgets fall (R396), and ready threads that do not issue age (R64). -/
def State.pickerCycle (s : State) (core : Nat) (ts : List Thread) (refs : List Ref) : State :=
  let live := fun (t : Thread) => ts.any (fun u => u.gid == t.gid && u.tid == t.tid)
  { s with
    threads := s.threads.map (fun t => if live t && !(refs.contains (t.gid, t.tid)) then { t with age := t.age + 1 } else t),
    groups := s.groups.map (fun (g : Group) =>
      if g.core = core ∧ g.current = true ∧ ts.any (fun t => t.gid == g.gid) = true then { g with left := g.left - 1 } else g) }

/-- What the watchdog counts (R429): since when the core has had a ready thread and issued nothing, and since when each handler-mode
thread has been ready without an issue. `ts` are the ready threads, `refs` those that issue in this cycle. -/
def State.watch (s : State) (core : Nat) (ts : List Thread) (refs : List Ref) : State :=
  let now := s.rawClk core
  let idle := !ts.isEmpty && refs.isEmpty
  let s : State := if (s.coreSt core).stalled.isSome = idle then s else
    s.updCore core (fun c => { c with stalled := if idle then some now else none })
  { s with threads := s.threads.map (fun t =>
      if (s.group t.gid).core != core then t
      else if t.handler && ts.any (fun u => u.gid == t.gid && u.tid == t.tid) && !(refs.contains (t.gid, t.tid)) then
        (if t.stood.isSome then t else { t with stood := some now })
      else if t.stood.isSome then { t with stood := none } else t) }

/-- Ordinary issue of the core's partition is blocked by its activity (R399). -/
def State.blockedFor (s : State) (core : Nat) (ts : List Thread) : Option Nat :=
  match ts with
  | t :: _ => let q := (s.group t.gid).part; if s.actFull core q then some q else none
  | [] => none

/-- One cycle of the picker of a core, the k-th of the present moment. -/
def State.pick (s : State) (core k : Nat) : State :=
  let ts := s.rdy core
  let hs := ts.filter (fun t => t.handler)
  if !hs.isEmpty then
    match s.pickFirst core hs false with
    | none => s
    | some t =>
      let refs := s.gatherAt core hs t.gid t.pc t.lineAt
      (s.watch core ts refs).latch core t refs none
  else
    match s.blockedFor core ts with
    | some q => (s.watch core ts []).countBlocked core q k
    | none =>
      match s.pickFirst core ts true with
      | none => s.watch core ts []
      | some t =>
        let refs := s.gatherAt core ts t.gid t.pc t.lineAt
        ((s.watch core ts refs).pickerCycle core ts refs).latch core t refs none

/-! ### Meetings (R155, R156) -/

/-- How a named lane stands to a held thread's meeting. -/
inductive Role where
  | present
  /-- Absent; `part` says that the state sets MEETPART. -/
  | absent (part : Bool)
  | running
deriving DecidableEq, Repr

/-- The table of R155. A thread in the other mode is absent without MEETPART whatever else holds of it: where two rows of the table apply,
the mode decides (DESIGN CHOICE, log entry 19). -/
def State.role (s : State) (t : Thread) (lane : Nat) : Role :=
  let w := s.waveW t.gid
  let r : Ref := (t.gid, t.tid / w * w + lane)
  let u := s.thread r
  if !(s.hasThread r) || !u.live then .absent false
  else if u.handler != t.handler then .absent false
  else
    match u.meet with
    | some _ => if u.pc = t.pc then (if u.meet = t.meet then .present else .absent false) else .absent true
    | none => if u.park.counts then .absent true else .running

/-- The roles of the lanes that a held thread's mask names. -/
def State.roles (s : State) (t : Thread) : List Role :=
  ((List.range 64).filter (fun l => (t.meet.getD 0).getLsbD l)).map (s.role t)

/-- The threads present at a held thread's meeting, ascending. -/
def State.presentAt (s : State) (t : Thread) : List Ref :=
  let w := s.waveW t.gid
  sortKey (fun (r : Ref) => [r.2]) ((s.threads.filter (fun u =>
    u.gid == t.gid && u.tid / w == t.tid / w && u.live && u.handler == t.handler && u.pc == t.pc && u.meet == t.meet && t.meet.isSome)).map
      (fun u => (u.gid, u.tid)))

/-- When the meeting of a held thread formed: the stamp of a thread present (R156). -/
def State.formedAt (s : State) (t : Thread) : Option Nat := (s.presentAt t).findSome? (fun r => (s.thread r).formed)

/-- The meeting of a held thread forms: no named lane is running (R155). -/
def State.forms (s : State) (t : Thread) : Bool :=
  t.live && t.meet.isSome && t.formed.isNone && s.coreOpen (s.group t.gid).core (s.group t.gid).part &&
  ((s.formedAt t).isSome || (s.roles t).all (fun x => x != .running))

/-- The meetings of a core that form in this cycle are stamped with it; a meeting once formed stays formed, and a thread that comes to stand
at it before it issues is present too (R155, R156; log entry 19). -/
def State.stampMeetings (s : State) (core k : Nat) : State :=
  { s with threads := s.threads.map (fun t =>
      if (s.group t.gid).core == core && s.forms t then { t with formed := some ((s.formedAt t).getD (2 * s.now + k)) } else t) }

/-- The formed meeting of a held thread may issue: the lines of the threads present are fetched, and its slice is current. -/
def State.formed (s : State) (t : Thread) : Bool :=
  t.live && t.formed.isSome && s.mayIssue t &&
  (s.presentAt t).all (fun r => ((s.thread r).lineAt.map (fun u => !u.bad)).getD false)

/-- The order among formed meetings of a core: handler mode first, the earliest formed, then the group order and the lowest lane; among
waves of one group the lower `%tid` (DESIGN CHOICE, log entry 19). -/
def State.meetKey (s : State) (t : Thread) : List Nat :=
  let x := s.group t.gid
  [if t.handler then 0 else 1, t.formed.getD 0, x.deadline, x.lid, x.gid, t.tid]

/-- The next meeting of a core that issues. -/
def State.meetNext (s : State) (core : Nat) : Option Thread :=
  (sortKey s.meetKey (s.threads.filter (fun t => (s.group t.gid).core == core && s.formed t))).head?

/-- A named lane is absent in a state that R155 marks. -/
def State.meetPart (s : State) (t : Thread) : Bool := (s.roles t).any (fun x => x == .absent true)

/-- Meetings form, and the first of them issues in place of a bundle, unless handler-mode threads or the activity hold it back. -/
def State.meetingForm (s : State) (core k : Nat) : State :=
  let s := s.stampMeetings core k
  match s.meetNext core with
  | none => s
  | some t =>
    let refs := s.presentAt t
    let ts := s.rdy core
    if t.handler then (s.watch core ts refs).latch core t refs (some (s.meetPart t))
    else if ts.any (fun u => u.handler) then s
    else if s.actFull core (s.group t.gid).part then s.countBlocked core (s.group t.gid).part k
    else ((s.watch core ts refs).pickerCycle core ts refs).latch core t refs (some (s.meetPart t))

/-! ### Lines (R36, R62, R473) -/

/-- The thread needs the line at its pc; one that is held for a meeting needs it whatever causes stand (R160). -/
def State.needsLine (s : State) (t : Thread) : Bool :=
  t.live && t.park == .ready && t.lineAt.isNone && (t.meet.isSome || !(s.trapped t)) && s.coreOpen (s.group t.gid).core (s.group t.gid).part

def State.lineFetch (s : State) (r : Ref) : State :=
  let t := s.thread r
  match s.fetch (s.partOf r) (s.coreOf r) t.pc.toNat with
  | (.cause c, s) => (s.upd r (fun t => { t with park := .unfetched c, parkPc := t.pc, line := none })).raiseAt r c (some t.pc)
  | (.line line ws, s) =>
    s.upd r (fun t => { t with line := some { va := t.pc.toNat / 64 * 64, line := line, words := ws, bad := !parityGood ws } })

/-- The line at the thread's pc is not in the instruction cache and waits on its way (R20, R208). -/
def State.lineHeld (s : State) (r : Ref) : Bool := s.fetchHeld (s.partOf r) (s.coreOf r) (s.thread r).pc.toNat

def State.lineRefetch (s : State) (r : Ref) (u : UsedLine) : State :=
  let (ws, s) := s.refetch (s.coreOf r) u.line
  if parityGood ws then s.upd r (fun t => { t with line := some { u with words := ws, bad := false } })
  else s.raiseHalt (s.partOf r) 3 (s.coreOf r) r.1

/-! ### Waking (R84, R423 and the chapters of the waits) -/

/-- A wait ends and the thread stands at its instruction again. -/
def State.again (s : State) (r : Ref) : State := s.upd r (fun t => { t with park := .ready, pc := t.parkPc })

/-- The first taker of a mailbox in arrival order. -/
def State.firstTaker (s : State) (n : Nat) : Option Ref :=
  s.mailQueue.find? (fun q =>
    match (s.thread q).park with
    | .mailTake k _ _ => k == n
    | _ => false)

/-- MBTAKE of a parked thread. -/
def State.takeMail (s : State) (r : Ref) (n ea : Nat) (d : Reg) : Option State :=
  if s.firstTaker n != some r || !(s.mailbox n).full || s.mailForeign (s.partOf r) n then none
  else
    let s : State := { s with mailQueue := s.mailQueue.filter (fun q => q != r) }
    match s.check r .core ea 64 64 true false with
    | .error c => some ((s.wake r).raiseAt r c (some (s.thread r).parkPc))
    | .ok (w, s) => some ((s.wake r).mailTake r n w d)

/-- The instruction reaches memory through a line or a header, which may wait on its way (R20, R208). -/
def fetches : Instr → Bool
  | .braCompact _ | .bra _ _ | .brx _ _ _ | .callCompact _ | .call _ _ | .callx _ _ _ | .ret _ | .tret _ | .launch _ _ _ _ | .nodegoCfg _ _ _ _ => true
  | _ => false

/-- What holds a bundle at its instruction has passed: the earlier operations of its threads are performed, and no repair and no change of domains
keeps what it fetches (log entry 5). -/
def State.bundleFree (s : State) (b : Bundle) : Bool :=
  b.refs.all (fun r => !((s.thread r).live && s.owes r)) && (!(b.ins.any fetches) || (s.repair.isEmpty && s.domNew.isEmpty))

/-- The held bundle of a thread goes on at its instruction, with all its threads. -/
def State.bundleGo (s : State) (r : Ref) : Option State :=
  match s.waiting.find? (fun b => b.refs.contains r) with
  | none => some (s.again r)
  | some b =>
    if s.bundleFree b then some { b.refs.foldl State.wake s with bundle := some b, waiting := s.waiting.filter (fun x => x != b) } else none

/-- The state after a parked thread's wait has ended; none while it goes on, or where another event ends it. -/
def State.unpark (s : State) (r : Ref) : Option State :=
  let t := s.thread r
  match t.park with
  | .wait l sc c m => if s.waitMet r l sc c m then some (s.wake r) else none
  | .slotw e j d =>
    match s.myEng r e with
    | none => some (s.again r)
    | some b => if s.slotMine b j then some ((s.wake r).put r d (slotAddr b j)) else none
  | .tag all m d =>
    let c := (s.ctxOf r).ctag
    if tagMet all c m then some ((s.wake r).put64 r d (c &&& m)) else none
  | .fbar => if t.iinvLeft then none else some (s.fbarDone r)
  | .sefree e d => if s.boxesOut (s.coreOf r) (s.partOf r) e = 0 then some ((s.wake r).sefreeDone r e d) else none
  | .mxrun d addr n => if s.mxFull r.1 || !(s.mxFirst r) then none else some (s.mxrunWake r d addr n)
  | .obrel d n => if s.heldRange r.1 n false then none else some ((s.wake r).obrel r d n)
  | .rowdist lock row x0 =>
    match s.lockById lock with
    | none => none
    | some _ =>
      match (s.die (s.dieOf r)).display with
      | some x => if row - x.nl < 256 then some ((s.wake r).pushStore r (.rowput lock row x0)) else none
      | none => some ((s.wake r).pushStore r (.rowput lock row x0))
  | .mail bank m d => (s.mailFull (s.partOf r) bank m).map (fun n => (s.wake r).put r d (BitVec.ofNat 32 n))
  | .mailTake n ea d => s.takeMail r n ea d
  | .record node d =>
    if node ≠ 1023 ∧ (s.node (s.dieOf r) (s.partOf r) node).isNone then some (s.again r)
    else (s.wake r).recTake r node d
  | .ctx op d q m => s.ctxTry r op d q m
  | .draw lock d => s.drawDone r lock d
  | .path lock d => s.pathDone r lock d
  | .settle => s.bundleGo r
  | .tagFull tag => if (s.ctxOf r).tagCnt.getD tag 0 < 65535 then some (s.again r) else none
  | .hitr st d => if t.tracing then none else some ((s.wake r).hitrGo r st d)
  | .barSoon clu n a => if t.barLeft clu n then none else some (s.bwaitGo r clu n a)
  | .pgmap d va pa attr => if t.unperformed then none else some ((s.wake r).pgmapDone r d va.toNat pa.toNat attr)
  | .pgunmap d va => if t.unperformed then none else some (s.pgunmapGo r d va.toNat)
  | .pgunmapped d ws => if s.flown ws then some ((s.wake r).put r d 0) else none
  | .ready | .sleep _ | .yielded | .unfetched _ | .word | .bar _ _ | .barArrive _ _ | .fence _ _ | .lfence | .lfenceArray _ | .efence _ _
  | .domset _ | .laydivw _ | .lockReg _ => none

/-- A wake takes place while the partition holds the thread's core and is not contained (R430, R442). -/
def State.mayWake (s : State) (t : Thread) : Bool :=
  t.live && !(s.part (s.group t.gid).part).contained && s.holds (s.group t.gid).core (s.group t.gid).part

/-! ### Registrations (R221) -/

/-- The first waiting registration of a die that may go ahead; those of the other die that stand before it hold entries back too. -/
def State.regFirst (s : State) (die : Nat) : Option LockOp :=
  (s.regQueue.zipIdx.find? (fun p =>
    p.1.die == die && s.holds p.1.core p.1.part && s.lockReady (s.regQueue.take p.2) p.1)).map (fun p => p.1)

/-- What follows a registration. -/
def State.registered (s : State) (op : LockOp) : State :=
  let s := s.lockIssue op
  match op.kind with
  | .copy | .copyT _ _ => s.wake (op.gid, op.tid)
  | .box _ _ => s
  | .rowput row x0 => s.rowputGo op row x0
  | .draw n d => s.drawOpen op n d
  | .path n d => s.pathOpen op n d
  | .ring id d => s.ringOpen op id d

/-! ### Meanings -/

/-- R156: core a, its b-th cycle of this moment; meetings form, and the next formed one is taken. -/
def execMeetingForm (s : State) : Host.Outcome State Fault Refusal :=
  .next (if s.bundle.isSome then s else s.meetingForm s.arg.a s.arg.b)

/-- R63: core a, its b-th cycle of this moment. -/
def execPick (s : State) : Host.Outcome State Fault Refusal := .next (if s.bundle.isSome then s else s.pick s.arg.a s.arg.b)

/-- R36, R473: group a, thread b. -/
def execLineFetch (s : State) : Host.Outcome State Fault Refusal :=
  .next (let r : Ref := (s.arg.a, s.arg.b); if s.needsLine (s.thread r) && !(s.lineHeld r) then s.lineFetch r else s)

/-- R36: group a, thread b; the line that failed parity is fetched afresh. -/
def execLineRefetch (s : State) : Host.Outcome State Fault Refusal :=
  .next (
    let r : Ref := (s.arg.a, s.arg.b)
    match (s.thread r).lineAt with
    | some u => if u.bad then s.lineRefetch r u else s
    | none => s)

/-- R84 and the other waits: group a, thread b. -/
def execThreadUnpark (s : State) : Host.Outcome State Fault Refusal :=
  .next (let r : Ref := (s.arg.a, s.arg.b); if s.mayWake (s.thread r) then (s.unpark r).getD s else s)

/-- R85: group a, thread b. -/
def execSleepWake (s : State) : Host.Outcome State Fault Refusal :=
  .next (
    let r : Ref := (s.arg.a, s.arg.b)
    match (s.thread r).park with
    | .sleep wake => if wake ≤ s.dtb then s.wake r else s
    | _ => s)

/-- A thread stands at an issue boundary: not in a meeting, not in the bundle that issues, not parked but for a line that could not be
fetched, whose own cause is enabled (R422, R423, R473). -/
def State.atBoundary (s : State) (t : Thread) : Bool :=
  t.live && t.meet.isNone &&
  (match t.park with
   | .ready => true
   | .unfetched c => (s.waveOf (t.gid, t.tid)).cause &&& (s.waveOf (t.gid, t.tid)).tmask &&& causeBit c != 0
   | _ => false) &&
  !((s.bundle.map (fun b => b.refs.contains (t.gid, t.tid))).getD false) && s.coreOpen (s.group t.gid).core (s.group t.gid).part

/-- R422: group a, thread b. -/
def execHandlerEntry (s : State) : Host.Outcome State Fault Refusal :=
  .next (
    let r : Ref := (s.arg.a, s.arg.b)
    if s.trapped (s.thread r) && s.atBoundary (s.thread r) then s.enterHandler r else s)

/-- TAGS that the thread issued before the operation numbered k is still to be performed. -/
def Thread.tagsBefore (t : Thread) (k : Nat) : Bool := t.storeOps.any (fun p => decide (p.2 < k) && (p.1 matches .tags _ _ _))

/-- The oldest load of a thread reaches its registers and leaves the list. -/
def Thread.loaded (t : Thread) (d : Reg) (ws : List Word) : Thread := { t.setBlock d ws with loads := t.loads.tail }

/-- The oldest load of a thread leaves the list and writes nothing. -/
def Thread.refused (t : Thread) : Thread := { t with loads := t.loads.tail }

/-- R68, R70, R180: group a, thread b; its oldest load, if no atomic or trace, reaches its registers; a transfer on a vertical bus waits for the
repair of its column (R20). One that stood behind earlier operations of its thread, behind a repair or at its slice (R208) is performed now, or
refused in a Vat part that has been closed since it issued (R346). -/
def execLoadComplete (s : State) : Host.Outcome State Fault Refusal :=
  .next (
    let r : Ref := (s.arg.a, s.arg.b)
    let t := s.thread r
    match t.loads with
    | .value d ws :: _ => s.upd r (fun t => t.loaded d ws)
    | .fetched pa d ws :: _ => if s.repairs pa then s else s.upd r (fun t => t.loaded d ws)
    | .record d w :: _ => (s.upd r (fun t => t.loaded d [w])).emptyRecord r
    | .late req d o loc n f :: _ =>
      if t.behind t.loadNo loc n || s.repairsAt (placeOf loc) || !(s.l2May (s.partOf r) req) then s
      else if s.closedAt (placeOf loc) then (s.refuseLate r).upd r Thread.refused
      else
        let s := s.acquireAt r o (placeOf loc)
        s.upd r (fun t => t.loaded d (f.words (s.readAt (s.coreOf r) (placeOf loc) n)))
    | .tagq d loc n :: _ =>
      if t.tagsBefore t.loadNo || t.acquiring t.loadNo then s else s.upd r (fun t => t.loaded d [s.fullBits loc n])
    | .binit d clu n e :: _ =>
      if t.barBefore t.loadNo clu n then s
      else (s.upd r (fun t => t.loaded d [BitVec.ofNat 32 (s.binitStatus r clu n e)])).binitDo r clu n e
    | .bqry d clu n :: _ =>
      if t.barBefore t.loadNo clu n then s
      else (if s.bqryFree r clu n then s.drawn else s).upd r (fun t => t.loaded d [s.bqryVal r clu n])
    | .atomic _ _ :: _ | .trace _ _ _ _ :: _ | [] => s)

/-- R68, R180, R189: group a, thread b; its oldest store, if it is a plain one, a write or TAGS, is performed. One through a column under
repair waits (R20), a write and TAGS for what they stand behind, and a write for those of the lower threads of its bundle (R182). -/
def execStorePerformed (s : State) : Host.Outcome State Fault Refusal :=
  .next (
    let r : Ref := (s.arg.a, s.arg.b)
    let t := s.thread r
    match t.stores with
    | .store _ pa :: _ => if (pa.map s.repairs).getD false then s else s.upd r Thread.popStore
    | .write bun sc rel loc bs :: _ =>
      if t.behind t.storeNo loc bs.length || (rel && !(t.doneBefore t.storeNo)) || s.lowerWrites bun r loc bs.length ||
          (((placeOf loc).pa).map (s.pathHeld (s.partOf r))).getD false then s
      else (s.upd r Thread.popStore).storeNow r sc rel (placeOf loc) bs
    | .tags loc cnt full :: _ => if t.doneBefore t.storeNo then (s.upd r Thread.popStore).tagsDone r loc cnt full else s
    | _ => s)

/-- R188: group a, thread b; a wait on a full/empty word or a slot of more than 2^24 cycles. -/
def execFewaitTimeout (s : State) : Host.Outcome State Fault Refusal :=
  .next (
    let r : Ref := (s.arg.a, s.arg.b)
    let t := s.thread r
    if !(t.park matches .word | .slotw _ _ _) || t.counted || decide (s.rawClk (s.coreOf r) - t.since ≤ 2 ^ 24) then s
    else
      let s := (s.setCause r causeFewait).upd r (fun t => { t with counted := true })
      if s.enters r causeFewait then
        ({ s with feQueue := s.feQueue.filter (fun q => !(q.gid == r.1 && q.tid == r.2)) } : State).again r
      else s)

/-- R221: die a; the first registration in order that may go ahead takes its entry. -/
def execLockEntryRegister (s : State) : Host.Outcome State Fault Refusal :=
  .next (
    match s.regFirst s.arg.a with
    | none => s
    | some op =>
      let s : State := { s with regQueue := s.regQueue.filter (fun l => l.id != op.id) }
      if op.again then s.lockAdd op else s.registered op)

end Sys2Proof.Machine
end

