-- ==== Sys2Proof/Machine/Boundary.lean ====
section
/-! DEFINITION. What reaches the machine from outside its cores (01, 18, 19, 23): the halt line, containment and resumption, heat and
power, spares and repair, the host's writes, memory accesses and snoops, attestation, and the resets of the device and of a partition. Each
event is the environment's; its docstring says what it carries (log entry 3). -/

namespace Sys2Proof.Machine

/-! ### Halts (R429 to R431) -/

/-- The groups that a halt's fault names: with code 4 those of the core, else the one group. -/
def State.haltNames (s : State) (q : Nat) : List Nat :=
  let p := s.part q
  ((s.groups.filter (fun g => g.part == q && (if p.haltCode = 4 then g.core == p.haltCore else g.gid == p.haltGid))).map (fun g => g.gid))

/-- R430 steps 4 and 5: the faulting groups are killed, and the others resume; wait counts stood still, those of a context that is saved away
from its save to its restore. -/
def State.resume (s : State) (q : Nat) : State :=
  let s := (s.haltNames q).foldl (fun s g => s.killGroup g true true) s
  let dt := fun (core : Nat) =>
    if isControl core then s.now * 17 / 13 - (s.part q).haltNow.getD 2 0 * 17 / 13
    else s.dieClk (dieOfCore core) - (s.part q).haltNow.getD (dieOfCore core) 0
  let s : State := { s with
    threads := s.threads.map (fun t =>
      let g := s.group t.gid
      if g.part = q ∧ s.holds g.core q = true then { t with since := t.since + dt g.core } else t),
    groups := s.groups.map (fun g => if g.part = q ∧ s.holds g.core q = true then { g with stream := g.stream.map (fun x => x.standLater (dt g.core)) } else g) }
  s.updPart q (fun p => { p with contained := false })

/-- A halt with a reason code of R429. -/
def State.halt (s : State) (q code core gid : Nat) : State :=
  if 1 ≤ code ∧ code ≤ 5 ∧ q < 4 then s.raiseHalt q code core gid else s

/-! ### Clocks (R13, R30) -/

/-- The die's clock runs on at full or half rate from now on. -/
def State.setHalf (s : State) (d : Nat) (half : Bool) : State :=
  let n := s.dieClk d
  s.updDie d (fun x => { x with clkBase := n, clkNow := s.now, half := half })

/-! ### The host's registers (R386, R456 to R458) -/

/-- PSTATE of a partition: 0 off, 1 running, 2 halted, 3 in reset. -/
def State.pstate (s : State) (q : Nat) : Nat :=
  let p := s.part q
  if s.inReset then 0
  else if p.inReset then 3
  else if p.contained then 2
  else if p.clusters = 0 ∧ p.controls = 0 then 0 else 1

/-- A host write to a mailbox is dropped. -/
def State.mailDrops (s : State) (n : Nat) : Bool :=
  s.inReset || decide (255 < n) || (s.mailbox n).full || (s.part (s.mailbox n).part).inReset

/-- Replace message bytes from an offset on. -/
def putMsg (m : List (Nat × Byte)) (off : Nat) : List Byte → List (Nat × Byte)
  | [] => m
  | b :: bs => putMsg (Cells.put m off b) (off + 1) bs

/-- The bits of HMRING that a write keeps. -/
def hmKeep : DWord := 0xFFFFFFFFFFFFF01F

/-- The ring that a word describes can be enabled (R458). -/
def ringOk (w : DWord) : Bool :=
  decide (2 ≤ bitsOf w 4 1) && decide (bitsOf w 4 1 ≤ 12) && decide (w.toNat / 4096 * 4096 + 128 * 2 ^ bitsOf w 4 1 + 8 ≤ 2 ^ 51)

/-- A write to HMRING. -/
def HostBox.write (b : HostBox) (w : DWord) : HostBox :=
  let ring :=
    if b.on then (if w.getLsbD 0 then b.ring else b.ring &&& ~~~1#64)
    else if w.getLsbD 0 && !(ringOk (w &&& hmKeep)) then w &&& hmKeep &&& ~~~1#64
    else w &&& hmKeep
  { b with ring := ring, prod := if w.getLsbD 0 then 0 else b.prod }

/-- The word of BAR0 at a multiple of four, as the host reads it (R386, R456); a message reads 0, like every byte not listed, and until bring-up is
done every one does (R469). -/
def State.bar0Word (s : State) (off : Nat) : Word :=
  let half := fun (d : DWord) => if off % 8 = 0 then lo32 d else hi32 d
  if s.inReset then 0
  else if off < 0x8000 then
    let m := s.mailbox (off / 128)
    if off % 128 = 64 then (boolW m.full <<< 31) ||| m.tag.setWidth 32 else 0
  else if off < 0x8010 then half (s.ptm.getD ((off - 0x8000) / 8) 0)
  else if off = 0x8010 then s.rstreq
  else if off = 0x8014 then BitVec.ofNat 32 (s.pstate 0 + 4 * s.pstate 1 + 16 * s.pstate 2 + 64 * s.pstate 3)
  else if 0x9000 ≤ off ∧ off < 0x9400 then
    let b := s.hostBox ((off - 0x9000) / 16)
    if off % 16 < 8 then half b.ring else if off % 16 = 8 then (if b.part < 4 then BitVec.ofNat 32 b.part else 0xFFFFFFFF) else 0
  else 0

/-! ### Host accesses to device memory (R464) -/

/-- The LPDDR 6 context slots of the four partitions (R22; log entry 11). -/
def slotBase : Nat := 0x3FA0000000
def slotSize : Nat := 0x10000000

/-- The journals of the four partitions, of 2^10 entries each (R388; log entry 11). -/
def journalBase : Nat := 0x3FE0000000
def journalSize : Nat := 0x10000

/-- Firmware's reserved regions of LPDDR 6, from before any partition is released: the held images of both dies, the context slots and the
journals (log entry 11). -/
def reserved (pa : Nat) : Bool :=
  inRange (heldBase 0, 2 * heldRoom) pa || inRange (slotBase, 4 * slotSize) pa || inRange (journalBase, 4 * journalSize) pa

/-- The host writes bytes; those of reserved regions and beyond the fitted memory are dropped. -/
def State.hostWrite (s : State) (pa : Nat) : List Byte → State
  | [] => s
  | b :: bs =>
    let t : State :=
      if reserved pa || decide (fittedLpddr ≤ pa) then s
      else
        let s := s.settle pa
        { s with mem := s.mem.write pa b, l2 := Cells.del s.l2 pa 1, ways := Cells.del s.ways pa 1 }
    t.hostWrite (pa + 1) bs

/-- What the host reads of a byte: 0 in reserved regions and beyond the fitted memory (R464), else what stands below the core data caches: the
host sees writes of the device under the rules of R277 alone (R455). -/
def State.hostRead (s : State) (pa : Nat) : Byte := if reserved pa || decide (fittedLpddr ≤ pa) then 0 else s.below pa

/-- The host writes bytes of its own memory. -/
def State.hostOwn (s : State) (pa : Nat) : List Byte → State
  | [] => s
  | b :: bs => State.hostOwn (if isHost pa then { s with mem := s.mem.write pa b } else s) (pa + 1) bs

/-! ### Measurement and attestation (R466, R468) -/

/-- A measurement register, as the number of its bytes read little-endian. -/
def State.measured (s : State) (k : Nat) : Nat := ((s.measure.find? (fun m => m.1 == k)).map (fun m => m.2)).getD 0

/-- An image's digest is extended into a register (R466). -/
def State.measureInto (s : State) (k digest : Nat) : State :=
  { s with measure := s.measure.filter (fun m => m.1 != k) ++ [(k, sha3 (toBytes 32 (s.measured k) ++ toBytes 32 digest))] }

/-- The ROM's image is outside the spec: its digest is a free value (log entry 10). -/
def State.measureRom (s : State) : State :=
  { s.measureInto 0 (ofBytes ((List.range 4).flatMap (fun i => toBytes 8 (Config.freeWord (s.draws + i)).toNat))) with draws := s.draws + 4 }

/-- A register is zero (R466). -/
def State.measureZero (s : State) (k : Nat) : State := { s with measure := s.measure.filter (fun m => m.1 != k) }

/-- An image's header: length, version and digest, in this order (R465; the layout is the model's choice, log entry 11). -/
def imageHeader (i : Image) : List Byte := toBytes 8 i.length ++ toBytes 8 i.version ++ toBytes 32 i.digest

/-- An image is verified (R465): its body has the length and the digest of its header, its version is not below the rollback counter, and its
signature verifies. -/
def State.verified (s : State) (i : Image) : Bool :=
  i.length == i.body.length && decide (s.rollback ≤ i.version) && i.digest == sha3 i.body && Config.verifies (imageHeader i) i.sign

/-- BPC of a power class. -/
def bpcOf (c : Nat) : Nat := if c = 120 then 0 else if c = 150 then 1 else if c = 220 then 2 else 3

/-- Bytes 0 to 1,567 of a report. -/
def State.reportBody (s : State) (nonce : List Byte) : List Byte :=
  toBytes 4 1 ++ toBytes 4 1568 ++ (nonce ++ List.replicate 32 0).take 32 ++ toBytes 32 (s.measured 0) ++ toBytes 32 (s.measured 1) ++
  ((List.range 4).map (fun q => toBytes 32 (s.measured (2 + q)))).flatten ++ toBytes 8 s.rollback ++ toBytes 1 (bpcOf s.powerClass) ++
  List.replicate 7 0 ++ bytesOfWord (s.sparesOf 0) ++ bytesOfWord (s.sparesOf 1) ++ (List.range 1312).map Config.publicKey

/-- The whole report, with its signature. -/
def State.report (s : State) (nonce : List Byte) : List Byte :=
  let body := s.reportBody nonce
  body ++ (List.range 2420).map (Config.signature body) ++ List.replicate 108 0

/-! ### Resident programs, releases and resets (R21, R421, R469, R470) -/

/-- The GINIT values of a resident program's header, read through the partition's page tables; one that cannot be read is zero (R390, R451;
log entry 17). -/
def State.residentGinit (s : State) (q core : Nat) (h : List Word) : List DWord :=
  (List.range (hdrNG h)).map (fun i =>
    match s.page q core ((hdrGinit h).toNat + 8 * i) 8 .read with
    | .error _ => 0
    | .ok (_, pa) => BitVec.ofNat 64 (s.entryAt pa))

/-- The launch of a resident program, of one group. -/
def State.residentLaunch (s : State) (q core : Nat) (h : List Word) : Launch :=
  { id := s.serial, seq := noRef, part := q, prio := 0, hdr := h, hdrVa := 0, ginit := s.residentGinit q core h, next := 0, total := 1, live := 0,
    dl := none, time := s.dtb, requeue := [], failed := false, why8 := false, die := none, node := none, recs := [], poss := [], raised := [],
    resident := true }

/-- Firmware starts a resident program: one privileged group of the header given, on a core. It stands in the list of launches, so that a killed one
may be relaunched (R431). Without a header nothing starts. -/
def State.startResident (s : State) (q core : Nat) (bytes : List Byte) : State :=
  if bytes.length ≠ 128 then s
  else
    let l := s.residentLaunch q core (wordsOfBytes bytes)
    ({ s.bump with launches := s.launches ++ [l] } : State).startGroup l 0 0 core none

/-- A verified program of a partition is measured and starts from the header at the start of its body (R465, R466); with a refused one the
partition stays in reset (log entry 11). -/
def State.programRuns (s : State) (q core : Nat) (i : Image) : State :=
  if s.verified i then ((s.measureInto (2 + q) i.digest).updPart q (fun p => { p with inReset := false })).startResident q core (i.body.take 128)
  else s.updPart q (fun p => { p with inReset := true })

/-- Every group of a partition is killed without relaunch, with a failed entry for each launch; its launches, nodes, locks and domain changes are
gone, its fixed-node slots are FREE, and its mailboxes and host rings hold their reset values (R386, R431, R458, R470). -/
def State.clearPart (s : State) (q : Nat) : State :=
  let mine := (s.groups.filter (fun g => g.part == q)).map (fun g => g.gid)
  let s := mine.foldl (fun s g => s.killGroup g false true) s
  { s with
    launches := s.launches.filter (fun l => l.part != q), nodes := s.nodes.filter (fun n => n.part != q),
    locks := s.locks.filter (fun l => l.part != q), regQueue := s.regQueue.filter (fun l => l.part != q),
    ctxs := s.ctxs.filter (fun c => c.part != q), csets := s.csets.filter (fun c => c.part != q),
    domNew := s.domNew.map (fun b => (b.1, b.2.1, b.2.2.filter (fun e => e.1 != q))),
    dies := s.dies.map (fun (d : Die) =>
      { d with draws := d.draws.map (fun w => if w.part = q then w.freed else w), paths := d.paths.map (fun w => if w.part = q then w.freed else w) }),
    mailboxes := s.mailboxes.map (fun m => if m.part = q then { m with full := false, tag := 0 } else m),
    hostBoxes := s.hostBoxes.map (fun b => if b.part = q then { b with ring := 0, prod := 0 } else b) }

/-- The banks above a partition's clusters, as ranges of their scratchpad part (R196, R470). -/
def Part.banks (p : Part) : List (Nat × Nat) :=
  ((List.range 128).filter (fun n => p.clusters.getLsbD (n / 8))).map (fun n =>
    (0x2000000000000 + n * 0x2000000, 0x2000000 - layWays p.laydiv * 0x200000 - layShadow p.laydiv * 0x80000))

/-- The explicit memories that outlive groups, and the layer-SRAM scratchpad, are zero; what an enabled row engine's Vat holds stays
(R345, R470). -/
def State.zeroPart (s : State) (q : Nat) : State :=
  let p := s.part q
  let win := (List.range 2).map (fun d => let w := p.window.getD d (0, 0); (locChip d w.1, w.2))
  let own := (List.range 128).flatMap (fun n => [(locObuf n q 0, 2 ^ 20), (locAcc n q 0, 2 ^ 20)])
  let ranges := win ++ own ++ p.banks
  { s with mem := s.mem.filter (fun c => s.vatClosed c.1 || !(ranges.any (fun r => decide (r.1 ≤ c.1) && decide (c.1 < r.1 + r.2)))) }

/-- Clocks of the partition's cores, but for one that another partition holds, read 0, and their caches are empty (R30). -/
def State.coresFresh (s : State) (q : Nat) : State :=
  ((List.range 160).filter (fun n => (s.part q).hasCore n && !((List.range 4).any (fun p => p != q && s.holds n p)))).foldl (fun s n =>
    (s.flushCore q n).updCore n (fun c => { c with clkZero := s.rawClk n, icache := [], occupied := 0, busyTo := 0, stalled := none })) s

/-- A row engine is enabled on a die on which the partition has a cluster or the output: its VAT field stands (R196, R344). -/
def State.vatStands (s : State) (p : Part) : Bool := (List.range 2).any (fun d => (s.die d).display.isSome && p.onDie d)

/-- The division to which a reset returns: firmware's (R470), but for the VAT field that stands (R344). Where firmware's ways leave the standing Vat
no room, the whole division stands (DESIGN CHOICE, log entry 11). -/
def Part.layBack (p : Part) (stands : Bool) : Word :=
  let mix := (p.laydivCfg &&& 0xF81FFFFF) ||| (p.laydiv &&& 0x07E00000)
  if !stands then p.laydivCfg else if layValid mix then mix else p.laydiv

/-- The weight image of the displays whose output a partition holds is 0 (R339). -/
def State.clearWeights (s : State) (q : Nat) : State :=
  { s with dies := s.dies.map (fun (d : Die) =>
      if (s.outputOf d.die).any (fun p => p.part == q) then { d with display := d.display.map (fun x => { x with weights := 0 }) } else d) }

/-- R470, steps 1 to 4; a zeroing that has begun goes on (R215). The domain returns to the value that firmware assigned although a DOMSET may since
have given another partition some of its slices: the overlap stands until a DOMSET or a release ends it (DESIGN CHOICE, log entry 28). -/
def State.resetPart (s : State) (q : Nat) : State :=
  let s := (((s.clearPart q).coresFresh q).zeroPart q).clearWeights q
  let s := s.updPart q (fun p =>
    { p with laydiv := p.layBack (s.vatStands p), domain := p.domainCfg, laydivNew := [], jseq := 0, refs := [],
             contained := false, stopped := false, stops := [], inReset := true, saved := [] })
  ({ s with rstreq := s.rstreq &&& ~~~(BitVec.ofNat 32 (2 ^ q)), tlbs := s.tlbs.filter (fun e => e.part != q) } : State).measureZero (2 + q)

/-- Two ranges meet. -/
def rangesMeet (a b : Nat × Nat) : Bool := decide (a.1 < b.1 + b.2) && decide (b.1 < a.1 + a.2)

/-- The domain that firmware assigns. -/
def cfgDomain (c : PartCfg) : Domain := { slices := c.slices, nh := c.nh, hs := c.hs, gen := 0 }

/-- A domain with as many hash bits as its slices need, and no mask beyond them (R193, R194). -/
def Domain.good (d : Domain) : Bool :=
  decide (d.nh ≤ 5) && (if population d.slices = 0 then d.nh == 0 else population d.slices == 2 ^ d.nh) && d.hs.length == 5 &&
  (d.hs.drop d.nh).all (fun h => h == 0)

/-- What firmware may assign (R21, R23): pages and chip windows of no other partition, host pages too, windows within the 16 MiB of their die (R172),
an output that no other one has, a domain apart from every other or shared with it (R193), and a division that agrees with the row engines
that are enabled (R196, R344). The control-core sets of two partitions may overlap, and both then hold the core: R22 speaks of cluster
sets alone (DESIGN CHOICE, log entry 11). -/
def State.mayAssign (s : State) (q : Nat) (c : PartCfg) : Bool :=
  (s.parts.filter (fun p => p.part != q)).all (fun p =>
    c.grants.all (fun g => p.grants.all (fun h => !(rangesMeet g h))) && !(rangesMeet (c.base0, c.win0) (p.window.getD 0 (0, 0))) &&
    !(rangesMeet (c.base1, c.win1) (p.window.getD 1 (0, 0))) && c.outputs &&& p.outputs == 0 && domApart (cfgDomain c) (s.domNow p.part)) &&
  decide (c.base0 + c.win0 ≤ 2 ^ 24) && decide (c.base1 + c.win1 ≤ 2 ^ 24) && (cfgDomain c).good &&
  (List.range 2).all (fun d =>
    match (s.die d).display with
    | some x => !({ Part.fresh q with clusters := c.clusters, outputs := c.outputs }).onDie d || x.vat == layVat laydivReset
    | none => true)

/-- What firmware assigns to a partition (R21, R174, R194, R474). Its banks hold the reference division (R14); a valid division of firmware's is the
one to which a reset returns (R470). It holds its clusters that no partition holds and none has saved (R22), and none that it has lost. -/
def State.assign (s : State) (q : Nat) (c : PartCfg) : State :=
  let held := s.held.filter (fun h => h.2 != q || c.clusters.getLsbD h.1)
  let new := (List.range 16).filter (fun k =>
    c.clusters.getLsbD k && (held.all (fun h => h.1 != k)) && s.parts.all (fun p => p.saved.all (fun e => !e.clusters.getLsbD k)))
  ({ s with held := held ++ new.map (fun k => (k, q)), tlbs := s.tlbs.filter (fun e => e.part != q) } : State).updPart q (fun p =>
    { p with clusters := c.clusters, controls := c.controls, outputs := c.outputs, laydiv := laydivReset,
             laydivCfg := if layValid c.laydiv then c.laydiv else laydivReset, domain := cfgDomain c,
             domainCfg := cfgDomain c, window := [(c.base0, c.win0), (c.base1, c.win1)], root := c.root, grants := c.grants,
             jseq := 0, jbase := journalBase + q * journalSize, jlog := 10, refs := [] })

/-- Mailboxes from number `lo` on and host mailboxes from number `hlo` on are assigned to a partition. -/
def State.assignMail (s : State) (q lo n hlo hn : Nat) : State :=
  let s := ((List.range n).filter (fun k => decide (lo + k < 256))).foldl (fun s k => s.updMailbox (lo + k) (fun m => { m with part := q })) s
  ((List.range hn).filter (fun k => decide (hlo + k < 64))).foldl (fun s k => s.updHostBox (hlo + k) (fun b => { b with part := q })) s

/-- The device in reset: nothing runs; the host's memory is the host's, and the model's own counters go on. -/
def State.inDeviceReset (s : State) : State :=
  { State.reset with
    mem := s.mem.filter (fun c => isHost c.1), parts := [Part.fresh 0, Part.fresh 1, Part.fresh 2, Part.fresh 3], held := [],
    msixSent := s.msixSent, hostData := s.hostData, weights := s.weights, cw := s.cw, powerClass := s.powerClass, rollback := s.rollback, spares := s.spares,
    spareWays := s.spareWays, lanes := s.lanes, modules := s.modules, inReset := true, dtbNow := s.now, now := s.now, turn := s.turn, serial := s.serial,
    draws := s.draws, agenda := s.agenda }

/-- Bring-up: the ROM and the firmware are measured (R466), and partition 0 holds the whole device (R469 step 7); its cores' clocks read 0
(R30). -/
def State.bringUp (s : State) (firmware : Image) : State :=
  let t : State := { s with
    parts := [Part.whole, Part.fresh 1, Part.fresh 2, Part.fresh 3], held := (List.range 16).map (fun c => (c, 0)), inReset := false }
  ((t.coresFresh 0).measureRom).measureInto 1 firmware.digest

/-! ### Power gating (R403) -/

/-- An engine that firmware may gate has no work. -/
def State.idle (s : State) (e : Engine) : Bool :=
  match e with
  | .core n => s.groups.all (fun g => g.core != n)
  | .array n => s.groups.all (fun g => g.core != n || (match g.stream with | some m => !m.running | none => true))
  | .slice _ | .bank _ | .column _ => true

/-! ### Meanings -/

/-- R429, R430: partition a, code b, core c, group d. -/
def execHaltLineRise (s : State) : Host.Outcome State Fault Refusal := .next (s.halt s.arg.a s.arg.b s.arg.c s.arg.d)

/-- The handler-mode thread of a core that has been ready for 2^20 cycles without an issue, or any ready thread where the core has issued nothing
for 2^26 (R429). -/
def State.expired (s : State) (core : Nat) : Option Thread :=
  let past := fun (since : Option Nat) (n : Nat) => (since.map (fun t => decide (t + n ≤ s.rawClk core))).getD false
  let ts := s.threads.filter (fun t => (s.group t.gid).core == core)
  match ts.find? (fun t => past t.stood (2 ^ 20) && s.ready t) with
  | some t => some t
  | none => if past (s.coreSt core).stalled (2 ^ 26) then ts.find? s.ready else none

/-- R429: core a. -/
def execWatchdogExpiry (s : State) : Host.Outcome State Fault Refusal :=
  .next (
    match s.expired s.arg.a with
    | some t => s.halt (s.group t.gid).part 4 s.arg.a t.gid
    | none => s)

/-- R430: partition a; with code 5 it stays stopped until it is reset. -/
def execPartitionResume (s : State) : Host.Outcome State Fault Refusal :=
  .next (if (s.part s.arg.a).contained && !(s.part s.arg.a).stopped then s.resume s.arg.a else s)

/-- R13, R398: die a, cell b; the model predicts c for its logic and d for its DRAM, in 1/256 °C. At the ceiling no group is admitted under
the hot region. -/
def execThermalAdmissionStop (s : State) : Host.Outcome State Fault Refusal :=
  .next (s.updDie s.arg.a (fun x => { x with cells := x.cells.set s.arg.b (BitVec.ofNat 32 s.arg.c, BitVec.ofNat 32 s.arg.d) }))

/-- R13: die a. -/
def execThermalClockHalve (s : State) : Host.Outcome State Fault Refusal := .next (s.setHalf s.arg.a true)

/-- R13: die a; it has cooled, so its arrays may wake too. -/
def execThermalClockRestore (s : State) : Host.Outcome State Fault Refusal :=
  .next ((s.setHalf s.arg.a false).updDie s.arg.a (fun d => { d with arraysGated := false }))

/-- R13: die a; its arrays are gated, and each wakes once the die has cooled. -/
def execThermalArrayGate (s : State) : Host.Outcome State Fault Refusal :=
  .next (
    let arrays := (List.range 64).map (fun k => Engine.array (64 * s.arg.a + k))
    ({ s with gated := s.gated ++ arrays.filter (fun e => !(s.gated.contains e)) } : State).updDie s.arg.a
      (fun d => { d with arraysGated := true }))

/-- R403: the engine given. -/
def execEngineWake (s : State) : Host.Outcome State Fault Refusal :=
  .next { s with gated := s.gated.filter (fun e => some e != s.arg.engine) }

/-- R403: the engine given, if it has no work. -/
def execEngineGate (s : State) : Host.Outcome State Fault Refusal :=
  .next (
    match s.arg.engine with
    | some e => if s.idle e && !(s.gated.contains e) then { s with gated := s.gated ++ [e] } else s
    | none => s)

/-- R20: column a, b more lanes steered; at most 16 are. -/
def execVbusLaneRepair (s : State) : Host.Outcome State Fault Refusal :=
  .next (
    let used := ((s.lanes.find? (fun l => l.1 == s.arg.a)).map (fun l => l.2)).getD 0
    if 128 ≤ s.arg.a ∨ 16 < used + s.arg.b then s
    else
      { s with repair := insertNat s.arg.a s.repair,
               lanes := upsert (fun l => l.1 == s.arg.a) (s.arg.a, 0) (fun l => (l.1, l.2 + s.arg.b)) s.lanes })

/-- R20: column a. -/
def execVbusRepairComplete (s : State) : Host.Outcome State Fault Refusal :=
  .next { s with repair := s.repair.filter (· != s.arg.a) }

/-- A spare takes the place of a logical core: one in a wide core's cluster, two among a die's control cores (R18). -/
def State.spareLeft (s : State) (n : Nat) : Bool :=
  if isControl n then decide ((s.spares.filter (fun k => isControl k && dieOfCore k == dieOfCore n)).length < 2)
  else !(s.spares.any (fun k => !isControl k && clusterOfCore k == clusterOfCore n))

/-- R18: core a, only while no partition runs on it; with b nonzero it stands on its own position again. With c nonzero a spare L2 way of die a
comes into service instead (R433). -/
def execSpareRemap (s : State) : Host.Outcome State Fault Refusal :=
  .next (
    let n := s.arg.a
    let busy := s.parts.any (fun p => s.holds n p.part && !p.contained && !p.inReset && s.groups.any (fun g => g.core == n && g.part == p.part))
    if s.arg.c ≠ 0 then (if n < 2 then { s with spareWays := s.spareWays ++ [n] } else s)
    else if 160 ≤ n ∨ busy = true then s
    else if s.arg.b ≠ 0 then
      ({ s with spares := s.spares.filter (fun k => k != n) } : State).updCore n (fun c => { c with remapped := false })
    else if s.spares.contains n ∨ s.spareLeft n = false then s
    else ({ s with spares := insertNat n s.spares } : State).updCore n (fun c => { c with remapped := true }))

/-- R386, R456: mailbox a, offset b, the bytes. -/
def execMailboxMessageWrite (s : State) : Host.Outcome State Fault Refusal :=
  .next (
    if s.mailDrops s.arg.a || decide (64 < s.arg.b + s.arg.data.length) then s
    else s.updMailbox s.arg.a (fun m => { m with msg := putMsg m.msg s.arg.b s.arg.data }))

/-- The transform that a pairing message gives an eye, if its fields are as R467 has them and finite. -/
def pairing (tag : Nat) (m : List Byte) : Option (Nat × Word × Word × Word) :=
  let w := wordsOfBytes m
  if tag / 2 ^ 12 % 16 = 3 ∧ tag / 2 ^ 6 % 64 = 0 ∧ (hdrW w 0).toNat < 2 ∧ (m.drop 16).all (fun b => b == 0) = true ∧
      [1, 2, 3].all (fun k => fltFinite (hdrW w k).toNat) = true then
    some ((hdrW w 0).toNat, hdrW w 1, hdrW w 2, hdrW w 3)
  else none

/-- R386, R277: mailbox a, word b. A pairing message has reached firmware with its control word: the resident program's part in passing it on is
not waited for (R461, R467; DESIGN CHOICE, log entry 11). -/
def execMailboxControlWrite (s : State) : Host.Outcome State Fault Refusal :=
  .next (
    if s.mailDrops s.arg.a then s
    else
      let t := s.updMailbox s.arg.a (fun m => { m with full := true, tag := BitVec.ofNat 16 s.arg.b })
      match pairing (s.arg.b % 2 ^ 16) (t.mailbox s.arg.a).bytes with
      | some e => { t with eyes := e :: t.eyes.filter (fun x => x.1 != e.1) }
      | none => t)

/-- R456, R470: word a; a 1 requests the reset of its partition. -/
def execRstreq (s : State) : Host.Outcome State Fault Refusal :=
  .next (if s.inReset then s else { s with rstreq := s.rstreq ||| (BitVec.ofNat 32 s.arg.a &&& 0xF) })

/-- R458: host mailbox a, word b. -/
def execHmring (s : State) : Host.Outcome State Fault Refusal :=
  .next (if s.inReset || decide (63 < s.arg.a) then s else s.updHostBox s.arg.a (fun b => b.write (BitVec.ofNat 64 s.arg.b)))

/-- R456: dropped. -/
def execBar0Write (s : State) : Host.Outcome State Fault Refusal := .next s

/-- R455, R464: address a; a write of the bytes if c is nonzero, else a read of b bytes, which the host then has. -/
def execHostMemoryAccess (s : State) : Host.Outcome State Fault Refusal :=
  .next (
    if s.inReset then s
    else if s.arg.c = 0 then { s with hostData := (List.range s.arg.b).map (fun k => s.hostRead (s.arg.a + k)) }
    else s.hostWrite s.arg.a s.arg.data)

/-- R459: the host's time a, in ns; nothing before bring-up is done (R469); firmware slews the timebase by b ppm up and c down from now on, at most 200 either way. -/
def execPtmExchange (s : State) : Host.Outcome State Fault Refusal :=
  .next (
    let rate : Int := (s.arg.b : Int) - s.arg.c
    if s.inReset then s
    else
    { s with
      ptm := [BitVec.ofNat 64 s.arg.a, BitVec.ofNat 64 s.dtb],
      dtbBase := s.dtb, dtbFrac := s.dtbUnits % 325000000, dtbNow := s.now, slew := if rate.natAbs ≤ 200 then rate else s.slew })

/-- R460: latency only. -/
def execBridgeRetry (s : State) : Host.Outcome State Fault Refusal := .next s

/-- R460: a bit of a for each partition whose transfer the error hit; core b and group c name the fault. -/
def execBridgeUncorrectable (s : State) : Host.Outcome State Fault Refusal :=
  .next ((List.range 4).foldl (fun t q => if s.arg.a.testBit q then t.halt q 2 s.arg.b s.arg.c else t) s)

/-- R460: bandwidth only. -/
def execModuleOutOfService (s : State) : Host.Outcome State Fault Refusal := .next { s with modules := Nat.min 6 (s.modules + 1) }

/-- R464, R429: partition a, core b, group c. -/
def execMemoryUncorrectable (s : State) : Host.Outcome State Fault Refusal := .next (s.halt s.arg.a 1 s.arg.b s.arg.c)

/-- R464: a soft error is corrected in place or recorded for repair; software sees neither. -/
def execBackgroundScrub (s : State) : Host.Outcome State Fault Refusal := .next s

/-- R429: partition a, core b, group c. -/
def execFabricError (s : State) : Host.Outcome State Fault Refusal := .next (s.halt s.arg.a 2 s.arg.b s.arg.c)

/-- The answer to a message: the SEQ of its accepted entry and a status (R467). -/
def answerMsg (seq status : Nat) : List Byte := toBytes 4 seq ++ toBytes 4 status ++ List.replicate 56 0

/-- A message is answered by a post to a host mailbox, if its ring is enabled and has room (R409, R467). -/
def State.answer (s : State) (h seq status : Nat) : State :=
  if h < 64 ∧ (s.hostBox h).on = true ∧ s.postRoom (s.hostBox h) = true then s.post h false (answerMsg seq status) else s

/-- R467, R468: buffer b, the nonce; c is nonzero where the buffer fails CXL.cache access, a names the host mailbox of the answer and d the SEQ of
the accepted entry. To a buffer that cannot be reached nothing is written, and the answer's status is 3. -/
def execAttestationReport (s : State) : Host.Outcome State Fault Refusal :=
  .next (
    if s.inReset then s
    else if s.arg.b % 4096 ≠ 0 ∨ 2 ^ 51 < s.arg.b + 4096 ∨ s.arg.c ≠ 0 then s.answer s.arg.a s.arg.d 3
    else (s.writeSys (0x8000000000000 + s.arg.b) (s.report s.arg.data)).answer s.arg.a s.arg.d 0)

/-- The power class of a BPC value. -/
def classOf (bpc : Nat) : Nat := [120, 150, 220, 300].getD bpc 300

/-- R465, R469: only from device reset; the straps read a, and firmware runs the part in that class or, where its own choice c is lower, in c. The
images are firmware's and the resident program's; if either is refused, the device stays in reset, else the program of partition 0 starts
on core b. -/
def execPerstDeassert (s : State) : Host.Outcome State Fault Refusal :=
  .next (
    match s.arg.images with
    | [fw, prog] =>
      if s.inReset && s.verified fw && s.verified prog then
        ({ s.bringUp fw with powerClass := classOf (Nat.min (s.arg.a % 4) (s.arg.c % 4)) } : State).programRuns 0 s.arg.b prog
      else s
    | _ => s)

/-- R469. -/
def execPerstAssert (s : State) : Host.Outcome State Fault Refusal := .next s.inDeviceReset

/-- R470: partition a; with c nonzero the reset begins (steps 1 to 3), else it is carried through (steps 1 to 5): its resident program, the image given,
is verified again and starts on core b. -/
def execPartitionReset (s : State) : Host.Outcome State Fault Refusal :=
  .next (
    if s.inReset || decide (4 ≤ s.arg.a) then s
    else if s.arg.c ≠ 0 then (s.clearPart s.arg.a).updPart s.arg.a (fun p => { p with inReset := true })
    else
      match s.arg.images with
      | [prog] => (s.resetPart s.arg.a).programRuns s.arg.a s.arg.b prog
      | _ => s.resetPart s.arg.a)

/-- R21: partition a, which has no group, with firmware's settings, if they take nothing of another partition; mailboxes from c % 256 on (c / 256 of them) and host mailboxes from
d % 64 on (d / 64 of them); its resident program, the image given, starts on core b. With a refused image nothing is released (R465; log entry 11). -/
def execPartitionRelease (s : State) : Host.Outcome State Fault Refusal :=
  .next (
    match s.arg.part, s.arg.images with
    | some c, [prog] =>
      if s.inReset || decide (4 ≤ s.arg.a) || s.groups.any (fun g => g.part == s.arg.a) || !(s.mayAssign s.arg.a c) || !(s.verified prog) then s
      else
        ((s.assign s.arg.a c).assignMail s.arg.a (s.arg.c % 256) (s.arg.c / 256) (s.arg.d % 64) (s.arg.d / 64)).programRuns s.arg.a s.arg.b prog
    | _, _ => s)

/-- R457: vector a; with b nonzero the host masks it instead. -/
def execMsixVectorUnmask (s : State) : Host.Outcome State Fault Refusal :=
  .next (
    let v := s.arg.a
    if s.arg.b ≠ 0 then { s with msixMask := insertNat v s.msixMask }
    else
      { s with msixMask := s.msixMask.filter (· != v), msixPending := s.msixPending.filter (· != v),
               msixSent := if s.msixPending.contains v then s.msixSent ++ [v] else s.msixSent })

/-- R469: the completion is the link's. -/
def execConfigurationRequest (s : State) : Host.Outcome State Fault Refusal := .next s

/-- R191, R455: physical line a of host memory is recalled from the core data caches; the host then holds it, and writes the bytes from its byte b
on, if it has any. -/
def execHostSnoop (s : State) : Host.Outcome State Fault Refusal :=
  .next (if isHost (s.arg.a * 64) then (s.recall 0 (s.arg.a * 64)).hostOwn (s.arg.a * 64 + s.arg.b) (s.arg.data.take (64 - s.arg.b)) else s)

end Sys2Proof.Machine
end

