-- ==== Sys2Proof/Machine/Float.lean ====
section
/-! DEFINITION. Meanings of the float and special-function instructions (05). Each writes its result, ORs its flags into `%fflags` and
sets the causes of R107; the instruction always completes. -/

namespace Sys2Proof.Machine

/-! ### Operations shared by several rows -/

/-- A 32-bit float result of A and b. -/
def State.flt2 (s : State) (g : Guard) (d a : Reg) (b : Src) (f : Nat → Nat → Nat × Fl) : State :=
  s.each g (fun s r => s.putF r d (toWord (f (s.rd r a).toNat (s.srcF r b).toNat)))

/-- A 32-bit float result of A. -/
def State.flt1 (s : State) (g : Guard) (d a : Reg) (f : Nat → Nat × Fl) : State :=
  s.each g (fun s r => s.putF r d (toWord (f (s.rd r a).toNat)))

/-- A 32-bit float result of A, b and C. -/
def State.flt3 (s : State) (g : Guard) (d a : Reg) (b : Src) (c : Reg) (f : Nat → Nat → Nat → Nat × Fl) : State :=
  s.each g (fun s r => s.putF r d (toWord (f (s.rd r a).toNat (s.srcF r b).toNat (s.rd r c).toNat)))

/-- A pair result of A and b (R109). -/
def State.half2 (s : State) (g : Guard) (bf : Bool) (d a : Reg) (b : Src) (f : Nat → Nat → Nat × Fl) : State :=
  s.each g (fun s r => s.putF r d (pairF f (s.rd r a) (s.srcH r bf b)))

/-- A pair result of A, b and C (R109). -/
def State.half3 (s : State) (g : Guard) (bf : Bool) (d a : Reg) (b : Src) (c : Reg) (f : Nat → Nat → Nat → Nat × Fl) : State :=
  s.each g (fun s r => s.putF r d (pairF3 f (s.rd r a) (s.srcH r bf b) (s.rd r c)))

/-- A special function of A (R122, R123). -/
def State.sfu1 (s : State) (g : Guard) (m : FMod) (d a : Reg) (fn : Sfu) : State :=
  s.each g (fun s r => s.putF r d (toWord (sfuF fn m.ftz m.na (s.rd r a))))

/-! ### Meanings -/

/-- R47, R114. -/
def execFaddCompact (d a b : Reg) (s : State) : Host.Outcome State Fault Refusal :=
  .next (s.flt2 .always d a (.v b) (addF fmtF32 .rne false false false))
/-- R114. -/
def execFadd (g : Guard) (m : FMod) (d a : Reg) (b : Src) (s : State) : Host.Outcome State Fault Refusal :=
  .next (s.flt2 g d a b (addF fmtF32 m.rm m.ftz m.na m.nb))
/-- R115. -/
def execFmin (g : Guard) (m : FMod) (d a : Reg) (b : Src) (s : State) : Host.Outcome State Fault Refusal :=
  .next (s.flt2 g d a b (minmaxF fmtF32 false m.ftz m.na m.nb))
/-- R115. -/
def execFmax (g : Guard) (m : FMod) (d a : Reg) (b : Src) (s : State) : Host.Outcome State Fault Refusal :=
  .next (s.flt2 g d a b (minmaxF fmtF32 true m.ftz m.na m.nb))
/-- R47, R114. -/
def execFmulCompact (d a b : Reg) (s : State) : Host.Outcome State Fault Refusal :=
  .next (s.flt2 .always d a (.v b) (mulF fmtF32 .rne false false false))
/-- R114. -/
def execFmul (g : Guard) (m : FMod) (d a : Reg) (b : Src) (s : State) : Host.Outcome State Fault Refusal :=
  .next (s.flt2 g d a b (mulF fmtF32 m.rm m.ftz m.na m.nb))
/-- R116: b is an integer (R108). -/
def execFscl (g : Guard) (m : FMod) (d a : Reg) (b : Src) (s : State) : Host.Outcome State Fault Refusal :=
  .next (s.each g (fun s r => s.putF r d (toWord (sclF m.rm m.ftz m.na (s.rd r a).toNat (s.src32 r b).toInt))))
/-- R47, R114: C equals D (R112). -/
def execFmaCompact (d a b : Reg) (s : State) : Host.Outcome State Fault Refusal :=
  .next (s.flt3 .always d a (.v b) d (fmaF fmtF32 .rne false false false false))
/-- R114. -/
def execFma (g : Guard) (m : FMod) (d a : Reg) (b : Src) (c : Reg) (s : State) : Host.Outcome State Fault Refusal :=
  .next (s.flt3 g d a b c (fmaF fmtF32 m.rm m.ftz m.na m.nb m.nc))
/-- R117. -/
def execFcmp (g : Guard) (cond : FCond) (ftz : Bool) (pd : BitVec 3) (a : Reg) (b : Src) (s : State) :
    Host.Outcome State Fault Refusal :=
  .next (s.each g (fun s r =>
    let x := cmpF cond ftz (s.rd r a).toNat (s.srcF r b).toNat
    (s.putPred r pd x.1).addFlags r x.2))
/-- R118. -/
def execFcls (g : Guard) (d a : Reg) (s : State) : Host.Outcome State Fault Refusal :=
  .next (s.each g (fun s r => s.put r d (BitVec.ofNat 32 (clsF (s.rd r a).toNat))))
/-- R119. -/
def execFrint (g : Guard) (m : FMod) (d a : Reg) (s : State) : Host.Outcome State Fault Refusal :=
  .next (s.flt1 g d a (rintF m.rm m.ftz m.na))
/-- R120. -/
def execH2add (g : Guard) (m : FMod) (d a : Reg) (b : Src) (s : State) : Host.Outcome State Fault Refusal :=
  .next (s.half2 g m.bf d a b (addF (pairFmt m.bf) m.rm m.ftz m.na m.nb))
/-- R120. -/
def execH2mul (g : Guard) (m : FMod) (d a : Reg) (b : Src) (s : State) : Host.Outcome State Fault Refusal :=
  .next (s.half2 g m.bf d a b (mulF (pairFmt m.bf) m.rm m.ftz m.na m.nb))
/-- R47, R120: C equals D (R112). -/
def execH2fmaCompact (d a b : Reg) (s : State) : Host.Outcome State Fault Refusal :=
  .next (s.half3 .always false d a (.v b) d (fmaF fmtF16 .rne false false false false))
/-- R120. -/
def execH2fma (g : Guard) (m : FMod) (d a : Reg) (b : Src) (c : Reg) (s : State) : Host.Outcome State Fault Refusal :=
  .next (s.half3 g m.bf d a b c (fmaF (pairFmt m.bf) m.rm m.ftz m.na m.nb m.nc))
/-- R120. -/
def execH2min (g : Guard) (m : FMod) (d a : Reg) (b : Src) (s : State) : Host.Outcome State Fault Refusal :=
  .next (s.half2 g m.bf d a b (minmaxF (pairFmt m.bf) false m.ftz m.na m.nb))
/-- R120. -/
def execH2max (g : Guard) (m : FMod) (d a : Reg) (b : Src) (s : State) : Host.Outcome State Fault Refusal :=
  .next (s.half2 g m.bf d a b (minmaxF (pairFmt m.bf) true m.ftz m.na m.nb))
/-- R122, R123. -/
def execRcp (g : Guard) (m : FMod) (d a : Reg) (s : State) : Host.Outcome State Fault Refusal :=
  .next (s.sfu1 g m d a .rcp)
/-- R122, R123. -/
def execRsqrt (g : Guard) (m : FMod) (d a : Reg) (s : State) : Host.Outcome State Fault Refusal :=
  .next (s.sfu1 g m d a .rsqrt)
/-- R121. -/
def execSqrt (g : Guard) (m : FMod) (d a : Reg) (s : State) : Host.Outcome State Fault Refusal :=
  .next (s.flt1 g d a (sqrtF m.rm m.ftz m.na))
/-- R122, R123. -/
def execExp2 (g : Guard) (m : FMod) (d a : Reg) (s : State) : Host.Outcome State Fault Refusal :=
  .next (s.sfu1 g m d a .exp2)
/-- R122, R123. -/
def execLog2 (g : Guard) (m : FMod) (d a : Reg) (s : State) : Host.Outcome State Fault Refusal :=
  .next (s.sfu1 g m d a .log2)
/-- R122, R123. -/
def execSin (g : Guard) (m : FMod) (d a : Reg) (s : State) : Host.Outcome State Fault Refusal :=
  .next (s.sfu1 g m d a .sin)
/-- R122, R123. -/
def execCos (g : Guard) (m : FMod) (d a : Reg) (s : State) : Host.Outcome State Fault Refusal :=
  .next (s.sfu1 g m d a .cos)
/-- R122, R123. -/
def execTanh (g : Guard) (m : FMod) (d a : Reg) (s : State) : Host.Outcome State Fault Refusal :=
  .next (s.sfu1 g m d a .tanh)
/-- R121. -/
def execFdiv (g : Guard) (m : FMod) (d a : Reg) (b : Src) (s : State) : Host.Outcome State Fault Refusal :=
  .next (s.flt2 g d a b (divF m.rm m.ftz m.na m.nb))

end Sys2Proof.Machine
end

