-- ==== Sys2Proof/Machine/Integer.lean ====
section
/-! DEFINITION. Meanings of the integer, predicate and address instructions (04). None sets a cause bit (R102). -/

namespace Sys2Proof.Machine

/-! ### The functions of the chapter's tables -/

/-- AND, OR, XOR at 64 bits with `.inv` (R94). -/
def invB (inv : Bool) (b : DWord) : DWord := if inv then ~~~b else b

/-- A shift amount; every amount from 64 up shifts a value of at most 64 bits in the same way (R95). -/
def amount (n : Word) : Nat := Nat.min n.toNat 64

/-- SHL, SHR, SAR of R95 at width 64, or at width 32 on the low word. -/
def shlW (x64 : Bool) (a : DWord) (n : Word) : DWord :=
  if x64 then a <<< (amount n) else zext64 (lo32 a <<< (amount n))
def shrW (x64 : Bool) (a : DWord) (n : Word) : DWord :=
  if x64 then a >>> (amount n) else zext64 (lo32 a >>> (amount n))
def sarW (x64 : Bool) (a : DWord) (n : Word) : DWord :=
  if x64 then a.sshiftRight (amount n) else zext64 ((lo32 a).sshiftRight (amount n))

/-- BEXT: bits p to p + w − 1, bits at 32 or above read 0 (R96). -/
def bextF (ty : IntTy) (a p : Word) (w : Nat) : Word :=
  let f := (a >>> (amount p)).toNat % 2 ^ w
  match ty with
  | .i => if f < 2 ^ (w - 1) then BitVec.ofNat 32 f else BitVec.ofInt 32 ((f : Int) - 2 ^ w)
  | .n => BitVec.ofNat 32 f

/-- BINS (R96). -/
def binsF (d a p : Word) (w : Nat) : Word :=
  let m : Word := BitVec.ofNat 32 (2 ^ w - 1)
  (d &&& ~~~(m <<< (amount p))) ||| ((a &&& m) <<< (amount p))

def popcount (n : Nat) (x : Nat) : Nat := ((List.range n).filter (fun k => x.testBit k)).length
def leadingZeros (n : Nat) (x : Nat) : Nat := ((List.range n).takeWhile (fun k => !x.testBit (n - 1 - k))).length
def reverseBits (n : Nat) (x : Nat) : Nat := (List.range n).foldl (fun acc k => if x.testBit k then acc + 2 ^ (n - 1 - k) else acc) 0

/-- The conditions of ICMP (R98). -/
def condHolds (c : Cond) (x y : Int) : Bool :=
  match c with
  | .eq => x == y
  | .ne => x != y
  | .lt => decide (x < y)
  | .le => decide (x ≤ y)
  | .gt => decide (y < x)
  | .ge => decide (y ≤ x)

/-- PLUT: the table's bit x + 2y + 4z (R99). -/
def plutF (table : BitVec 8) (x y z : Bool) : Bool :=
  table.getLsbD ((if x then 1 else 0) + (if y then 2 else 0) + (if z then 4 else 0))

/-- LEA's index at 64 bits (R101). -/
def extIdx (ty : IntTy) (b : Word) : DWord :=
  match ty with
  | .i => sext64 b
  | .n => zext64 b

/-! ### Operations shared by several rows -/

/-- A 32-bit result from the 32-bit sources A and b. -/
def State.alu32 (s : State) (g : Guard) (d a : Reg) (b : Src) (f : Word → Word → Word) : State :=
  s.each g (fun s r => s.put r d (f (s.rd r a) (s.src32 r b)))

/-- A result of 32 or 64 bits from sources of the same width. -/
def State.aluW (s : State) (g : Guard) (x64 : Bool) (d a : Reg) (b : Src) (f : DWord → DWord → DWord) : State :=
  s.each g (fun s r => s.putW r x64 d (f (s.rdW r x64 a) (s.srcW r x64 b)))

/-- A shift: the amount is b at 32 bits (R95). -/
def State.shiftW (s : State) (g : Guard) (x64 : Bool) (d a : Reg) (b : Src) (f : Bool → DWord → Word → DWord) : State :=
  s.each g (fun s r => s.putW r x64 d (f x64 (s.rdW r x64 a) (s.src32 r b)))

def addI (ty : IntTy) (sat : Bool) (x y : Word) : Word := narrow ty sat 32 (asTy ty x + asTy ty y)
def subI (ty : IntTy) (sat : Bool) (x y : Word) : Word := narrow ty sat 32 (asTy ty x - asTy ty y)
def mulI (ty : IntTy) (sat : Bool) (x y : Word) : Word := narrow ty sat 32 (asTy ty x * asTy ty y)
def mulhiI (ty : IntTy) (x y : Word) : Word := BitVec.ofInt 32 ((asTy ty x * asTy ty y) / 2 ^ 32)
def madI (ty : IntTy) (sat : Bool) (x y z : Word) : Word := narrow ty sat 32 (asTy ty x * asTy ty y + asTy ty z)
def minI (ty : IntTy) (x y : Word) : Word := if asTy ty x ≤ asTy ty y then x else y
def maxI (ty : IntTy) (x y : Word) : Word := if asTy ty y ≤ asTy ty x then x else y
def absI (sat : Bool) (x : Word) : Word := narrow .i sat 32 (if x.toInt < 0 then -x.toInt else x.toInt)
def add64I (ty : IntTy) (sat neg : Bool) (x y : DWord) : DWord :=
  narrow ty sat 64 (if neg then asTy ty x - asTy ty y else asTy ty x + asTy ty y)
def mad64I (ty : IntTy) (sat : Bool) (x y : Word) (z : DWord) : DWord := narrow ty sat 64 (asTy ty x * asTy ty y + asTy ty z)

/-! ### Meanings -/

/-- R90; the compact MOV expands to it (R88). -/
def execMovCompact (d a : Reg) (s : State) : Host.Outcome State Fault Refusal :=
  .next (s.each .always (fun s r => s.put r d (s.rd r a)))
/-- R90. -/
def execMov (g : Guard) (d : Reg) (b : Src) (s : State) : Host.Outcome State Fault Refusal :=
  .next (s.each g (fun s r => s.put r d (s.src32 r b)))
/-- R90, R91: threads write in ascending order, so the highest `%tid` stands (R51). -/
def execMovG (g : Guard) (d : BitVec 6) (b : Src) (s : State) : Host.Outcome State Fault Refusal :=
  .next (s.each g (fun s r => s.setGreg r.1 d (zext64 (s.src32 r b))))
/-- R90. -/
def execMovl (g : Guard) (d : Reg) (b : Src) (s : State) : Host.Outcome State Fault Refusal :=
  .next (s.each g (fun s r => s.put64 r d (s.src64 r b)))
/-- R90, R91. -/
def execMovlG (g : Guard) (d : BitVec 6) (b : Src) (s : State) : Host.Outcome State Fault Refusal :=
  .next (s.each g (fun s r => s.setGreg r.1 d (s.src64 r b)))
/-- R90. -/
def execSel (g : Guard) (x64 : Bool) (d a : Reg) (b : Src) (p : BitVec 3) (s : State) : Host.Outcome State Fault Refusal :=
  .next (s.each g (fun s r => s.putW r x64 d (if s.pr r p then s.rdW r x64 a else s.srcW r x64 b)))
/-- R47, R92. -/
def execAddCompact (d a b : Reg) (s : State) : Host.Outcome State Fault Refusal :=
  .next (s.alu32 .always d a (.v b) (addI .i false))
/-- R92. -/
def execAdd (g : Guard) (ty : IntTy) (sat : Bool) (d a : Reg) (b : Src) (s : State) : Host.Outcome State Fault Refusal :=
  .next (s.alu32 g d a b (addI ty sat))
/-- R92. -/
def execSub (g : Guard) (ty : IntTy) (sat : Bool) (d a : Reg) (b : Src) (s : State) : Host.Outcome State Fault Refusal :=
  .next (s.alu32 g d a b (subI ty sat))
/-- R92. -/
def execMin (g : Guard) (ty : IntTy) (d a : Reg) (b : Src) (s : State) : Host.Outcome State Fault Refusal :=
  .next (s.alu32 g d a b (minI ty))
/-- R92. -/
def execMax (g : Guard) (ty : IntTy) (d a : Reg) (b : Src) (s : State) : Host.Outcome State Fault Refusal :=
  .next (s.alu32 g d a b (maxI ty))
/-- R92. -/
def execAbs (g : Guard) (sat : Bool) (d a : Reg) (s : State) : Host.Outcome State Fault Refusal :=
  .next (s.each g (fun s r => s.put r d (absI sat (s.rd r a))))
/-- R47, R93. -/
def execMulCompact (d a b : Reg) (s : State) : Host.Outcome State Fault Refusal :=
  .next (s.alu32 .always d a (.v b) (mulI .i false))
/-- R93. -/
def execMul (g : Guard) (ty : IntTy) (sat : Bool) (d a : Reg) (b : Src) (s : State) : Host.Outcome State Fault Refusal :=
  .next (s.alu32 g d a b (mulI ty sat))
/-- R93. -/
def execMulhi (g : Guard) (ty : IntTy) (d a : Reg) (b : Src) (s : State) : Host.Outcome State Fault Refusal :=
  .next (s.alu32 g d a b (mulhiI ty))
/-- R93: the exact sum is narrowed once. -/
def execMad (g : Guard) (ty : IntTy) (sat : Bool) (d a : Reg) (b : Src) (c : Reg) (s : State) :
    Host.Outcome State Fault Refusal :=
  .next (s.each g (fun s r => s.put r d (madI ty sat (s.rd r a) (s.src32 r b) (s.rd r c))))
/-- R47, R94. -/
def execAndCompact (d a b : Reg) (s : State) : Host.Outcome State Fault Refusal :=
  .next (s.alu32 .always d a (.v b) (fun x y => x &&& y))
/-- R94. -/
def execAnd (g : Guard) (inv x64 : Bool) (d a : Reg) (b : Src) (s : State) : Host.Outcome State Fault Refusal :=
  .next (s.aluW g x64 d a b (fun x y => x &&& invB inv y))
/-- R94. -/
def execOr (g : Guard) (inv x64 : Bool) (d a : Reg) (b : Src) (s : State) : Host.Outcome State Fault Refusal :=
  .next (s.aluW g x64 d a b (fun x y => x ||| invB inv y))
/-- R94. -/
def execXor (g : Guard) (inv x64 : Bool) (d a : Reg) (b : Src) (s : State) : Host.Outcome State Fault Refusal :=
  .next (s.aluW g x64 d a b (fun x y => x ^^^ invB inv y))
/-- R47, R95. -/
def execShlCompact (d a b : Reg) (s : State) : Host.Outcome State Fault Refusal :=
  .next (s.shiftW .always false d a (.v b) shlW)
/-- R95. -/
def execShl (g : Guard) (x64 : Bool) (d a : Reg) (b : Src) (s : State) : Host.Outcome State Fault Refusal :=
  .next (s.shiftW g x64 d a b shlW)
/-- R95. -/
def execShr (g : Guard) (x64 : Bool) (d a : Reg) (b : Src) (s : State) : Host.Outcome State Fault Refusal :=
  .next (s.shiftW g x64 d a b shrW)
/-- R95. -/
def execSar (g : Guard) (x64 : Bool) (d a : Reg) (b : Src) (s : State) : Host.Outcome State Fault Refusal :=
  .next (s.shiftW g x64 d a b sarW)
/-- R96. -/
def execBext (g : Guard) (ty : IntTy) (d a : Reg) (b : Src) (w : BitVec 8) (s : State) : Host.Outcome State Fault Refusal :=
  .next (s.alu32 g d a b (fun x p => bextF ty x p w.toNat))
/-- R96: vD is read as a source. -/
def execBins (g : Guard) (d a : Reg) (b : Src) (w : BitVec 8) (s : State) : Host.Outcome State Fault Refusal :=
  .next (s.each g (fun s r => s.put r d (binsF (s.rd r d) (s.rd r a) (s.src32 r b) w.toNat)))
/-- R97. -/
def execPopc (g : Guard) (x64 : Bool) (d a : Reg) (s : State) : Host.Outcome State Fault Refusal :=
  .next (s.each g (fun s r => s.put r d (BitVec.ofNat 32 (popcount (if x64 then 64 else 32) (s.rdW r x64 a).toNat))))
/-- R97. -/
def execClz (g : Guard) (x64 : Bool) (d a : Reg) (s : State) : Host.Outcome State Fault Refusal :=
  .next (s.each g (fun s r => s.put r d (BitVec.ofNat 32 (leadingZeros (if x64 then 64 else 32) (s.rdW r x64 a).toNat))))
/-- R97. -/
def execBrev (g : Guard) (x64 : Bool) (d a : Reg) (s : State) : Host.Outcome State Fault Refusal :=
  .next (s.each g (fun s r =>
    s.putW r x64 d (BitVec.ofNat 64 (reverseBits (if x64 then 64 else 32) (s.rdW r x64 a).toNat))))
/-- R98. -/
def execIcmp (g : Guard) (cond : Cond) (ty : IntTy) (x64 : Bool) (pd : BitVec 3) (a : Reg) (b : Src) (s : State) :
    Host.Outcome State Fault Refusal :=
  .next (s.each g (fun s r =>
    s.putPred r pd (if x64 then condHolds cond (asTy ty (s.rd64 r a)) (asTy ty (s.src64 r b))
      else condHolds cond (asTy ty (s.rd r a)) (asTy ty (s.src32 r b)))))
/-- R99. -/
def execPlut (g : Guard) (pd px py pz : BitVec 3) (table : BitVec 8) (s : State) : Host.Outcome State Fault Refusal :=
  .next (s.each g (fun s r => s.putPred r pd (plutF table (s.pr r px) (s.pr r py) (s.pr r pz))))
/-- R100. -/
def execAdd64 (g : Guard) (ty : IntTy) (sat neg : Bool) (d a : Reg) (b : Src) (s : State) : Host.Outcome State Fault Refusal :=
  .next (s.each g (fun s r => s.put64 r d (add64I ty sat neg (s.rd64 r a) (s.src64 r b))))
/-- R100. -/
def execMad64 (g : Guard) (ty : IntTy) (sat : Bool) (d a : Reg) (b : Src) (c : Reg) (s : State) :
    Host.Outcome State Fault Refusal :=
  .next (s.each g (fun s r => s.put64 r d (mad64I ty sat (s.rd r a) (s.src32 r b) (s.rd64 r c))))
/-- R101. -/
def execLea (g : Guard) (ty : IntTy) (sh : BitVec 3) (d a : Reg) (b : Src) (s : State) : Host.Outcome State Fault Refusal :=
  .next (s.each g (fun s r => s.put64 r d (s.rd64 r a + (extIdx ty (s.src32 r b) <<< sh.toNat))))

end Sys2Proof.Machine
end

