-- ==== Sys2Proof/Machine/Ladder.lean ====
section
/-! DEFINITION. The precision ladder (14): MLAD, the ladder counters, and the decision of a pass. A pass is computed whole in the step that
decides it; nothing else can see its scratch tile (R313). -/

namespace Sys2Proof.Machine

/-! ### The elements of a pass (R309, R311) -/

/-- An element as a pass sees it: its wide value, the value used, and the scale used. -/
structure PassElem where
  x : Val
  e : Val
  sc : Val
deriving DecidableEq, Repr

def oneVal : Val := .num false 1 0
def Val.mag : Val → Val
  | .num _ m e => .num false m e
  | .inf _ => .inf false
  | .nan s => .nan s

def rungFmt (rcd : List Word) (k : Nat) : EFmt := (EFmt.ofNat? (recRung rcd k)).getD .e2m1

/-- Element n at the skim: the stored element and scale. -/
def State.skimElem (s : State) (core part : Nat) (rcd : List Word) (n : Nat) : PassElem :=
  { x := (unpackF fmtF32 false (s.obWide core part rcd n)).1, e := s.obElem core part rcd n,
    sc := (s.obScale core part rcd n).getD oneVal }

/-- Element n at a churn: narrowed again from its wide copy. An element of a zero scale is +0 whatever its quotient (R131). -/
def State.churnElem (s : State) (core part : Nat) (rcd : List Word) (k n : Nat) : PassElem :=
  let f := rungFmt rcd k
  let x := (unpackF fmtF32 false (s.obWide core part rcd n)).1
  let sc : Val :=
    if recSk rcd ≠ 0 ∧ f.width ≤ 8 then
      let bl := recBlock rcd
      let q := qblkF f (recSk rcd == 2) (BitVec.ofNat 32 (maxMag ((List.range bl).map (fun i => s.obWide core part rcd (n / bl * bl + i)))))
      (scaleVal (recSk rcd) (q % 256) (q / 256)).getD oneVal
    else oneVal
  { x := x, e := blockVal (some sc) (elemVal f false ((divScale f x sc).getD 0)).1, sc := sc }

def State.passRow (s : State) (core part : Nat) (rcd : List Word) (k i : Nat) : List PassElem :=
  let ke := sliceK (recFormat rcd).width
  (List.range ke).map (fun j => if k = 0 then s.skimElem core part rcd (i * ke + j) else s.churnElem core part rcd k (i * ke + j))

/-! ### The monitors (R311) -/

/-- Largest finite magnitude of a rung. -/
def rungMax (f : EFmt) : Val := ((EFmt.flt? f).map Fmt.maxVal).getD oneVal

/-- x > y for finite magnitudes. -/
def magGt (x y : Val) : Bool := decide (0 < (x.dy.add (y.negate true).dy).n)

def PassElem.saturates (f : EFmt) (p : PassElem) : Bool :=
  p.x.isNan || p.x.isInf || p.sc.isNan || magGt p.x.mag ((prodV (rungMax f) p.sc).getD oneVal)

def PassElem.underflows (p : PassElem) : Bool := !p.x.isNan && !p.x.isInf && !p.x.isZero && p.e.isZero

/-- An output counts as cancelled for a threshold of CB bits. -/
def SliceSum.cancels (t : SliceSum) (cb : Nat) : Bool :=
  cb != 0 &&
  (!(fltFinite t.bits) || (!t.zero && (t.n == 0 || decide ((cb : Int) ≤ t.e - (t.n.natAbs.log2 + t.q)))))

/-! ### One pass (R310 to R313) -/

/-- A pass's counts and its scratch rows. -/
structure PassResult where
  sat : Nat
  und : Nat
  canc : Nat
  rows : List (List Nat)
deriving DecidableEq, Repr

/-- The pass of a stream's command over m rows from accumulator row `at_` and activation row i, at rung k. -/
def State.pass (s : State) (a : Allot) (m : Stream) (rcd : List Word) (at_ i rows k : Nat) : PassResult :=
  let f := rungFmt rcd k
  let whey := m.ladDelta != 0 && decide (m.ladWr ≤ k)
  (List.range rows).foldl (fun (z : PassResult) r =>
    let es := s.passRow a.core a.part rcd k (i + r)
    let sums := (List.range 32).map (fun c => rowSum f.width (es.map (fun p => p.e)) (fun j => m.active.weight whey c j))
    { sat := z.sat + (es.filter (fun p => p.saturates f)).length, und := z.und + (es.filter PassElem.underflows).length,
      canc := z.canc + (sums.filter (fun t => t.cancels m.ladCb)).length,
      rows := z.rows ++ [sums.zipIdx.map (fun p => accAdd (s.acc a (at_ + r) p.2) p.1.bits)] })
    { sat := 0, und := 0, canc := 0, rows := [] }

/-- A monitor's count is over its threshold (R312). -/
def overLimit (t n : Nat) : Bool := t != 255 && decide (t < n)

/-- A rung's counter rises, and TOP's with the top rung (R320). -/
def Ctx.countPass (c : Ctx) (k : Nat) (top : Bool) : Ctx :=
  let up := fun (l : List Nat) (i : Nat) => l.set i ((l.getD i 0 + 1) % 2 ^ 48)
  { c with ladder := if top then up (up c.ladder k) 4 else up c.ladder k }

/-- Write a pass's scratch rows into the accumulator. -/
def State.commitRows (s : State) (a : Allot) (at_ : Nat) (rows : List (List Nat)) : State :=
  rows.zipIdx.foldl (fun s p => p.1.zipIdx.foldl (fun s q => s.setAcc a (at_ + p.2) q.2 q.1) s) s

/-- The command goes on with its next tile, or ends its passes. -/
def WinCmd.nextTile (c : WinCmd) (p : LadProg) (all : Nat) : WinCmd :=
  if all ≤ 16 * (p.tile + 1) then { c with prog := none }
  else { c with prog := some { p with tile := p.tile + 1, rung := 0 }, rows := 0, total := Nat.min 16 (all - 16 * (p.tile + 1)) }

/-- Decide the pass of the command at a place of the window (R312 to R314, R320). -/
def State.passDecide (s : State) (g k : Nat) (m : Stream) (t : BitVec 7) (n row0 all : Nat) (p : LadProg) : State :=
  match s.ownRange g n with
  | none => s
  | some rcd =>
    let a := s.allotOf g m
    let rows := Nat.min 16 (all - 16 * p.tile)
    let at_ := 16 * t.toNat + 16 * p.tile
    let z := s.pass a m rcd at_ (row0 + 16 * p.tile) rows p.rung
    let top := p.rung == recNr rcd - 1
    let s := s.updCtx a.core a.part (fun c => c.countPass p.rung top)
    if !top && (overLimit m.ladTs z.sat || overLimit m.ladTu z.und || overLimit m.ladTc z.canc) then
      s.updStream g (fun x => x.updCmd k (fun c => { c with prog := some { p with rung := p.rung + 1 }, rows := 0 }))
    else
      let s := s.commitRows a at_ z.rows
      let s := if top && !p.topped then (s.streamCause g m.owner causeLadtop).getD s else s
      s.updStream g (fun x => x.updCmd k (fun c => c.nextTile { p with topped := p.topped || top } all))

/-! ### Meanings -/

/-- R317, R323. -/
def execMlad (k : Cmd) (ts tu tc : BitVec 8) (cb : BitVec 6) (wr : BitVec 2) (wdelta : BitVec 14) (s : State) :
    Host.Outcome State Fault Refusal :=
  .next (s.runCmd k 0 (fun _ _ _ => none) (fun s g _ => s.updStream g (fun m =>
    { m with ladTs := ts.toNat, ladTu := tu.toNat, ladTc := tc.toNat, ladCb := cb.toNat, ladWr := wr.toNat, ladDelta := wdelta.toNat })))

/-- R324. -/
def execLadcnt (g : Guard) (d : Reg) (sel : BitVec 3) (s : State) : Host.Outcome State Fault Refusal :=
  .next (s.each g (fun s r => s.put64 r d (BitVec.ofNat 64 ((s.ctxOf r).ladder.getD sel.toNat 0))))

/-- R324. -/
def execLadclr (g : Guard) (b : Src) (s : State) : Host.Outcome State Fault Refusal :=
  .next (s.each g (fun s r =>
    let m := s.src32 r b
    s.updCtxOf r (fun c => { c with ladder := c.ladder.zipIdx.map (fun p => if m.getLsbD p.2 then 0 else p.1) })))

/-- R83, R312: group a; the pass of its ladder command whose rows have all been entered is decided, whether its slice is current or not. -/
def execLadderPassDecide (s : State) : Host.Outcome State Fault Refusal :=
  .next (
    let g := s.arg.a
    match s.streamOf g with
    | none => s
    | some m =>
      if !(s.engineRuns (s.group g).core (s.group g).part) then s
      else
        match m.window.findIdx? (fun c => c.issued && decide (c.total ≤ c.rows) && c.prog.isSome && decide (c.hold ≤ s.now)) with
        | none => s
        | some k =>
          match m.window[k]? with
          | none => s
          | some c =>
            match c.ins, c.prog with
            | .mstr _ _ t n row0 rows, some p => s.passDecide g k m t n.toNat row0.toNat (rows.toNat + 1) p
            | _, _ => s)

end Sys2Proof.Machine
end

