-- ==== Sys2Proof/Machine/Recurrence.lean ====
section
/-! DEFINITION. Meanings of the recurrence and scan instructions (15). -/

namespace Sys2Proof.Machine

/-! ### SCAN (R328, R329) -/

/-- A leaf or a combination of leaves: FP32 bits of A and B, the reset, and the flags of the operations so far. -/
structure ScanLeaf where
  a : Nat
  b : Nat
  r : Bool
  fl : Fl
deriving DecidableEq, Repr

/-- The operation, x covering the lower lanes. Where y has met a reset the flags of x go, since no operation of x forms the result; where x has, the
flags of the product y.A · x.A stay, although no later result takes that product (R329; DESIGN CHOICE, log entry 33). -/
def scanOp (ftz : Bool) (x y : ScanLeaf) : ScanLeaf :=
  if y.r then y
  else
    let (p, f1) := mulF fmtF32 .rne ftz false false y.a x.a
    let (q, f2) := fmaF fmtF32 .rne ftz false false false y.a x.b y.b
    { a := p, b := q, r := x.r, fl := x.fl ||| y.fl ||| f1 ||| f2 }

def scanJoin (ftz : Bool) (x y : Option ScanLeaf) : Option ScanLeaf :=
  match x, y with
  | none, y => y
  | x, none => x
  | some a, some b => some (scanOp ftz a b)

/-- The tree of R165 over lanes lo to lo + 2^k − 1. -/
def scanTree (ftz : Bool) (leaf : Nat → Option ScanLeaf) : Nat → Nat → Option ScanLeaf
  | 0, lo => leaf lo
  | k + 1, lo => scanJoin ftz (scanTree ftz leaf k lo) (scanTree ftz leaf k (lo + 2 ^ k))

/-- The fold of R167 over the blocks of m, largest first. -/
def scanPrefix (ftz : Bool) (leaf : Nat → Option ScanLeaf) (m : Nat) : Nat → Nat → Option ScanLeaf → Option ScanLeaf
  | 0, _, acc => acc
  | k + 1, lo, acc =>
    if m.testBit k then scanPrefix ftz leaf m k (lo + 2 ^ k) (scanJoin ftz acc (scanTree ftz leaf k lo))
    else scanPrefix ftz leaf m k lo acc

/-- A voter's result from its prefix and the carry. -/
def scanResult (ftz : Bool) (c : Nat) (p : ScanLeaf) : Word × Fl :=
  if p.r then (BitVec.ofNat 32 p.b, p.fl)
  else
    let (z, f) := fmaF fmtF32 .rne ftz false false false p.a c p.b
    (BitVec.ofNat 32 z, p.fl ||| f)

/-- The leaf of a lane. -/
def State.scanLeafAt (s : State) (g : Guard) (rst : Option (BitVec 3)) (a : Reg) (b : Src) (l : Nat) : Option ScanLeaf :=
  (s.voterAt g l).map (fun q =>
    { a := (s.rd q a).toNat, b := (s.srcF q b).toNat, r := (match rst with | some p => s.pr q p | none => false), fl := 0 })

/-- The result of a voter (R328). The block sizes of R167 leave the prefix of lane 63 empty, for which R328 states no result: it is a free
value (log entry 10). -/
def State.scanOf (s : State) (g : Guard) (ftz : Bool) (rst : Option (BitVec 3)) (slot : Nat) (a : Reg) (b : Src) (r : Ref) : Word × Fl :=
  match scanPrefix ftz (s.scanLeafAt g rst a b) (s.laneOf r + 1) 6 0 none with
  | some p => scanResult ftz (((s.waveOf r).carry.getD slot 0).toNat) p
  | none => (lo32 s.freeVal, 0)

/-- The voter of the highest lane. -/
def State.lastVoter (s : State) (g : Guard) : Option Ref :=
  (s.voters g).foldl (fun m q =>
    match m with
    | none => some q
    | some x => if s.laneOf x < s.laneOf q then some q else some x) none

def State.setCarry (s : State) (r : Ref) (slot : Nat) (w : Word) : State :=
  s.updWaveOf r (fun x => { x with carry := x.carry.set slot w })

/-! ### STEPK (R332) -/

/-- The exact t = a·(v + e) + b: none is a NaN, with the flags of R114. -/
def stepT (v e a b : Val) : Option Val × Fl :=
  let sig := sigFl [v, e, a, b]
  let add := fun (x y : Val) => (match x, y with
    | .inf s, .inf t => if s = t then some (Val.inf s) else none
    | .inf s, _ => some (.inf s)
    | _, .inf t => some (.inf t)
    | _, _ =>
      let d := x.dy.add y.dy
      if d.n = 0 then some (.num (x.isZero && y.isZero && x.neg && y.neg) 0 0)
      else some (.num (decide (d.n < 0)) d.n.natAbs d.e))
  if v.isNan || e.isNan then (none, sig)
  else
    match add v e with
    | none => (none, sig ||| flNV)
    | some h =>
      if a.isNan then (none, sig)
      else
        match prodV a h with
        | none => (none, sig ||| flNV)
        | some p =>
          if b.isNan then (none, sig)
          else
            match add p b with
            | none => (none, sig ||| flNV)
            | some t => (some t, sig)

/-- The new pair and the flags. -/
def stepkF (ftz : Bool) (v e a b : Word) : Word × Word × Fl :=
  let un := fun (w : Word) => unpackF fmtF32 ftz w.toNat
  let fin := (un v).2 ||| (un e).2 ||| (un a).2 ||| (un b).2
  match stepT (un v).1 (un e).1 (un a).1 (un b).1 with
  | (none, f) => (BitVec.ofNat 32 fmtF32.nanBits, BitVec.ofNat 32 fmtF32.nanBits, fin ||| f)
  | (some t, f) =>
    let (z, f1) := packV fmtF32 .rne ftz t
    let zv := (unpackF fmtF32 false z).1
    match t, zv with
    | .num _ _ _, .num _ _ _ =>
      let rest := t.dy.add (zv.negate true).dy
      let (y, _) := packMag fmtF32 .rne ftz false (decide (rest.n < 0)) rest.n.natAbs rest.e false
      let y := if rest.n = 0 then 0 else y
      let left := (rest.add ((unpackF fmtF32 false y).1.negate true).dy).n
      (BitVec.ofNat 32 z, BitVec.ofNat 32 y, fin ||| f ||| (f1 &&& ~~~flNX) ||| (if left = 0 then 0 else flNX))
    | _, _ => (BitVec.ofNat 32 z, 0, fin ||| f ||| f1)

/-! ### MSCAN (R331) -/

def State.mscanBad (m : Stream) (th ta tb tc : BitVec 7) (rows : Nat) : Bool :=
  let within := fun (t : BitVec 7) => decide (16 * t.toNat ≤ 16 * tc.toNat) && decide (16 * tc.toNat < 16 * t.toNat + rows)
  !(m.rowsIn th rows) || !(m.rowsIn ta rows) || !(m.rowsIn tb rows) || !(m.rowsIn tc 1) || within th || within ta || within tb

/-- One column's recurrence down the rows left: the state after it. -/
def State.mscanCol (s : State) (a : Allot) (th ta tb : Nat) (c : Nat) : Nat → Nat → Nat → Nat × State
  | 0, _, h => (h, s)
  | left + 1, r, h =>
    let h' := (fmaF fmtF32 .rne false false false false (s.acc a (16 * ta + r) c) h (s.acc a (16 * tb + r) c)).1
    State.mscanCol (s.setAcc a (16 * th + r) c h') a th ta tb c left (r + 1) h'

def State.mscan (s : State) (a : Allot) (rst : Bool) (th ta tb tc rows : Nat) : State :=
  (List.range 32).foldl (fun s c =>
    let (h, s) := s.mscanCol a th ta tb c rows 0 (if rst then 0 else s.acc a (16 * tc) c)
    s.setAcc a (16 * tc) c h) s

/-! ### Meanings -/

/-- R328: a meeting of the whole wave; the slot then takes the result of the highest voter. -/
def execScan (g : Guard) (ftz : Bool) (rst : Option (BitVec 3)) (slot : BitVec 3) (d a : Reg) (b : Src) (s : State) :
    Host.Outcome State Fault Refusal :=
  let t := s.cross .full g (fun old r s => s.putF r d (old.scanOf g ftz rst slot.toNat a b r))
  .next (
    if s.bnd.meeting.isSome then
      match s.lastVoter g with
      | some r => t.drawn.setCarry r slot.toNat (s.scanOf g ftz rst slot.toNat a b r).1
      | none => t
    else t)

/-- R330. -/
def execCarryGet (g : Guard) (slot : BitVec 3) (d : Reg) (s : State) : Host.Outcome State Fault Refusal :=
  .next (s.each g (fun s r => s.put r d ((s.waveOf r).carry.getD slot.toNat 0)))

/-- R330: in ascending `%tid`, so the highest stands. -/
def execCarrySet (g : Guard) (slot : BitVec 3) (b : Src) (s : State) : Host.Outcome State Fault Refusal :=
  .next (s.each g (fun s r => s.setCarry r slot.toNat (s.src32 r b)))

/-- R332. -/
def execStepk (g : Guard) (ftz : Bool) (d a : Reg) (b : Src) (s : State) : Host.Outcome State Fault Refusal :=
  .next (s.each g (fun s r =>
    let z := stepkF ftz (s.rd r d) (s.rd r (d + 1)) (s.rd r a) (s.srcF r b)
    ((s.put r d z.1).put r (d + 1) z.2.1).addFlags r z.2.2))

/-- R331. -/
def execMscan (k : Cmd) (rst : Bool) (th ta tb tc : BitVec 7) (m : BitVec 10) (s : State) : Host.Outcome State Fault Refusal :=
  .next (s.runCmd k (m.toNat + 1) (fun _ _ x => failIf (State.mscanBad x th ta tb tc (m.toNat + 1)))
    (fun s g x => s.mscan (s.allotOf g x) rst th.toNat ta.toNat tb.toNat tc.toNat (m.toNat + 1)))

end Sys2Proof.Machine
end

