-- ==== Sys2Proof/Machine/Dispatch.lean ====
section
/-! DEFINITION. The one dispatch from an instruction or event to its meaning. -/

namespace Sys2Proof.Machine

def exec (i : Instr) (s : State) : Host.Outcome State Fault Refusal :=
  match i with
  | .braCompact d => Sys2Proof.Machine.execBraCompact d s
  | .bra g d => Sys2Proof.Machine.execBra g d s
  | .brx g a b => Sys2Proof.Machine.execBrx g a b s
  | .callCompact d => Sys2Proof.Machine.execCallCompact d s
  | .call g d => Sys2Proof.Machine.execCall g d s
  | .callx g a b => Sys2Proof.Machine.execCallx g a b s
  | .ret g => Sys2Proof.Machine.execRet g s
  | .nopCompact => Sys2Proof.Machine.execNopCompact s
  | .nop g l => Sys2Proof.Machine.execNop g l s
  | .exit g => Sys2Proof.Machine.execExit g s
  | .yield g => Sys2Proof.Machine.execYield g s
  | .waitCompact l sc c t => Sys2Proof.Machine.execWaitCompact l sc c t s
  | .wait g l sc c t => Sys2Proof.Machine.execWait g l sc c t s
  | .sleep g b => Sys2Proof.Machine.execSleep g b s
  | .sleepAbs g a => Sys2Proof.Machine.execSleepAbs g a s
  | .movCompact d a => Sys2Proof.Machine.execMovCompact d a s
  | .mov g d b => Sys2Proof.Machine.execMov g d b s
  | .movG g d b => Sys2Proof.Machine.execMovG g d b s
  | .movl g d b => Sys2Proof.Machine.execMovl g d b s
  | .movlG g d b => Sys2Proof.Machine.execMovlG g d b s
  | .sel g x64 d a b p => Sys2Proof.Machine.execSel g x64 d a b p s
  | .addCompact d a b => Sys2Proof.Machine.execAddCompact d a b s
  | .add g ty sat d a b => Sys2Proof.Machine.execAdd g ty sat d a b s
  | .sub g ty sat d a b => Sys2Proof.Machine.execSub g ty sat d a b s
  | .min g ty d a b => Sys2Proof.Machine.execMin g ty d a b s
  | .max g ty d a b => Sys2Proof.Machine.execMax g ty d a b s
  | .abs g sat d a => Sys2Proof.Machine.execAbs g sat d a s
  | .mulCompact d a b => Sys2Proof.Machine.execMulCompact d a b s
  | .mul g ty sat d a b => Sys2Proof.Machine.execMul g ty sat d a b s
  | .mulhi g ty d a b => Sys2Proof.Machine.execMulhi g ty d a b s
  | .mad g ty sat d a b c => Sys2Proof.Machine.execMad g ty sat d a b c s
  | .andCompact d a b => Sys2Proof.Machine.execAndCompact d a b s
  | .and g inv x64 d a b => Sys2Proof.Machine.execAnd g inv x64 d a b s
  | .or g inv x64 d a b => Sys2Proof.Machine.execOr g inv x64 d a b s
  | .xor g inv x64 d a b => Sys2Proof.Machine.execXor g inv x64 d a b s
  | .shlCompact d a b => Sys2Proof.Machine.execShlCompact d a b s
  | .shl g x64 d a b => Sys2Proof.Machine.execShl g x64 d a b s
  | .shr g x64 d a b => Sys2Proof.Machine.execShr g x64 d a b s
  | .sar g x64 d a b => Sys2Proof.Machine.execSar g x64 d a b s
  | .bext g ty d a b w => Sys2Proof.Machine.execBext g ty d a b w s
  | .bins g d a b w => Sys2Proof.Machine.execBins g d a b w s
  | .popc g x64 d a => Sys2Proof.Machine.execPopc g x64 d a s
  | .clz g x64 d a => Sys2Proof.Machine.execClz g x64 d a s
  | .brev g x64 d a => Sys2Proof.Machine.execBrev g x64 d a s
  | .icmp g cond ty x64 pd a b => Sys2Proof.Machine.execIcmp g cond ty x64 pd a b s
  | .plut g pd px py pz table => Sys2Proof.Machine.execPlut g pd px py pz table s
  | .add64 g ty sat neg d a b => Sys2Proof.Machine.execAdd64 g ty sat neg d a b s
  | .mad64 g ty sat d a b c => Sys2Proof.Machine.execMad64 g ty sat d a b c s
  | .lea g ty sh d a b => Sys2Proof.Machine.execLea g ty sh d a b s
  | .faddCompact d a b => Sys2Proof.Machine.execFaddCompact d a b s
  | .fadd g m d a b => Sys2Proof.Machine.execFadd g m d a b s
  | .fmin g m d a b => Sys2Proof.Machine.execFmin g m d a b s
  | .fmax g m d a b => Sys2Proof.Machine.execFmax g m d a b s
  | .fmulCompact d a b => Sys2Proof.Machine.execFmulCompact d a b s
  | .fmul g m d a b => Sys2Proof.Machine.execFmul g m d a b s
  | .fscl g m d a b => Sys2Proof.Machine.execFscl g m d a b s
  | .fmaCompact d a b => Sys2Proof.Machine.execFmaCompact d a b s
  | .fma g m d a b c => Sys2Proof.Machine.execFma g m d a b c s
  | .fcmp g cond ftz pd a b => Sys2Proof.Machine.execFcmp g cond ftz pd a b s
  | .fcls g d a => Sys2Proof.Machine.execFcls g d a s
  | .frint g m d a => Sys2Proof.Machine.execFrint g m d a s
  | .h2add g m d a b => Sys2Proof.Machine.execH2add g m d a b s
  | .h2mul g m d a b => Sys2Proof.Machine.execH2mul g m d a b s
  | .h2fmaCompact d a b => Sys2Proof.Machine.execH2fmaCompact d a b s
  | .h2fma g m d a b c => Sys2Proof.Machine.execH2fma g m d a b c s
  | .h2min g m d a b => Sys2Proof.Machine.execH2min g m d a b s
  | .h2max g m d a b => Sys2Proof.Machine.execH2max g m d a b s
  | .rcp g m d a => Sys2Proof.Machine.execRcp g m d a s
  | .rsqrt g m d a => Sys2Proof.Machine.execRsqrt g m d a s
  | .sqrt g m d a => Sys2Proof.Machine.execSqrt g m d a s
  | .exp2 g m d a => Sys2Proof.Machine.execExp2 g m d a s
  | .log2 g m d a => Sys2Proof.Machine.execLog2 g m d a s
  | .sin g m d a => Sys2Proof.Machine.execSin g m d a s
  | .cos g m d a => Sys2Proof.Machine.execCos g m d a s
  | .tanh g m d a => Sys2Proof.Machine.execTanh g m d a s
  | .fdiv g m d a b => Sys2Proof.Machine.execFdiv g m d a b s
  | .cvt g dst src rm sat ftz d a => Sys2Proof.Machine.execCvt g dst src rm sat ftz d a s
  | .cvts g dst src sat ftz d a b => Sys2Proof.Machine.execCvts g dst src sat ftz d a b s
  | .pack g fmt d a b => Sys2Proof.Machine.execPack g fmt d a b s
  | .unpk g fmt f32 d a b => Sys2Proof.Machine.execUnpk g fmt f32 d a b s
  | .qblk g fmt bs d a => Sys2Proof.Machine.execQblk g fmt bs d a s
  | .dot4 g fa fb sat d a b c => Sys2Proof.Machine.execDot4 g fa fb sat d a b c s
  | .dot8 g fa fb sat d a b c => Sys2Proof.Machine.execDot8 g fa fb sat d a b c s
  | .dot2h g m d a b c => Sys2Proof.Machine.execDot2h g m d a b c s
  | .obres g d a n => Sys2Proof.Machine.execObres g d a n s
  | .obrel g d n => Sys2Proof.Machine.execObrel g d n s
  | .obwr g a b n => Sys2Proof.Machine.execObwr g a b n s
  | .obrd g d b n => Sys2Proof.Machine.execObrd g d b n s
  | .lxch g mode wrap x64 m d a b => Sys2Proof.Machine.execLxch g mode wrap x64 m d a b s
  | .lvoteAny g m pd pa => Sys2Proof.Machine.execLvoteAny g m pd pa s
  | .lvoteAll g m pd pa => Sys2Proof.Machine.execLvoteAll g m pd pa s
  | .lvoteBal g m d pa => Sys2Proof.Machine.execLvoteBal g m d pa s
  | .lmatch g x64 m d a => Sys2Proof.Machine.execLmatch g x64 m d a s
  | .lelect g m pd => Sys2Proof.Machine.execLelect g m pd s
  | .lred g op ty m d a => Sys2Proof.Machine.execLred g op ty m d a s
  | .lscan g op ty exc m d a => Sys2Proof.Machine.execLscan g op ty exc m d a s
  | .ldCompact d a b => Sys2Proof.Machine.execLdCompact d a b s
  | .ld g sp sz ux o d a b => Sys2Proof.Machine.execLd g sp sz ux o d a b s
  | .ldt g o d a b => Sys2Proof.Machine.execLdt g o d a b s
  | .stCompact d a b => Sys2Proof.Machine.execStCompact d a b s
  | .st g sp sz ux o d a b => Sys2Proof.Machine.execSt g sp sz ux o d a b s
  | .stt g o d a b => Sys2Proof.Machine.execStt g o d a b s
  | .ldf g cm take ux d a b => Sys2Proof.Machine.execLdf g cm take ux d a b s
  | .ste g cm ux d a b => Sys2Proof.Machine.execSte g cm ux d a b s
  | .tags g cm full ux a b cnt => Sys2Proof.Machine.execTags g cm full ux a b cnt s
  | .tagq g cm ux d a b => Sys2Proof.Machine.execTagq g cm ux d a b s
  | .pref g lv ux a b cnt => Sys2Proof.Machine.execPref g lv ux a b cnt s
  | .cwb g pt a b => Sys2Proof.Machine.execCwb g pt a b s
  | .cinv g pt a b => Sys2Proof.Machine.execCinv g pt a b s
  | .cwbi g pt a b => Sys2Proof.Machine.execCwbi g pt a b s
  | .iinv g sc a b => Sys2Proof.Machine.execIinv g sc a b s
  | .fbar g => Sys2Proof.Machine.execFbar g s
  | .domset g d a => Sys2Proof.Machine.execDomset g d a s
  | .laydivw g d a => Sys2Proof.Machine.execLaydivw g d a s
  | .tlbinv g a => Sys2Proof.Machine.execTlbinv g a s
  | .tlbinvAll g => Sys2Proof.Machine.execTlbinvAll g s
  | .pgmap g d a b c => Sys2Proof.Machine.execPgmap g d a b c s
  | .pgunmap g d a => Sys2Proof.Machine.execPgunmap g d a s
  | .pgqPte g d a => Sys2Proof.Machine.execPgqPte g d a s
  | .pgqZero g d a => Sys2Proof.Machine.execPgqZero g d a s
  | .pgqRoot g d => Sys2Proof.Machine.execPgqRoot g d s
  | .cpy g dsp ssp sc tag a b => Sys2Proof.Machine.execCpy g dsp ssp sc tag a b s
  | .cpyt g sc tag a b => Sys2Proof.Machine.execCpyt g sc tag a b s
  | .sebind g drain sc eng tag d a b => Sys2Proof.Machine.execSebind g drain sc eng tag d a b s
  | .sefree g eng d => Sys2Proof.Machine.execSefree g eng d s
  | .slotw g eng d b => Sys2Proof.Machine.execSlotw g eng d b s
  | .slotrel g eng b => Sys2Proof.Machine.execSlotrel g eng b s
  | .tagwait g all d b => Sys2Proof.Machine.execTagwait g all d b s
  | .tagff g clr d b => Sys2Proof.Machine.execTagff g clr d b s
  | .tagclr g b => Sys2Proof.Machine.execTagclr g b s
  | .lockqAddr g sp d a b => Sys2Proof.Machine.execLockqAddr g sp d a b s
  | .lockqFree g d => Sys2Proof.Machine.execLockqFree g d s
  | .lockqErr g d b => Sys2Proof.Machine.execLockqErr g d b s
  | .atom g op sp o d a b => Sys2Proof.Machine.execAtom g op sp o d a b s
  | .cas g sp o d a b => Sys2Proof.Machine.execCas g sp o d a b s
  | .atomf g op sp o d a b => Sys2Proof.Machine.execAtomf g op sp o d a b s
  | .red g op sp o a b => Sys2Proof.Machine.execRed g op sp o a b s
  | .binit g clu n d b => Sys2Proof.Machine.execBinit g clu n d b s
  | .barv g clu n d => Sys2Proof.Machine.execBarv g clu n d s
  | .bwait g clu n a => Sys2Proof.Machine.execBwait g clu n a s
  | .bsync g clu n => Sys2Proof.Machine.execBsync g clu n s
  | .bqry g clu n d => Sys2Proof.Machine.execBqry g clu n d s
  | .fence g k sc => Sys2Proof.Machine.execFence g k sc s
  | .lfence g => Sys2Proof.Machine.execLfence g s
  | .lfenceArray g b mask => Sys2Proof.Machine.execLfenceArray g b mask s
  | .efence g mx sc => Sys2Proof.Machine.execEfence g mx sc s
  | .mxrun g d a b => Sys2Proof.Machine.execMxrun g d a b s
  | .mxq g d => Sys2Proof.Machine.execMxq g d s
  | .mldw k bank fmt sk bl off => Sys2Proof.Machine.execMldw k bank fmt sk bl off s
  | .mswap k => Sys2Proof.Machine.execMswap k s
  | .mstr k lad t n row0 m => Sys2Proof.Machine.execMstr k lad t n row0 m s
  | .mzero k t m => Sys2Proof.Machine.execMzero k t m s
  | .maccld k t off m => Sys2Proof.Machine.execMaccld k t off m s
  | .maccst k t off m => Sys2Proof.Machine.execMaccst k t off m s
  | .mepi k fn t p n orow m => Sys2Proof.Machine.execMepi k fn t p n orow m s
  | .mbar k all n => Sys2Proof.Machine.execMbar k all n s
  | .mwaitb k all n => Sys2Proof.Machine.execMwaitb k all n s
  | .mend k => Sys2Proof.Machine.execMend k s
  | .mlad k ts tu tc cb wr wdelta => Sys2Proof.Machine.execMlad k ts tu tc cb wr wdelta s
  | .ladcnt g d sel => Sys2Proof.Machine.execLadcnt g d sel s
  | .ladclr g b => Sys2Proof.Machine.execLadclr g b s
  | .scan g ftz rst slot d a b => Sys2Proof.Machine.execScan g ftz rst slot d a b s
  | .carryGet g slot d => Sys2Proof.Machine.execCarryGet g slot d s
  | .carrySet g slot b => Sys2Proof.Machine.execCarrySet g slot b s
  | .stepk g ftz d a b => Sys2Proof.Machine.execStepk g ftz d a b s
  | .mscan k rst th ta tb tc m => Sys2Proof.Machine.execMscan k rst th ta tb tc m s
  | .priow g map a b => Sys2Proof.Machine.execPriow g map a b s
  | .priowWt g b => Sys2Proof.Machine.execPriowWt g b s
  | .prior g sel d a => Sys2Proof.Machine.execPrior g sel d a s
  | .sepq g sel d => Sys2Proof.Machine.execSepq g sel d s
  | .sposPos g d => Sys2Proof.Machine.execSposPos g d s
  | .sposRow g d => Sys2Proof.Machine.execSposRow g d s
  | .vput g a => Sys2Proof.Machine.execVput g a s
  | .vputOvl g a => Sys2Proof.Machine.execVputOvl g a s
  | .vget g n a b => Sys2Proof.Machine.execVget g n a b s
  | .vqry g d a => Sys2Proof.Machine.execVqry g d a s
  | .vqryCfg g d => Sys2Proof.Machine.execVqryCfg g d s
  | .rowdlRow g d b => Sys2Proof.Machine.execRowdlRow g d b s
  | .rowdlTime g d b => Sys2Proof.Machine.execRowdlTime g d b s
  | .rowput g sp d a b => Sys2Proof.Machine.execRowput g sp d a b s
  | .probeOpen g slot d a => Sys2Proof.Machine.execProbeOpen g slot d a s
  | .probeTri g slot a => Sys2Proof.Machine.execProbeTri g slot a s
  | .probeEnd g slot d => Sys2Proof.Machine.execProbeEnd g slot d s
  | .probeSmp g slot d a => Sys2Proof.Machine.execProbeSmp g slot d a s
  | .curve g kind slot a => Sys2Proof.Machine.execCurve g kind slot a s
  | .pathendOpen g slot d a => Sys2Proof.Machine.execPathendOpen g slot d a s
  | .pathendNz g slot d => Sys2Proof.Machine.execPathendNz g slot d s
  | .pathendEo g slot d => Sys2Proof.Machine.execPathendEo g slot d s
  | .cvg g raw slot d a => Sys2Proof.Machine.execCvg g raw slot d a s
  | .trace g any cullb a b => Sys2Proof.Machine.execTrace g any cullb a b s
  | .hitr g d => Sys2Proof.Machine.execHitr g d s
  | .hitrSt g d => Sys2Proof.Machine.execHitrSt g d s
  | .mbwait g poll bank d b => Sys2Proof.Machine.execMbwait g poll bank d b s
  | .mbtake g d a b => Sys2Proof.Machine.execMbtake g d a b s
  | .mbpost g nosig d a b => Sys2Proof.Machine.execMbpost g nosig d a b s
  | .jnlSeq g d => Sys2Proof.Machine.execJnlSeq g d s
  | .jnlFail g d a b => Sys2Proof.Machine.execJnlFail g d a b s
  | .launch g d a b => Sys2Proof.Machine.execLaunch g d a b s
  | .sliceDl g d a b => Sys2Proof.Machine.execSliceDl g d a b s
  | .sliceKill g d a => Sys2Proof.Machine.execSliceKill g d a s
  | .nodegoCfg g d a b => Sys2Proof.Machine.execNodegoCfg g d a b s
  | .nodegoFlush g d a => Sys2Proof.Machine.execNodegoFlush g d a s
  | .nodegoQ g d a => Sys2Proof.Machine.execNodegoQ g d a s
  | .nodegoOff g d a => Sys2Proof.Machine.execNodegoOff g d a s
  | .admitqEnergy g d a => Sys2Proof.Machine.execAdmitqEnergy g d a s
  | .admitqTherm g d a => Sys2Proof.Machine.execAdmitqTherm g d a s
  | .admitqAct g d a => Sys2Proof.Machine.execAdmitqAct g d a s
  | .admitqGate g d a => Sys2Proof.Machine.execAdmitqGate g d a s
  | .admitqQueue g d a => Sys2Proof.Machine.execAdmitqQueue g d a s
  | .recalloc g d a => Sys2Proof.Machine.execRecalloc g d a s
  | .recemit g a b => Sys2Proof.Machine.execRecemit g a b s
  | .recrd g d b => Sys2Proof.Machine.execRecrd g d b s
  | .recfin g => Sys2Proof.Machine.execRecfin g s
  | .srdCompact d n => Sys2Proof.Machine.execSrdCompact d n s
  | .srd g d n => Sys2Proof.Machine.execSrd g d n s
  | .swr g n b => Sys2Proof.Machine.execSwr g n b s
  | .trap g code => Sys2Proof.Machine.execTrap g code s
  | .tret g => Sys2Proof.Machine.execTret g s
  | .cclr g b => Sys2Proof.Machine.execCclr g b s
  | .tmaskOr g d b => Sys2Proof.Machine.execTmaskOr g d b s
  | .tmaskAndn g d b => Sys2Proof.Machine.execTmaskAndn g d b s
  | .tmaskWr g d b => Sys2Proof.Machine.execTmaskWr g d b s
  | .bkpt g => Sys2Proof.Machine.execBkpt g s
  | .preempt g d a b => Sys2Proof.Machine.execPreempt g d a b s
  | .ctxsv g d a b => Sys2Proof.Machine.execCtxsv g d a b s
  | .ctxld g d a b => Sys2Proof.Machine.execCtxld g d a b s
  | .haltq g sel d => Sys2Proof.Machine.execHaltq g sel d s
  | .meetingForm => Sys2Proof.Machine.execMeetingForm s
  | .fewaitTimeout => Sys2Proof.Machine.execFewaitTimeout s
  | .loadComplete => Sys2Proof.Machine.execLoadComplete s
  | .storePerformed => Sys2Proof.Machine.execStorePerformed s
  | .atomicPerformed => Sys2Proof.Machine.execAtomicPerformed s
  | .l2RequestReplay => Sys2Proof.Machine.execL2RequestReplay s
  | .pageZeroingDone => Sys2Proof.Machine.execPageZeroingDone s
  | .pageWalk => Sys2Proof.Machine.execPageWalk s
  | .lockEntryRegister => Sys2Proof.Machine.execLockEntryRegister s
  | .lockMirrorAck => Sys2Proof.Machine.execLockMirrorAck s
  | .copyComplete => Sys2Proof.Machine.execCopyComplete s
  | .boxStart => Sys2Proof.Machine.execBoxStart s
  | .boxComplete => Sys2Proof.Machine.execBoxComplete s
  | .barrierArrivalCounted => Sys2Proof.Machine.execBarrierArrivalCounted s
  | .barrierDeadlockDetect => Sys2Proof.Machine.execBarrierDeadlockDetect s
  | .streamLineFetch => Sys2Proof.Machine.execStreamLineFetch s
  | .streamCommandIssue => Sys2Proof.Machine.execStreamCommandIssue s
  | .streamCommandRetire => Sys2Proof.Machine.execStreamCommandRetire s
  | .mwaitbDeadlockDetect => Sys2Proof.Machine.execMwaitbDeadlockDetect s
  | .matrixRowEntry => Sys2Proof.Machine.execMatrixRowEntry s
  | .mldwFetchStart => Sys2Proof.Machine.execMldwFetchStart s
  | .ladderPassDecide => Sys2Proof.Machine.execLadderPassDecide s
  | .separatorApply => Sys2Proof.Machine.execSeparatorApply s
  | .vatPlacement => Sys2Proof.Machine.execVatPlacement s
  | .overlapIngest => Sys2Proof.Machine.execOverlapIngest s
  | .rowputCopy => Sys2Proof.Machine.execRowputCopy s
  | .separatorVisit => Sys2Proof.Machine.execSeparatorVisit s
  | .positionIssue => Sys2Proof.Machine.execPositionIssue s
  | .separatorHeaderRetry => Sys2Proof.Machine.execSeparatorHeaderRetry s
  | .rowLock => Sys2Proof.Machine.execRowLock s
  | .rowEngineEnable => Sys2Proof.Machine.execRowEngineEnable s
  | .triangleBin => Sys2Proof.Machine.execTriangleBin s
  | .binRasterise => Sys2Proof.Machine.execBinRasterise s
  | .blendRecord => Sys2Proof.Machine.execBlendRecord s
  | .curveSegmentAdd => Sys2Proof.Machine.execCurveSegmentAdd s
  | .pathClose => Sys2Proof.Machine.execPathClose s
  | .traceComplete => Sys2Proof.Machine.execTraceComplete s
  | .recfullTimeout => Sys2Proof.Machine.execRecfullTimeout s
  | .nodeLaunch => Sys2Proof.Machine.execNodeLaunch s
  | .nodeAgeExpiry => Sys2Proof.Machine.execNodeAgeExpiry s
  | .dispatchPlace => Sys2Proof.Machine.execDispatchPlace s
  | .groupRetire => Sys2Proof.Machine.execGroupRetire s
  | .sliceRelease => Sys2Proof.Machine.execSliceRelease s
  | .budgetExhausted => Sys2Proof.Machine.execBudgetExhausted s
  | .activityWindow => Sys2Proof.Machine.execActivityWindow s
  | .occupancyWindow => Sys2Proof.Machine.execOccupancyWindow s
  | .pick => Sys2Proof.Machine.execPick s
  | .lineFetch => Sys2Proof.Machine.execLineFetch s
  | .lineRefetch => Sys2Proof.Machine.execLineRefetch s
  | .threadUnpark => Sys2Proof.Machine.execThreadUnpark s
  | .sleepWake => Sys2Proof.Machine.execSleepWake s
  | .fenceComplete => Sys2Proof.Machine.execFenceComplete s
  | .handlerEntry => Sys2Proof.Machine.execHandlerEntry s
  | .haltLineRise => Sys2Proof.Machine.execHaltLineRise s
  | .watchdogExpiry => Sys2Proof.Machine.execWatchdogExpiry s
  | .partitionResume => Sys2Proof.Machine.execPartitionResume s
  | .thermalAdmissionStop => Sys2Proof.Machine.execThermalAdmissionStop s
  | .thermalClockHalve => Sys2Proof.Machine.execThermalClockHalve s
  | .thermalClockRestore => Sys2Proof.Machine.execThermalClockRestore s
  | .thermalArrayGate => Sys2Proof.Machine.execThermalArrayGate s
  | .engineWake => Sys2Proof.Machine.execEngineWake s
  | .vbusLaneRepair => Sys2Proof.Machine.execVbusLaneRepair s
  | .spareRemap => Sys2Proof.Machine.execSpareRemap s
  | .mailboxMessageWrite => Sys2Proof.Machine.execMailboxMessageWrite s
  | .mailboxControlWrite => Sys2Proof.Machine.execMailboxControlWrite s
  | .rstreq => Sys2Proof.Machine.execRstreq s
  | .hmring => Sys2Proof.Machine.execHmring s
  | .bar0Write => Sys2Proof.Machine.execBar0Write s
  | .hostMemoryAccess => Sys2Proof.Machine.execHostMemoryAccess s
  | .ptmExchange => Sys2Proof.Machine.execPtmExchange s
  | .bridgeRetry => Sys2Proof.Machine.execBridgeRetry s
  | .bridgeUncorrectable => Sys2Proof.Machine.execBridgeUncorrectable s
  | .moduleOutOfService => Sys2Proof.Machine.execModuleOutOfService s
  | .memoryUncorrectable => Sys2Proof.Machine.execMemoryUncorrectable s
  | .backgroundScrub => Sys2Proof.Machine.execBackgroundScrub s
  | .attestationReport => Sys2Proof.Machine.execAttestationReport s
  | .perstDeassert => Sys2Proof.Machine.execPerstDeassert s
  | .partitionReset => Sys2Proof.Machine.execPartitionReset s
  | .vbusRepairComplete => Sys2Proof.Machine.execVbusRepairComplete s
  | .fabricError => Sys2Proof.Machine.execFabricError s
  | .rowEngineDisable => Sys2Proof.Machine.execRowEngineDisable s
  | .engineGate => Sys2Proof.Machine.execEngineGate s
  | .partitionRelease => Sys2Proof.Machine.execPartitionRelease s
  | .domainChangeComplete => Sys2Proof.Machine.execDomainChangeComplete s
  | .laydivChangeComplete => Sys2Proof.Machine.execLaydivChangeComplete s
  | .cacheMaintenanceComplete => Sys2Proof.Machine.execCacheMaintenanceComplete s
  | .writeBufferCommit => Sys2Proof.Machine.execWriteBufferCommit s
  | .msixVectorUnmask => Sys2Proof.Machine.execMsixVectorUnmask s
  | .perstAssert => Sys2Proof.Machine.execPerstAssert s
  | .configurationRequest => Sys2Proof.Machine.execConfigurationRequest s
  | .hostSnoop => Sys2Proof.Machine.execHostSnoop s

end Sys2Proof.Machine
end

