-- ==== Sys2Proof/Machine/Schedule.lean ====
section
/-! DEFINITION. What happens next (log entries 3 and 4): one event of the agenda; the command that the sequencer chose; the bundle that
the picker chose, with the checks of R48 and its spending (R399); or, with none of these, the first event in a fixed order that changes the
state, and when there is none, the next cycle. `Step.lean` only calls `State.advance`. -/

namespace Sys2Proof.Machine

/-! ### One event -/

/-- The instruction is a row of the table's events. -/
def isEvent (i : Instr) : Bool := runsOn i == .event

/-- An event is performed on what it names. -/
def State.perform (s : State) (e : Ev) : Host.Outcome State Fault Refusal :=
  match exec e.row { s with arg := e.arg } with
  | .next t => .next { t with arg := EventArg.none }
  | .fault f => .fault f
  | .refused r => .refused r

/-- The state after an event, if the event changes it. -/
def State.did (s : State) (e : Ev) : Option State :=
  match s.perform e with
  | .next t => if t = { s with arg := EventArg.none } then none else some t
  | .fault _ | .refused _ => none

def ev4 (row : Instr) (a b c d : Nat) : Ev := { row := row, arg := { EventArg.none with a := a, b := b, c := c, d := d } }
def ev1 (row : Instr) (a : Nat) : Ev := ev4 row a 0 0 0
def evWake (e : Engine) : Ev := { row := .engineWake, arg := { EventArg.none with engine := some e } }

/-! ### The bundle that issues (R48, R66, R399) -/

/-- The instruction forms meetings (R154, R325). -/
def meets : Instr → Bool
  | .lvoteAny _ _ _ _ | .lvoteAll _ _ _ _ | .lvoteBal _ _ _ _ | .lelect _ _ _ | .lmatch _ _ _ _ _ | .lxch _ _ _ _ _ _ _ _
  | .lred _ _ _ _ _ _ | .lscan _ _ _ _ _ _ _ | .scan _ _ _ _ _ _ _ => true
  | _ => false

/-- The instruction that a bundle issues, or the cause that it raises instead (R48 orders 2 to 8). -/
def State.issueOf (s : State) (b : Bundle) (words : List Word) (r : Ref) : Except Nat Instr :=
  match readIns words b.pc with
  | .error c => .error c
  | .ok i =>
    let g := s.group r.1
    match issueCheck i (hdrRegs g.hdr) (isControl b.core) g.priv with
    | some c => .error c
    | none => .ok i

/-- What an issue spends: nothing in handler mode (R399), nor while a meeting gathers, which has not issued yet (R156). -/
def State.issueSpend (s : State) (b : Bundle) (i : Instr) (r : Ref) : State :=
  let (p, w) := pipeWeight i
  if w = 0 ∨ (s.thread r).handler = true ∨ (meets i && b.meeting.isNone) = true then s
  else s.spend b.core (s.partOf r) (s.weightOf p w)

/-- The issue of the first instruction set an enabled cause in the thread's wave (R67). -/
def State.waveCaught (s t : State) (r : Ref) : Bool :=
  (t.waveOf r).cause &&& ~~~(s.waveOf r).cause &&& (t.waveOf r).tmask != 0

/-- A thread of the bundle goes on to the second instruction: it stands there, nothing holds it, and its wave has met no cause (R67; log entry
12). -/
def State.goesOn (s t : State) (b : Bundle) (u : UsedLine) (r : Ref) : Bool :=
  let x := t.thread r
  x.live && x.park == .ready && x.meet.isNone && x.pc == b.npc && x.lineAt == some u && !(s.waveCaught t r)

/-- What issues in the same slot after an instruction: the second of its pair, for the threads that go on. -/
def State.secondOf (s t : State) (b : Bundle) (u : UsedLine) (i : Instr) : Option Bundle :=
  if b.second || (pairedWith u.words b.pc b.npc i).isNone then none
  else
    match b.refs.filter (s.goesOn t b u) with
    | [] => none
    | refs => some { b with pc := b.npc, npc := nextPc u.words b.npc, refs := refs, second := true, ins := none }

/-- Every thread of the bundle waits to issue the instruction again: it has not issued, and spends nothing (R399; log entry 19). -/
def State.issuedNone (t : State) (b : Bundle) : Bool := b.refs.all (fun r => (t.thread r).park matches .tagFull _)

/-- After the effect of a bundle's instruction. -/
def State.issuedBy (s t : State) (b : Bundle) (u : UsedLine) (i : Instr) : State :=
  let t : State := if t.issuedNone b then { t with ctxs := s.ctxs } else t
  { t with bundle := s.secondOf t b u i }

/-- A bundle that was held at its instruction goes on with it: it has passed its checks and has spent its units. -/
def State.runHeld (s : State) (b : Bundle) (i : Instr) (r : Ref) : Host.Outcome State Fault Refusal :=
  match exec i s with
  | .next t => .next (match (s.thread r).line with | some u => s.issuedBy t b u i | none => { t with bundle := none })
  | .fault f => .fault f
  | .refused x => .refused x

/-- The bundle issues: its instruction for every thread of it that is still there, or the cause for each. -/
def State.runBundle (s : State) (b : Bundle) : Host.Outcome State Fault Refusal :=
  match b.refs.find? (fun r => (s.thread r).live) with
  | none => .next { s with bundle := none }
  | some r =>
    match b.ins with
    | some i => s.runHeld b i r
    | none =>
    match (s.thread r).line with
    | none => .fault .lineNotHeld
    | some u =>
      match s.issueOf b u.words r with
      | .error c => .next { s.each .always (fun s r => s.fail r c) with bundle := none }
      | .ok i =>
        match exec i { s.issueSpend b i r with bundle := some { b with lat := latencyOf i, ins := some i } } with
        | .next t => .next (s.issuedBy t b u i)
        | .fault f => .fault f
        | .refused x => .refused x

/-- The command of a stream issues and spends its unit (R289, R297). -/
def State.runCommand (s : State) (g k : Nat) : Host.Outcome State Fault Refusal :=
  match (s.streamOf g).bind (fun m => m.window[k]?) with
  | none => .next { s with command := none }
  | some c =>
    let w := (pipeWeight c.ins).2
    let s1 := if w = 0 then s else s.spend (s.group g).core (s.group g).part (s.weightOf 5 w)
    match exec c.ins s1 with
    | .next t => .next { t with command := none }
    | .fault f => .fault f
    | .refused x => .refused x

/-! ### Events whose time has come (log entry 4) -/

/-- The events of a thread's oldest load. -/
def LoadOp.events (g t : Nat) : LoadOp → List Ev
  | .value _ _ | .fetched _ _ _ | .record _ _ | .tagq _ _ _ | .binit _ _ _ _ | .bqry _ _ _ => [ev4 .loadComplete g t 0 0]
  | .late _ _ _ _ _ _ => [ev4 .l2RequestReplay g t 0 0, ev4 .loadComplete g t 0 0]
  | .atomic _ _ => [ev4 .atomicPerformed g t 0 0]
  | .trace _ _ _ _ => [ev4 .traceComplete g t 0 0]

/-- The event of a thread's oldest store. -/
def StoreOp.event (g t : Nat) : StoreOp → Ev
  | .store _ _ | .write _ _ _ _ _ | .tags _ _ _ => ev4 .storePerformed g t 0 0
  | .red _ => ev4 .atomicPerformed g t 0 0
  | .arrive _ _ _ _ _ => ev4 .barrierArrivalCounted g t 0 0
  | .maint _ | .tlbinv _ => ev4 .cacheMaintenanceComplete g t 0 0
  | .priow _ _ _ _ | .priowWt _ _ => ev4 .separatorApply g t 0 0
  | .vput _ _ _ _ => ev4 .vatPlacement g t 0 0
  | .rowput _ _ _ => ev4 .rowputCopy g t 0 0
  | .tri _ _ _ => ev4 .triangleBin g t 0 0
  | .curve _ _ _ => ev4 .curveSegmentAdd g t 0 0

/-- The events by which a parked thread goes on. -/
def Park.events (g t : Nat) : Park → List Ev
  | .ready => [ev4 .handlerEntry g t 0 0, ev4 .lineRefetch g t 0 0, ev4 .lineFetch g t 0 0]
  | .unfetched _ => [ev4 .handlerEntry g t 0 0]
  | .sleep _ => [ev4 .sleepWake g t 0 0]
  | .fence _ _ | .lfence | .lfenceArray _ | .efence _ _ => [ev4 .fenceComplete g t 0 0]
  | .word => [ev4 .fewaitTimeout g t 0 0]
  | .slotw _ _ _ => [ev4 .threadUnpark g t 0 0, ev4 .fewaitTimeout g t 0 0]
  | .record _ _ => [ev4 .threadUnpark g t 0 0, ev4 .recfullTimeout g t 0 0]
  | .yielded | .bar _ _ | .barArrive _ _ | .domset _ | .laydivw _ | .lockReg _ => []
  | .wait _ _ _ _ | .tag _ _ _ | .fbar | .sefree _ _ | .mxrun _ _ _ | .obrel _ _ | .rowdist _ _ _ | .mail _ _ _ | .mailTake _ _ _
  | .ctx _ _ _ _ | .draw _ _ | .path _ _ | .settle | .tagFull _ | .hitr _ _ | .barSoon _ _ _ | .pgmap _ _ _ _ | .pgunmap _ _
  | .pgunmapped _ _ => [ev4 .threadUnpark g t 0 0]

/-- Events of a thread, while its partition holds its core and is not contained (R430, R442). -/
def State.threadEvents (s : State) (t : Thread) : List Ev :=
  let g := s.group t.gid
  if s.engineRuns g.core g.part then
    (if s.loadDue t then ((t.loads.head?).map (LoadOp.events t.gid t.tid)).getD [] else []) ++
    (if s.storeDue t then (t.stores.head?).map (StoreOp.event t.gid t.tid) else none).toList ++
    (if t.live then t.park.events t.gid t.tid else [])
  else []

/-- Engines that work needs (R403). -/
def State.wanted (s : State) (e : Engine) : Bool :=
  match e with
  | .core n => s.groups.any (fun g => g.core == n)
  | .array n => !((s.die (dieOfCore n)).arraysGated) && s.groups.any (fun g => g.core == n && (g.stream.map Stream.running).getD false)
  | .slice n => s.domNew.any (fun d => d.2.2.any (fun e => e.2.slices.getLsbD n))
  | .bank n => s.groups.any (fun g => g.core == n && (g.stream.map (fun m => m.window.any (fun c =>
      match c.ins with | .mldw _ bank _ _ _ _ => bank | _ => false))).getD false)
  | .column n => s.groups.any (fun g => g.core == n && (g.stream.map (fun m => m.window.any (fun c =>
      match c.ins with | .mldw _ bank _ _ _ _ => !bank | _ => false))).getD false)

/-- Events of locks, engines and caches. -/
def State.engineEvents (s : State) : List Ev :=
  (s.gated.filter s.wanted).map evWake ++
  s.locks.flatMap (fun l =>
    (if l.acked then [] else [ev1 .lockMirrorAck l.id]) ++
    (match l.kind with
     | .copy | .copyT _ _ => if l.ready ≤ s.now then [ev1 .copyComplete l.id] else []
     | .box _ _ => if l.ready ≤ s.now then [ev1 .boxComplete l.id] else []
     | .rowput _ _ | .draw _ _ | .path _ _ | .ring _ _ => [])) ++
  (if s.regQueue.isEmpty then [] else [ev1 .lockEntryRegister 0, ev1 .lockEntryRegister 1]) ++
  s.ctxs.flatMap (fun c =>
    (if c.eng0.isSome then [ev4 .boxStart c.core c.part 0 0] else []) ++ (if c.eng1.isSome then [ev4 .boxStart c.core c.part 1 0] else [])) ++
  s.zeroing.map (fun z => ev1 .pageZeroingDone z.1) ++
  s.parts.flatMap (fun p => if p.laydivNew.isEmpty then [] else [ev1 .laydivChangeComplete p.part]) ++
  (if s.domNew.isEmpty then [] else [ev1 .domainChangeComplete 0]) ++
  s.buffered.map (ev1 .writeBufferCommit)

/-- Events of groups, their streams and dispatch. -/
def State.dispatchEvents (s : State) : List Ev :=
  s.groups.flatMap (fun g =>
    (match g.stream with
     | some _ =>
       if s.engineRuns g.core g.part then
         [ev1 .streamLineFetch g.gid, ev1 .mldwFetchStart g.gid, ev1 .ladderPassDecide g.gid, ev1 .streamCommandRetire g.gid,
          ev1 .mwaitbDeadlockDetect g.gid]
       else []
     | none => []) ++
    (if s.engineRuns g.core g.part then
       [ev1 .barrierDeadlockDetect g.gid, ev1 .groupRetire g.gid, ev1 .budgetExhausted g.gid, ev1 .sliceRelease g.gid]
     else [])) ++
  s.nodes.flatMap (fun n =>
    if (s.part n.part).contained then []
    else [ev4 .nodeLaunch n.die n.part n.id 0, ev4 .nodeAgeExpiry n.die n.part n.id 0]) ++
  (if s.launches.isEmpty then []
   else s.parts.flatMap (fun p => [ev4 .dispatchPlace 0 p.part 0 0, ev4 .dispatchPlace 1 p.part 0 0]))

/-- Events of the dies' fixed units. -/
def State.fixedEvents (s : State) : List Ev :=
  s.dies.flatMap (fun d =>
    (match d.display with
     | some x =>
       [ev1 .separatorVisit d.die] ++ (if x.waiting then [ev1 .separatorHeaderRetry d.die] else []) ++ [ev1 .positionIssue d.die]
     | none => []) ++
    (if d.overlap.isEmpty then [] else [ev1 .overlapIngest d.die]) ++
    d.draws.map (fun w => ev4 .binRasterise d.die w.n 0 0) ++ (if d.draws.isEmpty then [] else [ev1 .blendRecord d.die]) ++
    d.paths.map (fun w => ev4 .pathClose d.die w.n 0 0))

/-- The row engines' locks, which take effect before what else the moment brings (R338). -/
def State.lockEvents (s : State) : List Ev := s.dies.flatMap (fun d => if d.display.isSome then [ev1 .rowLock d.die] else [])

/-- R430 step 5: firmware lets a partition go on after a halt. -/
def State.resumeEvents (s : State) : List Ev :=
  (s.parts.filter (fun p => p.contained && !p.stopped)).map (fun p => ev1 .partitionResume p.part)

/-- The events whose time has come, in the model's order. -/
def State.due (s : State) : List Ev :=
  s.resumeEvents ++ s.lockEvents ++ s.threads.flatMap s.threadEvents ++ s.engineEvents ++ s.dispatchEvents ++ s.fixedEvents

/-! ### The cycles of the cores (R63, R289, R297, R399, R402) -/

/-- Cycles that a core's clock makes within the present moment. -/
def State.cyclesOf (s : State) (core : Nat) : Nat := ({ s with now := s.now + 1 } : State).rawClk core - s.rawClk core

/-- The events of cycle n of a core, its k-th of this moment: windows begin, its streams issue up to four commands, a row enters its array and
one its port, the watchdog looks on, and a meeting or else a bundle issues. -/
def State.cycleEvents (_s : State) (core n k : Nat) : List Ev :=
  [if n % 32 = 0 then ev1 .activityWindow core else ev1 .backgroundScrub 0,
   if n % 1024 = 0 then ev4 .occupancyWindow core k 0 0 else ev1 .backgroundScrub 0,
   ev4 .streamCommandIssue core k 0 0, ev4 .streamCommandIssue core k 0 0, ev4 .streamCommandIssue core k 0 0,
   ev4 .streamCommandIssue core k 0 0, ev4 .matrixRowEntry core 0 k 0, ev4 .matrixRowEntry core 1 k 0,
   ev1 .watchdogExpiry core, ev4 .meetingForm core k 0 0, ev4 .pick core k 0 0]

/-- Cores with a group or a window's count. -/
def State.busyCores (s : State) : List Nat :=
  (List.range 160).filter (fun n =>
    s.groups.any (fun g => g.core == n) || s.ctxs.any (fun c => c.core == n && c.act != 0) ||
    s.cores.any (fun c => c.core == n && (c.occupied != 0 || decide (s.clk n < c.busyTo))))

/-- The events of this moment's cycles, each with its turn: sixteen to a cycle, two cycles at most to a core. -/
def State.turns (s : State) : List (Nat × Ev) :=
  s.busyCores.flatMap (fun core =>
    (List.range (s.cyclesOf core)).flatMap (fun k =>
      (s.cycleEvents core (s.clk core + k) k).zipIdx.map (fun p => (core * 32 + k * 16 + p.2, p.1))))

/-- The next turn whose event changes the state; a core that has chosen a bundle has had its cycle (R63, R156). -/
def State.takeTurn (s : State) : Option State :=
  (s.turns.filter (fun p => decide (s.turn ≤ p.1))).findSome? (fun p =>
    (s.did p.2).map (fun t => { t with turn := if t.bundle.isSome then (p.1 / 16 + 1) * 16 else p.1 + 1 }))

/-- The next cycle of the wide cores; lines for which a cache has no room leave it. -/
def State.tick (s : State) : State := { s.evict with now := s.now + 1, turn := 0 }

/-- One scheduled event: work whose time has come first, then the cores in turn, then time goes on. -/
def State.schedule (s : State) : State :=
  match s.due.findSome? s.did with
  | some t => t
  | none =>
    match s.takeTurn with
    | some t => t
    | none => s.tick

/-! ### One step -/

/-- An event of the agenda; a row of another kind is no event and is dropped. -/
def State.runAgenda (s : State) (e : Ev) (rest : List Ev) : Host.Outcome State Fault Refusal :=
  let s : State := { s with agenda := rest }
  if isEvent e.row then s.perform e else .next s

/-- One step: the agenda, the chosen command, the chosen bundle, or the schedule. -/
def State.advance (s : State) : Host.Outcome State Fault Refusal :=
  match s.command, s.bundle, s.agenda with
  | some (g, k), _, _ => s.runCommand g k
  | none, some b, _ => s.runBundle b
  | none, none, e :: rest => s.runAgenda e rest
  | none, none, [] => .next s.schedule

/-! ### Placing one instruction (Step.lean's withFetchWord) -/

/-- The words of an instruction of the table's bits. -/
def tableWords (w : Nat) : List Word := [BitVec.ofNat 32 w, BitVec.ofNat 32 (w / 2 ^ 32), BitVec.ofNat 32 (w / 2 ^ 64)]

/-- Its words alone, as many as it has. -/
def placedWords (w : Nat) : List Word :=
  match decodeWords (tableWords w) with
  | .ok (_, n) => (tableWords w).take n
  | .error _ => tableWords w

/-- A sealed line with the words in its first slots. -/
def lineOf (ws : List Word) : List Word :=
  let slots := (ws ++ List.replicate 15 0).take 15
  slots ++ [sealLine slots 0]

/-- The header of a group of one thread: eight lanes, 256 registers, 4 KiB of scratch, 4 KiB of lane memory, entry 0x10000. -/
def placedHdr : List Word :=
  [0x3E000000, 0, 0, 0, 0, 0, 0, 0, 0, 0x00400040, 0, 0, 0, 0, 0, 0, 0x10000, 0] ++ List.replicate 14 0

def placedThread (gid : Nat) (line : List Word) : Thread :=
  { Thread.none with
    gid := gid, tid := 0, regs := List.replicate 256 0, pc := 0x10000, live := true,
    line := some { va := 0x10000, line := 0x400, words := line, bad := false } }

def placedGroup (gid core : Nat) : Group :=
  { Group.none with gid := gid, core := core, priv := true, hdr := placedHdr, gregs := List.replicate 64 0, current := true, deadline := 2 ^ 64 - 1 }

/-- A stream whose window holds one command. -/
def placedStream (ws : List Word) (i : Instr) (k : Cmd) : Stream := (Stream.start 0 0x10000 1 0).accept 0 ws i k

/-- The state in which the next step runs the instruction of these words: on a core that runs it, by a privileged group of one thread, or
as the command of its stream. -/
def State.placeWord (s : State) (w : Nat) : State :=
  let ws := placedWords w
  let gid := s.serial
  let core := match decodeTableWord 96 w with
    | some i => (match runsOn i with | .control => 128 | .wide | .both | .stream | .event => 0)
    | none => 0
  let cmd := (decodeTableWord 96 w).bind (fun i => (cmdKey i).map (fun k => (i, k)))
  let g := { placedGroup gid core with stream := cmd.map (fun p => placedStream ws p.1 p.2) }
  { s with
    serial := s.serial + 1, threads := s.threads ++ [placedThread gid (lineOf ws)], groups := s.groups ++ [g],
    waves := s.waves ++ [{ Wave.none with gid := gid, wid := 0, roster := List.range 8 }],
    command := cmd.map (fun _ => (gid, 0)),
    bundle := if cmd.isSome then none else
      some { core := core, pc := 0x10000, npc := 0x10040, refs := [(gid, 0)], meeting := none, lat := 0, second := false } }

end Sys2Proof.Machine
end

