-- ==== Sys2Proof/Machine/Step.lean ====
section
/-! DEFINITION. One step of the machine, and the placing of one instruction where the next step runs it. -/

namespace Sys2Proof.Machine

/-- One step (log entry 3). -/
def step (s : State) : Host.Outcome State Fault Refusal := s.advance

/-- The state in which the instruction whose bits are w is the next to run (log entry 2). -/
def State.withFetchWord (s : State) (_nbits w : Nat) : State := s.placeWord w

end Sys2Proof.Machine
end

