-- ==== Sys2Proof/Laws/Encoding.lean ====
section
/-! SUPPORT. The codes of the small sets read back, and the words of an instruction decode to what its fields parse to. -/

-- One proof after another: many at once would need more memory than the check of the whole package has.
set_option Elab.async false

namespace Sys2Proof

/-! ### Fields of a concatenation: widths are left to unification, not to indexing -/

@[simp] theorem extract_append_right {v w : Nat} (a : BitVec v) (b : BitVec w) :
    @BitVec.extractLsb' (no_index (v + w)) 0 w (@HAppend.hAppend (BitVec v) (BitVec w) (no_index (BitVec (v + w))) _ a b) = b :=
  BitVec.extractLsb'_append_eq_right
@[simp] theorem extract_append_high {v w k l : Nat} (a : BitVec v) (b : BitVec w) (h : w ≤ k) :
    @BitVec.extractLsb' (no_index (v + w)) k l (@HAppend.hAppend (BitVec v) (BitVec w) (no_index (BitVec (v + w))) _ a b) =
      a.extractLsb' (k - w) l :=
  BitVec.extractLsb'_append_eq_of_le h
@[simp] theorem extract_append_low {v w k l : Nat} (a : BitVec v) (b : BitVec w) (h : k + l ≤ w) :
    @BitVec.extractLsb' (no_index (v + w)) k l (@HAppend.hAppend (BitVec v) (BitVec w) (no_index (BitVec (v + w))) _ a b) =
      b.extractLsb' k l :=
  BitVec.extractLsb'_append_eq_of_add_le h
@[simp] theorem bit_append_high {v w k : Nat} (a : BitVec v) (b : BitVec w) (h : w ≤ k) :
    @BitVec.getLsbD (no_index (v + w)) (@HAppend.hAppend (BitVec v) (BitVec w) (no_index (BitVec (v + w))) _ a b) k =
      a.getLsbD (k - w) := by
  rw [BitVec.getLsbD_append]; simp [Nat.not_lt.mpr h]
@[simp] theorem bit_append_low {v w k : Nat} (a : BitVec v) (b : BitVec w) (h : k < w) :
    @BitVec.getLsbD (no_index (v + w)) (@HAppend.hAppend (BitVec v) (BitVec w) (no_index (BitVec (v + w))) _ a b) k =
      b.getLsbD k := by
  rw [BitVec.getLsbD_append]; simp [h]
@[simp] theorem bit1_bit (x : Bool) : (bit1 x).getLsbD 0 = x := by cases x <;> rfl

/-! ### The codes of the small sets -/

@[simp] theorem Guard.ofCode_code (g : Guard) : Guard.ofCode g.code = g := by
  rcases g with _ | ⟨neg, p⟩
  · rfl
  · revert neg p; decide

@[simp] theorem Src.ofCode_code (b : Src) : Src.ofCode b.bk b.fieldB b.literal = b := by
  rcases b with r | r | k | w
  · rfl
  · simp [Src.ofCode, Src.bk, Src.fieldB, Src.literal]
  · rfl
  · rfl

@[simp] theorem IntTy.ofCode_code (x : IntTy) : IntTy.ofCode x.code = x := by cases x <;> rfl
@[simp] theorem Cond.ofCode_code (x : Cond) : Cond.ofCode x.code = x := by cases x <;> rfl
@[simp] theorem FCond.ofCode_code (x : FCond) : FCond.ofCode x.code = x := by cases x <;> rfl
@[simp] theorem Rnd.ofCode_code (x : Rnd) : Rnd.ofCode x.code = x := by cases x <;> rfl
@[simp] theorem EFmt.ofCode_code (x : EFmt) : EFmt.ofCode x.code = x := by cases x <;> rfl
@[simp] theorem Dot4Ty.ofCode_code (x : Dot4Ty) : Dot4Ty.ofCode x.code = x := by cases x <;> rfl
@[simp] theorem Dot8Ty.ofCode_code (x : Dot8Ty) : Dot8Ty.ofCode x.code = x := by cases x <;> rfl
@[simp] theorem Mask.ofCode_code (m : Mask) : Mask.ofCode m.isFull m.fieldC = m := by cases m <;> rfl
@[simp] theorem XMode.ofCode_code (x : XMode) : XMode.ofCode x.code = x := by cases x <;> rfl
@[simp] theorem ROp.ofCode_code (x : ROp) : ROp.ofCode x.code = x := by cases x <;> rfl
@[simp] theorem RTy.ofCode_code (x : RTy) : RTy.ofCode x.code = x := by cases x <;> rfl
@[simp] theorem Space.ofCode_code (x : Space) : Space.ofCode x.code = x := by cases x <;> rfl
@[simp] theorem ESpace.ofCode_code (x : ESpace) : ESpace.ofCode x.code = x := by cases x <;> rfl
@[simp] theorem Size.ofCode_code (x : Size) : Size.ofCode x.code = x := by cases x <;> rfl
@[simp] theorem Scope.ofCode_code (x : Scope) : Scope.ofCode x.code = x := by cases x <;> rfl
@[simp] theorem Order.ofCode_code (x : Order) : Order.ofCode x.code = x := by
  rcases x with _ | sc | sc
  · rfl
  all_goals cases sc <;> rfl
@[simp] theorem PLevel.ofCode_code (x : PLevel) : PLevel.ofCode x.code = x := by cases x <;> rfl
@[simp] theorem CPoint.ofCode_code (x : CPoint) : CPoint.ofCode x.code = x := by cases x <;> rfl
@[simp] theorem AKind.ofCode_code (x : AKind) : AKind.ofCode x.code = x := by cases x <;> rfl
@[simp] theorem AOrd.ofCode_code (x : AOrd) : AOrd.ofCode x.code = x := by
  obtain ⟨k, x64, rmt, sc⟩ := x
  cases k <;> cases x64 <;> cases rmt <;> cases sc <;> rfl
@[simp] theorem AOp.ofCode_code (x : AOp) : AOp.ofCode x.code = x := by cases x <;> rfl
@[simp] theorem AFOp.ofCode_code (x : AFOp) : AFOp.ofCode x.code = x := by cases x <;> rfl
@[simp] theorem FKind.ofCode_code (x : FKind) : FKind.ofCode x.code = x := by cases x <;> rfl
@[simp] theorem SK.ofCode_code (x : SK) : SK.ofCode x.code = x := by cases x <;> rfl
@[simp] theorem BLen.ofCode_code (x : BLen) : BLen.ofCode x.code = x := by cases x <;> rfl
@[simp] theorem EpiFn.ofCode_code (x : EpiFn) : EpiFn.ofCode x.code = x := by cases x <;> rfl
@[simp] theorem SMap.ofCode_code (x : SMap) : SMap.ofCode x.code = x := by cases x <;> rfl
@[simp] theorem PSel.ofCode_code (x : PSel) : PSel.ofCode x.code = x := by cases x <;> rfl
@[simp] theorem RSpace.ofCode_code (x : RSpace) : RSpace.ofCode x.code = x := by cases x <;> rfl
@[simp] theorem CKind.ofCode_code (x : CKind) : CKind.ofCode x.code = x := by cases x <;> rfl
@[simp] theorem FMod.ofCode_code (m : FMod) : FMod.ofCode m.code = m := by
  obtain ⟨rm, ftz, na, nb, nc, bf⟩ := m
  cases rm <;> cases ftz <;> cases na <;> cases nb <;> cases nc <;> cases bf <;> rfl
@[simp] theorem Disp.ofCode_long (d a b : BitVec 8) (w : BitVec 32) : Disp.ofCode d a b (some w) = .long w := rfl
@[simp] theorem noB_reads : noB.fieldB = 0#8 := rfl
@[simp] theorem imm_reads (k : BitVec 8) : (Src.imm k).fieldB = k := rfl
@[simp] theorem v_reads (r : Reg) : (Src.v r).fieldB = r := rfl
@[simp] theorem noB_kind : noB.bk = 0#2 := rfl
@[simp] theorem noB_literal : noB.literal = none := rfl
/-- Adjacent fields of a word joined again. -/
@[simp] theorem join24 (d : BitVec 24) : d.extractLsb' 16 8 ++ d.extractLsb' 8 8 ++ d.extractLsb' 0 8 = d := by
  rw [BitVec.extractLsb'_append_extractLsb'_eq_extractLsb' (by rfl), BitVec.extractLsb'_append_extractLsb'_eq_extractLsb' (by rfl)]
  exact BitVec.extractLsb'_eq_self
@[simp] theorem Disp.ofCode_short (d : BitVec 24) :
    Disp.ofCode (d.extractLsb' 16 8) (d.extractLsb' 8 8) (d.extractLsb' 0 8) none = .short d := by
  simp only [Disp.ofCode, join24]
@[simp] theorem join22 (d : BitVec 22) : d.extractLsb' 16 6 ++ d.extractLsb' 8 8 ++ d.extractLsb' 0 8 = d := by
  rw [BitVec.extractLsb'_append_extractLsb'_eq_extractLsb' (by rfl), BitVec.extractLsb'_append_extractLsb'_eq_extractLsb' (by rfl)]
  exact BitVec.extractLsb'_eq_self
@[simp] theorem join16 (d : BitVec 16) : d.extractLsb' 8 8 ++ d.extractLsb' 0 8 = d := by
  rw [BitVec.extractLsb'_append_extractLsb'_eq_extractLsb' (by rfl)]
  exact BitVec.extractLsb'_eq_self
@[simp] theorem join11 (d : BitVec 11) : d.extractLsb' 8 3 ++ d.extractLsb' 0 8 = d := by
  rw [BitVec.extractLsb'_append_extractLsb'_eq_extractLsb' (by rfl)]
  exact BitVec.extractLsb'_eq_self

/-! ### Words -/

/-- A code whose words no check before the row's reading refuses. -/
def Code.sane : Code → Bool
  | .short mj _ => mj != 0#6 && decide (mj.toNat ≤ 0x3B)
  | .long f => f.maj != 0#6 && decide (f.maj.toNat ≤ 0x3B) && (decide (f.bk = 3#2) == f.lit.isSome) && (f.g.getLsbD 4 || f.g == 0#5)

theorem guard_sane (g : Guard) : (g.code.getLsbD 4 || g.code == 0#5) = true := by
  rcases g with _ | ⟨neg, p⟩
  · rfl
  · revert neg p; decide

theorem src_sane (b : Src) : (decide (b.bk = 3#2) == b.literal.isSome) = true := by cases b <;> rfl

theorem row_sane {mj : BitVec 6} {mn g d a b c mod} (h : mj ≠ 0#6 ∧ mj.toNat ≤ 0x3B) : (row mj mn g d a b c mod).sane = true := by
  simp only [row, Code.sane, guard_sane, src_sane, Bool.and_true, Bool.and_eq_true, bne_iff_ne, decide_eq_true_eq]
  exact h

theorem cmdRow_sane {mj : BitVec 6} {mn k d a b c mod x} (h : mj ≠ 0#6 ∧ mj.toNat ≤ 0x3B) : (cmdRow mj mn k d a b c mod x).sane = true := by
  simp [cmdRow, Code.sane, h.1, h.2]

theorem fieldsOf_words (f : Fields) (l : BitVec 2) :
    fieldsOf (word0 l f.maj f.d f.a f.b) (word1 f.c f.min f.g f.bk f.mod) f.lit = f := by
  simp [fieldsOf, word0, word1]

/-- A sane code that decodes, does so from its words, whatever follows them. -/
theorem decodeWords_words {c : Code} {i : Instr} (rest : List Word) (hs : c.sane = true) (h : decodeCode c = .ok i) :
    decodeWords (c.words ++ rest) = .ok (i, c.words.length) := by
  cases c with
  | short mj w =>
    simp only [Code.sane, Bool.and_eq_true, bne_iff_ne, decide_eq_true_eq] at hs
    have h0 : mj.toNat ≠ 0 := fun e => hs.1 (BitVec.eq_of_toNat_eq e)
    have e1 : (1#2 ++ mj ++ w).extractLsb' 30 2 = 1#2 := by simp
    have e2 : (1#2 ++ mj ++ w).extractLsb' 24 6 = mj := by simp
    have e3 : (1#2 ++ mj ++ w).extractLsb' 0 24 = w := by simp
    have n1 : ¬((1#2).toNat = 0 ∨ mj.toNat = 0 ∨ 0x3B < mj.toNat) := by
      have := hs.2; simp only [BitVec.toNat_ofNat]; omega
    simp only [Code.words, List.cons_append, List.nil_append, decodeWords, e1, e2, e3, if_neg n1, h]
    rfl
  | long f =>
    simp only [Code.sane, Bool.and_eq_true, bne_iff_ne, decide_eq_true_eq, Bool.or_eq_true, beq_iff_eq] at hs
    obtain ⟨⟨⟨hm, hm2⟩, hk⟩, hg⟩ := hs
    have h0 : f.maj.toNat ≠ 0 := fun e => hm (BitVec.eq_of_toNat_eq e)
    have hc : checkLong f = .ok i := by
      unfold checkLong
      have k1 : ¬((f.bk = 3#2) ≠ (f.lit.isSome = true)) := by
        rw [← hk]; simp
      have k2 : ¬(f.g.getLsbD 4 = false ∧ f.g ≠ 0#5) := by
        rcases hg with g | g <;> simp [g]
      rw [if_neg k1, if_neg k2, h]
    cases hl : f.lit with
    | none =>
      have hf := fieldsOf_words f 2
      rw [hl] at hf
      have e1 : (word0 2 f.maj f.d f.a f.b).extractLsb' 30 2 = 2#2 := by simp [word0]
      have e2 : (word0 2 f.maj f.d f.a f.b).extractLsb' 24 6 = f.maj := by simp [word0]
      have n1 : ¬((2#2).toNat = 0 ∨ f.maj.toNat = 0 ∨ 0x3B < f.maj.toNat) := by
        simp only [BitVec.toNat_ofNat]; omega
      simp only [Code.words, hl, List.cons_append, List.nil_append, decodeWords, e1, e2, if_neg n1, hf, hc]
      rfl
    | some w =>
      have hf := fieldsOf_words f 3
      rw [hl] at hf
      have e1 : (word0 3 f.maj f.d f.a f.b).extractLsb' 30 2 = 3#2 := by simp [word0]
      have e2 : (word0 3 f.maj f.d f.a f.b).extractLsb' 24 6 = f.maj := by simp [word0]
      have n1 : ¬((3#2).toNat = 0 ∨ f.maj.toNat = 0 ∨ 0x3B < f.maj.toNat) := by
        simp only [BitVec.toNat_ofNat]; omega
      simp only [Code.words, hl, List.cons_append, List.nil_append, decodeWords, e1, e2, if_neg n1, hf, hc]
      rfl

/-- A well-formed instruction whose row reads back decodes to itself. -/
theorem decodeCode_of_parse {i : Instr} {c : Code} (hc : codeOf i = some c) (hw : i.wellFormed = true) (hp : parse c = some i) :
    decodeCode c = .ok i := by
  simp [decodeCode, hp, hw, hc]

/-! ### The pieces of a row, unfolded by simp -/

@[simp] theorem Fields.gd_eq (f : Fields) : f.gd = Guard.ofCode f.g := rfl
@[simp] theorem Fields.src_eq (f : Fields) : f.src = Src.ofCode f.bk f.b f.lit := rfl
@[simp] theorem Fields.ty_eq (f : Fields) : f.ty = IntTy.ofCode (f.mod.extractLsb' 0 2) := rfl
@[simp] theorem Fields.m_eq (f : Fields) (k : Nat) : f.m k = f.mod.getLsbD k := rfl
@[simp] theorem Fields.mm_eq (f : Fields) : f.mm = FMod.ofCode f.mod := rfl
@[simp] theorem Fields.pd_eq (f : Fields) : f.pd = f.d.extractLsb' 0 3 := rfl
@[simp] theorem Fields.pa_eq (f : Fields) : f.pa = f.a.extractLsb' 0 3 := rfl
@[simp] theorem Fields.rng_eq (f : Fields) : f.rng = f.c.extractLsb' 0 5 := rfl
@[simp] theorem Fields.mask_eq (f : Fields) : f.mask = Mask.ofCode (f.m 3) f.c := rfl
@[simp] theorem Fields.c6_eq (f : Fields) : f.c6 = f.c.extractLsb' 0 6 := rfl
@[simp] theorem Fields.sc_eq (f : Fields) : f.sc = Scope.ofCode (f.mod.extractLsb' 0 4) := rfl
@[simp] theorem Fields.scC_eq (f : Fields) : f.scC = Scope.ofCode (f.c.extractLsb' 0 4) := rfl
@[simp] theorem Fields.sp_eq (f : Fields) : f.sp = Space.ofCode (f.mod.extractLsb' 0 3) := rfl
@[simp] theorem Fields.aord_eq (f : Fields) : f.aord = AOrd.ofCode f.c := rfl
@[simp] theorem Fields.word_eq (f : Fields) : f.word = f.lit.getD 0 := rfl
@[simp] theorem Fields.cmd_eq (f : Fields) : f.cmd = { id := f.word.extractLsb' 0 6, p0 := f.word.extractLsb' 6 6, p1 := f.word.extractLsb' 12 6 } := rfl
@[simp] theorem Fields.x_eq (f : Fields) : f.x = f.word.extractLsb' 18 14 := rfl
@[simp] theorem Fields.xm_eq (f : Fields) : f.xm = f.x.extractLsb' 0 10 := rfl
@[simp] theorem pred8_eq (p : BitVec 3) : pred8 p = 0#5 ++ p := rfl
@[simp] theorem low5_eq (n : BitVec 5) : low5 n = 0#3 ++ n := rfl
@[simp] theorem low6_eq (n : BitVec 6) : low6 n = 0#2 ++ n := rfl
@[simp] theorem cvtC_eq (src : EFmt) (sat ftz : Bool) : cvtC src sat ftz = 0#1 ++ bit1 ftz ++ bit1 sat ++ src.code := rfl
@[simp] theorem tySat_eq (ty : IntTy) (sat : Bool) : tySat ty sat = 0#4 ++ bit1 sat ++ ty.code := rfl
@[simp] theorem x64Mod_eq (x64 : Bool) : x64Mod x64 = 0#3 ++ bit1 x64 ++ 0#3 := rfl
@[simp] theorem logicMod_eq (inv x64 : Bool) : logicMod inv x64 = 0#2 ++ bit1 inv ++ bit1 x64 ++ 0#3 := rfl
@[simp] theorem gMod_eq : gMod = 0x20#7 := rfl
@[simp] theorem fullMod_eq (m : Mask) : fullMod m = 0#3 ++ bit1 m.isFull ++ 0#3 := rfl


/-! ### Rows that need a word of their own -/

theorem REDOp.ofCode_code (x : REDOp) (x64 : Bool) (h : x.ok x64 = true) : REDOp.ofCode x.code = x := by
  rcases x with o | o
  · cases o <;> first | rfl | simp [REDOp.ok] at h
  · cases o <;> rfl

theorem wait_reads (g : Guard) (w : BitVec 24) :
    parse (.long { maj := 0x03, d := w.extractLsb' 16 8, a := w.extractLsb' 8 8, b := w.extractLsb' 0 8, c := 0, min := 3,
                   g := g.code, bk := 2, mod := 0, lit := none }) =
      some (.wait g (w.extractLsb' 18 6) (w.extractLsb' 12 6) (w.extractLsb' 6 6) (w.extractLsb' 0 6)) := by
  have h : parse (.long { maj := 0x03, d := w.extractLsb' 16 8, a := w.extractLsb' 8 8, b := w.extractLsb' 0 8, c := 0, min := 3,
                          g := g.code, bk := 2, mod := 0, lit := none }) =
      some (.wait (Guard.ofCode g.code)
        ((w.extractLsb' 16 8 ++ w.extractLsb' 8 8 ++ w.extractLsb' 0 8).extractLsb' 18 6)
        ((w.extractLsb' 16 8 ++ w.extractLsb' 8 8 ++ w.extractLsb' 0 8).extractLsb' 12 6)
        ((w.extractLsb' 16 8 ++ w.extractLsb' 8 8 ++ w.extractLsb' 0 8).extractLsb' 6 6)
        ((w.extractLsb' 16 8 ++ w.extractLsb' 8 8 ++ w.extractLsb' 0 8).extractLsb' 0 6)) := rfl
  rw [h, Guard.ofCode_code, join24]

theorem wait_parts (l s c t : BitVec 6) :
    (l ++ s ++ c ++ t).extractLsb' 18 6 = l ∧ (l ++ s ++ c ++ t).extractLsb' 12 6 = s ∧ (l ++ s ++ c ++ t).extractLsb' 6 6 = c ∧
      (l ++ s ++ c ++ t).extractLsb' 0 6 = t := by
  simp

/-- The all-ones body is NOP, which a well-formed wait never is. -/
theorem wait_not_ones (l s c t : BitVec 6) (h : (Instr.waitCompact l s c t).wellFormed = true) : l ++ s ++ c ++ t ≠ 0xFFFFFF#24 := by
  intro e
  have hp := wait_parts l s c t
  rw [e] at hp
  obtain ⟨h1, h2, h3, h4⟩ := hp
  subst h1 h2 h3 h4
  exact absurd h (by decide)

end Sys2Proof
end

