-- ==== Sys2Proof/Laws/PerInstr.lean ====
section
/-! SUPPORT. One lemma per constructor of `Instr`: a well-formed instruction's words, written by the encoder, decode to it and to
nothing longer or shorter, whatever follows them. An event has no words. -/

-- One proof after another: many at once would need more memory than the check of the whole package has.
set_option Elab.async false

namespace Sys2Proof.Laws.RoundTrip

/-- The words of a well-formed instruction decode to that instruction, with its length. -/
def Statement (i : Instr) : Prop :=
  i.wellFormed = true → ∀ ws, encode i = some ws → ∀ rest, decodeWords (ws ++ rest) = .ok (i, ws.length)

theorem of_none {i : Instr} (h : codeOf i = none) : Statement i := by
  intro _ ws hw
  simp [encode, h] at hw

theorem of_code {i : Instr} {c : Code} (hc : codeOf i = some c) (hp : i.wellFormed = true → parse c = some i) (hs : c.sane = true) :
    Statement i := by
  intro hw ws hws rest
  simp only [encode, hc, Option.map_some, Option.some.injEq] at hws
  subst hws
  exact decodeWords_words rest hs (decodeCode_of_parse hc hw (hp hw))

theorem braCompact (d : BitVec 24) : Statement (.braCompact d) :=
  of_code rfl (fun _ => by simp [-BitVec.getLsbD_eq_getElem, parse, parseShort]) rfl

theorem bra (g : Guard) (d : Disp) : Statement (.bra g d) :=
  match d with
  | .short e => of_code rfl (fun _ => by simp [-BitVec.getLsbD_eq_getElem, parse, parseLong, parseFlow, dispRow]) (guard_sane g)
  | .long e => of_code rfl (fun _ => by simp [-BitVec.getLsbD_eq_getElem, parse, parseLong, parseFlow, dispRow]) (guard_sane g)

theorem brx (g : Guard) (a : Reg) (b : Src) : Statement (.brx g a b) :=
  of_code rfl (fun _ => by simp [-BitVec.getLsbD_eq_getElem, parse, parseLong, parseFlow, row]) (row_sane (by decide))

theorem callCompact (d : BitVec 24) : Statement (.callCompact d) :=
  of_code rfl (fun _ => by simp [-BitVec.getLsbD_eq_getElem, parse, parseShort]) rfl

theorem call (g : Guard) (d : Disp) : Statement (.call g d) :=
  match d with
  | .short e => of_code rfl (fun _ => by simp [-BitVec.getLsbD_eq_getElem, parse, parseLong, parseCall, dispRow]) (guard_sane g)
  | .long e => of_code rfl (fun _ => by simp [-BitVec.getLsbD_eq_getElem, parse, parseLong, parseCall, dispRow]) (guard_sane g)

theorem callx (g : Guard) (a : Reg) (b : Src) : Statement (.callx g a b) :=
  of_code rfl (fun _ => by simp [-BitVec.getLsbD_eq_getElem, parse, parseLong, parseCall, row]) (row_sane (by decide))

theorem ret (g : Guard) : Statement (.ret g) :=
  of_code rfl (fun _ => by simp [-BitVec.getLsbD_eq_getElem, parse, parseLong, parseCall, row]) (row_sane (by decide))

theorem nopCompact : Statement (.nopCompact) :=
  of_code rfl (fun _ => by simp [-BitVec.getLsbD_eq_getElem, parse, parseShort]) rfl

theorem nop (g : Guard) (l : Option (BitVec 32)) : Statement (.nop g l) :=
  of_code rfl (fun _ => by cases l <;> simp [parse, parseLong, parseIssue, row] <;> rfl) (row_sane (by decide))

theorem exit (g : Guard) : Statement (.exit g) :=
  of_code rfl (fun _ => by simp [-BitVec.getLsbD_eq_getElem, parse, parseLong, parseIssue, row]) (row_sane (by decide))

theorem yield (g : Guard) : Statement (.yield g) :=
  of_code rfl (fun _ => by simp [-BitVec.getLsbD_eq_getElem, parse, parseLong, parseIssue, row]) (row_sane (by decide))

theorem waitCompact (l : BitVec 6) (s : BitVec 6) (c : BitVec 6) (t : BitVec 6) : Statement (.waitCompact l s c t) :=
  of_code rfl (fun h => by simp [-BitVec.getLsbD_eq_getElem, parse, parseShort, wait_not_ones l s c t h]) rfl

theorem wait (g : Guard) (l : BitVec 6) (s : BitVec 6) (c : BitVec 6) (t : BitVec 6) : Statement (.wait g l s c t) :=
  of_code rfl (fun _ => by
    have h := wait_parts l s c t
    rw [wait_reads, h.1, h.2.1, h.2.2.1, h.2.2.2]) (guard_sane g)

theorem sleep (g : Guard) (b : Src) : Statement (.sleep g b) :=
  of_code rfl (fun _ => by simp [-BitVec.getLsbD_eq_getElem, parse, parseLong, parseIssue, row]) (row_sane (by decide))

theorem sleepAbs (g : Guard) (a : Reg) : Statement (.sleepAbs g a) :=
  of_code rfl (fun _ => by simp [-BitVec.getLsbD_eq_getElem, parse, parseLong, parseIssue, row]) (row_sane (by decide))

theorem movCompact (d : Reg) (a : Reg) : Statement (.movCompact d a) :=
  of_code rfl (fun _ => by simp [-BitVec.getLsbD_eq_getElem, parse, parseShort]) rfl

theorem mov (g : Guard) (d : Reg) (b : Src) : Statement (.mov g d b) :=
  of_code rfl (fun _ => by simp [-BitVec.getLsbD_eq_getElem, parse, parseLong, parseMov, row]) (row_sane (by decide))

theorem movG (g : Guard) (d : BitVec 6) (b : Src) : Statement (.movG g d b) :=
  of_code rfl (fun _ => by simp [-BitVec.getLsbD_eq_getElem, parse, parseLong, parseMov, row]) (row_sane (by decide))

theorem movl (g : Guard) (d : Reg) (b : Src) : Statement (.movl g d b) :=
  of_code rfl (fun _ => by simp [-BitVec.getLsbD_eq_getElem, parse, parseLong, parseMov, row]) (row_sane (by decide))

theorem movlG (g : Guard) (d : BitVec 6) (b : Src) : Statement (.movlG g d b) :=
  of_code rfl (fun _ => by simp [-BitVec.getLsbD_eq_getElem, parse, parseLong, parseMov, row]) (row_sane (by decide))

theorem sel (g : Guard) (x64 : Bool) (d : Reg) (a : Reg) (b : Src) (p : BitVec 3) : Statement (.sel g x64 d a b p) :=
  of_code rfl (fun _ => by simp [-BitVec.getLsbD_eq_getElem, parse, parseLong, parseMov, row]) (row_sane (by decide))

theorem addCompact (d : Reg) (a : Reg) (b : Reg) : Statement (.addCompact d a b) :=
  of_code rfl (fun _ => by simp [-BitVec.getLsbD_eq_getElem, parse, parseShort]) rfl

theorem add (g : Guard) (ty : IntTy) (sat : Bool) (d : Reg) (a : Reg) (b : Src) : Statement (.add g ty sat d a b) :=
  of_code rfl (fun _ => by simp [-BitVec.getLsbD_eq_getElem, parse, parseLong, parseAdd, row]) (row_sane (by decide))

theorem sub (g : Guard) (ty : IntTy) (sat : Bool) (d : Reg) (a : Reg) (b : Src) : Statement (.sub g ty sat d a b) :=
  of_code rfl (fun _ => by simp [-BitVec.getLsbD_eq_getElem, parse, parseLong, parseAdd, row]) (row_sane (by decide))

theorem min (g : Guard) (ty : IntTy) (d : Reg) (a : Reg) (b : Src) : Statement (.min g ty d a b) :=
  of_code rfl (fun _ => by simp [-BitVec.getLsbD_eq_getElem, parse, parseLong, parseAdd, row]) (row_sane (by decide))

theorem max (g : Guard) (ty : IntTy) (d : Reg) (a : Reg) (b : Src) : Statement (.max g ty d a b) :=
  of_code rfl (fun _ => by simp [-BitVec.getLsbD_eq_getElem, parse, parseLong, parseAdd, row]) (row_sane (by decide))

theorem abs (g : Guard) (sat : Bool) (d : Reg) (a : Reg) : Statement (.abs g sat d a) :=
  of_code rfl (fun _ => by simp [-BitVec.getLsbD_eq_getElem, parse, parseLong, parseAdd, row]) (row_sane (by decide))

theorem mulCompact (d : Reg) (a : Reg) (b : Reg) : Statement (.mulCompact d a b) :=
  of_code rfl (fun _ => by simp [-BitVec.getLsbD_eq_getElem, parse, parseShort]) rfl

theorem mul (g : Guard) (ty : IntTy) (sat : Bool) (d : Reg) (a : Reg) (b : Src) : Statement (.mul g ty sat d a b) :=
  of_code rfl (fun _ => by simp [-BitVec.getLsbD_eq_getElem, parse, parseLong, parseMul, row]) (row_sane (by decide))

theorem mulhi (g : Guard) (ty : IntTy) (d : Reg) (a : Reg) (b : Src) : Statement (.mulhi g ty d a b) :=
  of_code rfl (fun _ => by simp [-BitVec.getLsbD_eq_getElem, parse, parseLong, parseMul, row]) (row_sane (by decide))

theorem mad (g : Guard) (ty : IntTy) (sat : Bool) (d : Reg) (a : Reg) (b : Src) (c : Reg) : Statement (.mad g ty sat d a b c) :=
  of_code rfl (fun _ => by simp [-BitVec.getLsbD_eq_getElem, parse, parseLong, parseMul, row]) (row_sane (by decide))

theorem andCompact (d : Reg) (a : Reg) (b : Reg) : Statement (.andCompact d a b) :=
  of_code rfl (fun _ => by simp [-BitVec.getLsbD_eq_getElem, parse, parseShort]) rfl

theorem and (g : Guard) (inv : Bool) (x64 : Bool) (d : Reg) (a : Reg) (b : Src) : Statement (.and g inv x64 d a b) :=
  of_code rfl (fun _ => by simp [-BitVec.getLsbD_eq_getElem, parse, parseLong, parseLogic, row]) (row_sane (by decide))

theorem or (g : Guard) (inv : Bool) (x64 : Bool) (d : Reg) (a : Reg) (b : Src) : Statement (.or g inv x64 d a b) :=
  of_code rfl (fun _ => by simp [-BitVec.getLsbD_eq_getElem, parse, parseLong, parseLogic, row]) (row_sane (by decide))

theorem xor (g : Guard) (inv : Bool) (x64 : Bool) (d : Reg) (a : Reg) (b : Src) : Statement (.xor g inv x64 d a b) :=
  of_code rfl (fun _ => by simp [-BitVec.getLsbD_eq_getElem, parse, parseLong, parseLogic, row]) (row_sane (by decide))

theorem shlCompact (d : Reg) (a : Reg) (b : Reg) : Statement (.shlCompact d a b) :=
  of_code rfl (fun _ => by simp [-BitVec.getLsbD_eq_getElem, parse, parseShort]) rfl

theorem shl (g : Guard) (x64 : Bool) (d : Reg) (a : Reg) (b : Src) : Statement (.shl g x64 d a b) :=
  of_code rfl (fun _ => by simp [-BitVec.getLsbD_eq_getElem, parse, parseLong, parseShift, row]) (row_sane (by decide))

theorem shr (g : Guard) (x64 : Bool) (d : Reg) (a : Reg) (b : Src) : Statement (.shr g x64 d a b) :=
  of_code rfl (fun _ => by simp [-BitVec.getLsbD_eq_getElem, parse, parseLong, parseShift, row]) (row_sane (by decide))

theorem sar (g : Guard) (x64 : Bool) (d : Reg) (a : Reg) (b : Src) : Statement (.sar g x64 d a b) :=
  of_code rfl (fun _ => by simp [-BitVec.getLsbD_eq_getElem, parse, parseLong, parseShift, row]) (row_sane (by decide))

theorem bext (g : Guard) (ty : IntTy) (d : Reg) (a : Reg) (b : Src) (w : BitVec 8) : Statement (.bext g ty d a b w) :=
  of_code rfl (fun _ => by simp [-BitVec.getLsbD_eq_getElem, parse, parseLong, parseBits, row]) (row_sane (by decide))

theorem bins (g : Guard) (d : Reg) (a : Reg) (b : Src) (w : BitVec 8) : Statement (.bins g d a b w) :=
  of_code rfl (fun _ => by simp [-BitVec.getLsbD_eq_getElem, parse, parseLong, parseBits, row]) (row_sane (by decide))

theorem popc (g : Guard) (x64 : Bool) (d : Reg) (a : Reg) : Statement (.popc g x64 d a) :=
  of_code rfl (fun _ => by simp [-BitVec.getLsbD_eq_getElem, parse, parseLong, parseBits, row]) (row_sane (by decide))

theorem clz (g : Guard) (x64 : Bool) (d : Reg) (a : Reg) : Statement (.clz g x64 d a) :=
  of_code rfl (fun _ => by simp [-BitVec.getLsbD_eq_getElem, parse, parseLong, parseBits, row]) (row_sane (by decide))

theorem brev (g : Guard) (x64 : Bool) (d : Reg) (a : Reg) : Statement (.brev g x64 d a) :=
  of_code rfl (fun _ => by simp [-BitVec.getLsbD_eq_getElem, parse, parseLong, parseBits, row]) (row_sane (by decide))

theorem icmp (g : Guard) (cond : Cond) (ty : IntTy) (x64 : Bool) (pd : BitVec 3) (a : Reg) (b : Src) : Statement (.icmp g cond ty x64 pd a b) :=
  of_code rfl (fun _ => by cases ty <;> simp [-BitVec.getLsbD_eq_getElem, parse, parseLong, parseCmp, row]) (row_sane (by decide))

theorem plut (g : Guard) (pd : BitVec 3) (px : BitVec 3) (py : BitVec 3) (pz : BitVec 3) (table : BitVec 8) : Statement (.plut g pd px py pz table) :=
  of_code rfl (fun _ => by simp [-BitVec.getLsbD_eq_getElem, parse, parseLong, parseCmp, row]) (row_sane (by decide))

theorem add64 (g : Guard) (ty : IntTy) (sat : Bool) (neg : Bool) (d : Reg) (a : Reg) (b : Src) : Statement (.add64 g ty sat neg d a b) :=
  of_code rfl (fun _ => by simp [-BitVec.getLsbD_eq_getElem, parse, parseLong, parseWide, row]) (row_sane (by decide))

theorem mad64 (g : Guard) (ty : IntTy) (sat : Bool) (d : Reg) (a : Reg) (b : Src) (c : Reg) : Statement (.mad64 g ty sat d a b c) :=
  of_code rfl (fun _ => by simp [-BitVec.getLsbD_eq_getElem, parse, parseLong, parseWide, row]) (row_sane (by decide))

theorem lea (g : Guard) (ty : IntTy) (sh : BitVec 3) (d : Reg) (a : Reg) (b : Src) : Statement (.lea g ty sh d a b) :=
  of_code rfl (fun _ => by simp [-BitVec.getLsbD_eq_getElem, parse, parseLong, parseWide, row]) (row_sane (by decide))

theorem faddCompact (d : Reg) (a : Reg) (b : Reg) : Statement (.faddCompact d a b) :=
  of_code rfl (fun _ => by simp [-BitVec.getLsbD_eq_getElem, parse, parseShort]) rfl

theorem fadd (g : Guard) (m : FMod) (d : Reg) (a : Reg) (b : Src) : Statement (.fadd g m d a b) :=
  of_code rfl (fun _ => by simp [-BitVec.getLsbD_eq_getElem, parse, parseLong, parseFadd, row]) (row_sane (by decide))

theorem fmin (g : Guard) (m : FMod) (d : Reg) (a : Reg) (b : Src) : Statement (.fmin g m d a b) :=
  of_code rfl (fun _ => by simp [-BitVec.getLsbD_eq_getElem, parse, parseLong, parseFadd, row]) (row_sane (by decide))

theorem fmax (g : Guard) (m : FMod) (d : Reg) (a : Reg) (b : Src) : Statement (.fmax g m d a b) :=
  of_code rfl (fun _ => by simp [-BitVec.getLsbD_eq_getElem, parse, parseLong, parseFadd, row]) (row_sane (by decide))

theorem fmulCompact (d : Reg) (a : Reg) (b : Reg) : Statement (.fmulCompact d a b) :=
  of_code rfl (fun _ => by simp [-BitVec.getLsbD_eq_getElem, parse, parseShort]) rfl

theorem fmul (g : Guard) (m : FMod) (d : Reg) (a : Reg) (b : Src) : Statement (.fmul g m d a b) :=
  of_code rfl (fun _ => by simp [-BitVec.getLsbD_eq_getElem, parse, parseLong, parseFmul, row]) (row_sane (by decide))

theorem fscl (g : Guard) (m : FMod) (d : Reg) (a : Reg) (b : Src) : Statement (.fscl g m d a b) :=
  of_code rfl (fun _ => by simp [-BitVec.getLsbD_eq_getElem, parse, parseLong, parseFmul, row]) (row_sane (by decide))

theorem fmaCompact (d : Reg) (a : Reg) (b : Reg) : Statement (.fmaCompact d a b) :=
  of_code rfl (fun _ => by simp [-BitVec.getLsbD_eq_getElem, parse, parseShort]) rfl

theorem fma (g : Guard) (m : FMod) (d : Reg) (a : Reg) (b : Src) (c : Reg) : Statement (.fma g m d a b c) :=
  of_code rfl (fun _ => by simp [-BitVec.getLsbD_eq_getElem, parse, parseLong, row]) (row_sane (by decide))

theorem fcmp (g : Guard) (cond : FCond) (ftz : Bool) (pd : BitVec 3) (a : Reg) (b : Src) : Statement (.fcmp g cond ftz pd a b) :=
  of_code rfl (fun _ => by simp [-BitVec.getLsbD_eq_getElem, parse, parseLong, parseFcmp, row]) (row_sane (by decide))

theorem fcls (g : Guard) (d : Reg) (a : Reg) : Statement (.fcls g d a) :=
  of_code rfl (fun _ => by simp [-BitVec.getLsbD_eq_getElem, parse, parseLong, parseFcmp, row]) (row_sane (by decide))

theorem frint (g : Guard) (m : FMod) (d : Reg) (a : Reg) : Statement (.frint g m d a) :=
  of_code rfl (fun _ => by simp [-BitVec.getLsbD_eq_getElem, parse, parseLong, parseFcmp, row]) (row_sane (by decide))

theorem h2add (g : Guard) (m : FMod) (d : Reg) (a : Reg) (b : Src) : Statement (.h2add g m d a b) :=
  of_code rfl (fun _ => by simp [-BitVec.getLsbD_eq_getElem, parse, parseLong, parsePair, row]) (row_sane (by decide))

theorem h2mul (g : Guard) (m : FMod) (d : Reg) (a : Reg) (b : Src) : Statement (.h2mul g m d a b) :=
  of_code rfl (fun _ => by simp [-BitVec.getLsbD_eq_getElem, parse, parseLong, parsePair, row]) (row_sane (by decide))

theorem h2fmaCompact (d : Reg) (a : Reg) (b : Reg) : Statement (.h2fmaCompact d a b) :=
  of_code rfl (fun _ => by simp [-BitVec.getLsbD_eq_getElem, parse, parseShort]) rfl

theorem h2fma (g : Guard) (m : FMod) (d : Reg) (a : Reg) (b : Src) (c : Reg) : Statement (.h2fma g m d a b c) :=
  of_code rfl (fun _ => by simp [-BitVec.getLsbD_eq_getElem, parse, parseLong, parsePair, row]) (row_sane (by decide))

theorem h2min (g : Guard) (m : FMod) (d : Reg) (a : Reg) (b : Src) : Statement (.h2min g m d a b) :=
  of_code rfl (fun _ => by simp [-BitVec.getLsbD_eq_getElem, parse, parseLong, parsePairMin, row]) (row_sane (by decide))

theorem h2max (g : Guard) (m : FMod) (d : Reg) (a : Reg) (b : Src) : Statement (.h2max g m d a b) :=
  of_code rfl (fun _ => by simp [-BitVec.getLsbD_eq_getElem, parse, parseLong, parsePairMin, row]) (row_sane (by decide))

theorem rcp (g : Guard) (m : FMod) (d : Reg) (a : Reg) : Statement (.rcp g m d a) :=
  of_code rfl (fun _ => by simp [-BitVec.getLsbD_eq_getElem, parse, parseLong, parseSfu, row]) (row_sane (by decide))

theorem rsqrt (g : Guard) (m : FMod) (d : Reg) (a : Reg) : Statement (.rsqrt g m d a) :=
  of_code rfl (fun _ => by simp [-BitVec.getLsbD_eq_getElem, parse, parseLong, parseSfu, row]) (row_sane (by decide))

theorem sqrt (g : Guard) (m : FMod) (d : Reg) (a : Reg) : Statement (.sqrt g m d a) :=
  of_code rfl (fun _ => by simp [-BitVec.getLsbD_eq_getElem, parse, parseLong, parseSfu, row]) (row_sane (by decide))

theorem exp2 (g : Guard) (m : FMod) (d : Reg) (a : Reg) : Statement (.exp2 g m d a) :=
  of_code rfl (fun _ => by simp [-BitVec.getLsbD_eq_getElem, parse, parseLong, parseSfu, row]) (row_sane (by decide))

theorem log2 (g : Guard) (m : FMod) (d : Reg) (a : Reg) : Statement (.log2 g m d a) :=
  of_code rfl (fun _ => by simp [-BitVec.getLsbD_eq_getElem, parse, parseLong, parseSfu, row]) (row_sane (by decide))

theorem sin (g : Guard) (m : FMod) (d : Reg) (a : Reg) : Statement (.sin g m d a) :=
  of_code rfl (fun _ => by simp [-BitVec.getLsbD_eq_getElem, parse, parseLong, parseTrig, row]) (row_sane (by decide))

theorem cos (g : Guard) (m : FMod) (d : Reg) (a : Reg) : Statement (.cos g m d a) :=
  of_code rfl (fun _ => by simp [-BitVec.getLsbD_eq_getElem, parse, parseLong, parseTrig, row]) (row_sane (by decide))

theorem tanh (g : Guard) (m : FMod) (d : Reg) (a : Reg) : Statement (.tanh g m d a) :=
  of_code rfl (fun _ => by simp [-BitVec.getLsbD_eq_getElem, parse, parseLong, parseTrig, row]) (row_sane (by decide))

theorem fdiv (g : Guard) (m : FMod) (d : Reg) (a : Reg) (b : Src) : Statement (.fdiv g m d a b) :=
  of_code rfl (fun _ => by simp [-BitVec.getLsbD_eq_getElem, parse, parseLong, parseTrig, row]) (row_sane (by decide))

theorem cvt (g : Guard) (dst : EFmt) (src : EFmt) (rm : Rnd) (sat : Bool) (ftz : Bool) (d : Reg) (a : Reg) : Statement (.cvt g dst src rm sat ftz d a) :=
  of_code rfl (fun _ => by simp [-BitVec.getLsbD_eq_getElem, parse, parseLong, parseCvt, row]) (row_sane (by decide))

theorem cvts (g : Guard) (dst : EFmt) (src : EFmt) (sat : Bool) (ftz : Bool) (d : Reg) (a : Reg) (b : Src) : Statement (.cvts g dst src sat ftz d a b) :=
  of_code rfl (fun _ => by simp [-BitVec.getLsbD_eq_getElem, parse, parseLong, parseCvt, row]) (row_sane (by decide))

theorem pack (g : Guard) (fmt : EFmt) (d : Reg) (a : Reg) (b : Src) : Statement (.pack g fmt d a b) :=
  of_code rfl (fun _ => by simp [-BitVec.getLsbD_eq_getElem, parse, parseLong, parsePack, row]) (row_sane (by decide))

theorem unpk (g : Guard) (fmt : EFmt) (f32 : Bool) (d : Reg) (a : Reg) (b : Src) : Statement (.unpk g fmt f32 d a b) :=
  of_code rfl (fun _ => by simp [-BitVec.getLsbD_eq_getElem, parse, parseLong, parsePack, row]) (row_sane (by decide))

theorem qblk (g : Guard) (fmt : EFmt) (bs : Bool) (d : Reg) (a : Reg) : Statement (.qblk g fmt bs d a) :=
  of_code rfl (fun _ => by simp [-BitVec.getLsbD_eq_getElem, parse, parseLong, parsePack, row]) (row_sane (by decide))

theorem dot4 (g : Guard) (fa : Dot4Ty) (fb : Dot4Ty) (sat : Bool) (d : Reg) (a : Reg) (b : Src) (c : Reg) : Statement (.dot4 g fa fb sat d a b c) :=
  of_code rfl (fun _ => by simp [-BitVec.getLsbD_eq_getElem, parse, parseLong, parseDot, row]) (row_sane (by decide))

theorem dot8 (g : Guard) (fa : Dot8Ty) (fb : Dot8Ty) (sat : Bool) (d : Reg) (a : Reg) (b : Src) (c : Reg) : Statement (.dot8 g fa fb sat d a b c) :=
  of_code rfl (fun _ => by simp [-BitVec.getLsbD_eq_getElem, parse, parseLong, parseDot, row]) (row_sane (by decide))

theorem dot2h (g : Guard) (m : FMod) (d : Reg) (a : Reg) (b : Src) (c : Reg) : Statement (.dot2h g m d a b c) :=
  of_code rfl (fun _ => by simp [-BitVec.getLsbD_eq_getElem, parse, parseLong, parseDot, row]) (row_sane (by decide))

theorem obres (g : Guard) (d : Reg) (a : Reg) (n : BitVec 5) : Statement (.obres g d a n) :=
  of_code rfl (fun _ => by simp [-BitVec.getLsbD_eq_getElem, parse, parseLong, parseOb, row]) (row_sane (by decide))

theorem obrel (g : Guard) (d : Reg) (n : BitVec 5) : Statement (.obrel g d n) :=
  of_code rfl (fun _ => by simp [-BitVec.getLsbD_eq_getElem, parse, parseLong, parseOb, row]) (row_sane (by decide))

theorem obwr (g : Guard) (a : Reg) (b : Src) (n : BitVec 5) : Statement (.obwr g a b n) :=
  of_code rfl (fun _ => by simp [-BitVec.getLsbD_eq_getElem, parse, parseLong, parseOb, row]) (row_sane (by decide))

theorem obrd (g : Guard) (d : Reg) (b : Src) (n : BitVec 5) : Statement (.obrd g d b n) :=
  of_code rfl (fun _ => by simp [-BitVec.getLsbD_eq_getElem, parse, parseLong, parseOb, row]) (row_sane (by decide))

theorem lxch (g : Guard) (mode : XMode) (wrap : Bool) (x64 : Bool) (m : Mask) (d : Reg) (a : Reg) (b : Src) : Statement (.lxch g mode wrap x64 m d a b) :=
  of_code rfl (fun _ => by simp [-BitVec.getLsbD_eq_getElem, parse, parseLong, parseLane, row]) (row_sane (by decide))

theorem lvoteAny (g : Guard) (m : Mask) (pd : BitVec 3) (pa : BitVec 3) : Statement (.lvoteAny g m pd pa) :=
  of_code rfl (fun _ => by simp [-BitVec.getLsbD_eq_getElem, parse, parseLong, parseLane, row]) (row_sane (by decide))

theorem lvoteAll (g : Guard) (m : Mask) (pd : BitVec 3) (pa : BitVec 3) : Statement (.lvoteAll g m pd pa) :=
  of_code rfl (fun _ => by simp [-BitVec.getLsbD_eq_getElem, parse, parseLong, parseLane, row]) (row_sane (by decide))

theorem lvoteBal (g : Guard) (m : Mask) (d : Reg) (pa : BitVec 3) : Statement (.lvoteBal g m d pa) :=
  of_code rfl (fun _ => by simp [-BitVec.getLsbD_eq_getElem, parse, parseLong, parseLane, row]) (row_sane (by decide))

theorem lmatch (g : Guard) (x64 : Bool) (m : Mask) (d : Reg) (a : Reg) : Statement (.lmatch g x64 m d a) :=
  of_code rfl (fun _ => by simp [-BitVec.getLsbD_eq_getElem, parse, parseLong, parseLane, row]) (row_sane (by decide))

theorem lelect (g : Guard) (m : Mask) (pd : BitVec 3) : Statement (.lelect g m pd) :=
  of_code rfl (fun _ => by simp [-BitVec.getLsbD_eq_getElem, parse, parseLong, parseLane, row]) (row_sane (by decide))

theorem lred (g : Guard) (op : ROp) (ty : RTy) (m : Mask) (d : Reg) (a : Reg) : Statement (.lred g op ty m d a) :=
  of_code rfl (fun _ => by simp [-BitVec.getLsbD_eq_getElem, parse, parseLong, parseRed, row]) (row_sane (by decide))

theorem lscan (g : Guard) (op : ROp) (ty : RTy) (exc : Bool) (m : Mask) (d : Reg) (a : Reg) : Statement (.lscan g op ty exc m d a) :=
  of_code rfl (fun _ => by simp [-BitVec.getLsbD_eq_getElem, parse, parseLong, parseRed, row]) (row_sane (by decide))

theorem ldCompact (d : Reg) (a : Reg) (b : BitVec 8) : Statement (.ldCompact d a b) :=
  of_code rfl (fun _ => by simp [-BitVec.getLsbD_eq_getElem, parse, parseShort]) rfl

theorem ld (g : Guard) (sp : Space) (sz : Size) (ux : Bool) (o : Order) (d : Reg) (a : Reg) (b : Src) : Statement (.ld g sp sz ux o d a b) :=
  of_code rfl (fun _ => by simp [-BitVec.getLsbD_eq_getElem, parse, parseLong, parseLd, row]) (row_sane (by decide))

theorem ldt (g : Guard) (o : Order) (d : Reg) (a : Reg) (b : Src) : Statement (.ldt g o d a b) :=
  of_code rfl (fun _ => by simp [-BitVec.getLsbD_eq_getElem, parse, parseLong, parseLd, row]) (row_sane (by decide))

theorem stCompact (d : Reg) (a : Reg) (b : BitVec 8) : Statement (.stCompact d a b) :=
  of_code rfl (fun _ => by simp [-BitVec.getLsbD_eq_getElem, parse, parseShort]) rfl

theorem st (g : Guard) (sp : Space) (sz : Size) (ux : Bool) (o : Order) (d : Reg) (a : Reg) (b : Src) : Statement (.st g sp sz ux o d a b) :=
  of_code rfl (fun _ => by simp [-BitVec.getLsbD_eq_getElem, parse, parseLong, parseSt, row]) (row_sane (by decide))

theorem stt (g : Guard) (o : Order) (d : Reg) (a : Reg) (b : Src) : Statement (.stt g o d a b) :=
  of_code rfl (fun _ => by simp [-BitVec.getLsbD_eq_getElem, parse, parseLong, parseSt, row]) (row_sane (by decide))

theorem ldf (g : Guard) (cm : Bool) (take : Bool) (ux : Bool) (d : Reg) (a : Reg) (b : Src) : Statement (.ldf g cm take ux d a b) :=
  of_code rfl (fun _ => by simp [-BitVec.getLsbD_eq_getElem, parse, parseLong, parseFe, row]) (row_sane (by decide))

theorem ste (g : Guard) (cm : Bool) (ux : Bool) (d : Reg) (a : Reg) (b : Src) : Statement (.ste g cm ux d a b) :=
  of_code rfl (fun _ => by simp [-BitVec.getLsbD_eq_getElem, parse, parseLong, parseFe, row]) (row_sane (by decide))

theorem tags (g : Guard) (cm : Bool) (full : Bool) (ux : Bool) (a : Reg) (b : Src) (cnt : BitVec 8) : Statement (.tags g cm full ux a b cnt) :=
  of_code rfl (fun _ => by simp [-BitVec.getLsbD_eq_getElem, parse, parseLong, parseTags, row]) (row_sane (by decide))

theorem tagq (g : Guard) (cm : Bool) (ux : Bool) (d : Reg) (a : Reg) (b : Src) : Statement (.tagq g cm ux d a b) :=
  of_code rfl (fun _ => by simp [-BitVec.getLsbD_eq_getElem, parse, parseLong, parseTags, row]) (row_sane (by decide))

theorem pref (g : Guard) (lv : PLevel) (ux : Bool) (a : Reg) (b : Src) (cnt : BitVec 8) : Statement (.pref g lv ux a b cnt) :=
  of_code rfl (fun _ => by simp [-BitVec.getLsbD_eq_getElem, parse, parseLong, parseTags, row]) (row_sane (by decide))

theorem cwb (g : Guard) (pt : CPoint) (a : Reg) (b : Src) : Statement (.cwb g pt a b) :=
  of_code rfl (fun _ => by simp [-BitVec.getLsbD_eq_getElem, parse, parseLong, parseMaint, row]) (row_sane (by decide))

theorem cinv (g : Guard) (pt : CPoint) (a : Reg) (b : Src) : Statement (.cinv g pt a b) :=
  of_code rfl (fun _ => by simp [-BitVec.getLsbD_eq_getElem, parse, parseLong, parseMaint, row]) (row_sane (by decide))

theorem cwbi (g : Guard) (pt : CPoint) (a : Reg) (b : Src) : Statement (.cwbi g pt a b) :=
  of_code rfl (fun _ => by simp [-BitVec.getLsbD_eq_getElem, parse, parseLong, parseMaint, row]) (row_sane (by decide))

theorem iinv (g : Guard) (sc : Scope) (a : Reg) (b : Src) : Statement (.iinv g sc a b) :=
  of_code rfl (fun _ => by simp [-BitVec.getLsbD_eq_getElem, parse, parseLong, parseMaint, row]) (row_sane (by decide))

theorem fbar (g : Guard) : Statement (.fbar g) :=
  of_code rfl (fun _ => by simp [-BitVec.getLsbD_eq_getElem, parse, parseLong, parseMaint, row]) (row_sane (by decide))

theorem domset (g : Guard) (d : Reg) (a : Reg) : Statement (.domset g d a) :=
  of_code rfl (fun _ => by simp [-BitVec.getLsbD_eq_getElem, parse, parseLong, parsePage, row]) (row_sane (by decide))

theorem laydivw (g : Guard) (d : Reg) (a : Reg) : Statement (.laydivw g d a) :=
  of_code rfl (fun _ => by simp [-BitVec.getLsbD_eq_getElem, parse, parseLong, parsePage, row]) (row_sane (by decide))

theorem tlbinv (g : Guard) (a : Reg) : Statement (.tlbinv g a) :=
  of_code rfl (fun _ => by simp [-BitVec.getLsbD_eq_getElem, parse, parseLong, parsePage, row]) (row_sane (by decide))

theorem tlbinvAll (g : Guard) : Statement (.tlbinvAll g) :=
  of_code rfl (fun _ => by simp [-BitVec.getLsbD_eq_getElem, parse, parseLong, parsePage, row]) (row_sane (by decide))

theorem pgmap (g : Guard) (d : Reg) (a : Reg) (b : Reg) (c : Reg) : Statement (.pgmap g d a b c) :=
  of_code rfl (fun _ => by simp [-BitVec.getLsbD_eq_getElem, parse, parseLong, parsePage, row]) (row_sane (by decide))

theorem pgunmap (g : Guard) (d : Reg) (a : Reg) : Statement (.pgunmap g d a) :=
  of_code rfl (fun _ => by simp [-BitVec.getLsbD_eq_getElem, parse, parseLong, parsePage, row]) (row_sane (by decide))

theorem pgqPte (g : Guard) (d : Reg) (a : Reg) : Statement (.pgqPte g d a) :=
  of_code rfl (fun _ => by simp [-BitVec.getLsbD_eq_getElem, parse, parseLong, parsePage, row]) (row_sane (by decide))

theorem pgqZero (g : Guard) (d : Reg) (a : Reg) : Statement (.pgqZero g d a) :=
  of_code rfl (fun _ => by simp [-BitVec.getLsbD_eq_getElem, parse, parseLong, parsePage, row]) (row_sane (by decide))

theorem pgqRoot (g : Guard) (d : Reg) : Statement (.pgqRoot g d) :=
  of_code rfl (fun _ => by simp [-BitVec.getLsbD_eq_getElem, parse, parseLong, parsePage, row]) (row_sane (by decide))

theorem cpy (g : Guard) (dsp : ESpace) (ssp : ESpace) (sc : Scope) (tag : BitVec 6) (a : Reg) (b : Src) : Statement (.cpy g dsp ssp sc tag a b) :=
  of_code rfl (fun _ => by simp [-BitVec.getLsbD_eq_getElem, parse, parseLong, parseCpy, row]) (row_sane (by decide))

theorem cpyt (g : Guard) (sc : Scope) (tag : BitVec 6) (a : Reg) (b : Src) : Statement (.cpyt g sc tag a b) :=
  of_code rfl (fun _ => by simp [-BitVec.getLsbD_eq_getElem, parse, parseLong, parseCpy, row]) (row_sane (by decide))

theorem sebind (g : Guard) (drain : Bool) (sc : Scope) (eng : Bool) (tag : BitVec 6) (d : Reg) (a : Reg) (b : Src) : Statement (.sebind g drain sc eng tag d a b) :=
  of_code rfl (fun _ => by simp [-BitVec.getLsbD_eq_getElem, parse, parseLong, parseSe, row]) (row_sane (by decide))

theorem sefree (g : Guard) (eng : Bool) (d : Reg) : Statement (.sefree g eng d) :=
  of_code rfl (fun _ => by simp [-BitVec.getLsbD_eq_getElem, parse, parseLong, parseSe, row]) (row_sane (by decide))

theorem slotw (g : Guard) (eng : Bool) (d : Reg) (b : Src) : Statement (.slotw g eng d b) :=
  of_code rfl (fun _ => by simp [-BitVec.getLsbD_eq_getElem, parse, parseLong, parseSe, row]) (row_sane (by decide))

theorem slotrel (g : Guard) (eng : Bool) (b : Src) : Statement (.slotrel g eng b) :=
  of_code rfl (fun _ => by simp [-BitVec.getLsbD_eq_getElem, parse, parseLong, parseSe, row]) (row_sane (by decide))

theorem tagwait (g : Guard) (all : Bool) (d : Reg) (b : Src) : Statement (.tagwait g all d b) :=
  of_code rfl (fun _ => by simp [-BitVec.getLsbD_eq_getElem, parse, parseLong, parseTag, row]) (row_sane (by decide))

theorem tagff (g : Guard) (clr : Bool) (d : Reg) (b : Src) : Statement (.tagff g clr d b) :=
  of_code rfl (fun _ => by simp [-BitVec.getLsbD_eq_getElem, parse, parseLong, parseTag, row]) (row_sane (by decide))

theorem tagclr (g : Guard) (b : Src) : Statement (.tagclr g b) :=
  of_code rfl (fun _ => by simp [-BitVec.getLsbD_eq_getElem, parse, parseLong, parseTag, row]) (row_sane (by decide))

theorem lockqAddr (g : Guard) (sp : Space) (d : Reg) (a : Reg) (b : Src) : Statement (.lockqAddr g sp d a b) :=
  of_code rfl (fun _ => by simp [-BitVec.getLsbD_eq_getElem, parse, parseLong, parseTag, row]) (row_sane (by decide))

theorem lockqFree (g : Guard) (d : Reg) : Statement (.lockqFree g d) :=
  of_code rfl (fun _ => by simp [-BitVec.getLsbD_eq_getElem, parse, parseLong, parseTag, row]) (row_sane (by decide))

theorem lockqErr (g : Guard) (d : Reg) (b : Src) : Statement (.lockqErr g d b) :=
  of_code rfl (fun _ => by simp [-BitVec.getLsbD_eq_getElem, parse, parseLong, parseTag, row]) (row_sane (by decide))

theorem atom (g : Guard) (op : AOp) (sp : Space) (o : AOrd) (d : Reg) (a : Reg) (b : Src) : Statement (.atom g op sp o d a b) :=
  of_code rfl (fun _ => by simp [-BitVec.getLsbD_eq_getElem, parse, parseLong, parseAtom, row]) (row_sane (by decide))

theorem cas (g : Guard) (sp : Space) (o : AOrd) (d : Reg) (a : Reg) (b : Src) : Statement (.cas g sp o d a b) :=
  of_code rfl (fun _ => by simp [-BitVec.getLsbD_eq_getElem, parse, parseLong, parseAtom, row]) (row_sane (by decide))

theorem atomf (g : Guard) (op : AFOp) (sp : Space) (o : AOrd) (d : Reg) (a : Reg) (b : Src) : Statement (.atomf g op sp o d a b) :=
  of_code rfl (fun _ => by simp [-BitVec.getLsbD_eq_getElem, parse, parseLong, parseAtomf, row]) (row_sane (by decide))

theorem red (g : Guard) (op : REDOp) (sp : Space) (o : AOrd) (a : Reg) (b : Src) : Statement (.red g op sp o a b) :=
  of_code rfl (fun h => by
    simp only [Instr.wellFormed, Bool.and_eq_true] at h
    simp [parse, parseLong, parseAtomf, row, REDOp.ofCode_code op o.x64 h.1.1.1.2]) (row_sane (by decide))

theorem binit (g : Guard) (clu : Bool) (n : BitVec 6) (d : Reg) (b : Src) : Statement (.binit g clu n d b) :=
  of_code rfl (fun _ => by simp [-BitVec.getLsbD_eq_getElem, parse, parseLong, parseBar, row]) (row_sane (by decide))

theorem barv (g : Guard) (clu : Bool) (n : BitVec 6) (d : Reg) : Statement (.barv g clu n d) :=
  of_code rfl (fun _ => by simp [-BitVec.getLsbD_eq_getElem, parse, parseLong, parseBar, row]) (row_sane (by decide))

theorem bwait (g : Guard) (clu : Bool) (n : BitVec 6) (a : Reg) : Statement (.bwait g clu n a) :=
  of_code rfl (fun _ => by simp [-BitVec.getLsbD_eq_getElem, parse, parseLong, parseBar, row]) (row_sane (by decide))

theorem bsync (g : Guard) (clu : Bool) (n : BitVec 6) : Statement (.bsync g clu n) :=
  of_code rfl (fun _ => by simp [-BitVec.getLsbD_eq_getElem, parse, parseLong, parseBar, row]) (row_sane (by decide))

theorem bqry (g : Guard) (clu : Bool) (n : BitVec 6) (d : Reg) : Statement (.bqry g clu n d) :=
  of_code rfl (fun _ => by simp [-BitVec.getLsbD_eq_getElem, parse, parseLong, parseBar, row]) (row_sane (by decide))

theorem fence (g : Guard) (k : FKind) (sc : Scope) : Statement (.fence g k sc) :=
  of_code rfl (fun _ => by simp [-BitVec.getLsbD_eq_getElem, parse, parseLong, parseFence, row]) (row_sane (by decide))

theorem lfence (g : Guard) : Statement (.lfence g) :=
  of_code rfl (fun _ => by simp [-BitVec.getLsbD_eq_getElem, parse, parseLong, parseFence, row]) (row_sane (by decide))

theorem lfenceArray (g : Guard) (b : Src) (mask : BitVec 5) : Statement (.lfenceArray g b mask) :=
  of_code rfl (fun _ => by simp [-BitVec.getLsbD_eq_getElem, parse, parseLong, parseFence, row]) (row_sane (by decide))

theorem efence (g : Guard) (mx : Bool) (sc : Scope) : Statement (.efence g mx sc) :=
  of_code rfl (fun _ => by simp [-BitVec.getLsbD_eq_getElem, parse, parseLong, parseFence, row]) (row_sane (by decide))

theorem mxrun (g : Guard) (d : Reg) (a : Reg) (b : Src) : Statement (.mxrun g d a b) :=
  of_code rfl (fun _ => by simp [-BitVec.getLsbD_eq_getElem, parse, parseLong, parseMx, row]) (row_sane (by decide))

theorem mxq (g : Guard) (d : Reg) : Statement (.mxq g d) :=
  of_code rfl (fun _ => by simp [-BitVec.getLsbD_eq_getElem, parse, parseLong, parseMx, row]) (row_sane (by decide))

theorem mldw (k : Cmd) (bank : Bool) (fmt : EFmt) (sk : SK) (bl : BLen) (off : BitVec 22) : Statement (.mldw k bank fmt sk bl off) :=
  of_code rfl (fun _ => by simp [-BitVec.getLsbD_eq_getElem, parse, parseLong, parseMldw, cmdRow]) (cmdRow_sane (by decide))

theorem mswap (k : Cmd) : Statement (.mswap k) :=
  of_code rfl (fun _ => by simp [-BitVec.getLsbD_eq_getElem, parse, parseLong, parseMldw, cmdRow]) (cmdRow_sane (by decide))

theorem mstr (k : Cmd) (lad : Bool) (t : BitVec 7) (n : BitVec 5) (row0 : BitVec 16) (m : BitVec 10) : Statement (.mstr k lad t n row0 m) :=
  of_code rfl (fun _ => by simp [-BitVec.getLsbD_eq_getElem, parse, parseLong, cmdRow]) (cmdRow_sane (by decide))

theorem mzero (k : Cmd) (t : BitVec 7) (m : BitVec 10) : Statement (.mzero k t m) :=
  of_code rfl (fun _ => by simp [-BitVec.getLsbD_eq_getElem, parse, parseLong, parseAcc, cmdRow]) (cmdRow_sane (by decide))

theorem maccld (k : Cmd) (t : BitVec 7) (off : BitVec 11) (m : BitVec 10) : Statement (.maccld k t off m) :=
  of_code rfl (fun _ => by simp [-BitVec.getLsbD_eq_getElem, parse, parseLong, parseAcc, cmdRow]) (cmdRow_sane (by decide))

theorem maccst (k : Cmd) (t : BitVec 7) (off : BitVec 11) (m : BitVec 10) : Statement (.maccst k t off m) :=
  of_code rfl (fun _ => by simp [-BitVec.getLsbD_eq_getElem, parse, parseLong, parseAcc, cmdRow]) (cmdRow_sane (by decide))

theorem mepi (k : Cmd) (fn : EpiFn) (t : BitVec 7) (p : BitVec 7) (n : BitVec 5) (orow : BitVec 16) (m : BitVec 10) : Statement (.mepi k fn t p n orow m) :=
  of_code rfl (fun _ => by simp [-BitVec.getLsbD_eq_getElem, parse, parseLong, cmdRow]) (cmdRow_sane (by decide))

theorem mbar (k : Cmd) (all : Bool) (n : BitVec 6) : Statement (.mbar k all n) :=
  of_code rfl (fun _ => by simp [-BitVec.getLsbD_eq_getElem, parse, parseLong, parseMbar, cmdRow]) (cmdRow_sane (by decide))

theorem mwaitb (k : Cmd) (all : Bool) (n : BitVec 6) : Statement (.mwaitb k all n) :=
  of_code rfl (fun _ => by simp [-BitVec.getLsbD_eq_getElem, parse, parseLong, parseMbar, cmdRow]) (cmdRow_sane (by decide))

theorem mend (k : Cmd) : Statement (.mend k) :=
  of_code rfl (fun _ => by simp [-BitVec.getLsbD_eq_getElem, parse, parseLong, parseMbar, cmdRow]) (cmdRow_sane (by decide))

theorem mlad (k : Cmd) (ts : BitVec 8) (tu : BitVec 8) (tc : BitVec 8) (cb : BitVec 6) (wr : BitVec 2) (wdelta : BitVec 14) : Statement (.mlad k ts tu tc cb wr wdelta) :=
  of_code rfl (fun _ => by simp [-BitVec.getLsbD_eq_getElem, parse, parseLong, parseLad, cmdRow]) (cmdRow_sane (by decide))

theorem ladcnt (g : Guard) (d : Reg) (sel : BitVec 3) : Statement (.ladcnt g d sel) :=
  of_code rfl (fun _ => by simp [-BitVec.getLsbD_eq_getElem, parse, parseLong, parseLad, row]) (row_sane (by decide))

theorem ladclr (g : Guard) (b : Src) : Statement (.ladclr g b) :=
  of_code rfl (fun _ => by simp [-BitVec.getLsbD_eq_getElem, parse, parseLong, parseLad, row]) (row_sane (by decide))

theorem scan (g : Guard) (ftz : Bool) (rst : Option (BitVec 3)) (slot : BitVec 3) (d : Reg) (a : Reg) (b : Src) : Statement (.scan g ftz rst slot d a b) :=
  of_code rfl (fun _ => by cases rst <;> simp [-BitVec.getLsbD_eq_getElem, parse, parseLong, parseScan, row]) (row_sane (by decide))

theorem carryGet (g : Guard) (slot : BitVec 3) (d : Reg) : Statement (.carryGet g slot d) :=
  of_code rfl (fun _ => by simp [-BitVec.getLsbD_eq_getElem, parse, parseLong, parseScan, row]) (row_sane (by decide))

theorem carrySet (g : Guard) (slot : BitVec 3) (b : Src) : Statement (.carrySet g slot b) :=
  of_code rfl (fun _ => by simp [-BitVec.getLsbD_eq_getElem, parse, parseLong, parseScan, row]) (row_sane (by decide))

theorem stepk (g : Guard) (ftz : Bool) (d : Reg) (a : Reg) (b : Src) : Statement (.stepk g ftz d a b) :=
  of_code rfl (fun _ => by simp [-BitVec.getLsbD_eq_getElem, parse, parseLong, parseScan, row]) (row_sane (by decide))

theorem mscan (k : Cmd) (rst : Bool) (th : BitVec 7) (ta : BitVec 7) (tb : BitVec 7) (tc : BitVec 7) (m : BitVec 10) : Statement (.mscan k rst th ta tb tc m) :=
  of_code rfl (fun _ => by simp [-BitVec.getLsbD_eq_getElem, parse, parseLong, parseScan, cmdRow]) (cmdRow_sane (by decide))

theorem priow (g : Guard) (map : SMap) (a : Reg) (b : Src) : Statement (.priow g map a b) :=
  of_code rfl (fun _ => by cases map <;> simp [parse, parseLong, parseSep, row] <;> decide) (row_sane (by decide))

theorem priowWt (g : Guard) (b : Src) : Statement (.priowWt g b) :=
  of_code rfl (fun _ => by simp [-BitVec.getLsbD_eq_getElem, parse, parseLong, parseSep, row]) (row_sane (by decide))

theorem prior (g : Guard) (sel : PSel) (d : Reg) (a : Reg) : Statement (.prior g sel d a) :=
  of_code rfl (fun _ => by simp [-BitVec.getLsbD_eq_getElem, parse, parseLong, parseSep, row]) (row_sane (by decide))

theorem sepq (g : Guard) (sel : BitVec 3) (d : Reg) : Statement (.sepq g sel d) :=
  of_code rfl (fun _ => by simp [-BitVec.getLsbD_eq_getElem, parse, parseLong, parseSep, row]) (row_sane (by decide))

theorem sposPos (g : Guard) (d : Reg) : Statement (.sposPos g d) :=
  of_code rfl (fun _ => by simp [-BitVec.getLsbD_eq_getElem, parse, parseLong, parseSep, row]) (row_sane (by decide))

theorem sposRow (g : Guard) (d : Reg) : Statement (.sposRow g d) :=
  of_code rfl (fun _ => by simp [-BitVec.getLsbD_eq_getElem, parse, parseLong, parseSep, row]) (row_sane (by decide))

theorem vput (g : Guard) (a : Reg) : Statement (.vput g a) :=
  of_code rfl (fun _ => by simp [-BitVec.getLsbD_eq_getElem, parse, parseLong, parseVat, row]) (row_sane (by decide))

theorem vputOvl (g : Guard) (a : Reg) : Statement (.vputOvl g a) :=
  of_code rfl (fun _ => by simp [-BitVec.getLsbD_eq_getElem, parse, parseLong, parseVat, row]) (row_sane (by decide))

theorem vget (g : Guard) (n : BitVec 5) (a : Reg) (b : Src) : Statement (.vget g n a b) :=
  of_code rfl (fun _ => by simp [-BitVec.getLsbD_eq_getElem, parse, parseLong, parseVat, row]) (row_sane (by decide))

theorem vqry (g : Guard) (d : Reg) (a : Reg) : Statement (.vqry g d a) :=
  of_code rfl (fun _ => by simp [-BitVec.getLsbD_eq_getElem, parse, parseLong, parseVat, row]) (row_sane (by decide))

theorem vqryCfg (g : Guard) (d : Reg) : Statement (.vqryCfg g d) :=
  of_code rfl (fun _ => by simp [-BitVec.getLsbD_eq_getElem, parse, parseLong, parseVat, row]) (row_sane (by decide))

theorem rowdlRow (g : Guard) (d : Reg) (b : Src) : Statement (.rowdlRow g d b) :=
  of_code rfl (fun _ => by simp [-BitVec.getLsbD_eq_getElem, parse, parseLong, parseRow, row]) (row_sane (by decide))

theorem rowdlTime (g : Guard) (d : Reg) (b : Src) : Statement (.rowdlTime g d b) :=
  of_code rfl (fun _ => by simp [-BitVec.getLsbD_eq_getElem, parse, parseLong, parseRow, row]) (row_sane (by decide))

theorem rowput (g : Guard) (sp : RSpace) (d : Reg) (a : Reg) (b : Src) : Statement (.rowput g sp d a b) :=
  of_code rfl (fun _ => by simp [-BitVec.getLsbD_eq_getElem, parse, parseLong, parseRow, row]) (row_sane (by decide))

theorem probeOpen (g : Guard) (slot : BitVec 2) (d : Reg) (a : Reg) : Statement (.probeOpen g slot d a) :=
  of_code rfl (fun _ => by simp [-BitVec.getLsbD_eq_getElem, parse, parseLong, parseProbe, row]) (row_sane (by decide))

theorem probeTri (g : Guard) (slot : BitVec 2) (a : Reg) : Statement (.probeTri g slot a) :=
  of_code rfl (fun _ => by simp [-BitVec.getLsbD_eq_getElem, parse, parseLong, parseProbe, row]) (row_sane (by decide))

theorem probeEnd (g : Guard) (slot : BitVec 2) (d : Reg) : Statement (.probeEnd g slot d) :=
  of_code rfl (fun _ => by simp [-BitVec.getLsbD_eq_getElem, parse, parseLong, parseProbe, row]) (row_sane (by decide))

theorem probeSmp (g : Guard) (slot : BitVec 2) (d : Reg) (a : Reg) : Statement (.probeSmp g slot d a) :=
  of_code rfl (fun _ => by simp [-BitVec.getLsbD_eq_getElem, parse, parseLong, parseProbe, row]) (row_sane (by decide))

theorem curve (g : Guard) (kind : CKind) (slot : BitVec 4) (a : Reg) : Statement (.curve g kind slot a) :=
  of_code rfl (fun _ => by simp [-BitVec.getLsbD_eq_getElem, parse, parseLong, parseCurve, row]) (row_sane (by decide))

theorem pathendOpen (g : Guard) (slot : BitVec 4) (d : Reg) (a : Reg) : Statement (.pathendOpen g slot d a) :=
  of_code rfl (fun _ => by simp [-BitVec.getLsbD_eq_getElem, parse, parseLong, parseCurve, row]) (row_sane (by decide))

theorem pathendNz (g : Guard) (slot : BitVec 4) (d : Reg) : Statement (.pathendNz g slot d) :=
  of_code rfl (fun _ => by simp [-BitVec.getLsbD_eq_getElem, parse, parseLong, parseCurve, row]) (row_sane (by decide))

theorem pathendEo (g : Guard) (slot : BitVec 4) (d : Reg) : Statement (.pathendEo g slot d) :=
  of_code rfl (fun _ => by simp [-BitVec.getLsbD_eq_getElem, parse, parseLong, parseCurve, row]) (row_sane (by decide))

theorem cvg (g : Guard) (raw : Bool) (slot : BitVec 4) (d : Reg) (a : Reg) : Statement (.cvg g raw slot d a) :=
  of_code rfl (fun _ => by simp [-BitVec.getLsbD_eq_getElem, parse, parseLong, parseCurve, row]) (row_sane (by decide))

theorem trace (g : Guard) (any : Bool) (cullb : Bool) (a : Reg) (b : Src) : Statement (.trace g any cullb a b) :=
  of_code rfl (fun _ => by simp [-BitVec.getLsbD_eq_getElem, parse, parseLong, parseTrace, row]) (row_sane (by decide))

theorem hitr (g : Guard) (d : Reg) : Statement (.hitr g d) :=
  of_code rfl (fun _ => by simp [-BitVec.getLsbD_eq_getElem, parse, parseLong, parseTrace, row]) (row_sane (by decide))

theorem hitrSt (g : Guard) (d : Reg) : Statement (.hitrSt g d) :=
  of_code rfl (fun _ => by simp [-BitVec.getLsbD_eq_getElem, parse, parseLong, parseTrace, row]) (row_sane (by decide))

theorem mbwait (g : Guard) (poll : Bool) (bank : BitVec 2) (d : Reg) (b : Src) : Statement (.mbwait g poll bank d b) :=
  of_code rfl (fun _ => by simp [-BitVec.getLsbD_eq_getElem, parse, parseLong, parseMail, row]) (row_sane (by decide))

theorem mbtake (g : Guard) (d : Reg) (a : Reg) (b : Src) : Statement (.mbtake g d a b) :=
  of_code rfl (fun _ => by simp [-BitVec.getLsbD_eq_getElem, parse, parseLong, parseMail, row]) (row_sane (by decide))

theorem mbpost (g : Guard) (nosig : Bool) (d : Reg) (a : Reg) (b : Src) : Statement (.mbpost g nosig d a b) :=
  of_code rfl (fun _ => by simp [-BitVec.getLsbD_eq_getElem, parse, parseLong, parseMail, row]) (row_sane (by decide))

theorem jnlSeq (g : Guard) (d : Reg) : Statement (.jnlSeq g d) :=
  of_code rfl (fun _ => by simp [-BitVec.getLsbD_eq_getElem, parse, parseLong, parseMail, row]) (row_sane (by decide))

theorem jnlFail (g : Guard) (d : Reg) (a : Reg) (b : Src) : Statement (.jnlFail g d a b) :=
  of_code rfl (fun _ => by simp [-BitVec.getLsbD_eq_getElem, parse, parseLong, parseMail, row]) (row_sane (by decide))

theorem launch (g : Guard) (d : Reg) (a : Reg) (b : Src) : Statement (.launch g d a b) :=
  of_code rfl (fun _ => by simp [-BitVec.getLsbD_eq_getElem, parse, parseLong, parseLaunch, row]) (row_sane (by decide))

theorem sliceDl (g : Guard) (d : Reg) (a : Reg) (b : Src) : Statement (.sliceDl g d a b) :=
  of_code rfl (fun _ => by simp [-BitVec.getLsbD_eq_getElem, parse, parseLong, parseLaunch, row]) (row_sane (by decide))

theorem sliceKill (g : Guard) (d : Reg) (a : Reg) : Statement (.sliceKill g d a) :=
  of_code rfl (fun _ => by simp [-BitVec.getLsbD_eq_getElem, parse, parseLong, parseLaunch, row]) (row_sane (by decide))

theorem nodegoCfg (g : Guard) (d : Reg) (a : Reg) (b : Src) : Statement (.nodegoCfg g d a b) :=
  of_code rfl (fun _ => by simp [-BitVec.getLsbD_eq_getElem, parse, parseLong, parseLaunch, row]) (row_sane (by decide))

theorem nodegoFlush (g : Guard) (d : Reg) (a : Reg) : Statement (.nodegoFlush g d a) :=
  of_code rfl (fun _ => by simp [-BitVec.getLsbD_eq_getElem, parse, parseLong, parseLaunch, row]) (row_sane (by decide))

theorem nodegoQ (g : Guard) (d : Reg) (a : Reg) : Statement (.nodegoQ g d a) :=
  of_code rfl (fun _ => by simp [-BitVec.getLsbD_eq_getElem, parse, parseLong, parseLaunch, row]) (row_sane (by decide))

theorem nodegoOff (g : Guard) (d : Reg) (a : Reg) : Statement (.nodegoOff g d a) :=
  of_code rfl (fun _ => by simp [-BitVec.getLsbD_eq_getElem, parse, parseLong, parseLaunch, row]) (row_sane (by decide))

theorem admitqEnergy (g : Guard) (d : Reg) (a : Reg) : Statement (.admitqEnergy g d a) :=
  of_code rfl (fun _ => by simp [-BitVec.getLsbD_eq_getElem, parse, parseLong, parseLaunch, row]) (row_sane (by decide))

theorem admitqTherm (g : Guard) (d : Reg) (a : Reg) : Statement (.admitqTherm g d a) :=
  of_code rfl (fun _ => by simp [-BitVec.getLsbD_eq_getElem, parse, parseLong, parseLaunch, row]) (row_sane (by decide))

theorem admitqAct (g : Guard) (d : Reg) (a : Reg) : Statement (.admitqAct g d a) :=
  of_code rfl (fun _ => by simp [-BitVec.getLsbD_eq_getElem, parse, parseLong, parseLaunch, row]) (row_sane (by decide))

theorem admitqGate (g : Guard) (d : Reg) (a : Reg) : Statement (.admitqGate g d a) :=
  of_code rfl (fun _ => by simp [-BitVec.getLsbD_eq_getElem, parse, parseLong, parseLaunch, row]) (row_sane (by decide))

theorem admitqQueue (g : Guard) (d : Reg) (a : Reg) : Statement (.admitqQueue g d a) :=
  of_code rfl (fun _ => by simp [-BitVec.getLsbD_eq_getElem, parse, parseLong, parseLaunch, row]) (row_sane (by decide))

theorem recalloc (g : Guard) (d : Reg) (a : Reg) : Statement (.recalloc g d a) :=
  of_code rfl (fun _ => by simp [-BitVec.getLsbD_eq_getElem, parse, parseLong, parseRec, row]) (row_sane (by decide))

theorem recemit (g : Guard) (a : Reg) (b : Src) : Statement (.recemit g a b) :=
  of_code rfl (fun _ => by simp [-BitVec.getLsbD_eq_getElem, parse, parseLong, parseRec, row]) (row_sane (by decide))

theorem recrd (g : Guard) (d : Reg) (b : Src) : Statement (.recrd g d b) :=
  of_code rfl (fun _ => by simp [-BitVec.getLsbD_eq_getElem, parse, parseLong, parseRec, row]) (row_sane (by decide))

theorem recfin (g : Guard) : Statement (.recfin g) :=
  of_code rfl (fun _ => by simp [-BitVec.getLsbD_eq_getElem, parse, parseLong, parseRec, row]) (row_sane (by decide))

theorem srdCompact (d : Reg) (n : BitVec 8) : Statement (.srdCompact d n) :=
  of_code rfl (fun _ => by simp [-BitVec.getLsbD_eq_getElem, parse, parseShort]) rfl

theorem srd (g : Guard) (d : Reg) (n : BitVec 8) : Statement (.srd g d n) :=
  of_code rfl (fun _ => by simp [-BitVec.getLsbD_eq_getElem, parse, parseLong, parseSr, row]) (row_sane (by decide))

theorem swr (g : Guard) (n : BitVec 8) (b : Src) : Statement (.swr g n b) :=
  of_code rfl (fun _ => by simp [-BitVec.getLsbD_eq_getElem, parse, parseLong, parseSr, row]) (row_sane (by decide))

theorem trap (g : Guard) (code : BitVec 3) : Statement (.trap g code) :=
  of_code rfl (fun _ => by simp [-BitVec.getLsbD_eq_getElem, parse, parseLong, parseTrap, row]) (row_sane (by decide))

theorem tret (g : Guard) : Statement (.tret g) :=
  of_code rfl (fun _ => by simp [-BitVec.getLsbD_eq_getElem, parse, parseLong, parseTrap, row]) (row_sane (by decide))

theorem cclr (g : Guard) (b : Src) : Statement (.cclr g b) :=
  of_code rfl (fun _ => by simp [-BitVec.getLsbD_eq_getElem, parse, parseLong, parseTrap, row]) (row_sane (by decide))

theorem tmaskOr (g : Guard) (d : Reg) (b : Src) : Statement (.tmaskOr g d b) :=
  of_code rfl (fun _ => by simp [-BitVec.getLsbD_eq_getElem, parse, parseLong, parseTrap, row]) (row_sane (by decide))

theorem tmaskAndn (g : Guard) (d : Reg) (b : Src) : Statement (.tmaskAndn g d b) :=
  of_code rfl (fun _ => by simp [-BitVec.getLsbD_eq_getElem, parse, parseLong, parseTrap, row]) (row_sane (by decide))

theorem tmaskWr (g : Guard) (d : Reg) (b : Src) : Statement (.tmaskWr g d b) :=
  of_code rfl (fun _ => by simp [-BitVec.getLsbD_eq_getElem, parse, parseLong, parseTrap, row]) (row_sane (by decide))

theorem bkpt (g : Guard) : Statement (.bkpt g) :=
  of_code rfl (fun _ => by simp [-BitVec.getLsbD_eq_getElem, parse, parseLong, parseTrap, row]) (row_sane (by decide))

theorem preempt (g : Guard) (d : Reg) (a : Reg) (b : Src) : Statement (.preempt g d a b) :=
  of_code rfl (fun _ => by simp [-BitVec.getLsbD_eq_getElem, parse, parseLong, parseCtx, row]) (row_sane (by decide))

theorem ctxsv (g : Guard) (d : Reg) (a : Reg) (b : Src) : Statement (.ctxsv g d a b) :=
  of_code rfl (fun _ => by simp [-BitVec.getLsbD_eq_getElem, parse, parseLong, parseCtx, row]) (row_sane (by decide))

theorem ctxld (g : Guard) (d : Reg) (a : Reg) (b : Src) : Statement (.ctxld g d a b) :=
  of_code rfl (fun _ => by simp [-BitVec.getLsbD_eq_getElem, parse, parseLong, parseCtx, row]) (row_sane (by decide))

theorem haltq (g : Guard) (sel : BitVec 3) (d : Reg) : Statement (.haltq g sel d) :=
  of_code rfl (fun _ => by simp [-BitVec.getLsbD_eq_getElem, parse, parseLong, row]) (row_sane (by decide))

theorem meetingForm : Statement (.meetingForm) := of_none rfl

theorem fewaitTimeout : Statement (.fewaitTimeout) := of_none rfl

theorem loadComplete : Statement (.loadComplete) := of_none rfl

theorem storePerformed : Statement (.storePerformed) := of_none rfl

theorem atomicPerformed : Statement (.atomicPerformed) := of_none rfl

theorem l2RequestReplay : Statement (.l2RequestReplay) := of_none rfl

theorem pageZeroingDone : Statement (.pageZeroingDone) := of_none rfl

theorem pageWalk : Statement (.pageWalk) := of_none rfl

theorem lockEntryRegister : Statement (.lockEntryRegister) := of_none rfl

theorem lockMirrorAck : Statement (.lockMirrorAck) := of_none rfl

theorem copyComplete : Statement (.copyComplete) := of_none rfl

theorem boxStart : Statement (.boxStart) := of_none rfl

theorem boxComplete : Statement (.boxComplete) := of_none rfl

theorem barrierArrivalCounted : Statement (.barrierArrivalCounted) := of_none rfl

theorem barrierDeadlockDetect : Statement (.barrierDeadlockDetect) := of_none rfl

theorem streamLineFetch : Statement (.streamLineFetch) := of_none rfl

theorem streamCommandIssue : Statement (.streamCommandIssue) := of_none rfl

theorem streamCommandRetire : Statement (.streamCommandRetire) := of_none rfl

theorem mwaitbDeadlockDetect : Statement (.mwaitbDeadlockDetect) := of_none rfl

theorem matrixRowEntry : Statement (.matrixRowEntry) := of_none rfl

theorem mldwFetchStart : Statement (.mldwFetchStart) := of_none rfl

theorem ladderPassDecide : Statement (.ladderPassDecide) := of_none rfl

theorem separatorApply : Statement (.separatorApply) := of_none rfl

theorem vatPlacement : Statement (.vatPlacement) := of_none rfl

theorem overlapIngest : Statement (.overlapIngest) := of_none rfl

theorem rowputCopy : Statement (.rowputCopy) := of_none rfl

theorem separatorVisit : Statement (.separatorVisit) := of_none rfl

theorem positionIssue : Statement (.positionIssue) := of_none rfl

theorem separatorHeaderRetry : Statement (.separatorHeaderRetry) := of_none rfl

theorem rowLock : Statement (.rowLock) := of_none rfl

theorem rowEngineEnable : Statement (.rowEngineEnable) := of_none rfl

theorem triangleBin : Statement (.triangleBin) := of_none rfl

theorem binRasterise : Statement (.binRasterise) := of_none rfl

theorem blendRecord : Statement (.blendRecord) := of_none rfl

theorem curveSegmentAdd : Statement (.curveSegmentAdd) := of_none rfl

theorem pathClose : Statement (.pathClose) := of_none rfl

theorem traceComplete : Statement (.traceComplete) := of_none rfl

theorem recfullTimeout : Statement (.recfullTimeout) := of_none rfl

theorem nodeLaunch : Statement (.nodeLaunch) := of_none rfl

theorem nodeAgeExpiry : Statement (.nodeAgeExpiry) := of_none rfl

theorem dispatchPlace : Statement (.dispatchPlace) := of_none rfl

theorem groupRetire : Statement (.groupRetire) := of_none rfl

theorem sliceRelease : Statement (.sliceRelease) := of_none rfl

theorem budgetExhausted : Statement (.budgetExhausted) := of_none rfl

theorem activityWindow : Statement (.activityWindow) := of_none rfl

theorem occupancyWindow : Statement (.occupancyWindow) := of_none rfl

theorem pick : Statement (.pick) := of_none rfl

theorem lineFetch : Statement (.lineFetch) := of_none rfl

theorem lineRefetch : Statement (.lineRefetch) := of_none rfl

theorem threadUnpark : Statement (.threadUnpark) := of_none rfl

theorem sleepWake : Statement (.sleepWake) := of_none rfl

theorem fenceComplete : Statement (.fenceComplete) := of_none rfl

theorem handlerEntry : Statement (.handlerEntry) := of_none rfl

theorem haltLineRise : Statement (.haltLineRise) := of_none rfl

theorem watchdogExpiry : Statement (.watchdogExpiry) := of_none rfl

theorem partitionResume : Statement (.partitionResume) := of_none rfl

theorem thermalAdmissionStop : Statement (.thermalAdmissionStop) := of_none rfl

theorem thermalClockHalve : Statement (.thermalClockHalve) := of_none rfl

theorem thermalClockRestore : Statement (.thermalClockRestore) := of_none rfl

theorem thermalArrayGate : Statement (.thermalArrayGate) := of_none rfl

theorem engineWake : Statement (.engineWake) := of_none rfl

theorem vbusLaneRepair : Statement (.vbusLaneRepair) := of_none rfl

theorem spareRemap : Statement (.spareRemap) := of_none rfl

theorem mailboxMessageWrite : Statement (.mailboxMessageWrite) := of_none rfl

theorem mailboxControlWrite : Statement (.mailboxControlWrite) := of_none rfl

theorem rstreq : Statement (.rstreq) := of_none rfl

theorem hmring : Statement (.hmring) := of_none rfl

theorem bar0Write : Statement (.bar0Write) := of_none rfl

theorem hostMemoryAccess : Statement (.hostMemoryAccess) := of_none rfl

theorem ptmExchange : Statement (.ptmExchange) := of_none rfl

theorem bridgeRetry : Statement (.bridgeRetry) := of_none rfl

theorem bridgeUncorrectable : Statement (.bridgeUncorrectable) := of_none rfl

theorem moduleOutOfService : Statement (.moduleOutOfService) := of_none rfl

theorem memoryUncorrectable : Statement (.memoryUncorrectable) := of_none rfl

theorem backgroundScrub : Statement (.backgroundScrub) := of_none rfl

theorem attestationReport : Statement (.attestationReport) := of_none rfl

theorem perstDeassert : Statement (.perstDeassert) := of_none rfl

theorem partitionReset : Statement (.partitionReset) := of_none rfl

theorem vbusRepairComplete : Statement (.vbusRepairComplete) := of_none rfl

theorem fabricError : Statement (.fabricError) := of_none rfl

theorem rowEngineDisable : Statement (.rowEngineDisable) := of_none rfl

theorem engineGate : Statement (.engineGate) := of_none rfl

theorem partitionRelease : Statement (.partitionRelease) := of_none rfl

theorem domainChangeComplete : Statement (.domainChangeComplete) := of_none rfl

theorem laydivChangeComplete : Statement (.laydivChangeComplete) := of_none rfl

theorem cacheMaintenanceComplete : Statement (.cacheMaintenanceComplete) := of_none rfl

theorem writeBufferCommit : Statement (.writeBufferCommit) := of_none rfl

theorem msixVectorUnmask : Statement (.msixVectorUnmask) := of_none rfl

theorem perstAssert : Statement (.perstAssert) := of_none rfl

theorem configurationRequest : Statement (.configurationRequest) := of_none rfl

theorem hostSnoop : Statement (.hostSnoop) := of_none rfl

end Sys2Proof.Laws.RoundTrip
end

