-- ==== Sys2Proof/Safety.lean ====
section
/-! DEFINITION. The words in which statements about the machine are made: a bundle of one thread, what an instruction does thread by
thread, memory in canonical form, and what a step leaves alone. Nothing in the machine uses this file. -/

namespace Sys2Proof.Machine

/-- A thread's number. -/
def Thread.key (t : Thread) : Ref := (t.gid, t.tid)

/-- No two listed threads carry the same number. -/
def State.KeysApart (s : State) : Prop := (s.threads.map Thread.key).Nodup

/-- The bundle holds the one thread r, which lives. -/
structure Alone (s : State) (r : Ref) : Prop where
  refs : s.bnd.refs = [r]
  here : s.hasThread r = true
  live : (s.thread r).live = true

/-- The bundle holds the one thread r, which lives and whose guard holds (R44). -/
structure Acts (s : State) (g : Guard) (r : Ref) : Prop extends Alone s r where
  holds : guardHolds g (s.thread r) = true

/-- The state in which thread r stands at the instruction that follows (R62). -/
def State.moved (s : State) (r : Ref) : State := s.upd r (fun t => t.goto s.bnd.npc)

/-- The bundle of s is the one thread r, which acts, and u is s with r already at the next instruction. -/
def Runs (s : State) (g : Guard) (r : Ref) (u : State) : Prop := Acts s g r ∧ u = s.moved r

/-- The bundle of the one thread r, which moved on in u, is held at its instruction until the thread's earlier operations let it go on
(R180, R265, R266; log entry 5). -/
def State.heldBack (u : State) (r : Ref) : State :=
  let v := u.parkAs r .settle
  { v with waiting := v.waiting ++ [u.bnd] }

/-- b at 32 bits for a thread (R43). -/
def State.val32 (s : State) (t : Thread) (b : Src) : Word :=
  match b with
  | .v n => t.reg n
  | .g n => lo32 (s.greg t.gid n)
  | .imm k => k.signExtend 32
  | .lit w => w

/-- b at 64 bits for a thread (R43). -/
def State.val64 (s : State) (t : Thread) (b : Src) : DWord :=
  match b with
  | .v n => t.pair n
  | .g n => s.greg t.gid n
  | .imm k => k.signExtend 64
  | .lit w => w.signExtend 64

/-- One thread of the bundle after an instruction that changes only threads: it moves on, and where its guard holds it becomes `f` of
what it was. A thread that is not in the bundle, or has ended, stays. -/
def State.stepThread (s : State) (g : Guard) (f : Thread → Thread) (t : Thread) : Thread :=
  if t.key ∈ s.bnd.refs ∧ t.live = true then
    if guardHolds g t = true then f (t.goto s.bnd.npc) else t.goto s.bnd.npc
  else t

/-- An instruction that changes threads of its bundle and nothing else: in every state it answers the next state in which each thread
has made its step. -/
def Threadwise (i : Instr) (g : Guard) (f : State → Thread → Thread) : Prop :=
  ∀ s : State, s.KeysApart → s.bnd.refs.Nodup →
    exec i s = .next { s with threads := s.threads.map (s.stepThread g (f s)) }

/-- Causes of a wave after its threads among those listed, whose guards hold, have raised flags (R106, R107). -/
def State.waveCause (s : State) (g : Guard) (fl : Thread → Fl) (l : List Ref) (w : Wave) : DWord :=
  l.foldl (fun c r =>
    if (s.thread r).live = true ∧ guardHolds g (s.thread r) = true ∧ (w.gid == r.1 && w.wid == s.widOf r) = true then
      c ||| flagCauses (fl (s.thread r))
    else c) w.cause

/-- A thread with flags ORed into its `%fflags`. -/
def Thread.flags (t : Thread) (f : Fl) : Thread := { t with fflags := t.fflags ||| f.setWidth 32 }

/-- An instruction with a float result: each acting thread becomes `f` of what it was, its flags are ORed into `%fflags`, and each wave
gains the causes of its threads' flags. Nothing else changes. -/
def Floatwise (i : Instr) (g : Guard) (f : State → Thread → Thread × Fl) : Prop :=
  ∀ s : State, s.KeysApart → s.bnd.refs.Nodup →
    exec i s = .next { s with
      threads := s.threads.map (s.stepThread g (fun t => (f s t).1.flags (f s t).2)),
      waves := s.waves.map (fun w => { w with cause := s.waveCause g (fun t => (f s t).2) s.bnd.refs w }) }

/-- b of an FP32 instruction for a thread: an immediate is the integer converted (R108). -/
def State.valF (s : State) (t : Thread) (b : Src) : Word :=
  match b with
  | .imm k => BitVec.ofNat 32 (intBits fmtF32 k.toInt)
  | .v n => t.reg n
  | .g n => lo32 (s.greg t.gid n)
  | .lit w => w

/-- b of a pair instruction for a thread: an immediate is converted to both elements (R108). -/
def State.valH (s : State) (t : Thread) (bf : Bool) (b : Src) : Word :=
  match b with
  | .imm k => BitVec.ofNat 32 (intBits (pairFmt bf) k.toInt * 65537)
  | .v n => t.reg n
  | .g n => lo32 (s.greg t.gid n)
  | .lit w => w

/-- A formed meeting (R155, R156): its present threads are listed and found no such state as R155 marks. -/
structure Meeting (s : State) : Prop where
  formed : s.bnd.meeting = some false
  apart : s.KeysApart
  nodup : s.bnd.refs.Nodup
  here : ∀ r ∈ s.bnd.refs, s.hasThread r = true

/-- A thread of a meeting after it: it leaves the meeting at the next instruction, and where its guard holds it becomes `f` of itself. -/
def State.meetThread (s : State) (g : Guard) (f : Ref → Thread → Thread) (t : Thread) : Thread :=
  if t.key ∈ s.bnd.refs then
    if guardHolds g t = true then f t.key { t with pc := s.bnd.npc, meet := none, formed := none }
    else { t with pc := s.bnd.npc, meet := none, formed := none }
  else t

/-- A cross-lane instruction that changes only threads: as a formed meeting it answers the next state in which each present thread has
made its step, on the values that all held before (R159). -/
def Meetwise (i : Instr) (g : Guard) (f : State → Ref → Thread → Thread) : Prop :=
  ∀ s : State, Meeting s → exec i s = .next { s with threads := s.threads.map (s.meetThread g (f s)) }

/-- The values that the lanes of a meeting contribute: those of its guard-true threads (R164, R165). -/
def State.lane (s : State) (g : Guard) (l : Nat) : Option Thread :=
  ((s.bnd.refs.filter (fun q => guardHolds g (s.thread q))).find? (fun q => s.laneOf q == l)).map s.thread

/-- A mask of 64 lanes. -/
def maskOf (p : Nat → Bool) : DWord := BitVec.ofFnLE (fun l : Fin 64 => p l.val)

/-- The command at a place of a group's window has issued, with rows still to enter (R289, R297). -/
def State.entering (s : State) (g idx rows : Nat) : State :=
  s.updStream g (fun m => m.updCmd idx (fun c => { c with issued := true, total := rows, rows := 0, hold := s.now + cmdFill c.ins }))

/-- v is s but for the memory side: bytes, caches, TLBs, zeroings, write buffers, gated engines and owner records. -/
def MemorySide (s v : State) : Prop :=
  v = { s with
    mem := v.mem, dcache := v.dcache, l2 := v.l2, ways := v.ways, lines := v.lines, tlbs := v.tlbs, zeroing := v.zeroing, cores := v.cores,
    gated := v.gated, buffered := v.buffered, owners := v.owners }

/-- A float result for register d. -/
def Thread.result (t : Thread) (d : Reg) (x : Word × Fl) : Thread × Fl := (t.setReg d x.1, x.2)

end Sys2Proof.Machine
end

