-- ==== Sys2Proof/Certificates/Slice0/Obligations.lean ====
section
/-! DEFINITION. What is claimed about the machine: the statements for the provers. `Threadwise` and `Floatwise` give the whole next state
for every bundle; `Acts s g r` is a bundle of the one live thread r, whose guard holds, and `s.moved r` the state in which it stands at the
next instruction. A bundle of several threads performs them one after another (R51). -/

open Sys2Proof Sys2Proof.Machine

/-! ### Integer, predicate and address instructions (04) -/

/-- R90: MOV, MOVL and SEL write their register and nothing else. -/
def Claim.MovesAndSelection : Prop :=
  (∀ d a, Threadwise (.movCompact d a) .always (fun _ t => t.setReg d (t.reg a))) ∧
  (∀ g d b, Threadwise (.mov g d b) g (fun s t => t.setReg d (s.val32 t b))) ∧
  (∀ g d b, Threadwise (.movl g d b) g (fun s t => t.setPair d (s.val64 t b))) ∧
  (∀ g d a b p, Threadwise (.sel g false d a b p) g (fun s t => t.setReg d (if t.pred p then t.reg a else s.val32 t b))) ∧
  (∀ g d a b p, Threadwise (.sel g true d a b p) g (fun s t => t.setPair d (if t.pred p then t.pair a else s.val64 t b)))

/-- R90, R91: MOV.g and MOVL.g write the group-uniform register of the thread's group, zero-extended or at 64 bits. -/
def Claim.GroupRegisterMoves : Prop :=
  ∀ (s : State) (g : Guard) (r : Ref) (d : BitVec 6) (b : Src), Acts s g r →
    exec (.movG g d b) s = .next ((s.moved r).updGroup r.1 (fun x => { x with gregs := x.gregs.set d.toNat ((s.val32 (s.thread r) b).setWidth 64) })) ∧
    exec (.movlG g d b) s = .next ((s.moved r).updGroup r.1 (fun x => { x with gregs := x.gregs.set d.toNat (s.val64 (s.thread r) b) }))

/-- R90, R91: MOV, MOVL and SEL write their register and nothing else; MOV.g and MOVL.g a group-uniform register. -/
def Obligations.MovesAndSelection : Prop := Claim.MovesAndSelection ∧ Claim.GroupRegisterMoves

/-- R89, R92: ADD, SUB, MIN, MAX and ABS. Without `.sat` a sum wraps; with it, the exact result is held to the type's range. -/
def Obligations.AddSubtractMinMaxAbs : Prop :=
  (∀ d a b, Threadwise (.addCompact d a b) .always (fun _ t => t.setReg d (t.reg a + t.reg b))) ∧
  (∀ g ty d a b, Threadwise (.add g ty false d a b) g (fun s t => t.setReg d (t.reg a + s.val32 t b))) ∧
  (∀ g ty d a b, Threadwise (.sub g ty false d a b) g (fun s t => t.setReg d (t.reg a - s.val32 t b))) ∧
  (∀ g d a b, Threadwise (.add g .i true d a b) g (fun s t =>
    t.setReg d (BitVec.ofInt 32 (min (max ((t.reg a).toInt + (s.val32 t b).toInt) (-2147483648)) 2147483647)))) ∧
  (∀ g d a b, Threadwise (.add g .n true d a b) g (fun s t =>
    t.setReg d (BitVec.ofNat 32 (min ((t.reg a).toNat + (s.val32 t b).toNat) 4294967295)))) ∧
  (∀ g d a b, Threadwise (.sub g .i true d a b) g (fun s t =>
    t.setReg d (BitVec.ofInt 32 (min (max ((t.reg a).toInt - (s.val32 t b).toInt) (-2147483648)) 2147483647)))) ∧
  (∀ g d a b, Threadwise (.sub g .n true d a b) g (fun s t => t.setReg d (BitVec.ofNat 32 ((t.reg a).toNat - (s.val32 t b).toNat)))) ∧
  (∀ g d a b, Threadwise (.min g .i d a b) g (fun s t => t.setReg d (if (t.reg a).toInt ≤ (s.val32 t b).toInt then t.reg a else s.val32 t b))) ∧
  (∀ g d a b, Threadwise (.min g .n d a b) g (fun s t => t.setReg d (if (t.reg a).toNat ≤ (s.val32 t b).toNat then t.reg a else s.val32 t b))) ∧
  (∀ g d a b, Threadwise (.max g .i d a b) g (fun s t => t.setReg d (if (t.reg a).toInt < (s.val32 t b).toInt then s.val32 t b else t.reg a))) ∧
  (∀ g d a b, Threadwise (.max g .n d a b) g (fun s t => t.setReg d (if (t.reg a).toNat < (s.val32 t b).toNat then s.val32 t b else t.reg a))) ∧
  (∀ g d a, Threadwise (.abs g false d a) g (fun _ t => t.setReg d (BitVec.ofNat 32 (t.reg a).toInt.natAbs))) ∧
  (∀ g d a, Threadwise (.abs g true d a) g (fun _ t => t.setReg d (BitVec.ofNat 32 (min (t.reg a).toInt.natAbs 2147483647))))

/-- R93: MUL, MULHI and MAD form the exact product and sum before they narrow. -/
def Obligations.Multiplication : Prop :=
  (∀ d a b, Threadwise (.mulCompact d a b) .always (fun _ t => t.setReg d (t.reg a * t.reg b))) ∧
  (∀ g ty d a b, Threadwise (.mul g ty false d a b) g (fun s t => t.setReg d (t.reg a * s.val32 t b))) ∧
  (∀ g d a b, Threadwise (.mul g .i true d a b) g (fun s t =>
    t.setReg d (BitVec.ofInt 32 (min (max ((t.reg a).toInt * (s.val32 t b).toInt) (-2147483648)) 2147483647)))) ∧
  (∀ g d a b, Threadwise (.mul g .n true d a b) g (fun s t =>
    t.setReg d (BitVec.ofNat 32 (min ((t.reg a).toNat * (s.val32 t b).toNat) 4294967295)))) ∧
  (∀ g d a b, Threadwise (.mulhi g .n d a b) g (fun s t =>
    t.setReg d (BitVec.ofNat 32 ((t.reg a).toNat * (s.val32 t b).toNat / 4294967296)))) ∧
  (∀ g d a b, Threadwise (.mulhi g .i d a b) g (fun s t =>
    t.setReg d (BitVec.ofInt 32 (((t.reg a).toInt * (s.val32 t b).toInt) / 4294967296)))) ∧
  (∀ g ty d a b c, Threadwise (.mad g ty false d a b c) g (fun s t => t.setReg d (t.reg a * s.val32 t b + t.reg c))) ∧
  (∀ g d a b c, Threadwise (.mad g .i true d a b c) g (fun s t =>
    t.setReg d (BitVec.ofInt 32 (min (max ((t.reg a).toInt * (s.val32 t b).toInt + (t.reg c).toInt) (-2147483648)) 2147483647)))) ∧
  (∀ g d a b c, Threadwise (.mad g .n true d a b c) g (fun s t =>
    t.setReg d (BitVec.ofNat 32 (min ((t.reg a).toNat * (s.val32 t b).toNat + (t.reg c).toNat) 4294967295))))

/-- R94: AND, OR and XOR, with `.inv` on b, at 32 and 64 bits. -/
def Claim.LogicOperations : Prop :=
  (∀ d a b, Threadwise (.andCompact d a b) .always (fun _ t => t.setReg d (t.reg a &&& t.reg b))) ∧
  (∀ g inv d a b, Threadwise (.and g inv false d a b) g (fun s t => t.setReg d (t.reg a &&& (if inv then ~~~(s.val32 t b) else s.val32 t b)))) ∧
  (∀ g inv d a b, Threadwise (.or g inv false d a b) g (fun s t => t.setReg d (t.reg a ||| (if inv then ~~~(s.val32 t b) else s.val32 t b)))) ∧
  (∀ g inv d a b, Threadwise (.xor g inv false d a b) g (fun s t => t.setReg d (t.reg a ^^^ (if inv then ~~~(s.val32 t b) else s.val32 t b)))) ∧
  (∀ g inv d a b, Threadwise (.and g inv true d a b) g (fun s t => t.setPair d (t.pair a &&& (if inv then ~~~(s.val64 t b) else s.val64 t b)))) ∧
  (∀ g inv d a b, Threadwise (.or g inv true d a b) g (fun s t => t.setPair d (t.pair a ||| (if inv then ~~~(s.val64 t b) else s.val64 t b)))) ∧
  (∀ g inv d a b, Threadwise (.xor g inv true d a b) g (fun s t => t.setPair d (t.pair a ^^^ (if inv then ~~~(s.val64 t b) else s.val64 t b))))

/-- R95: SHL, SHR and SAR by any amount from 0 to 2^32 − 1. -/
def Claim.Shifts : Prop :=
  (∀ d a b, Threadwise (.shlCompact d a b) .always (fun _ t => t.setReg d (BitVec.ofNat 32 ((t.reg a).toNat * 2 ^ (t.reg b).toNat)))) ∧
  (∀ g d a b, Threadwise (.shl g false d a b) g (fun s t => t.setReg d (BitVec.ofNat 32 ((t.reg a).toNat * 2 ^ (s.val32 t b).toNat)))) ∧
  (∀ g d a b, Threadwise (.shl g true d a b) g (fun s t => t.setPair d (BitVec.ofNat 64 ((t.pair a).toNat * 2 ^ (s.val32 t b).toNat)))) ∧
  (∀ g d a b, Threadwise (.shr g false d a b) g (fun s t => t.setReg d (BitVec.ofNat 32 ((t.reg a).toNat / 2 ^ (s.val32 t b).toNat)))) ∧
  (∀ g d a b, Threadwise (.shr g true d a b) g (fun s t => t.setPair d (BitVec.ofNat 64 ((t.pair a).toNat / 2 ^ (s.val32 t b).toNat)))) ∧
  (∀ g d a b, Threadwise (.sar g false d a b) g (fun s t => t.setReg d (BitVec.ofInt 32 ((t.reg a).toInt / 2 ^ (s.val32 t b).toNat)))) ∧
  (∀ g d a b, Threadwise (.sar g true d a b) g (fun s t => t.setPair d (BitVec.ofInt 64 ((t.pair a).toInt / 2 ^ (s.val32 t b).toNat))))

/-- R94, R95: AND, OR, XOR, SHL, SHR and SAR. -/
def Obligations.LogicAndShifts : Prop := Claim.LogicOperations ∧ Claim.Shifts

/-- R96, R97: BEXT, BINS, POPC, CLZ and BREV. A field's bits above bit 31 read 0, and bits inserted there are lost. -/
def Claim.BitFields : Prop :=
  (∀ g d a b (w : BitVec 8), 1 ≤ w.toNat → w.toNat ≤ 32 → Threadwise (.bext g .n d a b w) g (fun s t =>
    t.setReg d (BitVec.ofNat 32 ((t.reg a).toNat / 2 ^ (s.val32 t b).toNat % 2 ^ w.toNat)))) ∧
  (∀ g d a b (w : BitVec 8), 1 ≤ w.toNat → w.toNat ≤ 32 → Threadwise (.bext g .i d a b w) g (fun s t =>
    t.setReg d (BitVec.ofInt 32 (Int.bmod ((t.reg a).toNat / 2 ^ (s.val32 t b).toNat) (2 ^ w.toNat))))) ∧
  (∀ g d a b (w : BitVec 8), 1 ≤ w.toNat → w.toNat ≤ 32 → Threadwise (.bins g d a b w) g (fun s t =>
    t.setReg d (BitVec.ofFnLE (fun k : Fin 32 =>
      if (s.val32 t b).toNat ≤ k.val ∧ k.val < (s.val32 t b).toNat + w.toNat then (t.reg a).getLsbD (k.val - (s.val32 t b).toNat)
      else (t.reg d).getLsbD k.val)))) ∧
  (∀ g d a, Threadwise (.popc g false d a) g (fun _ t =>
    t.setReg d (BitVec.ofNat 32 ((List.range 32).countP (fun k => (t.reg a).getLsbD k))))) ∧
  (∀ g d a, Threadwise (.popc g true d a) g (fun _ t =>
    t.setReg d (BitVec.ofNat 32 ((List.range 64).countP (fun k => (t.pair a).getLsbD k))))) ∧
  (∀ g d a, Threadwise (.clz g false d a) g (fun _ t =>
    t.setReg d (if t.reg a = 0 then 32 else BitVec.ofNat 32 (31 - (t.reg a).toNat.log2)))) ∧
  (∀ g d a, Threadwise (.clz g true d a) g (fun _ t =>
    t.setReg d (if t.pair a = 0 then 64 else BitVec.ofNat 32 (63 - (t.pair a).toNat.log2)))) ∧
  (∀ g d a, Threadwise (.brev g false d a) g (fun _ t => t.setReg d (t.reg a).reverse)) ∧
  (∀ g d a, Threadwise (.brev g true d a) g (fun _ t => t.setPair d (t.pair a).reverse))

/-- R98, R99: ICMP and PLUT write their predicate. -/
def Claim.Predicates : Prop :=
  (∀ g c pd a b, Threadwise (.icmp g c .i false pd a b) g (fun s t => t.setPred pd (condHolds c (t.reg a).toInt (s.val32 t b).toInt))) ∧
  (∀ g c pd a b, Threadwise (.icmp g c .n false pd a b) g (fun s t => t.setPred pd (condHolds c (t.reg a).toNat (s.val32 t b).toNat))) ∧
  (∀ g c pd a b, Threadwise (.icmp g c .i true pd a b) g (fun s t => t.setPred pd (condHolds c (t.pair a).toInt (s.val64 t b).toInt))) ∧
  (∀ g c pd a b, Threadwise (.icmp g c .n true pd a b) g (fun s t => t.setPred pd (condHolds c (t.pair a).toNat (s.val64 t b).toNat))) ∧
  (∀ g pd px py pz table, Threadwise (.plut g pd px py pz table) g (fun _ t =>
    t.setPred pd (table.getLsbD ((t.pred px).toNat + 2 * (t.pred py).toNat + 4 * (t.pred pz).toNat))))

/-- R96 to R99: bit fields, counts, comparison and predicate logic. -/
def Obligations.BitFieldsAndPredicates : Prop := Claim.BitFields ∧ Claim.Predicates

/-- R100, R101: ADD64, MAD64 and LEA. -/
def Obligations.WideArithmetic : Prop :=
  (∀ g ty d a b, Threadwise (.add64 g ty false false d a b) g (fun s t => t.setPair d (t.pair a + s.val64 t b))) ∧
  (∀ g ty d a b, Threadwise (.add64 g ty false true d a b) g (fun s t => t.setPair d (t.pair a - s.val64 t b))) ∧
  (∀ g d a b, Threadwise (.add64 g .i true false d a b) g (fun s t =>
    t.setPair d (BitVec.ofInt 64 (min (max ((t.pair a).toInt + (s.val64 t b).toInt) (-9223372036854775808)) 9223372036854775807)))) ∧
  (∀ g d a b, Threadwise (.add64 g .i true true d a b) g (fun s t =>
    t.setPair d (BitVec.ofInt 64 (min (max ((t.pair a).toInt - (s.val64 t b).toInt) (-9223372036854775808)) 9223372036854775807)))) ∧
  (∀ g d a b, Threadwise (.add64 g .n true false d a b) g (fun s t =>
    t.setPair d (BitVec.ofNat 64 (min ((t.pair a).toNat + (s.val64 t b).toNat) 18446744073709551615)))) ∧
  (∀ g d a b, Threadwise (.add64 g .n true true d a b) g (fun s t => t.setPair d (BitVec.ofNat 64 ((t.pair a).toNat - (s.val64 t b).toNat)))) ∧
  (∀ g d a b c, Threadwise (.mad64 g .i false d a b c) g (fun s t =>
    t.setPair d (BitVec.ofInt 64 ((t.reg a).toInt * (s.val32 t b).toInt) + t.pair c))) ∧
  (∀ g d a b c, Threadwise (.mad64 g .n false d a b c) g (fun s t =>
    t.setPair d (BitVec.ofNat 64 ((t.reg a).toNat * (s.val32 t b).toNat) + t.pair c))) ∧
  (∀ g d a b c, Threadwise (.mad64 g .i true d a b c) g (fun s t =>
    t.setPair d (BitVec.ofInt 64
      (min (max ((t.reg a).toInt * (s.val32 t b).toInt + (t.pair c).toInt) (-9223372036854775808)) 9223372036854775807)))) ∧
  (∀ g d a b c, Threadwise (.mad64 g .n true d a b c) g (fun s t =>
    t.setPair d (BitVec.ofNat 64 (min ((t.reg a).toNat * (s.val32 t b).toNat + (t.pair c).toNat) 18446744073709551615)))) ∧
  (∀ g sh d a b, Threadwise (.lea g .i sh d a b) g (fun s t =>
    t.setPair d (t.pair a + BitVec.ofInt 64 ((s.val32 t b).toInt * 2 ^ sh.toNat)))) ∧
  (∀ g sh d a b, Threadwise (.lea g .n sh d a b) g (fun s t =>
    t.setPair d (t.pair a + BitVec.ofNat 64 ((s.val32 t b).toNat * 2 ^ sh.toNat))))

/-! ### Float instructions (05) -/

/-- R47, R112, R114: FADD, FMUL and FMA at one rounding, and their compact forms: no modifier, RNE, C equal to D. -/
def Claim.FloatArithmetic : Prop :=
  (∀ g m d a b, Floatwise (.fadd g m d a b) g (fun s t =>
    t.result d (toWord (addF fmtF32 m.rm m.ftz m.na m.nb (t.reg a).toNat (s.valF t b).toNat)))) ∧
  (∀ g m d a b, Floatwise (.fmul g m d a b) g (fun s t =>
    t.result d (toWord (mulF fmtF32 m.rm m.ftz m.na m.nb (t.reg a).toNat (s.valF t b).toNat)))) ∧
  (∀ g m d a b c, Floatwise (.fma g m d a b c) g (fun s t =>
    t.result d (toWord (fmaF fmtF32 m.rm m.ftz m.na m.nb m.nc (t.reg a).toNat (s.valF t b).toNat (t.reg c).toNat)))) ∧
  (∀ d a b, Floatwise (.faddCompact d a b) .always (fun _ t =>
    t.result d (toWord (addF fmtF32 .rne false false false (t.reg a).toNat (t.reg b).toNat)))) ∧
  (∀ d a b, Floatwise (.fmulCompact d a b) .always (fun _ t =>
    t.result d (toWord (mulF fmtF32 .rne false false false (t.reg a).toNat (t.reg b).toNat)))) ∧
  (∀ d a b, Floatwise (.fmaCompact d a b) .always (fun _ t =>
    t.result d (toWord (fmaF fmtF32 .rne false false false false (t.reg a).toNat (t.reg b).toNat (t.reg d).toNat))))

/-- R115, R116, R119, R121: FMIN, FMAX, FSCL by an integer b, FRINT, SQRT and FDIV. -/
def Claim.FloatOtherArithmetic : Prop :=
  (∀ g m d a b, Floatwise (.fmin g m d a b) g (fun s t =>
    t.result d (toWord (minmaxF fmtF32 false m.ftz m.na m.nb (t.reg a).toNat (s.valF t b).toNat)))) ∧
  (∀ g m d a b, Floatwise (.fmax g m d a b) g (fun s t =>
    t.result d (toWord (minmaxF fmtF32 true m.ftz m.na m.nb (t.reg a).toNat (s.valF t b).toNat)))) ∧
  (∀ g m d a b, Floatwise (.fscl g m d a b) g (fun s t =>
    t.result d (toWord (sclF m.rm m.ftz m.na (t.reg a).toNat (s.val32 t b).toInt)))) ∧
  (∀ g m d a, Floatwise (.frint g m d a) g (fun _ t => t.result d (toWord (rintF m.rm m.ftz m.na (t.reg a).toNat)))) ∧
  (∀ g m d a, Floatwise (.sqrt g m d a) g (fun _ t => t.result d (toWord (sqrtF m.rm m.ftz m.na (t.reg a).toNat)))) ∧
  (∀ g m d a b, Floatwise (.fdiv g m d a b) g (fun s t =>
    t.result d (toWord (divF m.rm m.ftz m.na m.nb (t.reg a).toNat (s.valF t b).toNat))))

/-- R117, R118: FCMP writes its predicate and raises flags; FCLS writes the class and raises none. -/
def Claim.FloatComparison : Prop :=
  (∀ g c ftz pd a b, Floatwise (.fcmp g c ftz pd a b) g (fun s t =>
    (t.setPred pd (cmpF c ftz (t.reg a).toNat (s.valF t b).toNat).1, (cmpF c ftz (t.reg a).toNat (s.valF t b).toNat).2))) ∧
  (∀ g d a, Threadwise (.fcls g d a) g (fun _ t => t.setReg d (BitVec.ofNat 32 (clsF (t.reg a).toNat))))

/-- R112 to R119, R121: the FP32 instructions. -/
def Obligations.FloatArithmetic : Prop := Claim.FloatArithmetic ∧ Claim.FloatOtherArithmetic ∧ Claim.FloatComparison

/-- R109, R112, R120: the two-element forms work on each element at its own format. -/
def Claim.PairArithmetic : Prop :=
  (∀ g m d a b, Floatwise (.h2add g m d a b) g (fun s t =>
    t.result d (pairF (addF (pairFmt m.bf) m.rm m.ftz m.na m.nb) (t.reg a) (s.valH t m.bf b)))) ∧
  (∀ g m d a b, Floatwise (.h2mul g m d a b) g (fun s t =>
    t.result d (pairF (mulF (pairFmt m.bf) m.rm m.ftz m.na m.nb) (t.reg a) (s.valH t m.bf b)))) ∧
  (∀ g m d a b c, Floatwise (.h2fma g m d a b c) g (fun s t =>
    t.result d (pairF3 (fmaF (pairFmt m.bf) m.rm m.ftz m.na m.nb m.nc) (t.reg a) (s.valH t m.bf b) (t.reg c)))) ∧
  (∀ d a b, Floatwise (.h2fmaCompact d a b) .always (fun _ t =>
    t.result d (pairF3 (fmaF fmtF16 .rne false false false false) (t.reg a) (t.reg b) (t.reg d)))) ∧
  (∀ g m d a b, Floatwise (.h2min g m d a b) g (fun s t =>
    t.result d (pairF (minmaxF (pairFmt m.bf) false m.ftz m.na m.nb) (t.reg a) (s.valH t m.bf b)))) ∧
  (∀ g m d a b, Floatwise (.h2max g m d a b) g (fun s t =>
    t.result d (pairF (minmaxF (pairFmt m.bf) true m.ftz m.na m.nb) (t.reg a) (s.valH t m.bf b))))

/-- R122, R123: the special functions. Where the spec fixes no result bit for bit, `sfuF` takes a free value (log entry 8). -/
def Claim.SpecialFunctions : Prop :=
  (∀ g m d a, Floatwise (.rcp g m d a) g (fun _ t => t.result d (toWord (sfuF .rcp m.ftz m.na (t.reg a))))) ∧
  (∀ g m d a, Floatwise (.rsqrt g m d a) g (fun _ t => t.result d (toWord (sfuF .rsqrt m.ftz m.na (t.reg a))))) ∧
  (∀ g m d a, Floatwise (.exp2 g m d a) g (fun _ t => t.result d (toWord (sfuF .exp2 m.ftz m.na (t.reg a))))) ∧
  (∀ g m d a, Floatwise (.log2 g m d a) g (fun _ t => t.result d (toWord (sfuF .log2 m.ftz m.na (t.reg a))))) ∧
  (∀ g m d a, Floatwise (.sin g m d a) g (fun _ t => t.result d (toWord (sfuF .sin m.ftz m.na (t.reg a))))) ∧
  (∀ g m d a, Floatwise (.cos g m d a) g (fun _ t => t.result d (toWord (sfuF .cos m.ftz m.na (t.reg a))))) ∧
  (∀ g m d a, Floatwise (.tanh g m d a) g (fun _ t => t.result d (toWord (sfuF .tanh m.ftz m.na (t.reg a)))))

/-- R109, R112, R120, R122, R123: the two-element forms and the special functions. -/
def Obligations.PairsAndSpecialFunctions : Prop := Claim.PairArithmetic ∧ Claim.SpecialFunctions

/-- R105, R114, R121: a sum, product or quotient with a NaN operand, negated or not, is the canonical NaN, and it raises NV exactly where
an operand is a signaling NaN. -/
def Obligations.NanOperandsGiveTheCanonicalNan : Prop :=
  ∀ (rm : Rnd) (ftz na nb : Bool) (x y : Nat) (z : Nat × Fl), (unpackF fmtF32 ftz x).1.isNan = true ∨ (unpackF fmtF32 ftz y).1.isNan = true →
    z = addF fmtF32 rm ftz na nb x y ∨ z = mulF fmtF32 rm ftz na nb x y ∨ z = divF rm ftz na nb x y →
    z.1 = 0x7FC00000 ∧ (z.2 &&& flNV ≠ 0 ↔ (unpackF fmtF32 ftz x).1.isSig = true ∨ (unpackF fmtF32 ftz y).1.isSig = true)

/-! ### Narrow formats and conversions (06) -/

/-- R136, R137, R146, R147, R148: CVT, CVTS, PACK, UNPK and QBLK. -/
def Claim.Conversions : Prop :=
  (∀ g dst src rm sat ftz d a, Floatwise (.cvt g dst src rm sat ftz d a) g (fun _ t =>
    let x := if EFmt.width src = 64 then (t.pair a).toNat else (t.reg a).toNat % 2 ^ EFmt.width src
    let z := convert dst src (.mode rm) ftz sat x
    (if EFmt.width dst = 64 then t.setPair d (BitVec.ofNat 64 z.1) else t.setReg d (BitVec.ofNat 32 z.1), z.2))) ∧
  (∀ g dst src sat ftz d a b, Floatwise (.cvts g dst src sat ftz d a b) g (fun s t =>
    let x := if EFmt.width src = 64 then (t.pair a).toNat else (t.reg a).toNat % 2 ^ EFmt.width src
    let st := nextRng t.rng
    let z := convert dst src (.draw (drawOf st (s.val32 t b)).toNat) ftz sat x
    let u := { t with rng := st }
    (if EFmt.width dst = 64 then u.setPair d (BitVec.ofNat 64 z.1) else u.setReg d (BitVec.ofNat 32 z.1), z.2))) ∧
  (∀ g fmt d a b, Threadwise (.pack g fmt d a b) g (fun s t => t.setReg d (packSlot fmt (t.reg d) (t.reg a) (s.val32 t b).toNat))) ∧
  (∀ g fmt f32 d a b, Floatwise (.unpk g fmt f32 d a b) g (fun s t =>
    t.result d (unpackSlot fmt f32 (t.reg a) (s.val32 t b).toNat))) ∧
  (∀ g fmt bs d a, Threadwise (.qblk g fmt bs d a) g (fun _ t => t.setReg d (BitVec.ofNat 32 (qblkF fmt bs (t.reg a)))))

/-- R149, R150: the packed dot products. -/
def Claim.DotProducts : Prop :=
  (∀ g fa fb sat d a b c, Floatwise (.dot4 g fa fb sat d a b c) g (fun s t =>
    t.result d (dotF 8 (Dot4Ty.fmt fa) (Dot4Ty.fmt fb) sat (t.reg a) (s.val32 t b) (t.reg c)))) ∧
  (∀ g fa fb sat d a b c, Floatwise (.dot8 g fa fb sat d a b c) g (fun s t =>
    t.result d (dotF 4 (Dot8Ty.fmt fa) (Dot8Ty.fmt fb) sat (t.reg a) (s.val32 t b) (t.reg c)))) ∧
  (∀ g m d a b c, Floatwise (.dot2h g m d a b c) g (fun s t =>
    t.result d (dot2hF (pairFmt m.bf) m.rm m.ftz (t.reg a) (s.valH t m.bf b) (t.reg c))))

/-- R136, R137, R146 to R150: conversions, packing and the packed dot products. -/
def Obligations.NarrowFormats : Prop := Claim.Conversions ∧ Claim.DotProducts

/-! ### Control and issue (03) -/

/-- R72, R77, R78: BRA, BRX, CALL and CALLX, with what the checks of R72 answer for their target: the thread stands there, a malformed line
raising ILLEGAL (R38); or the target is refused with its cause; or its parity is bad. A call whose entry is outside lane memory raises STACK
(R73) and makes no transfer. While the line, or the thread's own access to the entry, is held (R20, R180, R208), the transfer waits (log entry
5). -/
def Claim.BranchesAndCalls : Prop :=
  ∀ (s : State) (g : Guard) (r : Ref) (u : State) (i : Instr) (call : Bool) (dest : DWord) (d : Disp) (c : BitVec 24) (a : Reg) (b : Src),
    Runs s g r u →
    (i, call, dest) ∈ [(Instr.bra g d, false, s.bnd.pc + dispBytes d), (.call g d, true, s.bnd.pc + dispBytes d),
        (.brx g a b, false, (s.thread r).pair a + s.brxB r b <<< 2), (.callx g a b, true, (s.thread r).pair a + s.brxB r b <<< 2)] ∨
      (g = .always ∧ (i, call, dest) ∈ [(Instr.braCompact c, false, s.bnd.pc + c.signExtend 64 <<< 2),
        (.callCompact c, true, s.bnd.pc + c.signExtend 64 <<< 2)]) →
    ∀ held, held = ((call && s.trails r (s.entryLoc r (s.thread r).depth) 8) || s.fetchHeld (s.partOf r) (s.coreOf r) dest.toNat) →
    (held = true → exec i s = .next (u.heldBack r)) ∧
    (held = false →
      (call = true → hdrLane (s.group r.1).hdr < 8 * ((s.thread r).depth + 1) → exec i s = .next (u.fail r causeStack)) ∧
      (call = false ∨ 8 * ((s.thread r).depth + 1) ≤ hdrLane (s.group r.1).hdr →
        (∀ l v w, u.target (s.partOf r) (s.coreOf r) dest true = (.taken l false, v) → w = (if call = true then v.push r else v) →
          exec i s = .next (w.upd r (fun t => { t with pc := dest, line := some l }))) ∧
        (∀ l v w, u.target (s.partOf r) (s.coreOf r) dest true = (.taken l true, v) → w = (if call = true then v.push r else v) →
          exec i s = .next ((w.upd r (fun t => { t with pc := dest, line := some l })).note r causeIllegal)) ∧
        (∀ x v, u.target (s.partOf r) (s.coreOf r) dest true = (.refuse x, v) → exec i s = .next (v.fail r x)) ∧
        (∀ v, u.target (s.partOf r) (s.coreOf r) dest true = (.parity, v) →
          exec i s = .next ((v.upd r (fun t => t.goto v.bnd.pc)).raiseHalt (v.partOf r) 3 (v.coreOf r) r.1))))

/-- R72, R73, R79: RET goes to the address in the newest entry of the call stack, 8 bytes below the one before it, and drops that entry; without one
it raises STACK. A target that is refused keeps the entry. It waits as a call does (log entry 5). -/
def Claim.Returns : Prop :=
  ∀ (s : State) (g : Guard) (r : Ref) (u : State), Runs s g r u →
    (s.retHeld r = true → exec (.ret g) s = .next (u.heldBack r)) ∧
    (s.retHeld r = false →
      ((s.thread r).depth = 0 → exec (.ret g) s = .next (u.fail r causeStack)) ∧
      (∀ dest, (s.thread r).depth ≠ 0 →
        dest = BitVec.ofNat 64 (ofBytes (s.mem.readN (locLane r.1 r.2 (hdrLane (s.group r.1).hdr - 8 * (s.thread r).depth)) 8)) →
        (∀ l v, u.target (s.partOf r) (s.coreOf r) dest true = (.taken l false, v) →
          exec (.ret g) s = .next (v.upd r (fun t => { t with depth := t.depth - 1, pc := dest, line := some l }))) ∧
        (∀ x v, u.target (s.partOf r) (s.coreOf r) dest true = (.refuse x, v) → exec (.ret g) s = .next (v.fail r x))))

/-- R72, R73, R77 to R79: branches, calls and returns. -/
def Obligations.ControlTransfers : Prop := Claim.BranchesAndCalls ∧ Claim.Returns

/-- R73: the push of a call writes the return address at the place from which RET pops it, and counts one entry. -/
def Claim.CallPushesWhatReturnPops : Prop :=
  ∀ (s : State) (r : Ref), s.hasThread r = true → 8 * ((s.thread r).depth + 1) ≤ hdrLane (s.group r.1).hdr →
    ((s.push r).thread r).depth = (s.thread r).depth + 1 ∧
    BitVec.ofNat 64 (ofBytes ((s.push r).mem.readN
      (locLane r.1 r.2 (hdrLane (s.group r.1).hdr - 8 * ((s.push r).thread r).depth)) 8)) = s.bnd.npc ∧
    (∀ x, x < locLane r.1 r.2 (hdrLane (s.group r.1).hdr - 8 * ((s.thread r).depth + 1)) ∨
        locLane r.1 r.2 (hdrLane (s.group r.1).hdr - 8 * (s.thread r).depth) ≤ x →
      (s.push r).mem.read x = s.mem.read x)

/-- R39, R72: what the checks on a target answer. A line that the fetch refuses gives its cause; a line of good parity refuses an address that
is misaligned or in the check word, and, but for its first slot, one that no instruction starts at or that its TGT bit does not mark; it takes
the rest. -/
def Claim.TargetChecks : Prop :=
  ∀ (s : State) (part core : Nat) (pc : DWord) (tgt : Bool),
    (∀ c v, s.fetch part core pc.toNat = (.cause c, v) → s.target part core pc tgt = (.refuse c, v)) ∧
    (∀ n ws v, s.fetch part core pc.toNat = (.line n ws, v) → parityGood ws = true →
      (pc.toNat % 4 ≠ 0 ∨ 60 ≤ pc.toNat % 64 → s.target part core pc tgt = (.refuse causeTarget, v)) ∧
      (pc.toNat % 4 = 0 → pc.toNat % 64 < 60 → lineStarts ws = none →
        s.target part core pc tgt = (.taken { va := pc.toNat / 64 * 64, line := n, words := ws, bad := false } true, v)) ∧
      (∀ st, pc.toNat % 4 = 0 → pc.toNat % 64 < 60 → lineStarts ws = some st →
        (tgt = true → pc.toNat % 64 ≠ 0 → st.any (fun p => p.1 == pc.toNat % 64 / 4) = false ∨ lineTgt ws (pc.toNat % 64 / 4) = false →
          s.target part core pc tgt = (.refuse causeTarget, v)) ∧
        (tgt = false ∨ pc.toNat % 64 = 0 ∨
            (st.any (fun p => p.1 == pc.toNat % 64 / 4) = true ∧ lineTgt ws (pc.toNat % 64 / 4) = true) →
          s.target part core pc tgt = (.taken { va := pc.toNat / 64 * 64, line := n, words := ws, bad := false } false, v))))

/-- R72, R73: what a call pushes, and what the checks on a target answer. -/
def Obligations.CallStackAndTargets : Prop := Claim.CallPushesWhatReturnPops ∧ Claim.TargetChecks

/-- R80, R81, R83, R84, R85: NOP does nothing; EXIT ends the thread; YIELD parks a thread that has a slice budget; WAIT and SLEEP go on
where their condition holds and park where it does not. -/
def Obligations.IssueControl : Prop :=
  ∀ (s : State) (g : Guard) (r : Ref) (u : State), Runs s g r u →
    (∀ l, exec (.nop g l) s = .next u) ∧ (g = .always → exec .nopCompact s = .next u) ∧
    (∃ t, exec (.exit g) s = .next t ∧ (t.thread r).live = false ∧ (t.thread r).handler = false ∧ (t.thread r).regs = (s.thread r).regs ∧
      (∀ q, q ≠ r → t.thread q = s.thread q) ∧ t.mem = s.mem) ∧
    ((s.thread r).handler = false → hdrBudget (s.group r.1).hdr ≠ 0 → exec (.yield g) s = .next (u.parkAs r .yielded)) ∧
    ((s.thread r).handler = true ∨ hdrBudget (s.group r.1).hdr = 0 → exec (.yield g) s = .next u) ∧
    (∀ l sc c t : BitVec 6,
      let met := s.lcOf r ≤ l.toNat ∧ s.scOf r ≤ sc.toNat ∧ s.ccOf r ≤ c.toNat ∧ s.tcOf r.1 ≤ t.toNat
      (met → exec (.wait g l sc c t) s = .next u ∧ (g = .always → exec (.waitCompact l sc c t) s = .next u)) ∧
      (¬ met → exec (.wait g l sc c t) s = .next (u.parkAs r (.wait l.toNat sc.toNat c.toNat t.toNat)) ∧
        (g = .always → exec (.waitCompact l sc c t) s = .next (u.parkAs r (.wait l.toNat sc.toNat c.toNat t.toNat))))) ∧
    (∀ b, (s.val32 (s.thread r) b = 0 → exec (.sleep g b) s = .next u) ∧
      (s.val32 (s.thread r) b ≠ 0 → exec (.sleep g b) s = .next (u.parkAs r (.sleep (s.dtb + (s.val32 (s.thread r) b).toNat))))) ∧
    (∀ a, (((s.thread r).pair a).toNat ≤ s.dtb → exec (.sleepAbs g a) s = .next u) ∧
      (s.dtb < ((s.thread r).pair a).toNat → exec (.sleepAbs g a) s = .next (u.parkAs r (.sleep ((s.thread r).pair a).toNat))))

/-! ### Cross-lane instructions (07) -/

/-- R155, R157: a cross-lane instruction that issues in an ordinary bundle holds each of its threads with its effective mask, at the
instruction, and changes nothing else; LXCH stands for all of them. -/
def Claim.CrossLaneGathers : Prop :=
  ∀ (s : State) (r : Ref) (g : Guard) (mode : XMode) (wrap x64 : Bool) (m : Mask) (d a : Reg) (b : Src),
    s.bnd.meeting = none → s.bnd.refs = [r] →
    exec (.lxch g mode wrap x64 m d a b) s = .next (s.upd r (fun t => { t with meet := some (s.effMask r m), formed := none }))

/-- R159, R163: each guard-true thread of the meeting gets the value that the lane it reads holds; 0 where that lane is out of the
wave, absent or guarded off. -/
def Claim.LaneExchange : Prop :=
  (∀ g mode wrap m d a b, Meetwise (.lxch g mode wrap false m d a b) g (fun s r t =>
    t.setReg d (match xchLane mode wrap (s.waveW r.1) (s.laneOf r) (s.val32 (s.thread r) b).toNat with
      | some j => ((s.lane g j).map (fun q => q.reg a)).getD 0
      | none => 0))) ∧
  (∀ g mode wrap m d a b, Meetwise (.lxch g mode wrap true m d a b) g (fun s r t =>
    t.setPair d (match xchLane mode wrap (s.waveW r.1) (s.laneOf r) (s.val32 (s.thread r) b).toNat with
      | some j => ((s.lane g j).map (fun q => q.pair a)).getD 0
      | none => 0)))

/-- R164: votes, matches and the election. -/
def Claim.LaneVotes : Prop :=
  (∀ g m pd pa, Meetwise (.lvoteAny g m pd pa) g (fun s _ t =>
    t.setPred pd (s.bnd.refs.any (fun q => guardHolds g (s.thread q) && (s.thread q).pred pa)))) ∧
  (∀ g m pd pa, Meetwise (.lvoteAll g m pd pa) g (fun s _ t =>
    t.setPred pd ((List.range 64).all (fun l => !s.metMask.getLsbD l || ((s.lane g l).map (fun q => q.pred pa)).getD false)))) ∧
  (∀ g m d pa, Meetwise (.lvoteBal g m d pa) g (fun s _ t => t.setPair d (maskOf (fun l => ((s.lane g l).map (fun q => q.pred pa)).getD false)))) ∧
  (∀ g m d a, Meetwise (.lmatch g false m d a) g (fun s r t =>
    t.setPair d (maskOf (fun l => ((s.lane g l).map (fun q => q.reg a == (s.thread r).reg a)).getD false)))) ∧
  (∀ g m d a, Meetwise (.lmatch g true m d a) g (fun s r t =>
    t.setPair d (maskOf (fun l => ((s.lane g l).map (fun q => q.pair a == (s.thread r).pair a)).getD false)))) ∧
  (∀ g m pd, Meetwise (.lelect g m pd) g (fun s r t =>
    t.setPred pd (s.bnd.refs.all (fun q => !guardHolds g (s.thread q) || decide (s.laneOf r ≤ s.laneOf q)))))

/-- R155, R157, R159, R163, R164: gathering, exchange, votes, matches and the election. -/
def Obligations.CrossLaneMeetings : Prop := Claim.CrossLaneGathers ∧ Claim.LaneExchange ∧ Claim.LaneVotes

/-- R165, R166, R167: the integer reductions and scans, by the tree of R165 over the 64 lanes and the fold of R167 over the lanes below. -/
def Claim.LaneReductions : Prop :=
  (∀ g op ty m d a, ty ≠ .f32 → Meetwise (.lred g op ty m d a) g (fun s _ t =>
    t.setReg d ((redTree op ty (fun l => (s.lane g l).map (fun q => q.reg a)) 6 0).getD (redIdent op ty, 0)).1)) ∧
  (∀ g op ty exc m d a, ty ≠ .f32 → Meetwise (.lscan g op ty exc m d a) g (fun s r t =>
    t.setReg d ((scanFold op ty (fun l => (s.lane g l).map (fun q => q.reg a)) (s.laneOf r + if exc then 0 else 1) 6 0 none).getD
      (redIdent op ty, 0)).1))

/-- R106, R166, R167: a FP32 reduction or scan completes too: its register holds the tree's value and its flags are ORed in. -/
def Claim.LaneFloatReductions : Prop :=
  ∀ (s : State) (g : Guard) (op : ROp) (exc : Bool) (m : Mask) (d a : Reg) (r : Ref), Meeting s → r ∈ s.bnd.refs →
    guardHolds g (s.thread r) = true →
    (∃ t, exec (.lred g op .f32 m d a) s = .next t ∧ t.mem = s.mem ∧
      t.thread r = (({ s.thread r with pc := s.bnd.npc, meet := none, formed := none } : Thread).setReg d
        ((redTree op .f32 (fun l => (s.lane g l).map (fun q => q.reg a)) 6 0).getD (redIdent op .f32, 0)).1).flags
        ((redTree op .f32 (fun l => (s.lane g l).map (fun q => q.reg a)) 6 0).getD (redIdent op .f32, 0)).2) ∧
    (∃ t, exec (.lscan g op .f32 exc m d a) s = .next t ∧ t.mem = s.mem ∧
      t.thread r = (({ s.thread r with pc := s.bnd.npc, meet := none, formed := none } : Thread).setReg d
        ((scanFold op .f32 (fun l => (s.lane g l).map (fun q => q.reg a)) (s.laneOf r + if exc then 0 else 1) 6 0 none).getD
          (redIdent op .f32, 0)).1).flags
        ((scanFold op .f32 (fun l => (s.lane g l).map (fun q => q.reg a)) (s.laneOf r + if exc then 0 else 1) 6 0 none).getD
          (redIdent op .f32, 0)).2)

/-- R165 to R167: reductions and scans, integer and FP32. -/
def Obligations.LaneReductions : Prop := Claim.LaneReductions ∧ Claim.LaneFloatReductions

/-! ### Traps and system instructions (19) -/

/-- R47, R52, R436: what SRD reads from each 32-bit and each 64-bit special register, `%clu` and `%tpc` apart; the compact form reads the
same. -/
def Claim.SpecialRegisterReads : Prop :=
  ∀ (s : State) (g : Guard) (r : Ref) (u : State) (d : Reg), Runs s g r u →
    (∀ n, g = .always → exec (.srdCompact d n) s = exec (.srd g d n) s) ∧
    (∀ p ∈ [((0x00 : BitVec 8), BitVec.ofNat 32 r.2), (0x01, BitVec.ofNat 32 (s.widOf r)), (0x02, BitVec.ofNat 32 (s.laneOf r)),
        (0x03, BitVec.ofNat 32 (s.waveW r.1)), (0x0B, BitVec.ofNat 32 (s.coreOf r)), (0x0D, BitVec.ofNat 32 (dieOfCore (s.coreOf r))),
        (0x15, (s.thread r).fflags), (0x16, BitVec.ofNat 32 (s.lcOf r)), (0x17, BitVec.ofNat 32 (s.scOf r)),
        (0x18, BitVec.ofNat 32 (s.ccOf r)), (0x19, BitVec.ofNat 32 (s.tcOf r.1)),
        (0x1A, BitVec.ofNat 32 ((s.ctxOf r).blk % 65536 * 65536 + Nat.min (s.ctxOf r).act 65535))],
      exec (.srd g d p.1) s = .next (u.put r d p.2)) ∧
    (∀ k : Fin 6, exec (.srd g d (BitVec.ofNat 8 (5 + k.val))) s =
      .next (u.put64 r d (BitVec.ofNat 64 ((hdrFields (s.group r.1).hdr (s.workOf r)).getD k.val 0)))) ∧
    (∀ p ∈ [((0x04 : BitVec 8), BitVec.ofNat 64 (s.workOf r)), (0x10, BitVec.ofNat 64 (s.clk (s.coreOf r))), (0x11, BitVec.ofNat 64 s.dtb),
        (0x12, (s.ctxOf r).ctag), (0x13, (s.waveOf r).cause), (0x14, (s.waveOf r).tmask), (0x1C, s.sliceWord r.1)],
      exec (.srd g d p.1) s = .next (u.put64 r d p.2))

/-- R52, R438: `%tpc` is read and written in handler mode; outside it, SRD and SWR of it raise ILLEGAL. `%clu` of a wide core is its
cluster; that of a control core, which has none, a free value (the model's choice, log entry 10). -/
def Claim.HandlerOnlyRegister : Prop :=
  ∀ (s : State) (g : Guard) (r : Ref) (u : State) (d : Reg), Runs s g r u →
    ((s.thread r).handler = true → exec (.srd g d 0x1B) s = .next (u.put64 r d (s.thread r).tpc) ∧
      (∀ b, exec (.swr g 0x1B b) s = .next (u.upd r (fun t => { t with tpc := s.val64 (s.thread r) b })))) ∧
    ((s.thread r).handler = false → exec (.srd g d 0x1B) s = .next (u.fail r causeIllegal) ∧
      (∀ b, exec (.swr g 0x1B b) s = .next (u.fail r causeIllegal))) ∧
    (isControl (s.coreOf r) = false → exec (.srd g d 0x0C) s = .next (u.drawn.put r d (BitVec.ofNat 32 (s.coreOf r / 8)))) ∧
    (isControl (s.coreOf r) = true → ∃ w, exec (.srd g d 0x0C) s = .next (u.drawn.put r d w))

/-- R6, R49, R419, R436: SWR writes `%tmask`, whose reserved bits stay 0 and whose bits 2 to 0 stay 1, and `%fflags`, whose reserved bits
stay 0; a write to a read-only register of R52 changes nothing. No well-formed SWR names a number that R52 leaves unassigned. -/
def Claim.SpecialRegisterWrites : Prop :=
  ∀ (s : State) (g : Guard) (r : Ref) (u : State) (b : Src), Runs s g r u →
    exec (.swr g 0x14 b) s = .next (u.updWaveOf r (fun w => { w with tmask := s.val64 (s.thread r) b &&& 0xFF07FFFF ||| 7 })) ∧
    exec (.swr g 0x15 b) s = .next (u.upd r (fun t => { t with fflags := s.val32 (s.thread r) b &&& 0x3F })) ∧
    (∀ n : BitVec 8, n ≤ 0x0D ∨ (0x10 ≤ n ∧ n ≤ 0x13) ∨ (0x16 ≤ n ∧ n ≤ 0x1A) ∨ n = 0x1C → exec (.swr g n b) s = .next u) ∧
    (∀ n : BitVec 8, n = 0x0E ∨ n = 0x0F ∨ 0x1D ≤ n → (Instr.swr g n b).wellFormed = false)

/-- R437: TRAP sets its cause and completes; BKPT sets its cause and, where that cause is enabled, stays. R439: CCLR clears causes, and
TMASK gives the old mask and writes the new one. Outside handler mode. -/
def Claim.TrapInstructions : Prop :=
  ∀ (s : State) (g : Guard) (r : Ref) (u : State), Runs s g r u → (s.thread r).handler = false →
    (∀ c, exec (.trap g c) s = .next (u.updWaveOf r (fun w => { w with cause := w.cause ||| BitVec.ofNat 64 (2 ^ (24 + c.toNat)) }))) ∧
    exec (.bkpt g) s = .next (
      let v := u.updWaveOf r (fun w => { w with cause := w.cause ||| 0x20000 })
      if (s.waveOf r).tmask &&& 0x20000 ≠ 0 then v.upd r (fun t => { t with pc := s.bnd.pc }) else v) ∧
    (∀ b, exec (.cclr g b) s = .next (u.updWaveOf r (fun w => { w with cause := w.cause &&& ~~~(s.val64 (s.thread r) b) }))) ∧
    (∀ d b, exec (.tmaskOr g d b) s = .next ((u.put64 r d (s.waveOf r).tmask).updWaveOf r
      (fun w => { w with tmask := ((s.waveOf r).tmask ||| s.val64 (s.thread r) b) &&& 0xFF07FFFF ||| 7 }))) ∧
    (∀ d b, exec (.tmaskAndn g d b) s = .next ((u.put64 r d (s.waveOf r).tmask).updWaveOf r
      (fun w => { w with tmask := ((s.waveOf r).tmask &&& ~~~(s.val64 (s.thread r) b)) &&& 0xFF07FFFF ||| 7 }))) ∧
    (∀ d b, exec (.tmaskWr g d b) s = .next ((u.put64 r d (s.waveOf r).tmask).updWaveOf r
      (fun w => { w with tmask := s.val64 (s.thread r) b &&& 0xFF07FFFF ||| 7 })))

/-- R438: TRET leaves handler mode for the address in `%tpc`; outside handler mode it raises ILLEGAL. While the line there is held (R20, R208) it
waits (log entry 5). -/
def Claim.ReturnFromHandler : Prop :=
  ∀ (s : State) (g : Guard) (r : Ref) (u : State), Runs s g r u →
    ((s.thread r).handler = true → s.tretHeld r = true → exec (.tret g) s = .next (u.heldBack r)) ∧
    (∀ l v, (s.thread r).handler = true → s.tretHeld r = false →
      (u.upd r (fun t => { t with handler := false, pc := t.tpc })).target (s.partOf r) (s.coreOf r) (s.thread r).tpc false = (.taken l false, v) →
      exec (.tret g) s = .next (v.upd r (fun t => { t with line := some l }))) ∧
    ((s.thread r).handler = false → exec (.tret g) s = .next (u.fail r causeIllegal))

/-- R437 to R439: traps, causes, enables and the return from the handler. -/
def Obligations.TrapInstructions : Prop := Claim.TrapInstructions ∧ Claim.ReturnFromHandler

/-- R422: taking an exception at an issue boundary, where the launch names a handler: `%tpc` saves the pc, the thread enters handler
mode, and its pc is the handler's address; nothing else of it changes but its fetched line and a wait for a line. -/
def Obligations.ExceptionEntry : Prop :=
  ∀ (s : State) (r : Ref), s.hasThread r = true → hdrHandler (s.group r.1).hdr ≠ 0 → (∀ c, (s.thread r).park ≠ .unfetched c) →
    (s.enterHandler r).thread r =
      { s.thread r with tpc := (s.thread r).pc, handler := true, pc := hdrHandler (s.group r.1).hdr, line := none } ∧
    (∀ q, q ≠ r → (s.enterHandler r).thread q = s.thread q) ∧
    (s.enterHandler r).mem = s.mem ∧ (s.enterHandler r).waves = s.waves ∧ (s.enterHandler r).groups = s.groups

/-- R432, R433, R441: HALTQ gives the partition's halt counters, the spares of each die in service, and how many stop records it has and how
many of them are of abandoned operations. -/
def Claim.HaltQueries : Prop :=
  ∀ (s : State) (g : Guard) (r : Ref) (u : State) (d : Reg) (p : Part), Runs s g r u → p = s.part (s.partOf r) →
    exec (.haltq g 0 d) s = .next (u.put64 r d (BitVec.ofNat 64 (p.halts % 2 ^ 48 + p.haltCode % 256 * 2 ^ 56))) ∧
    exec (.haltq g 1 d) s = .next (u.put64 r d (BitVec.ofNat 64 p.haltTime)) ∧
    exec (.haltq g 2 d) s = .next (u.put64 r d (BitVec.ofNat 32 p.haltGroup ++ BitVec.ofNat 32 (p.haltCore % 256))) ∧
    (∃ lo hi : Word, exec (.haltq g 3 d) s = .next (u.put64 r d (hi ++ lo)) ∧
      (∀ x ∈ [(0, lo), (1, hi)],
        bitsOf x.2 3 0 = (s.spares.countP (fun c => c / 64 == x.1 && decide (c < 128))) % 16 ∧
        bitsOf x.2 7 4 = (s.spares.countP (fun c => decide (128 ≤ c) && (c - 128) / 16 == x.1)) % 16 ∧
        bitsOf x.2 31 20 = s.spareWays.count x.1 % 4096)) ∧
    exec (.haltq g 4 d) s =
      .next (u.put64 r d (BitVec.ofNat 32 (p.stops.countP (fun x => x.state == 1)) ++ BitVec.ofNat 32 p.stops.length))

/-- R6, R49, R52, R419, R436, R438, R441: special registers and halt queries. -/
def Obligations.SpecialRegisters : Prop := Claim.SpecialRegisterReads ∧ Claim.HandlerOnlyRegister ∧ Claim.SpecialRegisterWrites ∧ Claim.HaltQueries

/-! ### Memory access (08) -/

/-- R168, R175, R180, R182: a load whose address passes the checks reads its bytes, and they reach the registers from vD on when it
completes; the compact form is LD.core.b32 with an unsigned offset in words. `.rmt` first promotes the owner's writes (R270). It reads at issue
(log entry 5); behind an earlier operation of its thread on those bytes, or an acquire, or where a repair of its column (R20) or a change of
domains at its slice (R208) holds it, it is counted and reads when it completes. -/
def Obligations.LoadsRead : Prop :=
  ∀ (s : State) (g : Guard) (r : Ref) (u v : State) (w : Where), Runs s g r u →
    (∀ sp sz ux o d a b late, u.check r sp (u.ea r sp a (Size.bytes sz) ux b) (Size.bytes sz) (Size.bytes sz) false false = .ok (w, v) →
      late = (s.trails r w.loc (Size.bytes sz) || s.repairsAt w || !s.l2May (s.partOf r) (s.requestAt r w)) →
      (late = false → exec (.ld g sp sz ux o d a b) s = .next ((v.acquireAt r o w).pushLoad r
        (w.loaded d (loadWords sz ((v.acquireAt r o w).readAt (s.coreOf r) w (Size.bytes sz)))))) ∧
      (late = true → exec (.ld g sp sz ux o d a b) s = .next (v.pushLoad r (.late (s.requestAt r w) d o w.loc (Size.bytes sz) (.size sz))))) ∧
    (∀ d a (b : BitVec 8) late, g = .always → u.check r .core ((s.thread r).reg a + 4 * b.setWidth 32).toNat 4 4 false false = .ok (w, v) →
      late = (s.trails r w.loc 4 || s.repairsAt w || !s.l2May (s.partOf r) (s.requestAt r w)) →
      (late = false → exec (.ldCompact d a b) s = .next (v.pushLoad r (w.loaded d [BitVec.ofNat 32 (ofBytes (v.readAt (s.coreOf r) w 4))]))) ∧
      (late = true → exec (.ldCompact d a b) s = .next (v.pushLoad r (.late (s.requestAt r w) d .plain w.loc 4 (.size .b32)))))

/-- R175, R180, R182: a store whose address passes the checks writes its bytes, little-endian, at its place for its own core at once (log entry
5); a synchronising store first makes the core's earlier writes visible at its scope (R282). One behind an earlier operation of its thread on
those bytes, or an acquire, or the store of a lower thread of its bundle to one of them (R182), and a synchronising one behind any that is not
performed, is counted and writes when it is performed. -/
def Obligations.StoresWrite : Prop :=
  ∀ (s : State) (g : Guard) (r : Ref) (u v : State) (w : Where), Runs s.bump g r u →
    (∀ sp sz ux d a b bs late, u.check r sp (u.ea r sp a (Size.bytes sz) ux b) (Size.bytes sz) (Size.bytes sz) true false = .ok (w, v) →
      bs = storeBytes sz ((s.thread r).block d sz.regs) → bs.length = Size.bytes sz →
      late = (s.trails r w.loc (Size.bytes sz) || s.lowerWrites s.serial r w.loc (Size.bytes sz)) →
      (late = false → exec (.st g sp sz ux .plain d a b) s =
        .next (((v.writeAt (s.partOf r) (s.coreOf r) .cor w bs).lay r w).pushStore r (.store .cor w.pa))) ∧
      (late = true → exec (.st g sp sz ux .plain d a b) s = .next (v.pushStore r (.write s.serial .cor false w.loc bs))) ∧
      (∀ sc, s.owes r = false → late = false → exec (.st g sp sz ux (.sync sc) d a b) s =
        .next (((((v.release r sc).writeAt (s.partOf r) (s.coreOf r) sc w bs).lay r w).ownLine (s.coreOf r) sc w).pushStore r (.store sc w.pa))) ∧
      (∀ sc, s.owes r = true ∨ late = true →
        exec (.st g sp sz ux (.sync sc) d a b) s = .next (v.pushStore r (.write s.serial sc true w.loc bs)))) ∧
    (∀ d a (b : BitVec 8) late, g = .always → u.check r .core ((s.thread r).reg a + 4 * b.setWidth 32).toNat 4 4 true false = .ok (w, v) →
      late = (s.trails r w.loc 4 || s.lowerWrites s.serial r w.loc 4) →
      (late = false → exec (.stCompact d a b) s =
        .next (((v.writeAt (s.partOf r) (s.coreOf r) .cor w (bytesOfWord ((s.thread r).reg d))).lay r w).pushStore r (.store .cor w.pa))) ∧
      (late = true → exec (.stCompact d a b) s =
        .next (v.pushStore r (.write s.serial .cor false w.loc (bytesOfWord ((s.thread r).reg d))))))

/-- R183, R184, R185: LDT of an element inside the extents of a valid record is the load at the address of the record's formula; outside them it
gives FILL. The record is read at issue (log entry 5): behind the thread's own unperformed store to it, or an acquire, the instruction waits
(R180). -/
def Claim.TensorLoads : Prop :=
  ∀ (s : State) (g : Guard) (r : Ref) (u v : State) (o : Order) (d a : Reg) (b : Src) (rcd : List Word) (f : EFmt) (sp : Space), Runs s g r u →
    (s.trails r (locScratch r.1 (s.val32 (s.thread r) b).toNat) 128 = true → exec (.ldt g o d a b) s = .next (u.heldBack r)) ∧
    (s.trails r (locScratch r.1 (s.val32 (s.thread r) b).toNat) 128 = false →
      (∀ c, s.tensor u r b = .error c → exec (.ldt g o d a b) s = .next (u.fail r c)) ∧
      (s.tensor u r b = .ok (rcd, v) → tenValid rcd a (hdrRegs (s.group r.1).hdr) = some (f, sp) →
        ¬(EFmt.width f = 64 ∧ (d.toNat % 2 = 1 ∨ hdrRegs (s.group r.1).hdr ≤ d.toNat + 1)) →
        (tenInside rcd (u.tenX r rcd a) = true →
          exec (.ldt g o d a b) s = .next (v.load r sp o (tenEa rcd sp (u.tenX r rcd a)) (EFmt.width f / 8) d (.elem f))) ∧
        (tenInside rcd (u.tenX r rcd a) = false →
          exec (.ldt g o d a b) s = .next (v.pushLoad r (.value d (tenWords f (tenFill rcd f)))))))

/-- R183, R184, R185: STT of an element inside the extents of a valid record is the store of vD, or of the pair, at the address of the record's
formula; outside them it stores nothing. It waits as LDT does (log entry 5). -/
def Claim.TensorStores : Prop :=
  ∀ (s : State) (g : Guard) (r : Ref) (u v : State) (o : Order) (d a : Reg) (b : Src) (rcd : List Word) (f : EFmt) (sp : Space),
    Runs s.bump g r u →
    (s.trails r (locScratch r.1 (s.val32 (s.thread r) b).toNat) 128 = true → exec (.stt g o d a b) s = .next (u.heldBack r)) ∧
    (s.trails r (locScratch r.1 (s.val32 (s.thread r) b).toNat) 128 = false →
      (∀ c, s.tensor u r b = .error c → exec (.stt g o d a b) s = .next (u.fail r c)) ∧
      (s.tensor u r b = .ok (rcd, v) → tenValid rcd a (hdrRegs (s.group r.1).hdr) = some (f, sp) →
        ¬(EFmt.width f = 64 ∧ (d.toNat % 2 = 1 ∨ hdrRegs (s.group r.1).hdr ≤ d.toNat + 1)) →
        (tenInside rcd (u.tenX r rcd a) = true → exec (.stt g o d a b) s = .next (v.store s.serial r sp o (tenEa rcd sp (u.tenX r rcd a))
          ((((v.thread r).block d 2).map bytesOfWord).flatten.take (EFmt.width f / 8)))) ∧
        (tenInside rcd (u.tenX r rcd a) = false → exec (.stt g o d a b) s = .next v)))

/-- R180, R182: the load and the store that LDT and STT make of an element whose address passes the checks. -/
def Claim.ElementAccesses : Prop :=
  ∀ (v x : State) (r : Ref) (sp : Space) (o : Order) (ea n : Nat) (d : Reg) (f : EFmt) (bs : List Byte) (w : Where) (bun : Nat),
    (v.check r sp ea n n false false = .ok (w, x) →
      ∀ late, late = (v.trails r w.loc n || v.repairsAt w || !v.l2May (v.partOf r) (v.requestAt r w)) →
      (late = false → v.load r sp o ea n d (.elem f) =
        (x.acquireAt r o w).pushLoad r (w.loaded d (tenWords f (ofBytes ((x.acquireAt r o w).readAt (v.coreOf r) w n))))) ∧
      (late = true → v.load r sp o ea n d (.elem f) = x.pushLoad r (.late (v.requestAt r w) d o w.loc n (.elem f)))) ∧
    (v.check r sp ea bs.length bs.length true false = .ok (w, x) → (v.trails r w.loc bs.length || v.lowerWrites bun r w.loc bs.length) = false →
      v.store bun r sp .plain ea bs = ((x.writeAt (v.partOf r) (v.coreOf r) .cor w bs).lay r w).pushStore r (.store .cor w.pa))

/-- R180, R182 to R185: tensor elements. -/
def Obligations.TensorElements : Prop := Claim.TensorLoads ∧ Claim.TensorStores ∧ Claim.ElementAccesses

/-- R186, R187: on a word for which no request waits, LDF of a full word reads it and, with `.take`, leaves it empty; STE of an empty word
writes it and leaves it full; each waits where the word stands otherwise, and LDF behind an earlier operation of its thread on that word, or STE
behind any that is not performed, is held at its instruction for those first (R180; log entry 5). R189: TAGS is counted; TAGQ reads 32 bits, behind an earlier TAGS later. -/
def Obligations.FullEmptyWords : Prop :=
  ∀ (s : State) (g : Guard) (r : Ref) (u : State) (cm ux : Bool) (d a : Reg) (b : Src) (loc : Nat), Runs s g r u →
    d.toNat < (s.thread r).regs.length → s.feQueue.all (fun q => q.loc != loc) = true →
    (u.check r (feSpace cm) (u.ea r (feSpace cm) a 4 ux b) 4 4 false false = .ok (.own loc, u) →
      ((s.thread r).feBehind loc false = false → s.isFull loc = true → ∀ take, ∃ t, exec (.ldf g cm take ux d a b) s = .next t ∧ t.mem = s.mem ∧
        (t.thread r).park = .ready ∧
        (t.thread r).reg d = BitVec.ofNat 32 (ofBytes (s.mem.readN loc 4)) ∧ t.isFull loc = !take ∧ (∀ x, x ≠ loc → t.isFull x = s.isFull x)) ∧
      ((s.thread r).feBehind loc false = false → s.isFull loc = false → ∀ take, ∃ t, exec (.ldf g cm take ux d a b) s = .next t ∧ t.mem = s.mem ∧
        (t.thread r).park = .word ∧
        t.feQueue = s.feQueue ++ [{ gid := r.1, tid := r.2, loc := loc, take := take, ste := none, d := d }]) ∧
      ((s.thread r).feBehind loc false = true → ∀ take, exec (.ldf g cm take ux d a b) s = .next (u.heldBack r))) ∧
    (u.check r (feSpace cm) (u.ea r (feSpace cm) a 4 ux b) 4 4 true false = .ok (.own loc, u) →
      ((s.thread r).unperformed = false → s.isFull loc = false → ∃ t, exec (.ste g cm ux d a b) s = .next t ∧ (t.thread r).park = .ready ∧
        t.isFull loc = true ∧ t.mem.readN loc 4 = bytesOfWord ((s.thread r).reg d)) ∧
      ((s.thread r).unperformed = false → s.isFull loc = true → ∃ t, exec (.ste g cm ux d a b) s = .next t ∧ (t.thread r).park = .word) ∧
      ((s.thread r).unperformed = true → exec (.ste g cm ux d a b) s = .next (u.heldBack r))) ∧
    (∀ full (cnt : BitVec 8), u.check r (feSpace cm) (u.ea r (feSpace cm) a 4 ux b) (4 * (cnt.toNat + 1)) 4 true false = .ok (.own loc, u) →
      exec (.tags g cm full ux a b cnt) s = .next (u.pushStore r (.tags loc (cnt.toNat + 1) full))) ∧
    (∀ ea at_, ea = u.ea r (feSpace cm) a 4 ux b → ea % 128 = 0 → s.locks = [] →
      at_ = (if cm then locCmem ((s.group r.1).cset.getD 0) ea else locScratch r.1 ea) →
      ((∀ o ∈ (s.thread r).stores, ∀ l n f, o ≠ .tags l n f) → (s.thread r).loads.any LoadOp.acquires = false →
        ∃ m : Word, exec (.tagq g cm ux d a b) s = .next (u.pushLoad r (.value d [m])) ∧
          ∀ k : Fin 32, m.getLsbD k.val = (decide (ea + 4 * k.val < u.feSize r cm) && s.isFull (at_ + 4 * k.val))) ∧
      ((∃ l n f, .tags l n f ∈ (s.thread r).stores) ∨ (s.thread r).loads.any LoadOp.acquires = true →
        exec (.tagq g cm ux d a b) s = .next (u.pushLoad r (.tagq d at_ (Nat.min 128 (u.feSize r cm - ea))))))

/-- R190: PREF moves the lines, the leaves and the gating of the memory side and nothing else: no register, counter, cause or byte that any core
reads changes. A line that passes the checks of R175 for a read, meets no lock and is held by no repair or change of domains is used at the
level named; one that does not is dropped (log entry 28). -/
def Obligations.PrefetchOnlyMovesLines : Prop :=
  ∀ (s : State) (g : Guard) (r : Ref) (u : State) (lv : PLevel) (ux : Bool) (a : Reg) (b : Src), Runs s g r u →
    (∀ cnt, ∃ t, exec (.pref g lv ux a b cnt) s = .next t ∧ t = { u with lines := t.lines, tlbs := t.tlbs, gated := t.gated }) ∧
    (∀ va, va = u.ea r .glob a 64 ux b / 64 * 64 →
      (∀ c, s.page (s.partOf r) (s.coreOf r) va 64 .read = .error c → exec (.pref g lv ux a b 0) s = .next u) ∧
      (∀ l pa drop, s.page (s.partOf r) (s.coreOf r) va 64 .read = .ok (l, pa) →
        drop = (s.lockHit (s.dieOf r) (s.partOf r) { sp := .glob, owner := 0, lo := va, len := 64 } false || s.pathHeld (s.partOf r) pa) →
        (drop = true → exec (.pref g lv ux a b 0) s = .next u) ∧
        (drop = false → lv = .dc → exec (.pref g lv ux a b 0) s =
          .next ((u.keepLeaf (s.partOf r) (s.coreOf r) va l).touch (s.partOf r) (s.coreOf r) pa)) ∧
        (drop = false → lv = .l2 → exec (.pref g lv ux a b 0) s =
          .next ((u.keepLeaf (s.partOf r) (s.coreOf r) va l).touchBelow (s.partOf r) pa)) ∧
        (drop = false → lv = .lay → isLpddr pa = true → exec (.pref g lv ux a b 0) s =
          .next ((u.keepLeaf (s.partOf r) (s.coreOf r) va l).touchWay (s.partOf r) pa))))

/-! ### Caches, layers and translation (09) -/

/-- R204, R205, R206: a range operation waits for its thread's earlier stores, atomics and acquires that are not performed (log entry 5). Then one
of length 0 only completes; one whose pages all pass acts on every page of the lines that hold the range, in ascending address, and is then
counted until it completes; one whose page fails a check raises that cause, after the pages before it. -/
def Claim.RangeMaintenance : Prop :=
  ∀ (s : State) (g : Guard) (r : Ref) (u v : State) (pt : CPoint) (sc : Scope) (a : Reg) (b : Src) (ea len lo hi q core : Nat), Runs s g r u →
    ea = ((s.thread r).pair a).toNat → len = (s.val32 (s.thread r) b).toNat → lo = ea / 64 * 64 → hi = (ea + len + 63) / 64 * 64 →
    q = s.partOf r → core = s.coreOf r →
    (s.owes r = false → s.rangeHeld r = false) ∧
    (s.rangeHeld r = true → exec (.cwb g pt a b) s = .next (u.heldBack r) ∧ exec (.cinv g pt a b) s = .next (u.heldBack r) ∧
      exec (.cwbi g pt a b) s = .next (u.heldBack r) ∧ exec (.iinv g sc a b) s = .next (u.heldBack r)) ∧
    (s.rangeHeld r = false → len = 0 →
      exec (.cwb g pt a b) s = .next (u.pushStore r (.maint false)) ∧ exec (.cinv g pt a b) s = .next (u.pushStore r (.maint false)) ∧
      exec (.cwbi g pt a b) s = .next (u.pushStore r (.maint false)) ∧ exec (.iinv g sc a b) s = .next (u.pushStore r (.maint true))) ∧
    (s.rangeHeld r = false → len ≠ 0 → ∀ c : Option Nat,
      (State.pages q core .read (fun x _ pa n => x.pushRange (x.partOf r) (x.coreOf r) pt pa n) ((hi - lo) / 4096 + 2) u lo hi = (v, c) →
        exec (.cwb g pt a b) s = .next (match c with | none => v.pushStore r (.maint false) | some x => v.fail r x)) ∧
      (State.pages q core .write (fun x _ pa n => x.cwbiPiece r pt pa n) ((hi - lo) / 4096 + 2) u lo hi = (v, c) →
        exec (.cwbi g pt a b) s = .next (match c with | none => v.pushStore r (.maint false) | some x => v.fail r x)) ∧
      (State.pages q core .fetch (fun x _ pa n => x.dropCode (x.partOf r) (x.coreOf r) sc pa n) ((hi - lo) / 4096 + 2) u lo hi = (v, c) →
        exec (.iinv g sc a b) s = .next (match c with | none => v.pushStore r (.maint true) | some x => v.fail r x)) ∧
      (State.pages q core .write (fun x va pa n => x.cinvPiece r pt ea len va pa n) ((hi - lo) / 4096 + 2) u lo hi = (v, c) →
        exec (.cinv g pt a b) s = .next (match c with | none => v.pushStore r (.maint false) | some x => v.fail r x)))

/-- R206: FBAR waits while an IINV of the thread is not complete, and discards the thread's fetched line. R211: TLBINV drops the leaf of an
address, and its `.all` form every leaf of the partition; it is counted with the accesses in flight through what it removed. -/
def Claim.FetchBarrierAndTlb : Prop :=
  ∀ (s : State) (g : Guard) (r : Ref) (u : State) (q : Nat), Runs s g r u → q = s.partOf r →
    ((∀ o ∈ (s.thread r).stores, o ≠ .maint true) → exec (.fbar g) s = .next (u.upd r (fun t => { t with line := none, park := .ready }))) ∧
    (.maint true ∈ (s.thread r).stores → exec (.fbar g) s = .next (u.parkAs r .fbar)) ∧
    (∀ a va, va = ((s.thread r).pair a).toNat → canonical va = true →
      exec (.tlbinv g a) s = .next ((u.dropLeaf q va).pushStore r (.tlbinv (u.flying q (s.leavesAt q va))))) ∧
    (∀ a, canonical ((s.thread r).pair a).toNat = false → exec (.tlbinv g a) s = .next (u.fail r causeXlate)) ∧
    exec (.tlbinvAll g) s = .next (({ u with tlbs := s.tlbs.filter (fun e => e.part != q) } : State).pushStore r
      (.tlbinv (u.flying q ((s.tlbs.filter (fun e => e.part == q)).map (fun e => e.leaf)))))

/-- R205, R206, R211: range operations, FBAR and TLBINV. -/
def Obligations.CacheMaintenance : Prop := Claim.RangeMaintenance ∧ Claim.FetchBarrierAndTlb

/-- R207, R208, R209, R210: DOMSET and LAYDIVW give a nonzero status at once; a change that is accepted stands behind those accepted before,
and parks the thread until it is complete (the order of changes is the model's choice, log entry 28). DOMSET reads its record at issue, and waits
behind the thread's own unperformed store to it or an acquire (R180, R267; log entry 5). -/
def Obligations.PartitionChanges : Prop :=
  ∀ (s : State) (g : Guard) (r : Ref) (u : State) (w : Where) (d a : Reg), Runs s g r u →
    (s.trails r (locScratch r.1 ((s.thread r).reg a).toNat) 256 = true → exec (.domset g d a) s = .next (u.heldBack r)) ∧
    (∀ rcd, s.trails r (locScratch r.1 ((s.thread r).reg a).toNat) 256 = false →
      u.check r .core ((s.thread r).reg a).toNat 256 256 false false = .ok (w, u) →
      rcd = wordsOfBytes (s.readAt (s.coreOf r) w 256) →
      (s.domStatus rcd = 0 → exec (.domset g d a) s = .next (({ u with
        domNew := s.domNew ++ [(r.1, r.2, ((List.range 4).filter (domChg rcd)).map (fun q => (q, s.domAfter rcd q)))] } : State).parkAs r
          (.domset d))) ∧
      (s.domStatus rcd ≠ 0 → exec (.domset g d a) s = .next (u.put r d (BitVec.ofNat 32 (s.domStatus rcd))))) ∧
    (s.layStatus (s.partOf r) ((s.thread r).reg a) = 0 → exec (.laydivw g d a) s =
      .next ((u.updPart (s.partOf r) (fun p => { p with laydivNew := p.laydivNew ++ [(r.1, r.2, (s.thread r).reg a)] })).parkAs r (.laydivw d))) ∧
    (s.layStatus (s.partOf r) ((s.thread r).reg a) ≠ 0 → exec (.laydivw g d a) s =
      .next (u.put r d (BitVec.ofNat 32 (s.layStatus (s.partOf r) ((s.thread r).reg a)))))

/-- R204, R212, R213: PGMAP and PGUNMAP of a canonical address park their thread, and are performed once its earlier operations are. -/
def Claim.PageRequests : Prop :=
  ∀ (s : State) (g : Guard) (r : Ref) (u : State) (d a b c : Reg), Runs s g r u →
    (canonical ((s.thread r).pair a).toNat = true →
      exec (.pgmap g d a b c) s = .next (u.parkAs r (.pgmap d ((s.thread r).pair a) ((s.thread r).pair b) ((s.thread r).reg c))) ∧
      exec (.pgunmap g d a) s = .next (u.parkAs r (.pgunmap d ((s.thread r).pair a)))) ∧
    (canonical ((s.thread r).pair a).toNat = false →
      exec (.pgmap g d a b c) s = .next (u.fail r causeXlate) ∧ exec (.pgunmap g d a) s = .next (u.fail r causeXlate))

/-- R198, R211 to R213: what a parked PGMAP and PGUNMAP do. A refused PGMAP writes its status and nothing else; an accepted one writes its
entries as a device-scope release, begins the zeroing of its frame and gives status 0. PGUNMAP clears the valid bit of the entries of a mapped
leaf, drops it, and gives status 0 once the accesses in flight through it have been performed. -/
def Claim.PageMapping : Prop :=
  ∀ (s : State) (r : Ref) (d : Reg) (va pa : DWord) (attr : Word) (q z : Nat), s.arg.a = r.1 → s.arg.b = r.2 → s.mayWake (s.thread r) = true →
    q = s.partOf r → z = attr.toNat % 8 →
    ((s.thread r).park = .pgmap d va pa attr → (s.thread r).unperformed = false →
      (s.mapStatus q va.toNat pa.toNat attr ≠ 0 →
        exec .threadUnpark s = .next ((s.wake r).put r d (BitVec.ofNat 32 (s.mapStatus q va.toNat pa.toNat attr)))) ∧
      (s.mapStatus q va.toNat pa.toNat attr = 0 → ∃ e v, s.entryTo q (va.toNat % 2 ^ 57) (pgLevel z) (s.part q).root 0 5 = some e ∧
        v = (List.range (pgCount z)).foldl (fun x k => x.writeEntry q (e.table + 8 * (e.idx / pgCount z * pgCount z + k))
          (pa.toNat + k * pgUnit z + (3 + attr.toNat / 8 % 2 * 8 + attr.toNat / 16 % 2 * 16 + if pgCount z = 16 then 32 else 0)))
          ((s.wake r).release r .dev) ∧
        exec .threadUnpark s = .next (({ v with zeroing := v.zeroing ++ [(pa.toNat, pgSize z)] } : State).put r d 0))) ∧
    ((s.thread r).park = .pgunmap d va → (s.thread r).unperformed = false →
      (s.entryTo q (va.toNat % 2 ^ 57) 4 (s.part q).root 0 5 = none → exec .threadUnpark s = .next ((s.wake r).put r d 1)) ∧
      (∀ e, s.entryTo q (va.toNat % 2 ^ 57) 4 (s.part q).root 0 5 = some e → e.bits % 2 = 0 ∨ e.bits / 2 % 2 = 0 ∨ e.level < 2 →
        exec .threadUnpark s = .next ((s.wake r).put r d 1)) ∧
      (∀ e n, s.entryTo q (va.toNat % 2 ^ 57) 4 (s.part q).root 0 5 = some e → e.bits % 2 = 1 → e.bits / 2 % 2 = 1 → 2 ≤ e.level →
        n = (if e.bits / 32 % 2 = 1 ∧ e.level ≠ 2 then 16 else 1) →
        exec .threadUnpark s = .next ((((List.range n).foldl (fun x k =>
            if x.entryAt (e.table + 8 * (e.idx / n * n + k)) % 2 = 1 then
              x.writeEntry q (e.table + 8 * (e.idx / n * n + k)) (x.entryAt (e.table + 8 * (e.idx / n * n + k)) - 1)
            else x) (s.release r .dev)).dropLeaf q va.toNat).upd r
          (fun t => { t with park := .pgunmapped d (s.flying q (s.leavesAt q va.toNat)) })))) ∧
    (∀ ws, (s.thread r).park = .pgunmapped d ws → s.flown ws = true → exec .threadUnpark s = .next ((s.wake r).put r d 0))

/-- R214: the page queries give the leaf of an address, whether its page is being zeroed, and the root of the tables; an address that is
not canonical raises XLATE. -/
def Claim.PageQueries : Prop :=
  ∀ (s : State) (g : Guard) (r : Ref) (u : State) (d a : Reg), Runs s g r u →
    (canonical ((s.thread r).pair a).toNat = true →
      exec (.pgqPte g d a) s = .next (u.pushLoad r (.value d
        [lo32 (s.pte (s.partOf r) (s.coreOf r) ((s.thread r).pair a).toNat), hi32 (s.pte (s.partOf r) (s.coreOf r) ((s.thread r).pair a).toNat)])) ∧
      exec (.pgqZero g d a) s = .next (u.pushLoad r (.value d
        [if s.isZeroing (s.partOf r) (s.coreOf r) ((s.thread r).pair a).toNat = true then 1 else 0, 0]))) ∧
    (canonical ((s.thread r).pair a).toNat = false →
      exec (.pgqPte g d a) s = .next (u.fail r causeXlate) ∧ exec (.pgqZero g d a) s = .next (u.fail r causeXlate)) ∧
    exec (.pgqRoot g d) s = .next (u.pushLoad r (.value d
      [BitVec.ofNat 32 (s.part (s.partOf r)).root, BitVec.ofNat 32 ((s.part (s.partOf r)).root / 2 ^ 32)]))

/-- R198, R212 to R214: mapping, unmapping and page queries. -/
def Obligations.Pages : Prop := Claim.PageRequests ∧ Claim.PageMapping ∧ Claim.PageQueries

/-! ### Operand-buffer ranges (06) and stream engines (10) -/

/-- R139 to R141, R151, R152: OBRES reads its record, and at status 0 reserves the range and clears its bytes; OBREL frees a range that the
group owns and no command holds. OBRES waits behind the thread's own unperformed store to its record or an acquire (R180, R267; log entry 5). -/
def Claim.RangeReservation : Prop :=
  ∀ (s : State) (g : Guard) (r : Ref) (u v : State) (w : Where) (d a : Reg) (n : BitVec 5) (rcd : List Word), Runs s g r u →
    (s.trails r (locScratch r.1 ((s.thread r).reg a).toNat) 32 = true → exec (.obres g d a n) s = .next (u.heldBack r)) ∧
    (s.trails r (locScratch r.1 ((s.thread r).reg a).toNat) 32 = false →
      u.check r .core ((s.thread r).reg a).toNat 32 32 false false = .ok (w, u) → rcd = wordsOfBytes (s.readAt (s.coreOf r) w 32) →
      v = u.pushLoad r (.value d [BitVec.ofNat 32 ((s.ctxOf r).obresStatus n.toNat rcd)]) →
      ((s.ctxOf r).obresStatus n.toNat rcd ≠ 0 → exec (.obres g d a n) s = .next v) ∧
      ((s.ctxOf r).obresStatus n.toNat rcd = 0 → exec (.obres g d a n) s =
        .next { v.updCtxOf r (fun c => { c with ranges := c.ranges ++ [{ n := n.toNat, owner := r.1, rcd := rcd }] }) with
          mem := s.mem.clear (locObuf (s.coreOf r) (s.partOf r) (recBase rcd)) (recSize rcd) })) ∧
    (∀ q, (s.ctxOf r).range n.toNat = some q → q.owner = r.1 → s.heldRange r.1 n.toNat false = false →
      exec (.obrel g d n) s =
        .next ((u.updCtxOf r (fun c => { c with ranges := c.ranges.filter (fun q => q.n != n.toNat) })).put r d 0)) ∧
    ((s.ctxOf r).range n.toNat = none → exec (.obrel g d n) s = .next (u.put r d 6))

/-- R153: OBWR and OBRD access one aligned word of a range that the group owns, that no command holds and no lock covers. -/
def Claim.RangeWords : Prop :=
  ∀ (s : State) (g : Guard) (r : Ref) (u : State) (b : Src) (n : BitVec 5) (q : ObRange) (off : Nat), Runs s g r u →
    off = (s.val32 (s.thread r) b).toNat → off % 4 = 0 → (s.ctxOf r).range n.toNat = some q → q.owner = r.1 → off < recSize q.rcd →
    s.locks = [] →
    (∀ a, s.heldRange r.1 n.toNat false = false → exec (.obwr g a b n) s = .next (({ u with
      mem := s.mem.writeN (locObuf (s.coreOf r) (s.partOf r) (recBase q.rcd + off)) (bytesOfWord ((s.thread r).reg a)) } : State).pushStore r
        (.store .cor none))) ∧
    (∀ d, s.heldRange r.1 n.toNat true = false → exec (.obrd g d b n) s = .next (u.pushLoad r (.value d
      [BitVec.ofNat 32 (ofBytes (s.mem.readN (locObuf (s.coreOf r) (s.partOf r) (recBase q.rcd + off)) 4))])))

/-- R139 to R141, R151 to R153: ranges and their words. -/
def Obligations.OperandBufferRanges : Prop := Claim.RangeReservation ∧ Claim.RangeWords

/-- R216, R220, R222, R225, R234: CPY of ranges that exist and do not overlap registers its lock entry with its tag when nothing that is
registered clashes, and holds its thread otherwise; of length 0 it completes on its tag at once (that its ranges exist is then not asked, log
entry 16). CPYT registers in the same way. Both wait at the instruction for the thread's earlier operations to be performed first (R234, R272;
log entry 5). -/
def Claim.CopiesRegister : Prop :=
  ∀ (s : State) (g : Guard) (r : Ref) (u v : State) (dsp ssp : ESpace) (sc : Scope) (tag : BitVec 6) (a : Reg) (b : Src) (src dst : Rng)
      (op : LockOp) (len : Nat), Runs s g r u →
    (s.owes r = true → exec (.cpy g dsp ssp sc tag a b) s = .next (u.heldBack r) ∧ exec (.cpyt g sc tag a b) s = .next (u.heldBack r)) ∧
    (s.owes r = false → len = (s.val32 (s.thread r) b).toNat → dst = s.engRng r.1 dsp (spAddr dsp ((s.thread r).pair a)) len →
      src = s.engRng r.1 ssp (spAddr ssp ((s.thread r).pair (a + 2))) len →
      rngCanonical src = true → rngCanonical dst = true → s.rngBound r.1 src = true → s.rngBound r.1 dst = true →
      (len = 0 → exec (.cpy g dsp ssp sc tag a b) s = .next (u.updCtxOf r (fun c => (c.issueTag tag.toNat).completeTag tag.toNat))) ∧
      (len ≠ 0 → src.overlaps dst = false → op = { u.newOp r tag.toNat sc .copy [src] [dst] len with id := s.serial } →
        (u.bump.lockReady s.regQueue op = true →
          exec (.cpy g dsp ssp sc tag a b) s = .next ((u.bump.lockAdd op).updCtx op.core op.part (fun c => c.issueTag tag.toNat))) ∧
        (u.bump.lockReady s.regQueue op = false →
          exec (.cpy g dsp ssp sc tag a b) s = .next (({ u.bump with regQueue := s.regQueue ++ [op] } : State).parkAs r (.lockReg false))))) ∧
    (∀ wd ws dr sr fd fs, s.owes r = false → u.check r .core ((s.thread r).reg a).toNat 128 128 false false = .ok (wd, u) →
      u.check r .core (s.val32 (s.thread r) b).toNat 128 128 false false = .ok (ws, u) →
      dr = wordsOfBytes (s.readAt (s.coreOf r) wd 128) → sr = wordsOfBytes (s.readAt (s.coreOf r) ws 128) →
      tenEngine dr = some (fd, dsp) → tenEngine sr = some (fs, ssp) → tenAgree dr sr fd fs = true →
      v = u.copyIssue r tag.toNat sc (.copyT dr sr)
        (match tenRange sr fs ssp noBoxes with | some (lo, n) => [s.engRng r.1 ssp lo n] | none => [])
        (match tenRange dr fd dsp noBoxes with | some (lo, n) => [s.engRng r.1 dsp lo n] | none => [])
        (tenBoxSize dr * (EFmt.width fd / 8)) →
      exec (.cpyt g sc tag a b) s = .next v)

/-- R225, R228, R231, R236: SEBIND at status 0 gives each header the number of its box, binds the engine to the group, and issues on its tag,
or waits for the tag's count; it waits at the instruction for the thread's earlier operations first (R272; log entry 5). SEFREE of an engine with
nothing in flight unbinds it, and waits for what is; one that the group does not own raises ACCESS (log entry 26). -/
def Claim.EngineBinding : Prop :=
  ∀ (s : State) (g : Guard) (r : Ref) (u : State) (sc : Scope) (e : Bool) (d : Reg), Runs s g r u →
    (∀ drain (tag : BitVec 6) a b, s.owes r = true → exec (.sebind g drain sc e tag d a b) s = .next (u.heldBack r)) ∧
    (∀ drain (tag : BitVec 6) a b wr wt ring ten x, s.owes r = false → u.check r .core ((s.thread r).reg a).toNat 32 32 false false = .ok (wr, u) →
      u.check r .core (s.val32 (s.thread r) b).toNat 128 128 false false = .ok (wt, u) →
      ring = wordsOfBytes (s.readAt (s.coreOf r) wr 32) → ten = wordsOfBytes (s.readAt (s.coreOf r) wt 128) →
      x = ({ gid := r.1, tid := r.2, drain := drain, scope := sc, tag := tag.toNat, ring := ring, tensor := ten,
             total := ringBoxes ring (tenNdim ten), next := 0, finished := 0, freeing := false } : SeBind) →
      (u.bindStatus r e ring ten ≠ 0 → exec (.sebind g drain sc e tag d a b) s = .next (u.put r d (BitVec.ofNat 32 (u.bindStatus r e ring ten)))) ∧
      (u.bindStatus r e ring ten = 0 → (s.ctxOf r).tagCnt.getD tag.toNat 0 < 65535 →
        exec (.sebind g drain sc e tag d a b) s =
          .next ((((List.range (ringNslot ring)).foldl (fun y k => y.setHead x k (BitVec.ofNat 32 k) false) u).updCtxOf r
            (fun c => (c.setEng e (some x)).issueTag tag.toNat)).put r d 0)) ∧
      (u.bindStatus r e ring ten = 0 → 65535 ≤ (s.ctxOf r).tagCnt.getD tag.toNat 0 →
        exec (.sebind g drain sc e tag d a b) s = .next (u.parkAs r (.tagFull tag.toNat)))) ∧
    (∀ b, s.myEng r e = some b → s.boxesOut (s.coreOf r) (s.partOf r) e = 0 → s.regQueue = [] →
      exec (.sefree g e d) s = .next ((u.unbind (s.coreOf r) (s.partOf r) e).put r d (BitVec.ofNat 32 b.finished))) ∧
    (∀ b, s.myEng r e = some b → s.boxesOut (s.coreOf r) (s.partOf r) e ≠ 0 → s.regQueue = [] →
      exec (.sefree g e d) s = .next ((u.updCtxOf r (fun c => c.setEng e (some { b with freeing := true }))).parkAs r (.sefree e d))) ∧
    (s.myEng r e = none → exec (.sefree g e d) s = .next (u.fail r causeAccess))

/-- R231, R236: SLOTW gives the address of a slot whose header says that the threads own its box, and waits for one that does not say so
yet; SLOTREL, a release, passes it back to the engine; it waits at the instruction for the thread's earlier operations first (R265; log entry
5). -/
def Claim.EngineSlots : Prop :=
  ∀ (s : State) (g : Guard) (r : Ref) (u : State) (e : Bool) (b : Src) (x : SeBind) (j : Nat), Runs s g r u →
    j = (s.val32 (s.thread r) b).toNat → s.myEng r e = some x → j < x.boxes →
    (∀ d, (s.slotMine x j = true →
        exec (.slotw g e d b) s = .next (u.put r d (BitVec.ofNat 32 (ringPbase x.ring + j % ringNslot x.ring * ringSstr x.ring)))) ∧
      (s.slotMine x j = false → exec (.slotw g e d b) s = .next (u.parkAs r (.slotw e j d)))) ∧
    (∀ v, s.slotMine x j = true → s.owes r = false → v = u.release r (if ringCm x.ring then .clu else .cor) →
      exec (.slotrel g e b) s = .next (if x.drain then v.setHead x (j % ringNslot x.ring) (BitVec.ofNat 32 j) true
        else v.setHead x (j % ringNslot x.ring) (BitVec.ofNat 32 (j + ringNslot x.ring)) false)) ∧
    (s.owes r = true → exec (.slotrel g e b) s = .next (u.heldBack r)) ∧
    (s.slotMine x j = false → s.owes r = false → exec (.slotrel g e b) s = .next (u.fail r causeAccess))

/-- R228, R231, R236: binding an engine, and its slots. -/
def Obligations.StreamEngines : Prop := Claim.EngineBinding ∧ Claim.EngineSlots

/-- R237: the tag and lock queries. -/
def Claim.TagsAndLockQueries : Prop :=
  ∀ (s : State) (g : Guard) (r : Ref) (u : State) (d : Reg) (b : Src) (tags m : DWord), Runs s g r u → tags = (s.ctxOf r).ctag →
    m = s.val64 (s.thread r) b →
    (tags &&& m = m → exec (.tagwait g true d b) s = .next (u.put64 r d m)) ∧
    (tags &&& m ≠ m → exec (.tagwait g true d b) s = .next (u.parkAs r (.tag true m d))) ∧
    (tags &&& m ≠ 0 → exec (.tagwait g false d b) s = .next (u.put64 r d (tags &&& m))) ∧
    (tags &&& m = 0 → exec (.tagwait g false d b) s = .next (u.parkAs r (.tag false m d))) ∧
    exec (.tagff g false d b) s = .next (u.put r d (BitVec.ofNat 32 (lowestBit (tags &&& m)))) ∧
    (tags &&& m ≠ 0 → exec (.tagff g true d b) s = .next ((u.put r d (BitVec.ofNat 32 (lowestBit (tags &&& m)))).updCtxOf r
      (fun c => { c with ctag := c.ctag &&& ~~~(BitVec.ofNat 64 (2 ^ lowestBit (tags &&& m))) }))) ∧
    exec (.tagclr g b) s = .next (u.updCtxOf r (fun c => { c with ctag := c.ctag &&& ~~~m })) ∧
    exec (.lockqFree g d) s = .next (u.put r d (BitVec.ofNat 32 (256 - s.lockCount (s.dieOf r)))) ∧
    exec (.lockqErr g d b) s = .next ((u.updCtxOf r (fun c => { c with tagErr := c.tagErr &&& ~~~m })).put64 r d ((s.ctxOf r).tagErr &&& m)) ∧
    (∀ sp a, s.locks = [] → exec (.lockqAddr g sp d a b) s = .next (u.put r d 0))

/-- R216, R220, R222, R225, R234, R237: copies, and the tag and lock queries. -/
def Obligations.CopiesTagsAndLocks : Prop := Claim.CopiesRegister ∧ Claim.TagsAndLockQueries

/-! ### Atomics and barriers (11) -/

/-- R239, R244: an atomic whose address passes the checks is counted with its operands and its bundle's number until it is performed: in lc
with the register that its old value reaches, and RED in sc with none. -/
def Obligations.AtomicsIssue : Prop :=
  ∀ (s : State) (g : Guard) (r : Ref) (u v : State) (w : Where) (sp : Space) (o : AOrd) (a : Reg) (b : Src), Runs s.bump g r u →
    u.check r sp (u.atomEa r sp a) (if o.x64 then 8 else 4) (if o.x64 then 8 else 4) true false = .ok (w, v) →
    (∀ op d, exec (.atom g op sp o d a b) s =
      .next (v.pushLoad r (.atomic d (AOrd.request o s.serial (.int op) false (u.srcW r o.x64 b) 0 w.loc)))) ∧
    (∀ d, exec (.cas g sp o d a b) s =
      .next (v.pushLoad r (.atomic d (AOrd.request o s.serial (.int .exch) true (u.srcW r o.x64 b) (u.rdW r o.x64 d) w.loc)))) ∧
    (∀ op d, exec (.atomf g op sp o d a b) s =
      .next (v.pushLoad r (.atomic d (AOrd.request o s.serial (.flt op) false (u.srcAF r op b) 0 w.loc)))) ∧
    (∀ op, exec (.red g op sp o a b) s =
      .next (v.pushStore r (.red (AOrd.request o s.serial op false (v.srcRed r o.x64 op b) 0 w.loc))))

/-- R248, R249: what an integer atomic leaves in a location of n bytes that holds `old`: the values wrap at the width, the signed forms
compare as signed numbers of that width, INCW counts up to its operand and starts over, and CAS writes only where it compared equal. -/
def Obligations.AtomicOperations : Prop :=
  ∀ (a : AtomReq) (old : Nat), (a.n = 4 ∨ a.n = 8) → old < 2 ^ (8 * a.n) → a.opnd.toNat < 2 ^ (8 * a.n) → a.new.toNat < 2 ^ (8 * a.n) →
    (a.cas = true → (old = a.opnd.toNat → a.after old = some a.new.toNat) ∧ (old ≠ a.opnd.toNat → a.after old = none)) ∧
    (a.cas = false →
      (a.op = .int .add → a.after old = some ((old + a.opnd.toNat) % 2 ^ (8 * a.n))) ∧
      (a.op = .int .exch → a.after old = some a.opnd.toNat) ∧
      (a.op = .int .and → a.after old = some (old &&& a.opnd.toNat)) ∧ (a.op = .int .or → a.after old = some (old ||| a.opnd.toNat)) ∧
      (a.op = .int .xor → a.after old = some (old ^^^ a.opnd.toNat)) ∧
      (a.op = .int .minN → a.after old = some (min old a.opnd.toNat)) ∧ (a.op = .int .maxN → a.after old = some (max old a.opnd.toNat)) ∧
      (a.op = .int .minI →
        (a.n = 4 → a.after old = some (if (BitVec.ofNat 32 old).toInt ≤ (a.opnd.setWidth 32).toInt then old else a.opnd.toNat)) ∧
        (a.n = 8 → a.after old = some (if (BitVec.ofNat 64 old).toInt ≤ a.opnd.toInt then old else a.opnd.toNat))) ∧
      (a.op = .int .maxI →
        (a.n = 4 → a.after old = some (if (BitVec.ofNat 32 old).toInt ≤ (a.opnd.setWidth 32).toInt then a.opnd.toNat else old)) ∧
        (a.n = 8 → a.after old = some (if (BitVec.ofNat 64 old).toInt ≤ a.opnd.toInt then a.opnd.toNat else old))) ∧
      (a.op = .int .incw → a.after old = some (if a.opnd.toNat ≤ old then 0 else old + 1))) ∧
    (∀ x, a.after old = some x → (∀ f, a.op = .flt f → a.cas = true) → x < 2 ^ (8 * a.n))

/-- R252, R253, R256, R260: BINIT claims a free barrier for the thread's party, or gives the status that keeps it from doing so; BQRY reads
the barrier, and a free one with owner, expected and arrived count 0. Behind the thread's own pending operations on that barrier each is performed
when it completes (R253). The phase of a free barrier, and a barrier that the core has not, read as free values (the model's choice, log entry 10). -/
def Claim.BarrierSetup : Prop :=
  ∀ (s : State) (g : Guard) (r : Ref) (u : State) (clu : Bool) (n : BitVec 6) (d : Reg) (b : Src) (e : Nat), Runs s g r u →
    e = (s.val32 (s.thread r) b).toNat →
    ((s.thread r).barLeft clu n.toNat = false →
      (s.binitStatus r clu n.toNat e ≠ 0 →
        exec (.binit g clu n d b) s = .next (u.pushLoad r (.value d [BitVec.ofNat 32 (s.binitStatus r clu n.toNat e)]))) ∧
      (s.binitStatus r clu n.toNat e = 0 → s.barOf r clu n.toNat = none →
        exec (.binit g clu n d b) s = .next ((u.pushLoad r (.value d [0])).addBar r clu
          { n := n.toNat, owner := (s.party r.1 clu).getD 0, exp := e, cnt := 0, ph := false })) ∧
      (∀ x, s.binitStatus r clu n.toNat e = 0 → s.barOf r clu n.toNat = some x →
        exec (.binit g clu n d b) s = .next ((u.pushLoad r (.value d [0])).setBar r clu { x with exp := e })) ∧
      (∀ x, barPresent (s.coreOf r) clu n.toNat = true → s.barOf r clu n.toNat = some x →
        exec (.bqry g clu n d) s = .next (u.pushLoad r (.value d [x.word (s.party r.1 clu == some x.owner)]))) ∧
      (barPresent (s.coreOf r) clu n.toNat = true → s.barOf r clu n.toNat = none →
        ∃ w : Word, exec (.bqry g clu n d) s = .next (u.drawn.pushLoad r (.value d [w])) ∧ w &&& 0x7FFFFFFF = 0) ∧
      (barPresent (s.coreOf r) clu n.toNat = false → ∃ w, exec (.bqry g clu n d) s = .next (u.drawn.pushLoad r (.value d [w])))) ∧
    ((s.thread r).barLeft clu n.toNat = true →
      exec (.binit g clu n d b) s = .next (u.pushLoad r (.binit d clu n.toNat e)) ∧
      exec (.bqry g clu n d) s = .next (u.pushLoad r (.bqry d clu n.toNat)))

/-- R253, R254, R257, R258: BARV counts an arrival that gives its token to vD, BSYNC one on which the thread waits; BWAIT goes on where the
phase has flipped past the token and waits where it has not; behind the thread's own pending operations on the barrier it takes its token later
(R253). A barrier that the party
does not own raises BARERR. -/
def Claim.BarrierArrivals : Prop :=
  (∀ (s : State) (g : Guard) (r : Ref) (u : State) (clu : Bool) (n : BitVec 6), Runs s.bump g r u →
    (∀ x, s.myBar r clu n.toNat = some x →
      (∀ d, exec (.barv g clu n d) s = .next (u.pushStore r (.arrive s.serial clu n.toNat false (some d)))) ∧
      exec (.bsync g clu n) s = .next ((u.pushStore r (.arrive s.serial clu n.toNat true none)).parkAs r (.barArrive clu n.toNat))) ∧
    (s.myBar r clu n.toNat = none →
      (∀ d, exec (.barv g clu n d) s = .next (u.fail r causeBarerr)) ∧ exec (.bsync g clu n) s = .next (u.fail r causeBarerr))) ∧
  (∀ (s : State) (g : Guard) (r : Ref) (u : State) (clu : Bool) (n : BitVec 6) (a : Reg) (tok : Bool), Runs s g r u →
    tok = ((s.thread r).reg a).getLsbD 0 →
    (∀ x, s.myBar r clu n.toNat = some x →
      ((s.thread r).barLeft clu n.toNat = false → x.ph ≠ tok → exec (.bwait g clu n a) s = .next u) ∧
      ((s.thread r).barLeft clu n.toNat = false → x.ph = tok → exec (.bwait g clu n a) s = .next (u.parkAs r (.bar clu n.toNat))) ∧
      ((s.thread r).barLeft clu n.toNat = true → exec (.bwait g clu n a) s = .next (u.parkAs r (.barSoon clu n.toNat a)))) ∧
    (s.myBar r clu n.toNat = none → exec (.bwait g clu n a) s = .next (u.fail r causeBarerr)))

/-- R252 to R260: setup, arrivals and waits. -/
def Obligations.Barriers : Prop := Claim.BarrierSetup ∧ Claim.BarrierArrivals

/-! ### Fences (12) -/

/-- R20, R276, R282 to R286: a fence first makes the core's writes visible at its scope; it goes on where what it waits for has come, `.acq` where
the thread's earlier loads have read, the others where all that is counted has completed and no write of theirs is held by a repair, and parks
where not. -/
def Obligations.Fences : Prop :=
  ∀ (s : State) (g : Guard) (r : Ref) (u : State) (sc : Scope), Runs s g r u →
    ((∀ o ∈ (s.thread r).loads, LoadOp.unperformed o = false) → exec (.fence g .acq sc) s = .next (u.release r sc)) ∧
    ((∃ o ∈ (s.thread r).loads, LoadOp.unperformed o = true) → exec (.fence g .acq sc) s = .next ((u.release r sc).parkAs r (.fence .acq sc))) ∧
    (∀ k, (s.thread r).loads = [] → (s.thread r).stores = [] → sc.num < 4 ∨ s.repair = [] →
      exec (.fence g k sc) s = .next (u.release r sc)) ∧
    (∀ k, k ≠ .acq → (s.thread r).loads ≠ [] ∨ (s.thread r).stores ≠ [] →
      exec (.fence g k sc) s = .next ((u.release r sc).parkAs r (.fence k sc))) ∧
    ((∀ o ∈ (s.thread r).loads, LoadOp.toLayer o = false) → (∀ o ∈ (s.thread r).stores, StoreOp.toLayer o = false) → s.repair = [] →
      exec (.lfence g) s = .next (u.writeBack (s.partOf r) (s.coreOf r) 0x1000000000000 0x1000100000000)) ∧
    ((∃ o ∈ (s.thread r).loads, LoadOp.toLayer o = true) ∨ (∃ o ∈ (s.thread r).stores, StoreOp.toLayer o = true) →
      exec (.lfence g) s = .next ((u.writeBack (s.partOf r) (s.coreOf r) 0x1000000000000 0x1000100000000).parkAs r .lfence)) ∧
    (∀ b mask n, n = (s.val32 (s.thread r) b).toNat → n < 128 → (s.part (s.partOf r)).clusters.getLsbD (n / 8) = true →
      (s.buffered = [] → s.repair = [] → exec (.lfenceArray g b mask) s = .next u) ∧
      ((arrayBufs n mask).filter (fun x => !(s.gated.contains (bufEngine x)) && (s.buffered.contains x || s.bufRepair x)) ≠ [] →
        exec (.lfenceArray g b mask) s = .next (u.parkAs r (.lfenceArray
          ((arrayBufs n mask).filter (fun x => !(s.gated.contains (bufEngine x)) && (s.buffered.contains x || s.bufRepair x))))))) ∧
    ((s.thread r).loads = [] → (s.thread r).stores = [] → s.ccOf r = 0 → sc.num < 4 ∨ s.repair = [] →
      exec (.efence g false sc) s = .next (u.release r sc) ∧ (s.tcOf r.1 = 0 → exec (.efence g true sc) s = .next (u.release r sc))) ∧
    (∀ mx, s.ccOf r ≠ 0 → exec (.efence g mx sc) s = .next (u.parkAs r (.efence mx sc)))

/-! ### Matrix streams, the ladder and recurrences (13, 14, 15) -/

/-- R298, R299, R306: MXRUN at status 0 starts a stream on the lowest free run of tiles, whose accumulators it clears; a nonzero status is all
that it writes otherwise; with four streams running its thread waits, and, as a release at core scope (R306), it is held at the instruction while its
thread's earlier operations are not performed (log entry 5). MXQ reads the stream's counters, and 0 where none has run. -/
def Claim.StreamStart : Prop :=
  ∀ (s : State) (g : Guard) (r : Ref) (u : State) (d a : Reg) (b : Src) (at_ : DWord) (n : Nat), Runs s g r u →
    at_ = (s.thread r).pair a → n = (s.val32 (s.thread r) b).toNat →
    (s.owes r = true → exec (.mxrun g d a b) s = .next (u.heldBack r)) ∧
    (s.owes r = false →
      ((s.streamsOn (s.coreOf r) (s.partOf r)).length < 4 →
        (∀ base, s.mxrunStatus r.1 at_ n = (0, base) → exec (.mxrun g d a b) s = .next
          { (u.put r d 0).updGroup r.1 (fun x => { x with stream := some (Stream.start r.2 at_ n base) }) with
            mem := s.mem.clear (locAcc (s.coreOf r) (s.partOf r) (base * 2048)) (n * 2048) }) ∧
        (∀ st base, st ≠ 0 → s.mxrunStatus r.1 at_ n = (st, base) → exec (.mxrun g d a b) s = .next (u.put r d (BitVec.ofNat 32 st)))) ∧
      (4 ≤ (s.streamsOn (s.coreOf r) (s.partOf r)).length → exec (.mxrun g d a b) s = .next (u.parkAs r (.mxrun d at_ n)))) ∧
    (s.streamOf r.1 = none → exec (.mxq g d) s = .next (u.put r d 0)) ∧
    (∀ m, s.streamOf r.1 = some m → exec (.mxq g d) s = .next (u.put r d m.word))

/-- R300 to R305, R317, R331: a stream command whose checks pass has its effect on the stream's planes, accumulators, ranges or scratch
memory, and enters its rows from then on. That the whole effect comes at issue, before its rows, is log entry 26. -/
def Obligations.StreamCommands : Prop :=
  ∀ (s : State) (g idx : Nat) (m : Stream) (k : Cmd), s.command = some (g, idx) → s.streamOf g = some m →
    (∀ bank fmt sk bl (off : BitVec 22), s.mldwCheck g idx m bank fmt sk bl off.toNat = true →
      exec (.mldw k bank fmt sk bl off) s = .next ((s.mldw g idx m bank fmt sk bl off.toNat).entering g idx 0)) ∧
    exec (.mswap k) s = .next ((s.updStream g (fun x => { x with active := x.shadow, shadow := x.active })).entering g idx 0) ∧
    (∀ t n row0 (c : BitVec 10), s.mstrBad g m t n.toNat row0.toNat (c.toNat + 1) = false →
      exec (.mstr k false t n row0 c) s = .next ((s.mstrRows g m t n.toNat row0.toNat (c.toNat + 1)).entering g idx (c.toNat + 1)) ∧
      (s.ladBad g m n.toNat = false → exec (.mstr k true t n row0 c) s = .next ((s.updStream g (fun x => x.updCmd idx
        (fun y => { y with prog := some { tile := 0, rung := 0, topped := false } }))).entering g idx (Nat.min 16 (c.toNat + 1))))) ∧
    (∀ (t : BitVec 7) (c : BitVec 10), 16 * t.toNat + c.toNat + 1 ≤ 16 * m.tiles →
      exec (.mzero k t c) s = .next (({ s with
        mem := s.mem.clear ((s.allotOf g m).loc (16 * t.toNat) 0) (128 * (c.toNat + 1)) } : State).entering g idx (c.toNat + 1)) ∧
      (∀ off : BitVec 11, 128 * (off.toNat + c.toNat + 1) ≤ hdrScratch (s.group g).hdr →
        exec (.maccld k t off c) s = .next (({ s with
          mem := s.mem.writeN ((s.allotOf g m).loc (16 * t.toNat) 0)
            (s.mem.readN (locScratch g (128 * off.toNat)) (128 * (c.toNat + 1))) } : State).entering g idx (c.toNat + 1)) ∧
        exec (.maccst k t off c) s = .next (({ s with
          mem := s.mem.writeN (locScratch g (128 * off.toNat))
            (s.mem.readN ((s.allotOf g m).loc (16 * t.toNat) 0) (128 * (c.toNat + 1))) } : State).entering g idx (c.toNat + 1)))) ∧
    (∀ fn t p n orow (c : BitVec 10), s.mepiBad g m t p n.toNat orow.toNat (c.toNat + 1) = false →
      exec (.mepi k fn t p n orow c) s = .next ((s.mepi g m fn t p n.toNat orow.toNat (c.toNat + 1)).entering g idx (c.toNat + 1))) ∧
    (∀ all (n : BitVec 6) x, s.myBar (g, 0) false n.toNat = some x →
      exec (.mbar k all n) s = .next ((s.tickBar (g, 0) false n.toNat x).entering g idx 0) ∧
      exec (.mwaitb k all n) s = .next (s.entering g idx 0)) ∧
    exec (.mend k) s = .next (s.entering g idx 0) ∧
    (∀ ts tu tc cb wr wd, exec (.mlad k ts tu tc cb wr wd) s = .next ((s.updStream g (fun x => { x with
      ladTs := ts.toNat, ladTu := tu.toNat, ladTc := tc.toNat, ladCb := cb.toNat, ladWr := wr.toNat, ladDelta := wd.toNat })).entering g idx 0)) ∧
    (∀ rst th ta tb tc (c : BitVec 10), State.mscanBad m th ta tb tc (c.toNat + 1) = false →
      exec (.mscan k rst th ta tb tc c) s =
        .next ((s.mscan (s.allotOf g m) rst th.toNat ta.toNat tb.toNat tc.toNat (c.toNat + 1)).entering g idx (c.toNat + 1)))

/-- R295: a command whose check fails faults its stream with ACCESS and its identifier, MZERO beyond the allotment among them. -/
def Claim.StreamFaults : Prop :=
  ∀ (s : State) (g idx : Nat) (m : Stream) (k : Cmd), s.command = some (g, idx) → s.streamOf g = some m →
    (∀ (t : BitVec 7) (c : BitVec 10), 16 * m.tiles < 16 * t.toNat + c.toNat + 1 →
      exec (.mzero k t c) s = .next (s.streamFault g causeAccess k.id.toNat)) ∧
    (∀ all (n : BitVec 6), s.myBar (g, 0) false n.toNat = none → exec (.mbar k all n) s = .next (s.streamFault g causeBarerr k.id.toNat)) ∧
    (∀ x, (s.streamFault g causeAccess k.id.toNat).streamOf g = some x →
      x.fault = some k.id.toNat ∧ x.window = m.window.filter (fun c => c.issued))

/-- R295, R298, R299: starting a stream, reading it, and how it faults. -/
def Obligations.MatrixStreams : Prop := Claim.StreamStart ∧ Claim.StreamFaults

/-- R324: the ladder counters are read, and cleared by a mask. R330: a carry slot is read and written. R332: STEPK writes the new pair with
its flags. -/
def Claim.CountersCarriesAndSteps : Prop :=
  (∀ (s : State) (g : Guard) (r : Ref) (u : State), Runs s g r u →
    (∀ d (sel : BitVec 3), exec (.ladcnt g d sel) s = .next (u.put64 r d (BitVec.ofNat 64 ((s.ctxOf r).ladder.getD sel.toNat 0)))) ∧
    (∀ b, exec (.ladclr g b) s = .next (u.updCtxOf r (fun c => { c with
      ladder := c.ladder.zipIdx.map (fun p => if (s.val32 (s.thread r) b).getLsbD p.2 then 0 else p.1) }))) ∧
    (∀ slot d, exec (.carryGet g slot d) s = .next (u.put r d ((s.waveOf r).carry.getD slot.toNat 0))) ∧
    (∀ slot b, exec (.carrySet g slot b) s =
      .next (u.updWaveOf r (fun x => { x with carry := x.carry.set slot.toNat (s.val32 (s.thread r) b) })))) ∧
  (∀ g ftz d a b, Floatwise (.stepk g ftz d a b) g (fun s t =>
    let z := stepkF ftz (t.reg d) (t.reg (d + 1)) (t.reg a) (s.valF t b)
    ((t.setReg d z.1).setReg (d + 1) z.2.1, z.2.2)))

/-- R328: as a formed meeting of its wave, SCAN gives each guard-true thread the result of its prefix with its flags, and the slot takes the
result of the voter of the highest lane. A prefix that R167 leaves empty gives a free value (log entry 10). -/
def Claim.ScanMeets : Prop :=
  ∀ (s : State) (g : Guard) (ftz : Bool) (rst : Option (BitVec 3)) (slot : BitVec 3) (d a : Reg) (b : Src) (l : Ref), Meeting s →
    s.lastVoter g = some l →
    ∃ t, exec (.scan g ftz rst slot d a b) s = .next t ∧ t.mem = s.mem ∧
      (∀ r ∈ s.bnd.refs, guardHolds g (s.thread r) = true →
        t.thread r = (({ s.thread r with pc := s.bnd.npc, meet := none, formed := none } : Thread).setReg d (s.scanOf g ftz rst slot.toNat a b r).1).flags
          (s.scanOf g ftz rst slot.toNat a b r).2) ∧
      (∀ r ∈ s.bnd.refs, guardHolds g (s.thread r) = false → t.thread r = { s.thread r with pc := s.bnd.npc, meet := none, formed := none }) ∧
      (∀ w ∈ t.waves, w.gid = l.1 → w.wid = s.widOf l → slot.toNat < w.carry.length →
        w.carry.getD slot.toNat 0 = (s.scanOf g ftz rst slot.toNat a b l).1)

/-- R324, R328, R330, R332: counters, carries, steps and the scan of a wave. -/
def Obligations.LadderAndRecurrence : Prop := Claim.CountersCarriesAndSteps ∧ Claim.ScanMeets

/-! ### Sampling (16) -/

/-- R348, R353, R354: on a die whose row engine is enabled for the thread's partition, PRIOW is a counted store that carries its bundle's serial
number; PRIOR and SEPQ read the Separator, and are held at the instruction behind an earlier PRIOW or acquire of their thread (log
entry 5). -/
def Claim.SeparatorInstructions : Prop :=
  ∀ (s : State) (g : Guard) (r : Ref) (u : State) (x : Display) (d a : Reg) (b : Src), Runs s g r u → s.dispOf r = some x →
    (∀ i, tileOf x.cfg ((s.thread r).reg a) = some i →
      (∀ m, exec (.priow g m a b) s =
        .next (u.bump.pushStore r (.priow s.serial m ((s.thread r).reg a) ((s.val32 (s.thread r) b).setWidth 16)))) ∧
      (s.sepOwed r = false →
        exec (.prior g .gaze d a) s = .next (u.pushLoad r (.value d [BitVec.ofNat 32 (tileGet x.gaze i)])) ∧
        exec (.prior g .mot d a) s = .next (u.pushLoad r (.value d [BitVec.ofNat 32 (tileGet x.mot i)])) ∧
        exec (.prior g .err d a) s = .next (u.pushLoad r (.value d [BitVec.ofNat 32 (tileGet x.err i)])) ∧
        exec (.prior g .pri d a) s = .next (u.pushLoad r (.value d [BitVec.ofNat 32 (x.prio i)])) ∧
        exec (.prior g .acc d a) s = .next (u.pushLoad r (.value d [BitVec.ofNat 32 (tileGet x.acc i)])))) ∧
    exec (.priowWt g b) s = .next (u.bump.pushStore r (.priowWt s.serial (s.val64 (s.thread r) b))) ∧
    (s.sepOwed r = false →
      ∀ sel : BitVec 3, exec (.sepq g sel d) s = .next (u.pushLoad r (.value d [lo32 (x.query sel.toNat), hi32 (x.query sel.toNat)]))) ∧
    ((s.thread r).loads.any LoadOp.acquires = true ∨ (s.thread r).stores.any StoreOp.toSep = true →
      (∀ sel, exec (.sepq g sel d) s = .next (u.heldBack r)) ∧ (∀ sel, exec (.prior g sel d a) s = .next (u.heldBack r))) ∧
    (tileOf x.cfg ((s.thread r).reg a) = none → (∀ m, exec (.priow g m a b) s = .next (u.bump.fail r causeAccess)) ∧
      (s.sepOwed r = false → ∀ sel, exec (.prior g sel d a) s = .next (u.fail r causeAccess)))

/-- R355, R358, R359: the position of a thread of a sample wave, the records of a tile that are valid, the geometry of the grid, and the row
engine's times. VQRY is held at the instruction behind an earlier VPUT or acquire of its thread (log entry 5), and wakes the bank that it reads
(R403). -/
def Claim.SampleQueries : Prop :=
  ∀ (s : State) (g : Guard) (r : Ref) (u : State) (x : Display) (d a : Reg) (b : Src), Runs s g r u → s.dispOf r = some x →
    (s.vatOwed r = true → exec (.vqry g d a) s = .next (u.heldBack r)) ∧
    (∀ i, tileOf x.cfg ((s.thread r).reg a) = some i → s.vatOwed r = false →
      exec (.vqry g d a) s = .next ((u.wakeEngine (.bank (vatBank (s.dieOf r) i))).pushLoad r (.value d [BitVec.ofNat 32 ((s.vatRecs (s.dieOf r) x.cfg.vd i).filter vatValid).length,
        ((((s.vatRecs (s.dieOf r) x.cfg.vd i).filter vatValid).head?).map (fun w => hdrW w 1)).getD 0]))) ∧
    ((s.group r.1).node = some 1022 → exec (.sposPos g d) s = .next (u.put64 r d (s.thread r).spos) ∧
      exec (.sposRow g d) s = .next (u.put r d (s.thread r).srow)) ∧
    ((s.group r.1).node ≠ some 1022 → exec (.sposPos g d) s = .next (u.fail r causeAccess) ∧
      exec (.sposRow g d) s = .next (u.fail r causeAccess)) ∧
    exec (.vqryCfg g d) s = .next (u.pushLoad r (.value d
      [BitVec.ofNat 32 ((x.cfg.nrow + 7) / 8 * 65536 + (x.cfg.ncol + 7) / 8), BitVec.ofNat 32 x.cfg.vd])) ∧
    exec (.rowdlRow g d b) s = .next (u.put r d (BitVec.ofNat 32 x.nl + s.val32 (s.thread r) b)) ∧
    exec (.rowdlTime g d b) s = .next (u.put64 r d (BitVec.ofInt 64 (x.light (x.unwrap (s.val32 (s.thread r) b)))))

/-- R348, R353 to R355, R358, R359: the queries and the stores of the Separator and of the row engine. -/
def Obligations.SamplingQueries : Prop := Claim.SeparatorInstructions ∧ Claim.SampleQueries

/-- R356: VPUT of a sample inside the grid is a counted store of its record, with the flags of the storing die. R357: VGET gives, in a range of
its group, one row of features for each of the tile's valid records within the span, the newest first, and rows of zeros up to k; it is held at
the instruction behind the thread's own placements and acquires (log entry 5), and wakes the bank that it reads (R403). -/
def Claim.VatTransfers : Prop :=
  ∀ (s : State) (g : Guard) (r : Ref) (u : State) (x : Display) (a : Reg) (b : Src) (blk : List Word) (i : Nat), Runs s g r u →
    s.dispOf r = some x →
    (blk = (s.thread r).block a 8 →
      (sampleTile x.cfg (hdrW blk 0) = some i →
        exec (.vput g a) s = .next (u.bump.pushStore r (.vput s.serial (blk.set 7 (vputFlags (s.dieOf r) (hdrW blk 7))) false false)) ∧
        exec (.vputOvl g a) s = .next (u.bump.pushStore r (.vput s.serial (blk.set 7 (vputFlags (s.dieOf r) (hdrW blk 7))) true false))) ∧
      (sampleTile x.cfg (hdrW blk 0) = none →
        exec (.vput g a) s = .next (u.fail r causeAccess) ∧ exec (.vputOvl g a) s = .next (u.fail r causeAccess))) ∧
    (∀ n : BitVec 5, s.vatOwed r = true → exec (.vget g n a b) s = .next (u.heldBack r)) ∧
    (∀ (n : BitVec 5) dst rcd k orow w t1 hits rows, k = (s.val32 (s.thread r) b).toNat → orow = ((s.thread r).reg (a + 3)).toNat → 1 ≤ k →
      k ≤ 64 → w = (s.thread r).reg a → t1 = (s.thread r).reg (a + 1) → tileOf x.cfg w = some i → s.vgetRange r n.toNat k orow = .ok (dst, rcd) →
      s.vatOwed r = false →
      hits = sortBy (vatAge t1) ((s.vatRecs (s.dieOf r) x.cfg.vd i).filter
        (fun v => vatValid v && decide (vatAge t1 v ≤ ((s.thread r).reg (a + 2)).toNat))) →
      rows = (List.range k).map (fun j => (List.range 16).map (fun f => ((hits[j]?).map (fun v =>
        vatFeature dst (if dst = .bf16 then fmtBf16 else fmtF16) (bitsOf w 15 0) (bitsOf w 31 16) t1 v f)).getD 0)) →
      exec (.vget g n a b) s = .next (({ u.wakeEngine (.bank (vatBank (s.dieOf r) i)) with
        mem := s.mem.writeN (locObuf (s.coreOf r) (s.partOf r) (recBase rcd + orow * 32)) ((rows.flatten.map (toBytes 2)).flatten) } : State).pushLoad
          r (.value 0 [])))

/-- R350, R359: ROWPUT registers its source as an engine operation; a release at `.dsp`, it is held at the instruction behind what its thread has not
performed (log entry 5), and then goes on as a counted store while its row is near enough, and waits while it is 256 rows or more ahead. -/
def Claim.PixelTransfers : Prop :=
  ∀ (s : State) (g : Guard) (r : Ref) (u v : State) (x : Display) (sp : RSpace) (d a : Reg) (b : Src) (w : Word) (x0 cnt : Nat) (row : Int)
    (rng : Rng) (op : LockOp), Runs s g r u → s.dispOf r = some x →
    w = s.val32 (s.thread r) b → x0 = w.toNat % 2 ^ 16 → cnt = w.toNat / 2 ^ 16 + 1 → w.toNat < 2 ^ 24 → x0 + cnt ≤ x.cfg.ncol →
    row = x.unwrap ((s.thread r).reg d) → rng = s.engRng r.1 (RSpace.eng sp) (spAddr (RSpace.eng sp) (u.rdW r (sp == .glob) a)) (4 * cnt) →
    s.rowputBad r.1 rng = none →
    (s.owes r = true → exec (.rowput g sp d a b) s = .next (u.heldBack r)) ∧
    (s.owes r = false → op = { u.newOp r 0 .dsp (.rowput row x0) [rng] [] (4 * cnt) with id := s.serial } →
      u.bump.lockReady s.regQueue op = true → v = (u.bump.lockAdd op).release r .dsp →
      (row - x.nl < 256 → exec (.rowput g sp d a b) s = .next ((v.wake r).pushStore r (.rowput op.id row x0))) ∧
      (256 ≤ row - x.nl → exec (.rowput g sp d a b) s = .next (v.upd r (fun t => { t with park := .rowdist op.id row x0 }))))

/-- R335: without its units an instruction of the chapter raises ACCESS, where nothing of its thread holds it. -/
def Claim.UnitsAbsent : Prop :=
  ∀ (s : State) (g : Guard) (r : Ref) (u : State) (d a : Reg) (b : Src) (t : State), Runs s g r u → s.dispOf r = none → t = u.fail r causeAccess →
    exec (.vput g a) s = .next t ∧ exec (.vputOvl g a) s = .next t ∧ (∀ m, exec (.priow g m a b) s = .next (u.bump.fail r causeAccess)) ∧ exec (.sposPos g d) s = .next t ∧
    exec (.sposRow g d) s = .next t ∧ exec (.vqryCfg g d) s = .next t ∧ exec (.rowdlRow g d b) s = .next t ∧ exec (.rowdlTime g d b) s = .next t ∧
    exec (.priowWt g b) s = .next (u.bump.fail r causeAccess) ∧
    (s.vatOwed r = false → (∀ n, exec (.vget g n a b) s = .next t) ∧ exec (.vqry g d a) s = .next t) ∧
    (s.owes r = false → ∀ sp, exec (.rowput g sp d a b) s = .next t) ∧
    (s.sepOwed r = false → (∀ sel, exec (.prior g sel d a) s = .next t) ∧ (∀ sel, exec (.sepq g sel d) s = .next t))

/-- R335, R350, R356, R357, R359: samples put and gathered, and pixels delivered. -/
def Obligations.SamplingTransfers : Prop := Claim.VatTransfers ∧ Claim.PixelTransfers ∧ Claim.UnitsAbsent

/-! ### Fixed-function nodes (17) -/

/-- R361, R365, R366, R370 to R372: PROBE on a slot that is FREE, or of the thread's partition and open, or closed; a slot of another partition
raises ACCESS, but a FREE one may be opened by any (log entry 22). PROBE.open waits at the instruction behind the thread's own unperformed store to
its descriptor, PROBE.smp behind its acquires (R180, R245, R267; log entry 5). -/
def Claim.DrawInstructions : Prop :=
  ∀ (s : State) (g : Guard) (r : Ref) (u : State) (d a : Reg), Runs s g r u →
    (∀ n : BitVec 2, s.trails r (locScratch r.1 ((s.thread r).reg a).toNat) 64 = true → exec (.probeOpen g n d a) s = .next (u.heldBack r)) ∧
    (∀ n : BitVec 2, s.trails r (locScratch r.1 ((s.thread r).reg a).toNat) 64 = false → s.drawTaken r n.toNat = true →
      exec (.probeOpen g n d a) s = .next (u.fail r causeAccess)) ∧
    (∀ (n : BitVec 2) w desc op, s.trails r (locScratch r.1 ((s.thread r).reg a).toNat) 64 = false → s.drawTaken r n.toNat = false →
      u.check r .core ((s.thread r).reg a).toNat 64 64 false false = .ok (w, u) → desc = wordsOfBytes (s.readAt (s.coreOf r) w 64) →
      (s.drawStatus (s.dieOf r) (s.partOf r) n.toNat desc ≠ 0 →
        exec (.probeOpen g n d a) s = .next (u.put r d (BitVec.ofNat 32 (s.drawStatus (s.dieOf r) (s.partOf r) n.toNat desc)))) ∧
      (s.drawStatus (s.dieOf r) (s.partOf r) n.toNat desc = 0 →
        op = { u.newOp r 0 .dev (.draw n.toNat d) [] [{ sp := .glob, owner := 0, lo := drawBase desc, len := drawSize desc }] 0 with
          desc := desc, id := s.serial } →
        u.bump.lockReady s.regQueue op = true → exec (.probeOpen g n d a) s = .next ((u.bump.lockAdd op).drawOpen op n.toNat d))) ∧
    (∀ n : BitVec 2, s.drawForeign r n.toNat = true → exec (.probeEnd g n d) s = .next (u.fail r causeAccess)) ∧
    (∀ (n : BitVec 2) (w : DrawSlot), (s.die (s.dieOf r)).draw n.toNat = some w → w.part = s.partOf r →
      (w.st = .opened → w.ending = false →
        (((s.thread r).reg (a + 7)).toNat ≤ 2 → exec (.probeTri g n a) s = .next ((u.updDraw (s.dieOf r) w.lock
          (fun x => { x with seq := (x.seq + 1) % 2 ^ 32 })).pushStore r (.tri w.lock w.seq ((s.thread r).block a 8)))) ∧
        exec (.probeEnd g n d) s = .next ((u.updDraw (s.dieOf r) w.lock (fun x => { x with ending := true })).parkAs r (.draw w.lock d))) ∧
      (w.st = .closed ∨ w.st = .free → exec (.probeEnd g n d) s = .next (u.put r d 6)) ∧
      (w.st = .broken → (w.fail = none → exec (.probeEnd g n d) s = .next (u.put r d 5)) ∧
        (∀ c, w.fail = some c → exec (.probeEnd g n d) s = .next ((u.put r d 4).setCause r c))) ∧
      (s.acquires r = true → exec (.probeSmp g n d a) s = .next (u.heldBack r)) ∧
      (w.st = .closed → s.acquires r = false →
        exec (.probeSmp g n d a) s = .next (u.pushLoad r (.value d (w.sample ((s.thread r).reg a))))))

/-- R361, R376, R380, R381: CURVE, PATHEND.nz and .eo, and CVG on a slot of the thread's partition that is open, or closed. CVG waits at the
instruction behind the thread's acquires (R245; log entry 5). -/
def Claim.PathInstructions : Prop :=
  ∀ (s : State) (g : Guard) (r : Ref) (u : State) (d a : Reg), Runs s g r u →
    (∀ n : BitVec 4, s.pathForeign r n.toNat = true →
      exec (.pathendNz g n d) s = .next (u.fail r causeAccess) ∧ exec (.pathendEo g n d) s = .next (u.fail r causeAccess)) ∧
    (∀ (n : BitVec 4) (w : PathSlot), (s.die (s.dieOf r)).path n.toNat = some w → w.part = s.partOf r →
      (w.st = .opened → w.rule = none →
        (∀ kind, ((((s.thread r).block a 8).take (CKind.words kind)).all coordOk = true → exec (.curve g kind n a) s =
          .next (u.pushStore r (.curve w.lock kind (((s.thread r).block a 8).take (CKind.words kind)))))) ∧
        exec (.pathendNz g n d) s = .next ((u.updPath (s.dieOf r) w.lock (fun x => { x with rule := some false })).parkAs r (.path w.lock d)) ∧
        exec (.pathendEo g n d) s = .next ((u.updPath (s.dieOf r) w.lock (fun x => { x with rule := some true })).parkAs r (.path w.lock d))) ∧
      (w.st = .closed ∨ w.st = .free → exec (.pathendNz g n d) s = .next (u.put r d 6) ∧ exec (.pathendEo g n d) s = .next (u.put r d 6)) ∧
      (w.st = .broken → exec (.pathendNz g n d) s = .next (u.put r d 5) ∧ exec (.pathendEo g n d) s = .next (u.put r d 5)) ∧
      (∀ raw, s.acquires r = true → exec (.cvg g raw n d a) s = .next (u.heldBack r)) ∧
      (∀ i j, w.st = .closed → s.acquires r = false →
        i = ((s.thread r).reg a).toNat % 2 ^ 16 → j = ((s.thread r).reg a).toNat / 2 ^ 16 → i < pathW w.desc → j < pathH w.desc →
        exec (.cvg g true n d a) s = .next (u.pushLoad r (.value d
          [BitVec.ofNat 32 (ofBytes ((s.mem.readN (s.cellLoc (s.dieOf r) w.part w.desc i j) 8).take 4))])) ∧
        exec (.cvg g false n d a) s = .next (u.pushLoad r (.value d [BitVec.ofNat 32
          (packMag fmtF32 .rne false false false (ofBytes ((s.mem.readN (s.cellLoc (s.dieOf r) w.part w.desc i j) 8).drop 4)) (-16) false).1]))))

/-- R361, R375: PATHEND.open with a record in order registers its cell array's lock and opens the slot, whose cells are zero once the other die has
the entry (R219); one that is not in order gives its status, and a slot of another partition that is not FREE raises ACCESS. It waits at the
instruction behind the thread's own unperformed store to its record (R180, R267; log entry 5). -/
def Claim.PathOpen : Prop :=
  ∀ (s : State) (g : Guard) (r : Ref) (u : State) (n : BitVec 4) (d a : Reg) (w : Where) (desc : List Word) (op : LockOp), Runs s g r u →
    (s.trails r (locScratch r.1 ((s.thread r).reg a).toNat) 32 = true → exec (.pathendOpen g n d a) s = .next (u.heldBack r)) ∧
    (s.trails r (locScratch r.1 ((s.thread r).reg a).toNat) 32 = false → s.pathTaken r n.toNat = true →
      exec (.pathendOpen g n d a) s = .next (u.fail r causeAccess)) ∧
    (s.trails r (locScratch r.1 ((s.thread r).reg a).toNat) 32 = false → s.pathTaken r n.toNat = false → u.check r .core ((s.thread r).reg a).toNat 32 32 false false = .ok (w, u) →
      desc = wordsOfBytes (s.readAt (s.coreOf r) w 32) →
      (s.pathStatus (s.dieOf r) (s.partOf r) n.toNat desc ≠ 0 →
        exec (.pathendOpen g n d a) s = .next (u.put r d (BitVec.ofNat 32 (s.pathStatus (s.dieOf r) (s.partOf r) n.toNat desc)))) ∧
      (s.pathStatus (s.dieOf r) (s.partOf r) n.toNat desc = 0 →
        op = { u.newOp r 0 .die (.path n.toNat d) []
            [{ sp := .chip, owner := 0, lo := s.dieOf r * 2 ^ 24 + pathCbase desc, len := pathBytes desc }] 0 with desc := desc, id := s.serial } →
        u.bump.lockReady s.regQueue op = true → exec (.pathendOpen g n d a) s = .next ((u.bump.lockAdd op).pathOpen op n.toNat d)))

/-- R361 to R381: draw and path slots. -/
def Obligations.DrawsAndPaths : Prop := Claim.DrawInstructions ∧ Claim.PathInstructions ∧ Claim.PathOpen

/-- R383, R384: TRACE of a ray in order is a counted load; one that is not completes at once as a miss with status 16; HITR copies the hit
register, or its status word. With a trace outstanding TRACE is held at its instruction (log entry 5), and HITR waits, not ready, to be performed when that trace
has completed. -/
def Obligations.RayInstructions : Prop :=
  ∀ (s : State) (g : Guard) (r : Ref) (u : State), Runs s g r u →
    ((∀ o ∈ (s.thread r).loads, ∀ ray root x y, o ≠ .trace ray root x y) →
      (∀ any cullb a b, rayBad ((s.thread r).block a 8) = false →
        exec (.trace g any cullb a b) s = .next (u.pushLoad r (.trace ((s.thread r).block a 8) (s.val64 (s.thread r) b) any cullb))) ∧
      (∀ any cullb a b, rayBad ((s.thread r).block a 8) = true →
        exec (.trace g any cullb a b) s = .next (u.upd r (fun t => { t with hit := [0x7F800000, 0xFFFFFFFF, 0, 0], hitSt := 16 }))) ∧
      (∀ d, exec (.hitr g d) s = .next (u.putBlock r d (s.thread r).hit)) ∧
      (∀ d, exec (.hitrSt g d) s = .next (u.put r d (s.thread r).hitSt))) ∧
    ((∃ ray root x y, .trace ray root x y ∈ (s.thread r).loads) →
      (∀ any cullb a b, exec (.trace g any cullb a b) s = .next (u.heldBack r)) ∧
      (∀ d, exec (.hitr g d) s = .next (u.parkAs r (.hitr false d))) ∧ (∀ d, exec (.hitrSt g d) s = .next (u.parkAs r (.hitr true d))))

/-! ### Mailboxes, launches, nodes and records (18), contexts (19) -/

/-- R386, R408: MBWAIT gives the lowest full mailbox, or 256 with `.poll`, or waits; MBTAKE of a full mailbox is one step, and it waits for one
that is not, or that another thread waits for. A mailbox of another partition raises ACCESS. MBTAKE is held at the instruction behind the thread's own
operations on the 64 bytes that it writes (R180; log entry 5). -/
def Claim.Mailboxes : Prop :=
  ∀ (s : State) (g : Guard) (r : Ref) (u : State) (d a : Reg) (b : Src), Runs s g r u →
    (∀ poll (bank : BitVec 2),
      (∀ n, s.mailFull (s.partOf r) bank.toNat (s.val64 (s.thread r) b) = some n →
        exec (.mbwait g poll bank d b) s = .next (u.put r d (BitVec.ofNat 32 n))) ∧
      (s.mailFull (s.partOf r) bank.toNat (s.val64 (s.thread r) b) = none →
        exec (.mbwait g true bank d b) s = .next (u.put r d 256) ∧
        exec (.mbwait g false bank d b) s = .next (u.parkAs r (.mail bank.toNat (s.val64 (s.thread r) b) d)))) ∧
    (∀ n ea v w, n = ((s.thread r).reg a).toNat → ea = (s.val32 (s.thread r) b).toNat →
      (s.trails r (locScratch r.1 ea) 64 = true → exec (.mbtake g d a b) s = .next (u.heldBack r)) ∧
      (s.trails r (locScratch r.1 ea) 64 = false → 255 < n ∨ (s.mailbox n).part ≠ s.partOf r → exec (.mbtake g d a b) s = .next (u.fail r causeAccess)) ∧
      (s.trails r (locScratch r.1 ea) 64 = false → n ≤ 255 → (s.mailbox n).part = s.partOf r → u.check r .core ea 64 64 true false = .ok (w, v) →
        ((v.mailbox n).full = true → v.mailWaits n = false → exec (.mbtake g d a b) s =
          .next (((((v.writeAt (v.partOf r) (v.coreOf r) .cor w (v.mailbox n).bytes).journal (v.partOf r) 0 n noRef
            (sha3Low (v.mailbox n).bytes).toNat 0 0 0).put r d ((v.mailbox n).tag.setWidth 32)).put r (d + 1)
            (BitVec.ofNat 32 (v.part (v.partOf r)).jseq)).updMailbox n (fun m => { m with full := false }))) ∧
        ((v.mailbox n).full = false ∨ v.mailWaits n = true →
          exec (.mbtake g d a b) s = .next (({ v with mailQueue := v.mailQueue ++ [r] } : State).parkAs r (.mailTake n ea d)))))

/-- R409, R410: MBPOST publishes an entry as a release at system scope, or gives the status that keeps it from doing so; it is held at the instruction
behind what its thread has not performed (R265; log entry 5). JNL reads and appends. -/
def Claim.PostsAndJournal : Prop :=
  ∀ (s : State) (g : Guard) (r : Ref) (u : State) (d a : Reg) (b : Src), Runs s g r u →
    (∀ nosig h x cons, h = (s.val32 (s.thread r) b).toNat → x = s.hostBox h →
      cons = ofBytes ((List.range 8).map (fun k => s.below (x.base + 128 * x.size + k))) →
      (s.owes r = true → exec (.mbpost g nosig d a b) s = .next (u.heldBack r)) ∧
      (s.owes r = false → 63 < h ∨ x.on = false ∨ x.part ≠ s.partOf r → exec (.mbpost g nosig d a b) s = .next (u.put r d 2)) ∧
      (s.owes r = false → h ≤ 63 → x.on = true → x.part = s.partOf r →
        (x.size ≤ (x.prod + 2 ^ 64 - cons) % 2 ^ 64 → exec (.mbpost g nosig d a b) s = .next (u.put r d 1)) ∧
        ((x.prod + 2 ^ 64 - cons) % 2 ^ 64 < x.size →
          (∀ v, v = ((u.release r .sys).writeSys (x.base + 128 * (x.prod % x.size))
              ((((s.thread r).block a 16).map bytesOfWord).flatten ++ toBytes 8 ((x.prod + 1) % 2 ^ 64) ++ List.replicate 56 0)).updHostBox h
              (fun y => { y with prod := (x.prod + 1) % 2 ^ 64 }) →
            exec (.mbpost g true d a b) s = .next (v.put r d 0) ∧
            exec (.mbpost g false d a b) s = .next ((v.raiseVector h).put r d 0))))) ∧
    exec (.jnlSeq g d) s = .next (u.put64 r d (BitVec.ofNat 64 (s.part (s.partOf r)).jseq)) ∧
    (s.mailForeign (s.partOf r) ((s.thread r).reg a).toNat = true → exec (.jnlFail g d a b) s = .next (u.put r d 1)) ∧
    (s.mailForeign (s.partOf r) ((s.thread r).reg a).toNat = false → exec (.jnlFail g d a b) s =
      .next ((u.journal (s.partOf r) 3 ((s.thread r).reg a).toNat (s.val32 (s.thread r) b).toNat 0 0 7 0).put r d 0))

/-- R386, R408 to R410: mailboxes of either kind, and the journal. -/
def Obligations.MailboxesAndJournal : Prop := Claim.Mailboxes ∧ Claim.PostsAndJournal

/-- R411, R412: LAUNCH of a kernel in order is a release at `.dev`, which makes the thread's writes visible, appends its launched entry and queues
it; one that is not in order appends a failed entry with its status. Either way it is held at the instruction behind what its thread has not
performed (R265, R267), and while what it reads waits on its way (R20, R208; log entry 5). SLICE sets the deadline of a launch, or ends its launch and stops its groups. -/
def Obligations.LaunchesAndSlices : Prop :=
  ∀ (s : State) (g : Guard) (r : Ref) (u : State) (d a : Reg) (b : Src) (va : DWord) (lref : Word) (q : Nat), Runs s g r u →
    va = (s.thread r).pair a → lref = s.val32 (s.thread r) b → q = s.partOf r →
    (s.owes r = true ∨ s.launchHeld r va.toNat = true → exec (.launch g d a b) s = .next (u.heldBack r)) ∧
    (s.repair = [] → s.domNew = [] → s.launchHeld r va.toNat = false) ∧
    (∀ st, s.owes r = false → s.launchHeld r va.toNat = false → u.launchRead r va.toNat = .error st →
      exec (.launch g d a b) s = .next ((u.journal q 3 noMbox lref.toNat 0 0 st 0).put r d (BitVec.ofNat 32 st))) ∧
    (∀ h gi v, s.owes r = false → s.launchHeld r va.toNat = false → u.launchRead r va.toNat = .ok (h, gi, v) →
      exec (.launch g d a b) s = .next (((((v.release r .dev).journal q 1 noMbox lref.toNat (sha3Low ((h.map bytesOfWord).flatten)).toNat
        va.toNat 0 0).enqueue q h va gi (v.part q).jseq).put r d 0).put r (d + 1) (BitVec.ofNat 32 (v.part q).jseq))) ∧
    (∀ st, s.bears q ((s.thread r).reg a) = .error st →
      exec (.sliceDl g d a b) s = .next (u.put r d (BitVec.ofNat 32 st)) ∧ exec (.sliceKill g d a) s = .next (u.put r d (BitVec.ofNat 32 st))) ∧
    (∀ l, s.bears q ((s.thread r).reg a) = .ok l →
      exec (.sliceDl g d a b) s = .next (({ u.updLaunch l.id (fun x => { x with dl := some (s.val64 (s.thread r) b).toNat }) with
        groups := s.groups.map (fun x => if x.lid = l.id then { x with deadline := (s.val64 (s.thread r) b).toNat } else x) } : State).put r d 0) ∧
      exec (.sliceKill g d a) s = .next (((((s.groups.filter (fun x => x.lid == l.id)).map (fun x => x.gid)).foldl
        (fun y k => y.killGroup k false false) ((u.journal l.part 3 noMbox (l.seq % 2 ^ 32) 0 0 6 0).dropUnplaced l.id)).launchCheck l.id).put r d 0))

/-- R404, R413: NODEGO.cfg of a descriptor and a template in order is a release at `.dev` and binds the node with its ring's lock; the lowest
status that applies keeps it from doing so. It is held at the instruction as LAUNCH is (log entry 5). -/
def Claim.NodeBound : Prop :=
  ∀ (s : State) (g : Guard) (r : Ref) (u : State) (d a : Reg) (b : Src) (id die q ea : Nat), Runs s g r u →
    id = ((s.thread r).reg a).toNat → die = s.dieOf r → q = s.partOf r → ea = (s.val32 (s.thread r) b).toNat →
    (s.owes r = true ∨ s.tmplHeld r ea = true → exec (.nodegoCfg g d a b) s = .next (u.heldBack r)) ∧
    (s.repair = [] → s.domNew = [] → s.tmplHeld r ea = false) ∧
    (s.owes r = false → s.tmplHeld r ea = false →
      (1024 ≤ id → exec (.nodegoCfg g d a b) s = .next (u.put r d 4)) ∧
      (id < 1024 → (s.node die q id).isSome = true → exec (.nodegoCfg g d a b) s = .next (u.put r d 1)) ∧
      (id < 1024 → s.node die q id = none → ea % 32 ≠ 0 → exec (.nodegoCfg g d a b) s = .next (u.put r d 2)) ∧
      (∀ w x rcd h es gi v op, id < 1024 → s.node die q id = none → ea % 32 = 0 →
        u.check r .core ea 32 32 false false = .ok (w, x) → rcd = wordsOfBytes (x.readAt (s.coreOf r) w 32) →
        (s.descOk q die id rcd = false ∨ (s.descOk q die id rcd = true ∧ x.tmplRead r rcd = none) →
          exec (.nodegoCfg g d a b) s = .next (x.put r d 2)) ∧
        (s.descOk q die id rcd = true → x.tmplRead r rcd = some (h, es, gi, v) →
          (v.tmplOk q die id rcd h es = false → exec (.nodegoCfg g d a b) s = .next (x.put r d 2)) ∧
          (v.tmplOk q die id rcd h es = true → id = 1023 → exec (.nodegoCfg g d a b) s = .next (x.put r d 4)) ∧
          (v.tmplOk q die id rcd h es = true → id ≠ 1023 →
            op = { (v.release r .dev).newOp r 0 .dev (.ring id d) [] [ringRng die id rcd] 0 with
              id := (v.release r .dev).serial, desc := rcd ++ h ++ (gi.map splitD).flatten } →
            (v.release r .dev).bump.lockReady (v.release r .dev).regQueue op = true →
            exec (.nodegoCfg g d a b) s = .next (((v.release r .dev).bump.lockAdd op).ringOpen op id d)))))

/-- R404, R405, R413: NODEGO.flush launches the pending records of a bound node, NODEGO.q counts them, and NODEGO.off unbinds an idle node; each
gives the status that keeps it from doing so. -/
def Claim.NodeCommands : Prop :=
  ∀ (s : State) (g : Guard) (r : Ref) (u : State) (d a : Reg) (id die q : Nat), Runs s g r u →
    id = ((s.thread r).reg a).toNat → die = s.dieOf r → q = s.partOf r →
    (1024 ≤ id → exec (.nodegoFlush g d a) s = .next (u.put r d 4) ∧ exec (.nodegoQ g d a) s = .next (u.put r d 4) ∧
      exec (.nodegoOff g d a) s = .next (u.put r d 4)) ∧
    (s.node die q id = none → id < 1024 → exec (.nodegoFlush g d a) s = .next (u.put r d 1) ∧
      exec (.nodegoQ g d a) s = .next (u.put r d 1) ∧ exec (.nodegoOff g d a) s = .next (u.put r d 1)) ∧
    (∀ n, s.node die q id = some n → id < 1024 →
      (n.pending ≠ [] → exec (.nodegoFlush g d a) s = .next ((u.nodeGo n).put r d 0)) ∧
      (n.pending = [] → exec (.nodegoFlush g d a) s = .next (u.put r d 4)) ∧
      exec (.nodegoQ g d a) s = .next ((u.put r d (BitVec.ofNat 32 n.pending.length)).put r (d + 1)
        (BitVec.ofNat 32 (n.producers % 65536 + n.running % 65536 * 65536))) ∧
      (n.pending ≠ [] ∨ 0 < n.running → exec (.nodegoOff g d a) s = .next (u.put r d 3)) ∧
      (n.pending = [] → n.running = 0 → ∀ v w, v = (u.journal q 2 noMbox (n.lref % 2 ^ 32) 0 0 0 0).lockDrop n.lock →
        w = ({ v with nodes := v.nodes.filter (fun y => !(y.die == die && y.part == q && y.id == id)) } : State) →
        (id ≠ 1022 → exec (.nodegoOff g d a) s = .next (w.put r d 0)) ∧
        (id = 1022 → exec (.nodegoOff g d a) s =
          .next ((w.updDie die (fun x => { x with display := x.display.map (fun y => { y with wave := [] }) })).put r d 0))))

/-- R404, R405, R413: nodes bound, launched, counted and unbound. -/
def Obligations.NodeBinding : Prop := Claim.NodeBound ∧ Claim.NodeCommands

/-- R398, R401, R414: ADMITQ reads sums of groups, the activity of the context that stands on a core, the thermal cells of the die, gating and the
launch queues. -/
def Claim.AdmissionQueries : Prop :=
  ∀ (s : State) (g : Guard) (r : Ref) (u : State) (d a : Reg) (n : Nat), Runs s g r u → n = ((s.thread r).reg a).toNat →
    (n < 160 → exec (.admitqEnergy g d a) s = .next ((u.put r d (BitVec.ofNat 32 (s.energySum n))).put r (d + 1) (BitVec.ofNat 32 (s.coreSt n).elim)) ∧
      (∀ q w, (∀ p, p < 4 → (s.holds n p = true ↔ p = q)) → q < 4 →
        w = (s.weightOf 0 1 % 256 + s.weightOf 0 2 % 256 * 2 ^ 8 + s.weightOf 0 3 % 256 * 2 ^ 16 + s.weightOf 0 4 % 256 * 2 ^ 24) →
        exec (.admitqAct g d a) s = .next ((u.put r d (s.ctx n q).actWord).put r (d + 1) (BitVec.ofNat 32 w)))) ∧
    (160 ≤ n → exec (.admitqEnergy g d a) s = .next ((u.put r d 0).put r (d + 1) 0) ∧
      exec (.admitqAct g d a) s = .next ((u.put r d 0).put r (d + 1) 0)) ∧
    (∀ c, n < 64 → (s.die (s.dieOf r)).cells[n]? = some c →
      (26880 - c.1.toInt ≤ 24320 - c.2.toInt → exec (.admitqTherm g d a) s = .next ((u.put r d c.1).put r (d + 1) 26880)) ∧
      (24320 - c.2.toInt < 26880 - c.1.toInt → exec (.admitqTherm g d a) s = .next ((u.put r d c.2).put r (d + 1) 24320))) ∧
    (64 ≤ n → exec (.admitqTherm g d a) s = .next ((u.put r d 0).put r (d + 1) 0)) ∧
    (3 ≤ n → exec (.admitqGate g d a) s = .next (u.put64 r d 0)) ∧
    (∀ f : Nat → Engine, (n = 0 → (∀ k, f k = .core (64 * s.dieOf r + k)) → exec (.admitqGate g d a) s = .next (u.put64 r d (BitVec.ofNat 64 (s.gateMap f)))) ∧
      (n = 1 → (∀ k, f k = .slice k) → exec (.admitqGate g d a) s = .next (u.put64 r d (BitVec.ofNat 64 (s.gateMap f))))) ∧
    (n = 2 → exec (.admitqGate g d a) s = .next (u.put64 r d (s.admitGate (s.dieOf r) 2))) ∧
    (n < 8 → exec (.admitqQueue g d a) s = .next ((u.put r d (BitVec.ofNat 32 (s.queued (s.partOf r) n).length)).put r (d + 1)
      (BitVec.ofNat 32 (Nat.min (((s.queued (s.partOf r) n).map Launch.unplaced).foldl (· + ·) 0) 0xFFFFFFFF)))) ∧
    (8 ≤ n → exec (.admitqQueue g d a) s = .next ((u.put r d 0).put r (d + 1) 0))

/-- R372, R415: RECALLOC reserves the next slot of a ring, or of the blend node, when it is empty, and waits when it is not. -/
def Claim.RecordSlots : Prop :=
  ∀ (s : State) (g : Guard) (r : Ref) (u : State) (d a : Reg) (n : Node) (die q id : Nat), Runs s g r u →
    die = s.dieOf r → q = s.partOf r → id = ((s.thread r).reg a).toNat →
    (s.node die q id = some n → id < 1022 →
      (∀ k c, n.free? = some k → c = (n.count + 1) % 1024 → exec (.recalloc g d a) s = .next (((u.updNode die q id
          (fun n => { n.claim (.reserved r.1 r.2 c) with count := c })).upd r
          (fun t => { t with holds := t.holds ++ [{ node := id, lock := n.lock, slot := k, count := c }] })).put r d (recHandle k id c))) ∧
      (n.free? = none → exec (.recalloc g d a) s = .next (u.parkAs r (.record id d)))) ∧
    (id = 1023 →
      ((s.die die).blendRes.any (fun x => x.slot == (s.die die).blendHead) = true → exec (.recalloc g d a) s = .next (u.parkAs r (.record 1023 d))) ∧
      ((s.die die).blendRes.any (fun x => x.slot == (s.die die).blendHead) = false → exec (.recalloc g d a) s = .next ((u.bump.updDie die (fun x =>
        { x with
          blendRes := x.blendRes ++ [{ slot := (s.die die).blendHead, gid := r.1, tid := r.2, count := s.serial % 1024 }],
          blendHead := ((s.die die).blendHead + 1) % blendSlots })).put r d (recHandle (s.die die).blendHead 1023 (s.serial % 1024))))) ∧
    (id = 1022 ∨ 1024 ≤ id ∨ (id < 1022 ∧ s.node die q id = none) → exec (.recalloc g d a) s = .next (u.fail r causeAccess))

/-- R372, R373, R416: RECEMIT, a release at `.die`, publishes a slot that the thread holds of the node's present binding, or a blend record (the blend
node's 4,096 slots are log entry 32); a handle that it does not hold raises ACCESS. It is held at the instruction behind what its thread has not
performed (R265; log entry 5). -/
def Claim.RecordsPublished : Prop :=
  ∀ (s : State) (g : Guard) (r : Ref) (u v : State) (a : Reg) (b : Src) (die q slot node cnt : Nat) (w : Where), Runs s g r u →
    die = s.dieOf r → q = s.partOf r → slot < 4096 → node < 1024 → cnt < 1024 → (s.thread r).reg a = recHandle slot node cnt →
    (s.owes r = true → exec (.recemit g a b) s = .next (u.heldBack r)) ∧
    (∀ n, s.owes r = false → node < 1023 → s.node die q node = some n →
      ((⟨node, n.lock, slot, cnt⟩ : RecHold) ∈ (s.thread r).holds →
        u.check r .core (s.val32 (s.thread r) b).toNat (nodeRec n.desc) 16 false false = .ok (w, v) →
        (∀ x, x = v.release r .die →
          exec (.recemit g a b) s = .next (((({ x with
            mem := x.mem.writeN (x.slotLoc n slot) (v.readAt (s.coreOf r) w (nodeRec n.desc)) } : State).publish n.die n.part node slot).upd r
            (fun t => { t with holds := t.holds.filter (fun h => !(h.node == node && h.lock == n.lock && h.slot == slot)) })).pushStore r
            (.store .die none)))) ∧
      ((∀ h ∈ (s.thread r).holds, h ≠ ⟨node, n.lock, slot, cnt⟩) → exec (.recemit g a b) s = .next (u.fail r causeAccess))) ∧
    (s.owes r = false → node < 1023 → s.node die q node = none → exec (.recemit g a b) s = .next (u.fail r causeAccess)) ∧
    (∀ held, s.owes r = false → held = (s.die die).blendRes.any (fun x => x.slot == slot && x.gid == r.1 && x.tid == r.2 && x.count == cnt) → node = 1023 →
      s.node die q 1023 = none →
      (held = true → u.check r .core (s.val32 (s.thread r) b).toNat 32 16 false false = .ok (w, v) →
        (exec (.recemit g a b) s = .next ((((v.release r .die).blendIn die q
          (wordsOfBytes (v.readAt (s.coreOf r) w 32))).updDie die
          (fun x => { x with blendRes := x.blendRes.filter (fun y => y.slot != slot) })).pushStore r (.store .die none)))) ∧
      (held = false → exec (.recemit g a b) s = .next (u.fail r causeAccess)))

/-- R374, R417: RECRD of a word of the thread's record is a counted load; beyond the record, without one, or after RECFIN it raises ACCESS (log entry
18); it is held at the instruction behind the thread's acquires (R245; log entry 5). RECFIN gives the record up: its fragment is answered in that
step, and its slot is empty once the thread's RECRDs have completed; without a record, and a second time, it does nothing (log entry 18). -/
def Claim.RecordsRead : Prop :=
  ∀ (s : State) (g : Guard) (r : Ref) (u : State) (d : Reg) (b : Src) (die q : Nat), Runs s g r u → die = s.dieOf r → q = s.partOf r →
    (s.acquires r = true → exec (.recrd g d b) s = .next (u.heldBack r)) ∧
    (∀ node slot n k, (s.thread r).record = some (node, slot) → s.node die q node = some n → k = (s.val32 (s.thread r) b).toNat →
      ((s.thread r).recDone = false → k < nodeRec n.desc / 4 → s.acquires r = false →
        exec (.recrd g d b) s = .next (u.pushLoad r (.record d (BitVec.ofNat 32 (ofBytes (s.mem.readN (s.slotLoc n slot + 4 * k) 4)))))) ∧
      (s.acquires r = false → (s.thread r).recDone = true ∨ nodeRec n.desc / 4 ≤ k → exec (.recrd g d b) s = .next (u.fail r causeAccess)) ∧
      ((s.thread r).recDone = false → ∀ v, v = (u.answerSlot die q node slot).upd r (fun t => { t with recDone := true }) →
        ((s.thread r).reading = true → exec (.recfin g) s = .next v) ∧
        ((s.thread r).reading = false → exec (.recfin g) s = .next (v.emptySlot die q node slot)))) ∧
    ((s.thread r).record = none → (s.acquires r = false → exec (.recrd g d b) s = .next (u.fail r causeAccess)) ∧
      exec (.recfin g) s = .next u) ∧
    ((s.thread r).recDone = true → exec (.recfin g) s = .next u)

/-- R372, R373, R398, R401, R414 to R417: admission queries and records. -/
def Obligations.AdmissionAndRecords : Prop := Claim.AdmissionQueries ∧ Claim.RecordSlots ∧ Claim.RecordsPublished ∧ Claim.RecordsRead

/-- R22, R426, R440: while containment runs in a partition involved a context move waits; otherwise one that cannot be made gives its status;
PREEMPT saves what stands on the clusters and restores the partition's own, CTXSV saves, CTXLD restores; a save whose threads have outstanding
accesses waits for them. -/
def Obligations.ContextMoves : Prop :=
  ∀ (s : State) (g : Guard) (r : Ref) (u : State) (d a : Reg) (b : Src) (q m c : Word), Runs s g r u →
    q = (s.thread r).reg a → m = s.val32 (s.thread r) b → c = m &&& 0xFFFF →
    ∀ i op v, (i, op) ∈ [(Instr.preempt g d a b, 0), (.ctxsv g d a b, 1), (.ctxld g d a b, 2)] → v = (u.parkAs r (.ctx op d q m)).wake r →
      (s.ctxHalted (s.partOf r) op q m = true → exec i s = .next (u.parkAs r (.ctx op d q m))) ∧
      (s.ctxHalted (s.partOf r) op q m = false →
        (s.ctxStatus (s.partOf r) op q m ≠ 0 → exec i s = .next (v.put r d (BitVec.ofNat 32 (s.ctxStatus (s.partOf r) op q m)))) ∧
        (s.ctxStatus (s.partOf r) op q m = 0 →
          (op = 2 → exec i s = .next ((v.put r d 0).restore q.toNat c)) ∧
          (∀ h, s.commonHolder c = some h →
            (op = 0 → (u.parkAs r (.ctx op d q m)).atRest h c = true →
              exec i s = .next (((v.put r d 0).save h q.toNat true c).restore q.toNat c)) ∧
            (op = 1 → (u.parkAs r (.ctx op d q m)).atRest h c = true → exec i s = .next ((v.put r d 0).save h q.toNat false c)) ∧
            (op ≠ 2 → (∃ t ∈ s.threads, (s.group t.gid).within h c = true ∧ (t.loads ≠ [] ∨ t.stores ≠ [])) →
              exec i s = .next (u.parkAs r (.ctx op d q m))))))

/-! ### Events: what happens between instructions. Each names its object in `s.arg`. -/

/-- R61, R63, R64, R156, R396, R399, R401, R422, R429: what a core issues in a cycle, while no bundle is chosen. Handler-mode threads go first; a
full activity accumulator holds back the others and counts a blocked cycle; otherwise the bundle grows from the thread that the picker prefers,
budgets fall and the ready threads that do not issue age. A formed meeting issues in its place. -/
def Claim.PickerEvents : Prop :=
  ∀ (s v : State) (core k : Nat) (ts hs : List Thread), s.arg.a = core → s.arg.b = k → s.bundle = none →
    ((ts = s.rdy core → hs = ts.filter (fun t => t.handler) →
      (∀ t refs, hs ≠ [] → s.pickFirst core hs false = some t → refs = s.gatherAt core hs t.gid t.pc t.lineAt →
        exec .pick s = .next ((s.watch core ts refs).latch core t refs none)) ∧
      (∀ q, hs = [] → s.blockedFor core ts = some q → exec .pick s = .next ((s.watch core ts []).countBlocked core q k)) ∧
      (∀ t refs, hs = [] → s.blockedFor core ts = none → s.pickFirst core ts true = some t → refs = s.gatherAt core ts t.gid t.pc t.lineAt →
        exec .pick s = .next (((s.watch core ts refs).pickerCycle core ts refs).latch core t refs none)))) ∧
    ((v = s.stampMeetings core k → ts = v.rdy core →
      (v.meetNext core = none → exec .meetingForm s = .next v) ∧
      (∀ t refs, v.meetNext core = some t → refs = v.presentAt t →
        (t.handler = true → exec .meetingForm s = .next ((v.watch core ts refs).latch core t refs (some (v.meetPart t)))) ∧
        (t.handler = false → ts.any (fun q => q.handler) = false →
          (v.actFull core (v.group t.gid).part = true → exec .meetingForm s = .next (v.countBlocked core (v.group t.gid).part k)) ∧
          (v.actFull core (v.group t.gid).part = false →
            exec .meetingForm s = .next (((v.watch core ts refs).pickerCycle core ts refs).latch core t refs (some (v.meetPart t))))))))

/-- R36, R72, R473: a thread that needs its line fetches it, unless a repair or a change of domains holds the fetch (log entry 31); a line of bad
parity is fetched once more. R84, R85, R422: a thread gets the end of its wait, or its handler, when that has come. A bundle that was held at its
instruction issues there again, whole, once every live thread of it has performed what it issued before and nothing holds what it fetches (log
entry 5). An event that finds nothing to do changes nothing (log entry 3). -/
def Claim.ThreadProgress : Prop :=
  ∀ (s : State) (r : Ref), s.arg.a = r.1 → s.arg.b = r.2 →
    (∀ n ws v, s.needsLine (s.thread r) = true → s.lineHeld r = false → s.fetch (s.partOf r) (s.coreOf r) (s.thread r).pc.toNat = (.line n ws, v) →
      exec .lineFetch s = .next (v.upd r (fun t => { t with
        line := some { va := t.pc.toNat / 64 * 64, line := n, words := ws, bad := !parityGood ws } }))) ∧
    (s.needsLine (s.thread r) = false ∨ s.lineHeld r = true → exec .lineFetch s = .next s) ∧
    (∀ x ws v, (s.thread r).lineAt = some x → x.bad = true → s.refetch (s.coreOf r) x.line = (ws, v) →
      (parityGood ws = true → exec .lineRefetch s = .next (v.upd r (fun t => { t with line := some { x with words := ws, bad := false } }))) ∧
      (parityGood ws = false → exec .lineRefetch s = .next (v.raiseHalt (v.partOf r) 3 (v.coreOf r) r.1))) ∧
    (s.mayWake (s.thread r) = false → exec .threadUnpark s = .next s) ∧
    (s.mayWake (s.thread r) = true →
      (s.unpark r = none → exec .threadUnpark s = .next s) ∧
      (∀ v, s.unpark r = some v → exec .threadUnpark s = .next v) ∧
      (∀ l sc c m, (s.thread r).park = .wait l sc c m → s.waitMet r l sc c m = true → exec .threadUnpark s = .next (s.wake r)) ∧
      (∀ b, (s.thread r).park = .settle → s.waiting.find? (fun x => x.refs.contains r) = some b →
        ((∃ q ∈ b.refs, (s.thread q).live = true ∧ (s.thread q).unperformed = true) → exec .threadUnpark s = .next s) ∧
        ((∀ q ∈ b.refs, (s.thread q).live = true → (s.thread q).unperformed = false) →
          b.ins.any fetches = false ∨ (s.repair = [] ∧ s.domNew = []) → exec .threadUnpark s =
            .next { b.refs.foldl State.wake s with bundle := some b, waiting := s.waiting.filter (fun x => x != b) })) ∧
      (∀ d, (∀ o ∈ (s.thread r).loads, ∀ ray root x y, o ≠ .trace ray root x y) →
        ((s.thread r).park = .hitr false d → exec .threadUnpark s = .next ((s.wake r).putBlock r d (s.thread r).hit)) ∧
        ((s.thread r).park = .hitr true d → exec .threadUnpark s = .next ((s.wake r).put r d (s.thread r).hitSt)))) ∧
    (∀ at_, (s.thread r).park = .sleep at_ → (at_ ≤ s.dtb → exec .sleepWake s = .next (s.wake r)) ∧ (s.dtb < at_ → exec .sleepWake s = .next s)) ∧
    (s.trapped (s.thread r) = true → s.atBoundary (s.thread r) = true → exec .handlerEntry s = .next (s.enterHandler r)) ∧
    (s.trapped (s.thread r) = false ∨ s.atBoundary (s.thread r) = false → exec .handlerEntry s = .next s)

/-- R188, R282, R283, R415, R423: the waits of fences end when what they wait for has come; a wait on a full/empty word, or for a slot, of more than
2^24 cycles sets its cause, and where that is enabled the thread stands at its instruction again. The wait on a word counts from the arrival of
the request, not while its bundle is held before it (log entry 5). -/
def Claim.FenceAndTimeouts : Prop :=
  ∀ (s : State) (r : Ref), s.arg.a = r.1 → s.arg.b = r.2 →
    (∀ k sc, (s.thread r).park = .fence k sc → (s.thread r).loads = [] → (s.thread r).stores = [] → sc.num < 4 ∨ s.repair = [] →
      exec .fenceComplete s = .next ((s.release r sc).wake r)) ∧
    ((s.thread r).park = .lfenceArray [] → exec .fenceComplete s = .next (s.wake r)) ∧
    (∀ sc, (s.thread r).park = .efence false sc → (s.thread r).loads = [] → (s.thread r).stores = [] → s.ccOf r = 0 →
      sc.num < 4 ∨ s.repair = [] →
      exec .fenceComplete s = .next ((s.fenceFlush r sc).wake r)) ∧
    (∀ e j d, (s.thread r).park = .word ∨ (s.thread r).park = .slotw e j d → (s.thread r).counted = false →
      (s.rawClk (s.coreOf r) - (s.thread r).since ≤ 2 ^ 24 → exec .fewaitTimeout s = .next s) ∧
      (∀ v, 2 ^ 24 < s.rawClk (s.coreOf r) - (s.thread r).since → v = (s.setCause r causeFewait).upd r (fun t => { t with counted := true }) →
        (v.enters r causeFewait = false → exec .fewaitTimeout s = .next v) ∧
        (v.enters r causeFewait = true → exec .fewaitTimeout s =
          .next (({ v with feQueue := v.feQueue.filter (fun q => !(q.gid == r.1 && q.tid == r.2)) } : State).again r)))) ∧
    (∀ node d v, (s.thread r).park = .record node d → (s.thread r).counted = false → 2 ^ 24 < s.rawClk (s.coreOf r) - (s.thread r).since →
      v = (s.setCause r causeRecfull).upd r (fun t => { t with counted := true }) →
      (v.enters r causeRecfull = false → exec .recfullTimeout s = .next v) ∧
      (v.enters r causeRecfull = true → exec .recfullTimeout s = .next (v.upd r (fun t => { t with park := .ready, pc := t.parkPc }))))

/-- R36, R61, R63, R64, R84, R85, R155, R156, R188, R282, R396, R399, R415, R422, R473: the events of threads. -/
def Obligations.ThreadEvents : Prop := Claim.PickerEvents ∧ Claim.ThreadProgress ∧ Claim.FenceAndTimeouts

/-- R68, R70, R180, R417: the oldest load of a thread completes: its words reach its registers from d on, and it leaves the list; one whose transfer
is on a vertical bus waits for the repair of its column (R20). One that stood behind earlier operations of the thread, a repair, or a change of
domains at its slice (R208) is performed now, once it may be (log entries 5 and 20); in a Vat part that has been closed since it issued it is
refused (R346; log entry 25). -/
def Claim.LoadEvents : Prop :=
  ∀ (s : State) (r : Ref) (rest : List LoadOp), s.arg.a = r.1 → s.arg.b = r.2 → s.hasThread r = true →
    (∀ d ws, (s.thread r).loads = .value d ws :: rest → exec .loadComplete s = .next (s.upd r (fun t => { t.setBlock d ws with loads := t.loads.tail }))) ∧
    (∀ d w, (s.thread r).loads = .record d w :: rest →
      exec .loadComplete s = .next ((s.upd r (fun t => { t.setBlock d [w] with loads := t.loads.tail })).emptyRecord r)) ∧
    (∀ pa d ws, (s.thread r).loads = .fetched pa d ws :: rest →
      (s.repairs pa = true → exec .loadComplete s = .next s) ∧
      (s.repairs pa = false → exec .loadComplete s = .next (s.upd r (fun t => { t.setBlock d ws with loads := t.loads.tail })))) ∧
    (∀ req d o loc n f held w v, (s.thread r).loads = .late req d o loc n f :: rest → w = placeOf loc →
      held = ((s.thread r).behind (s.thread r).loadNo loc n || s.repairsAt w || !s.l2May (s.partOf r) req) →
      (held = true → exec .loadComplete s = .next s) ∧
      (held = false → s.closedAt w = true → exec .loadComplete s = .next ((s.refuseLate r).upd r (fun t => { t with loads := t.loads.tail }))) ∧
      (held = false → s.closedAt w = false → v = s.acquireAt r o w → exec .loadComplete s =
        .next (v.upd r (fun t => { t.setBlock d (f.words (v.readAt (v.coreOf r) w n)) with loads := t.loads.tail })))) ∧
    (∀ d loc n, (s.thread r).loads = .tagq d loc n :: rest → (s.thread r).tagsBefore (s.thread r).loadNo = false →
      (s.thread r).acquiring (s.thread r).loadNo = false →
      exec .loadComplete s = .next (s.upd r (fun t => { t.setBlock d [s.fullBits loc n] with loads := t.loads.tail }))) ∧
    (∀ d clu n, (s.thread r).loads = .bqry d clu n :: rest → (s.thread r).barBefore (s.thread r).loadNo clu n = false →
      s.bqryFree r clu n = false →
      exec .loadComplete s = .next (s.upd r (fun t => { t.setBlock d [s.bqryVal r clu n] with loads := t.loads.tail }))) ∧
    (∀ d clu n e, (s.thread r).loads = .binit d clu n e :: rest → (s.thread r).barBefore (s.thread r).loadNo clu n = false →
      exec .loadComplete s = .next
        ((s.upd r (fun t => { t.setBlock d [BitVec.ofNat 32 (s.binitStatus r clu n e)] with loads := t.loads.tail })).binitDo r clu n e)) ∧
    (∀ d a, (s.thread r).loads = .atomic d a :: rest → s.atomMay r a (s.thread r).loadNo = true → s.closedAt a.place = false →
      exec .atomicPerformed s = .next ((s.atomicAt r a).2.upd r (fun t => a.dest d (s.atomicAt r a).1 { t with loads := t.loads.tail })))

/-- R68, R180, R182, R189, R204, R208, R211, R243, R276: the oldest store of a thread is performed, unless a repair of its column or a change of
domains at its slice holds it, or what it stands behind: its thread's earlier operations, or a lower thread's store of its bundle (log entries 5
and 20). -/
def Claim.StoreEvents : Prop :=
  ∀ (s : State) (r : Ref) (rest : List StoreOp) (k : Nat), s.arg.a = r.1 → s.arg.b = r.2 → k = (s.thread r).storeNo →
    (∀ sc pa, (s.thread r).stores = .store sc pa :: rest →
      ((pa.map s.repairs).getD false = false → exec .storePerformed s = .next (s.upd r Thread.popStore)) ∧
      ((pa.map s.repairs).getD false = true → exec .storePerformed s = .next s)) ∧
    (∀ bun sc rel loc bs held, (s.thread r).stores = .write bun sc rel loc bs :: rest →
      held = ((s.thread r).behind k loc bs.length || (rel && !((s.thread r).doneBefore k)) || s.lowerWrites bun r loc bs.length ||
        (((placeOf loc).pa).map (s.pathHeld (s.partOf r))).getD false) →
      (held = true → exec .storePerformed s = .next s) ∧
      (held = false → exec .storePerformed s = .next ((s.upd r Thread.popStore).storeNow r sc rel (placeOf loc) bs))) ∧
    (∀ loc full, (s.thread r).stores = .tags loc 1 full :: rest →
      ((s.thread r).doneBefore k = true →
        exec .storePerformed s = .next ((((s.upd r Thread.popStore).release r (feScope loc)).setFull loc full).serveWord loc s.feQueue.length)) ∧
      ((s.thread r).doneBefore k = false → exec .storePerformed s = .next s)) ∧
    (∀ a, (s.thread r).loads = [] → (s.thread r).stores = .red a :: rest →
      (s.atomMay r a k = true → s.closedAt a.place = false → exec .atomicPerformed s = .next ((s.atomicAt r a).2.upd r Thread.popStore)) ∧
      (s.atomMay r a k = true → s.closedAt a.place = true → exec .atomicPerformed s = .next ((s.refuseLate r).upd r Thread.popStore)) ∧
      (s.atomMay r a k = false → exec .atomicPerformed s = .next s)) ∧
    (∀ i, (s.thread r).stores = .maint i :: rest → s.hasThread r = true → ∃ v, exec .cacheMaintenanceComplete s = .next v ∧
      v.thread r = { s.thread r with stores := rest } ∧ (∀ q, q ≠ r → v.thread q = s.thread q) ∧ v.mem = s.mem) ∧
    (∀ ws, (s.thread r).stores = .tlbinv ws :: rest → s.hasThread r = true → ∃ v, exec .cacheMaintenanceComplete s = .next v ∧
      v.thread r = { s.thread r with stores := if s.flown ws = true then rest else (s.thread r).stores } ∧
      (∀ q, q ≠ r → v.thread q = s.thread q) ∧ v.mem = s.mem)

/-- R191, R193, R195, R199, R208, R210, R212, R276, R455: the events of caches, page walks and pages, and the changes of the memory system that
wait, which are made in the order of their acceptance (log entry 28). A request of an old GEN is returned and chooses its slice again under the
current domain. -/
def Claim.MemoryEvents : Prop :=
  ∀ (s : State),
    (∀ (r : Ref) q dom d o loc n f rest, s.arg.a = r.1 → s.arg.b = r.2 → (s.thread r).loads = .late (some q) d o loc n f :: rest →
      dom = (s.part (s.partOf r)).domain →
      ∃ v, exec .l2RequestReplay s = .next v ∧ v.mem = s.mem ∧ (∀ x, x ≠ r → v.thread x = s.thread x) ∧
        (q.1 = dom.gen → dom.slices.getLsbD q.2 = true → v.thread r = s.thread r) ∧
        (q.1 ≠ dom.gen → v.thread r = { s.thread r with
          loads := .late (if dom.slices = 0 then none else some (dom.gen, sliceOf dom loc)) d o loc n f :: rest })) ∧
    (canonical s.arg.b = true → (∀ l, s.leafOf s.arg.a s.arg.c s.arg.b = some l → exec .pageWalk s = .next (s.keepLeaf s.arg.a s.arg.c s.arg.b l)) ∧
      (s.leafOf s.arg.a s.arg.c s.arg.b = none → exec .pageWalk s = .next s)) ∧
    exec .pageZeroingDone s = .next ((s.zeroing.filter (fun z => z.1 == s.arg.a)).foldl State.endZero s) ∧
    (s.bufRepair s.arg.a = false → ∃ t, exec .writeBufferCommit s = .next t ∧ t.buffered = s.buffered.filter (· != s.arg.a) ∧ t.mem = s.mem) ∧
    (∀ g t es rest, s.domNew = (g, t, es) :: rest → ∃ v, exec .domainChangeComplete s = .next v ∧ v.domNew = rest) ∧
    (∀ g t new rest, (s.part s.arg.a).laydivNew = (g, t, new) :: rest →
      ∃ v, exec .laydivChangeComplete s = .next v ∧ (v.part s.arg.a).laydiv = new ∧ (v.part s.arg.a).laydivNew = rest) ∧
    (isHost (s.arg.a * 64) = true → exec .hostSnoop s =
      .next ((s.recall 0 (s.arg.a * 64)).hostOwn (s.arg.a * 64 + s.arg.b) (s.arg.data.take (64 - s.arg.b)))) ∧
    (isHost (s.arg.a * 64) = false → exec .hostSnoop s = .next s)

/-- R253, R254, R259: the arrivals of a bundle are counted in one step, once every thread of it may arrive; a party whose threads all wait for flips
that cannot come is told so. -/
def Claim.BarrierEvents : Prop :=
  ∀ (s : State),
    (∀ r bun clu n sync d rest, s.arg.a = r.1 → s.arg.b = r.2 → (s.thread r).stores = .arrive bun clu n sync d :: rest →
      ((s.arrivers bun).all (Thread.mayArrive bun) = true → exec .barrierArrivalCounted s =
        .next ((s.arrivers bun).foldl (fun v t => v.arriveOne (t.gid, t.tid) clu n sync d) s)) ∧
      ((s.arrivers bun).all (Thread.mayArrive bun) = false → exec .barrierArrivalCounted s = .next s)) ∧
    (s.barDead s.arg.a false = true → exec .barrierDeadlockDetect s = .next ((s.liveParty s.arg.a false).foldl State.barWithdraw s)) ∧
    (s.barDead s.arg.a false = false →
      (s.barDead s.arg.a true = true → exec .barrierDeadlockDetect s = .next ((s.liveParty s.arg.a true).foldl State.barWithdraw s)) ∧
      (s.barDead s.arg.a true = false → exec .barrierDeadlockDetect s = .next s))

/-- R68, R180, R189, R191, R195, R199, R204, R208, R210, R212, R243, R253, R259, R276: the events of accesses, caches, pages and barriers. -/
def Obligations.AccessEvents : Prop := Claim.LoadEvents ∧ Claim.StoreEvents ∧ Claim.MemoryEvents ∧ Claim.BarrierEvents

/-- R218, R219, R221, R225, R231: the events of locks, copies and boxes. Once its mirror is acknowledged, a path entry clears its array and any
other entry may move bytes. -/
def Claim.LockEvents : Prop :=
  ∀ (s : State),
    (∀ op v, s.regFirst s.arg.a = some op → v = ({ s with regQueue := s.regQueue.filter (fun l => l.id != op.id) } : State) →
      (op.again = false → exec .lockEntryRegister s = .next (v.registered op)) ∧
      (op.again = true → exec .lockEntryRegister s = .next (v.lockAdd op))) ∧
    (s.regFirst s.arg.a = none → exec .lockEntryRegister s = .next s) ∧
    (∀ op, s.lockById s.arg.a = some op →
      (op.acked = false → exec .lockMirrorAck s = .next
        (({ s with locks := s.locks.map (fun l => if l.id = s.arg.a then { l with acked := true } else l) } : State).ackDo op)) ∧
      (op.acked = true → exec .lockMirrorAck s = .next s)) ∧
    (s.lockById s.arg.a = none → exec .lockMirrorAck s = .next s) ∧
    (∀ op, s.lockById s.arg.a = some op →
      (s.opMay op = true →
        (op.kind = .copy → s.copyInUnit op = true → exec .copyComplete s = .next (s.copyDone op)) ∧
        (∀ x y, op.kind = .copyT x y → s.copyInUnit op = true → exec .copyComplete s = .next (s.copyDone op)) ∧
        (∀ e j, op.kind = .box e j → exec .boxComplete s = .next (s.boxDone op e j))) ∧
      (s.opMay op = false → exec .copyComplete s = .next s ∧ exec .boxComplete s = .next s) ∧
      (s.copyInUnit op = false → exec .copyComplete s = .next s)) ∧
    (∀ e b op v, e = (s.arg.c == 1) → s.boxMay s.arg.a s.arg.b e = true → (s.ctx s.arg.a s.arg.b).eng e = some b →
      s.boxOp s.arg.a s.arg.b e b b.next = some op →
      v = s.bump.updCtx s.arg.a s.arg.b (fun c => c.setEng e (some { b with next := b.next + 1 })) →
      (v.lockReady v.regQueue op = true → exec .boxStart s = .next (v.lockAdd op)) ∧
      (v.lockReady v.regQueue op = false → exec .boxStart s = .next { v with regQueue := v.regQueue ++ [op] })) ∧
    (∀ e, e = (s.arg.c == 1) → s.boxMay s.arg.a s.arg.b e = false → exec .boxStart s = .next s)

/-- R289, R291, R295: commands come into a stream's window, one that is ready issues on each core in the order of R291, and the earliest that may
retires; a stream that waits for arrivals that cannot come faults after 4,096 cycles. A line is not fetched through a column under repair or a slice that
holds requests (R20, R208), nor before a command of the stream that issues in the same cycle (R295). -/
def Claim.SequencerEvents : Prop :=
  ∀ (s : State),
    (∀ m n ws v, (s.group s.arg.a).stream = some m → m.ended = false → m.fault = none → m.window.length < 16 →
      (s.fetchHeld (s.group s.arg.a).part (s.group s.arg.a).core m.fetch.toNat = true ∨ s.issuesNow s.arg.a = true →
        exec .streamLineFetch s = .next s) ∧
      (s.fetchHeld (s.group s.arg.a).part (s.group s.arg.a).core m.fetch.toNat = false → s.issuesNow s.arg.a = false →
      s.fetch (s.group s.arg.a).part (s.group s.arg.a).core m.fetch.toNat = (.line n ws, v) → parityGood ws = true → (lineStarts ws).isSome = true →
      exec .streamLineFetch s = .next (State.acceptLine s.arg.a ws 5 v))) ∧
    (∀ cyc, cyc = 2 * s.now + s.arg.b + 1 →
      (∀ g k, s.issueNext s.arg.a cyc = some (g, k) →
        exec .streamCommandIssue s = .next { s.updStream g (fun m => { m with served := cyc }) with command := some (g, k) }) ∧
      (s.issueNext s.arg.a cyc = none → exec .streamCommandIssue s = .next s)) ∧
    (∀ m c, s.streamOf s.arg.a = some m → m.window.find? (m.mayRetire s.now) = some c →
      exec .streamCommandRetire s = .next (s.updStream s.arg.a (fun x =>
        { x with window := x.window.filter (fun y => y.seq != c.seq), retired := (x.retired + 1) % 65536 }))) ∧
    (∀ m, s.streamOf s.arg.a = some m → s.coreOpen (s.group s.arg.a).core (s.group s.arg.a).part = true →
      (s.mwaitbDead s.arg.a m = false → exec .mwaitbDeadlockDetect s = .next (s.updStream s.arg.a (fun x => { x with stood := none }))) ∧
      (s.mwaitbDead s.arg.a m = true → m.stood = none →
        exec .mwaitbDeadlockDetect s = .next (s.updStream s.arg.a (fun x => { x with stood := some (s.rawClk (s.group s.arg.a).core) }))) ∧
      (∀ c rest b, s.mwaitbDead s.arg.a m = true → m.stood = some b → 4096 ≤ s.rawClk (s.group s.arg.a).core - b → m.window = c :: rest → m.fault = none →
        exec .mwaitbDeadlockDetect s = .next ((s.updStream s.arg.a (fun x => { x with window := [], stood := none })).streamFault s.arg.a causeBarerr
          ((cmdKey c.ins).elim 0 (fun k => k.id.toNat)))))

/-- R291, R297, R312, R316, R399, R401, R402: rows enter the array and the accumulator port in the order of R291; a row that occupies the array
spends its rate in each further cycle, a held array takes none, and a full activity accumulator counts a blocked cycle. The next staging tile goes
to the stream that R291 puts first, and its fetch phase begins. A ladder pass is decided. What a command does to the registers it did at issue (log
entry 26); the cycles are the model's (log entry 4). -/
def Claim.RowEvents : Prop :=
  ∀ (s : State),
    (∀ core array clk v, core = s.arg.a → array = (s.arg.b == 0) → clk = s.clk core + s.arg.c →
      v = (if array then s.rowGoesOn core clk else s) →
      (array = true → v.arrayHeld core clk = true → exec .matrixRowEntry s = .next v) ∧
      (array = false ∨ v.arrayHeld core clk = false →
        (v.rowNext core array = none → exec .matrixRowEntry s = .next v) ∧
        (∀ g k, v.rowNext core array = some (g, k) →
          (v.actFull core g.part = true → exec .matrixRowEntry s = .next (v.countBlocked core g.part s.arg.c)) ∧
          (∀ m c, v.actFull core g.part = false → g.stream = some m → m.window[k]? = some c →
            exec .matrixRowEntry s = .next (v.rowEnter g m k c clk))))) ∧
    (∀ x k, s.fetchNext (s.group s.arg.a).core = some (x, k) →
      (x.gid = s.arg.a → exec .mldwFetchStart s = .next (s.updStream s.arg.a (fun m => m.updCmd k (fun c =>
        { c with fetched := some m.ladDelta, hold := s.now + fetchTime c.ins })))) ∧
      (x.gid ≠ s.arg.a → exec .mldwFetchStart s = .next s)) ∧
    (s.fetchNext (s.group s.arg.a).core = none → exec .mldwFetchStart s = .next s) ∧
    (∀ m k c i lad t n row0 rows p, s.streamOf s.arg.a = some m → s.engineRuns (s.group s.arg.a).core (s.group s.arg.a).part = true →
      m.window.findIdx? (fun c => c.issued && decide (c.total ≤ c.rows) && c.prog.isSome && decide (c.hold ≤ s.now)) = some k →
      m.window[k]? = some c → c.ins = .mstr i lad t n row0 rows → c.prog = some p →
      exec .ladderPassDecide s = .next (s.passDecide s.arg.a k m t n.toNat row0.toNat (rows.toNat + 1) p))

/-- R20, R208, R218 to R231, R289 to R297, R312, R316, R402: the events of locks and engines, and those of a matrix stream. -/
def Obligations.EngineEvents : Prop := Claim.LockEvents ∧ Claim.SequencerEvents ∧ Claim.RowEvents

/-- R345, R347 to R349, R359: PRIOWs of a thread that may be applied are, one at a time; which comes first of several on different entries is a
free choice, and one behind a lower thread's of its bundle on the same entry is not among them (R348, R454; log entry 25). The oldest placement
or pixel segment of a thread takes effect in its turn over the die (log entry 25); a placement wakes its bank, and a segment what it reads (R403). -/
def Claim.SampleStoreEvents : Prop :=
  ∀ (s : State) (r : Ref) (x : Display), s.arg.a = r.1 → s.arg.b = r.2 →
    (s.priows r = [] → exec .separatorApply s = .next s) ∧
    (∀ k n m w v, s.priows r = [k] → (s.thread r).stores[k]? = some (.priow n m w v) →
      exec .separatorApply s = .next ((s.updDisp (s.dieOf r) (fun y =>
        match tileOf y.cfg w with
        | some i => y.setMap m i v.toNat
        | none => y)).upd r (fun t => t.performed k))) ∧
    (∀ k n w, s.priows r = [k] → (s.thread r).stores[k]? = some (.priowWt n w) →
      exec .separatorApply s = .next ((s.updDisp (s.dieOf r) (fun y => { y with weights := w })).upd r (fun t => t.performed k))) ∧
    (2 ≤ (s.priows r).length → ∃ k ∈ s.priows r, exec .separatorApply s = .next ((s.sepTake r k).drawn)) ∧
    (∀ k n m w v, (s.thread r).stores[k]? = some (.priow n m w v) →
      (∃ q ∈ s.threads, q.tid < (s.thread r).tid ∧ ∃ y, .priow n m w y ∈ q.stores) → k ∉ s.priows r) ∧
    (∀ n blk rest i, (s.thread r).stores = .vput n blk false false :: rest →
      (s.firstOrdered r n = true → (s.die (s.dieOf r)).display = some x → sampleTile x.cfg (hdrW blk 0) = some i →
        exec .vatPlacement s = .next ((s.place (s.dieOf r) x.cfg.vd i blk).upd r (fun t => { t with stores := rest }))) ∧
      (s.firstOrdered r n = false → exec .vatPlacement s = .next s)) ∧
    (∀ o rest, (s.die s.arg.a).overlap = o :: rest → ∃ t, exec .overlapIngest s = .next t ∧ t.groups = s.groups) ∧
    (∀ k row x0 rest op, (s.thread r).stores = .rowput k row x0 :: rest → s.lockById k = some op →
      (s.rowputBefore op row = true ∨ op.acked = false ∨ s.opRepairs op = true → exec .rowputCopy s = .next s) ∧
      (s.rowputBefore op row = false → op.acked = true → s.opRepairs op = false → (s.die op.die).display = some x →
        (s.rowLocked x row = true → exec .rowputCopy s =
          .next (((s.updDisp op.die (fun y => y.count 4 1)).lockDrop k).upd r (fun t => { t with stores := rest }))) ∧
        (∀ z bs, s.rowLocked x row = false → op.src = [z] → s.engRead op.gid z.sp z.lo z.len = .ok bs → exec .rowputCopy s =
          .next ((((s.engTouch op.gid z.sp z.lo z.len).updDisp op.die (fun y => y.deliver row x0 (wordsOfBytes bs))).lockDrop k).upd r (fun t => { t with stores := rest })))))

/-- R336, R338 to R341, R344, R346, R461, R463: the Separator visits its rows and issues positions, and the row engine locks rows; firmware enables
it with the sink's block for the die's eye, if that is valid, with the panel within the limits of R462 and every partition of the die dividing
its Vat alike, and disables it. Where the held image may lie and what the environment gives firmware are the model's choice (log entry 11). -/
def Claim.DisplayEvents : Prop :=
  ∀ (s : State) (x : Display) (die : Nat), s.arg.a = die →
    ((s.die die).display = some x →
      (x.visitAt x.visit ≤ (s.dtb : Int) → ∃ t, exec .separatorVisit s = .next t ∧ t.mem = s.mem ∧
        ((t.die die).display).map (fun y => y.visit) = some (DispCfg.nextVisit x.cfg x.visit)) ∧
      (∀ p rest n, x.queue = p :: rest → s.sampleNode die = some n →
        (x.deadline p.2.2 ≤ (s.dtb : Int) → exec .positionIssue s = .next (s.dropPos die x (some n) rest)) ∧
        ((s.dtb : Int) < x.deadline p.2.2 → x.waiting = false →
          (∀ k, n.firstEmpty = some k → exec .positionIssue s = .next (s.issuePos die x n p rest)) ∧
          (n.firstEmpty = none → exec .positionIssue s = .next (s.updDisp die (fun y => { y with waiting := true })))) ∧
        ((s.dtb : Int) < x.deadline p.2.2 → x.waiting = true → exec .positionIssue s = .next s)) ∧
      ((s.dtb : Int) < x.light x.nl - 4096 → exec .rowLock s = .next s) ∧
      (x.light x.nl - 4096 ≤ (s.dtb : Int) → ∃ t, exec .rowLock s = .next t ∧ t.threads = s.threads ∧
        (t.die die).display = some { x with lines := x.lines.filter (fun p => p.1 != x.nl), nl := x.nl + 1 })) ∧
    exec .separatorHeaderRetry s = .next (s.updDisp die (fun y =>
      match s.sampleNode die with
      | some n => if n.firstEmpty.isSome then { y with waiting := false } else y
      | none => { y with waiting := false })) ∧
    (∀ e c p vat, s.arg.disp = some e → s.outputOf die = some p → die < 2 → (s.die die).display = none → vat = layVat p.laydiv →
      c = s.dispCfg die s.arg.data e → blkValid s.arg.data die = true → dispValid c die vat ((s.arg.data.getD 18 0).getLsbD 0) = true →
      s.parts.all (fun q => !(q.onDie die) || q.vatIs vat) = true →
      ∃ t, exec .rowEngineEnable s = .next t ∧ t.threads = s.threads ∧ t.groups = s.groups ∧
        (t.die die).display = some (Display.start c vat ((s.dtb + 1023) / 1024 * 1024)) ∧ (t.die die).vatHeads = []) ∧
    (∀ e, s.arg.disp = some e → blkValid s.arg.data die = false → exec .rowEngineEnable s = .next s) ∧
    exec .rowEngineDisable s = .next (s.updDie die (fun d => { d with display := none, vatHeads := [] }))

/-- R366 to R385: the fixed-function nodes of a die, outside a repair of a column (R20) and once an entry's mirror stands (R219): triangles binned, bins rasterised, fragments blended,
segments added, paths closed, behind what their closers have not performed, and rays traced, with the memory that they read awake (R403). -/
def Claim.FixedNodeEvents : Prop :=
  ∀ (s : State) (r : Ref), s.arg.a = r.1 → s.arg.b = r.2 →
    (∀ draw seq blk rest w v, (s.thread r).stores = .tri draw seq blk :: rest → s.triFirst draw seq = true → s.unacked draw = false → s.repair = [] →
      v = s.upd r (fun t => { t with stores := rest }) → (v.die (v.dieOf r)).drawBy draw = some w → w.st = .opened →
      exec .triangleBin s = .next (v.binTri (v.dieOf r) w seq blk)) ∧
    (∀ w, (s.die s.arg.a).draw s.arg.b = some w →
      (∀ f rest, w.emit = f :: rest → exec .binRasterise s = .next (s.emitFrag s.arg.a w f rest)) ∧
      (w.emit = [] → w.st = .opened → w.ending = true → w.rastered = false → s.trisLeft w.lock = false → exec .binRasterise s =
        .next (s.updDraw s.arg.a w.lock (fun y => { y with emit := y.fragments, rastered := true, tris := if drawKeep y.desc then y.tris else [] })))) ∧
    (∀ w f v c, (s.die s.arg.a).draws.findSome? (fun w => (firstReady [] w.frags).map (fun f => (w, f))) = some (w, f) → s.repair = [] →
      s.blendApply s.arg.a w f (f.ans.getD blendNone) = (v, c) →
      exec .blendRecord s = .next (v.updDraw s.arg.a w.lock (fun y => { y with frags := y.frags.erase f, fail := y.fail.or c }))) ∧
    (∀ path kind blk rest w v, (s.thread r).stores = .curve path kind blk :: rest → s.unacked path = false → v = s.upd r (fun t => { t with stores := rest }) →
      (v.die (v.dieOf r)).pathBy path = some w → w.st = .opened →
      exec .curveSegmentAdd s = .next (v.addSegment (v.dieOf r) w kind blk)) ∧
    (∀ w eo, (s.die s.arg.a).path s.arg.b = some w → w.rule = some eo → w.st = .opened → s.curvesLeft w.lock = false → s.unacked w.lock = false →
      (s.closers w.lock).any s.owes = false → ∃ t, exec .pathClose s = .next t ∧ t.groups = s.groups ∧ (∀ l ∈ t.locks, l.id ≠ w.lock)) ∧
    (∀ ray root any cullb rest y, (s.thread r).loads = .trace ray root any cullb :: rest →
      (s.thread r).doneBefore (s.thread r).loadNo = true → s.repair = [] → y = s.walkRay r ray any cullb 65536 [.node root.toNat 1] [] →
      y.fault = none → exec .traceComplete s = .next (y.read.foldl (fun v a => v.engTouch r.1 .glob a 128)
        (s.upd r (fun t => { t with loads := rest, hit := y.result.1, hitSt := y.result.2 }))))

/-- R338 to R349, R359: the events of the Separator, the Vat and the row engine. R366 to R385: those of the fixed-function nodes. -/
def Obligations.FixedUnitEvents : Prop := Claim.SampleStoreEvents ∧ Claim.DisplayEvents ∧ Claim.FixedNodeEvents

/-- R82, R83, R393 to R396, R399, R402, R405, R426: the dispatcher's events; a context that is saved away keeps its activity, and what
an entry of a launch names is awake before it is placed. -/
def Obligations.DispatchEvents : Prop :=
  ∀ (s : State),
    (∀ n, s.node s.arg.a s.arg.b s.arg.c = some n → n.id ≠ 1022 →
      (n.pending ≠ [] → nodeThr n.desc ≤ n.pending.length ∨ n.producers = 0 → exec .nodeLaunch s = .next (s.nodeGo n)) ∧
      (n.pending.length < nodeThr n.desc → n.producers ≠ 0 → exec .nodeLaunch s = .next s) ∧
      (∀ p rest, n.pending = p :: rest → nodeAge n.desc ≤ s.dieClk n.die - p.2 → exec .nodeAgeExpiry s = .next (s.nodeGo n))) ∧
    ((s.part s.arg.b).contained = false → (s.part s.arg.b).inReset = false →
      (∀ l rest v, s.scanOrder s.arg.a s.arg.b = l :: rest → (s.wakeEntries l s.arg.a).tryPlace l s.arg.a [] = .done v → exec .dispatchPlace s = .next v) ∧
      (∀ l rest, s.scanOrder s.arg.a s.arg.b = l :: rest → (s.wakeEntries l s.arg.a).tryPlace l s.arg.a [] = .bad →
        exec .dispatchPlace s = .next ((s.wakeEntries l s.arg.a).placeFail l))) ∧
    (s.groupDone s.arg.a = true → exec .groupRetire s = .next (s.retire s.arg.a)) ∧
    (s.groupDone s.arg.a = false → exec .groupRetire s = .next s) ∧
    ((s.group s.arg.a).current = false → (s.group s.arg.a).release ≤ s.dtb → exec .sliceRelease s = .next (s.sliceBegin s.arg.a)) ∧
    ((s.group s.arg.a).current = false → s.dtb < (s.group s.arg.a).release → exec .sliceRelease s = .next s) ∧
    ((s.group s.arg.a).current = true → hdrBudget (s.group s.arg.a).hdr ≠ 0 → (s.group s.arg.a).left = 0 →
      ∃ t, exec .budgetExhausted s = .next t ∧ t.mem = s.mem ∧ t.threads = s.threads ∧
        t.waves = s.waves.map (fun w =>
          if w.gid = s.arg.a ∧ s.threads.any (fun q => q.gid == s.arg.a && q.live && q.tid / hdrWave (s.group s.arg.a).hdr == w.wid) = true then
            { w with cause := w.cause ||| causeBit causeBudget } else w) ∧
        t.groups = s.groups.map (fun g => if g.gid = s.arg.a then g.sliceEnd s.dtb else g)) ∧
    exec .activityWindow s = .next { s with ctxs := s.ctxs.map (fun c =>
      if c.core = s.arg.a ∧ s.holds c.core c.part = true then { c with act := c.act - 96 } else c) } ∧
    exec .occupancyWindow s = .next (s.updCore s.arg.a (fun c => { c with occupied := 0 }))

/-- R429, R430: the halt line and the watchdog stop a partition, and firmware lets it go on. The watchdog counts from when a handler-mode thread was
first ready without an issue, and from when the core last issued while a thread was ready. -/
def Claim.HaltEvents : Prop :=
  ∀ (s : State),
    (1 ≤ s.arg.b → s.arg.b ≤ 5 → s.arg.a < 4 → exec .haltLineRise s = .next (s.raiseHalt s.arg.a s.arg.b s.arg.c s.arg.d)) ∧
    (∀ t b, s.threads.filter (fun x => (s.group x.gid).core == s.arg.a) = [t] → s.ready t = true → s.rawClk s.arg.a = b →
      (∀ a, t.stood = some a → a + 2 ^ 20 ≤ b → exec .watchdogExpiry s = .next (s.halt (s.group t.gid).part 4 s.arg.a t.gid)) ∧
      (∀ a, t.stood = none → (s.coreSt s.arg.a).stalled = some a →
        (a + 2 ^ 26 ≤ b → exec .watchdogExpiry s = .next (s.halt (s.group t.gid).part 4 s.arg.a t.gid)) ∧
        (b < a + 2 ^ 26 → exec .watchdogExpiry s = .next s)) ∧
      (t.stood = none → (s.coreSt s.arg.a).stalled = none → exec .watchdogExpiry s = .next s)) ∧
    ((s.part s.arg.a).contained = true → (s.part s.arg.a).stopped = false → exec .partitionResume s = .next (s.resume s.arg.a)) ∧
    ((s.part s.arg.a).contained = false ∨ (s.part s.arg.a).stopped = true → exec .partitionResume s = .next s) ∧
    (s.arg.a < 4 → exec .memoryUncorrectable s = .next (s.raiseHalt s.arg.a 1 s.arg.b s.arg.c) ∧
      exec .fabricError s = .next (s.raiseHalt s.arg.a 2 s.arg.b s.arg.c)) ∧
    (s.arg.a = 1 → exec .bridgeUncorrectable s = .next (s.halt 0 2 s.arg.b s.arg.c))

/-- R13, R18, R20, R398, R403, R433: heat, power, repair and spares. What each event carries, that firmware gates only an engine that is idle and how
it maps a spare in are the model's choices (log entry 31), the predictions of a thermal cell too (log entry 16); an event that cannot happen
changes nothing (log entry 3). -/
def Claim.PowerEvents : Prop :=
  ∀ (s : State),
    exec .thermalAdmissionStop s = .next (s.updDie s.arg.a (fun d =>
      { d with cells := d.cells.set s.arg.b (BitVec.ofNat 32 s.arg.c, BitVec.ofNat 32 s.arg.d) })) ∧
    exec .thermalClockHalve s = .next (s.setHalf s.arg.a true) ∧
    exec .thermalClockRestore s = .next ((s.setHalf s.arg.a false).updDie s.arg.a (fun d => { d with arraysGated := false })) ∧
    (∃ t, exec .thermalArrayGate s = .next t ∧ t.threads = s.threads ∧ (∀ k, k < 64 → Engine.array (64 * s.arg.a + k) ∈ t.gated) ∧ ∀ e ∈ s.gated, e ∈ t.gated) ∧
    exec .engineWake s = .next { s with gated := s.gated.filter (fun e => some e != s.arg.engine) } ∧
    (∀ e, s.arg.engine = some e → s.idle e = true → e ∉ s.gated → exec .engineGate s = .next { s with gated := s.gated ++ [e] }) ∧
    (∀ e, s.arg.engine = some e → s.idle e = false → exec .engineGate s = .next s) ∧
    (128 ≤ s.arg.a → exec .vbusLaneRepair s = .next s) ∧
    (∀ k, k = ((s.lanes.find? (fun l => l.1 == s.arg.a)).map (fun l => l.2)).getD 0 → s.arg.a < 128 →
      (k + s.arg.b ≤ 16 → exec .vbusLaneRepair s = .next { s with
        repair := insertNat s.arg.a s.repair,
        lanes := upsert (fun l => l.1 == s.arg.a) (s.arg.a, 0) (fun l => (l.1, l.2 + s.arg.b)) s.lanes }) ∧
      (16 < k + s.arg.b → exec .vbusLaneRepair s = .next s)) ∧
    exec .vbusRepairComplete s = .next { s with repair := s.repair.filter (· != s.arg.a) } ∧
    (∀ n, s.arg.a = n → s.arg.c = 0 → n < 160 → (∀ g ∈ s.groups, g.core ≠ n) →
      (s.arg.b = 0 → s.spares.contains n = false →
        (s.spareLeft n = true → exec .spareRemap s =
          .next (({ s with spares := insertNat n s.spares } : State).updCore n (fun c => { c with remapped := true }))) ∧
        (s.spareLeft n = false → exec .spareRemap s = .next s)) ∧
      (s.arg.b ≠ 0 → exec .spareRemap s =
        .next (({ s with spares := s.spares.filter (fun k => k != n) } : State).updCore n (fun c => { c with remapped := false })))) ∧
    (s.arg.c ≠ 0 → s.arg.a < 2 → exec .spareRemap s = .next { s with spareWays := s.spareWays ++ [s.arg.a] }) ∧
    exec .moduleOutOfService s = .next { s with modules := Nat.min 6 (s.modules + 1) } ∧
    exec .bridgeRetry s = .next s ∧ exec .backgroundScrub s = .next s

/-- R6, R277, R386, R456 to R459, R461, R464, R467 to R469: the host's mailboxes, registers, memory accesses, timebase and reports. What each event
carries, that a pairing message acts with its control word (log entry 11), that an event that cannot happen changes nothing (log entry 3), the rate
of the timebase (log entry 4), where firmware's reserved regions lie (log entry 11), and the masking of vectors, the writes to BAR0, the bytes that the
host has read and the answer to a report (log entry 30) are the model's choices. -/
def Claim.HostEvents : Prop :=
  ∀ (s : State),
    (s.mailDrops s.arg.a = false →
      (∀ t, t = s.updMailbox s.arg.a (fun m => { m with full := true, tag := BitVec.ofNat 16 s.arg.b }) →
        (pairing (s.arg.b % 2 ^ 16) (t.mailbox s.arg.a).bytes = none → exec .mailboxControlWrite s = .next t) ∧
        (∀ eye, pairing (s.arg.b % 2 ^ 16) (t.mailbox s.arg.a).bytes = some eye →
          exec .mailboxControlWrite s = .next { t with eyes := eye :: t.eyes.filter (fun x => x.1 != eye.1) })) ∧
      (s.arg.b + s.arg.data.length ≤ 64 → exec .mailboxMessageWrite s =
        .next (s.updMailbox s.arg.a (fun m => { m with msg := putMsg m.msg s.arg.b s.arg.data })))) ∧
    (s.mailDrops s.arg.a = true → exec .mailboxControlWrite s = .next s ∧ exec .mailboxMessageWrite s = .next s) ∧
    (s.inReset = false →
      exec .rstreq s = .next { s with rstreq := s.rstreq ||| (BitVec.ofNat 32 s.arg.a &&& 0xF) } ∧
      (s.arg.a ≤ 63 → exec .hmring s = .next (s.updHostBox s.arg.a (fun b => b.write (BitVec.ofNat 64 s.arg.b)))) ∧
      (s.arg.c ≠ 0 → exec .hostMemoryAccess s = .next (s.hostWrite s.arg.a s.arg.data))) ∧
    (s.inReset = false → s.arg.c = 0 →
      exec .hostMemoryAccess s = .next { s with hostData := (List.range s.arg.b).map (fun k => s.hostRead (s.arg.a + k)) }) ∧
    (∀ pa, (reserved pa = true ∨ fittedLpddr ≤ pa → s.hostRead pa = 0) ∧
      (reserved pa = false → pa < fittedLpddr → s.hostRead pa = s.below pa)) ∧
    (s.inReset = true → exec .hostMemoryAccess s = .next s ∧ exec .ptmExchange s = .next s ∧ exec .attestationReport s = .next s ∧
      ∀ off, s.bar0Word off = 0) ∧
    exec .bar0Write s = .next s ∧ exec .configurationRequest s = .next s ∧
    (∀ rate : Int, rate = (s.arg.b : Int) - s.arg.c → s.inReset = false →
      exec .ptmExchange s = .next { s with
        ptm := [BitVec.ofNat 64 s.arg.a, BitVec.ofNat 64 s.dtb], dtbBase := s.dtb, dtbFrac := s.dtbUnits % 325000000, dtbNow := s.now,
        slew := if rate.natAbs ≤ 200 then rate else s.slew }) ∧
    (s.inReset = false →
      (s.arg.b % 4096 = 0 → s.arg.b + 4096 ≤ 2 ^ 51 → s.arg.c = 0 → exec .attestationReport s =
        .next ((s.writeSys (0x8000000000000 + s.arg.b) (s.report s.arg.data)).answer s.arg.a s.arg.d 0)) ∧
      (s.arg.b % 4096 ≠ 0 ∨ 2 ^ 51 < s.arg.b + 4096 ∨ s.arg.c ≠ 0 → exec .attestationReport s = .next (s.answer s.arg.a s.arg.d 3))) ∧
    (s.arg.b = 0 → exec .msixVectorUnmask s = .next { s with
      msixMask := s.msixMask.filter (· != s.arg.a), msixPending := s.msixPending.filter (· != s.arg.a),
      msixSent := if s.msixPending.contains s.arg.a then s.msixSent ++ [s.arg.a] else s.msixSent }) ∧
    (s.arg.b ≠ 0 → exec .msixVectorUnmask s = .next { s with msixMask := insertNat s.arg.a s.msixMask })

/-- R14, R21 to R23, R28, R465, R466, R469, R470: the resets of the device and of a partition, and its release. An image is verified before it
runs (whether a signature verifies is a free value, log entry 11), and its digest extends its register; with a refused one the device or the partition stays in reset. The straps and firmware's choice give the
power class; a release that takes something of another partition changes nothing; one that may be made leaves the reference division. What the
events carry and what firmware may assign are the model's choices (log entry 11). -/
def Claim.ResetEvents : Prop :=
  ∀ (s : State),
    (s.inReset = false → s.arg.a < 4 →
      (∀ prog v, s.arg.c = 0 → s.arg.images = [prog] → v = s.resetPart s.arg.a →
        exec .partitionReset s = .next (if v.verified prog = true then
          ((v.measureInto (2 + s.arg.a) prog.digest).updPart s.arg.a (fun p => { p with inReset := false })).startResident s.arg.a s.arg.b
            (prog.body.take 128)
          else v.updPart s.arg.a (fun p => { p with inReset := true }))) ∧
      (s.arg.c = 0 → s.arg.images = [] → exec .partitionReset s = .next (s.resetPart s.arg.a)) ∧
      (s.arg.c ≠ 0 → exec .partitionReset s = .next ((s.clearPart s.arg.a).updPart s.arg.a (fun p => { p with inReset := true }))) ∧
      (∀ c prog, s.arg.part = some c → s.arg.images = [prog] → s.groups.any (fun g => g.part == s.arg.a) = false →
        (s.mayAssign s.arg.a c = true → exec .partitionRelease s = .next (if s.verified prog = true then
          ((s.assign s.arg.a c).assignMail s.arg.a (s.arg.c % 256) (s.arg.c / 256) (s.arg.d % 64) (s.arg.d / 64)).programRuns s.arg.a s.arg.b prog
          else s)) ∧
        (s.mayAssign s.arg.a c = false → exec .partitionRelease s = .next s))) ∧
    (∀ i : Image, s.rollback ≤ i.version → i.length = i.body.length → i.digest = sha3 i.body →
      s.verified i = Config.verifies (toBytes 8 i.length ++ toBytes 8 i.version ++ toBytes 32 i.digest) i.sign) ∧
    (∀ i : Image, i.version < s.rollback ∨ i.length ≠ i.body.length ∨ i.digest ≠ sha3 i.body → s.verified i = false) ∧
    (∀ q c, ((s.assign q c).part q).laydiv = laydivReset ∧
      (∀ k, (k, q) ∈ (s.assign q c).held → c.clusters.getLsbD k = true ∧
        ((k, q) ∈ s.held ∨ ∀ p ∈ s.parts, ∀ e ∈ p.saved, e.clusters.getLsbD k = false))) ∧
    (∀ fw prog, s.arg.images = [fw, prog] →
      (∀ k, s.inReset = true → k = Nat.min (s.arg.a % 4) (s.arg.c % 4) →
        exec .perstDeassert s = .next (if s.verified fw = true ∧ s.verified prog = true then
          ({ s.bringUp fw with
             powerClass := if k = 0 then 120 else if k = 1 then 150 else if k = 2 then 220 else 300 } : State).programRuns 0 s.arg.b prog
          else s)) ∧
      (s.inReset = false → exec .perstDeassert s = .next s)) ∧
    exec .perstAssert s = .next s.inDeviceReset

/-- R13, R14, R18, R20 to R23, R28, R386, R398, R403, R429, R430, R433, R456 to R470: the events of the platform, of firmware and of the host. -/
def Obligations.PlatformEvents : Prop := Claim.HaltEvents ∧ Claim.PowerEvents ∧ Claim.HostEvents ∧ Claim.ResetEvents

/-! ### Loads, stores and their refusals: frames and traps -/

/-- R175, R180, R182: a plain store to lane, core, cluster or chip memory that stands behind nothing changes its bytes and no others, and of the
machine's threads only its own, which moves on and counts the store. To a global address while no page is being zeroed, its own core sees the bytes
at once, no other address changes for any core, and nothing below the caches changes; the thread notes the write buffer that the address concerns.
That the store takes effect at issue, in the core's data cache, and that one that stands behind an earlier operation of its thread, or the store
of a lower thread of its bundle, does so later, are the model's choices (log entries 5 and 6). -/
def Obligations.StoreFrames : Prop :=
  ∀ (s : State) (g : Guard) (r : Ref) (u v : State) (sp : Space) (sz : Size) (ux : Bool) (d a : Reg) (b : Src) (bs : List Byte), Runs s.bump g r u →
    bs = storeBytes sz ((s.thread r).block d sz.regs) → bs.length = Size.bytes sz →
    (∀ loc, u.check r sp (u.ea r sp a (Size.bytes sz) ux b) (Size.bytes sz) (Size.bytes sz) true false = .ok (.own loc, v) →
      s.trails r loc (Size.bytes sz) = false → s.lowerWrites s.serial r loc (Size.bytes sz) = false →
      ∃ t, exec (.st g sp sz ux .plain d a b) s = .next t ∧ t.mem.readN loc (Size.bytes sz) = bs ∧
        (∀ x, x < loc ∨ loc + Size.bytes sz ≤ x → t.mem.read x = s.mem.read x) ∧ t.dcache = s.dcache ∧ t.l2 = s.l2 ∧ t.ways = s.ways ∧
        t.waves = s.waves ∧ t.groups = s.groups ∧ (∀ q, q ≠ r → t.thread q = s.thread q) ∧
        t.thread r = { s.thread r with
          pc := s.bnd.npc, ops := (s.thread r).ops + 1, stores := (s.thread r).stores ++ [.store .cor none], storeAt := (t.thread r).storeAt }) ∧
    (∀ pa, u.check r sp (u.ea r sp a (Size.bytes sz) ux b) (Size.bytes sz) (Size.bytes sz) true false = .ok (.phys pa, v) →
      s.trails r pa (Size.bytes sz) = false → s.lowerWrites s.serial r pa (Size.bytes sz) = false → s.zeroing = [] → pa + 16 ≤ 2 ^ 56 →
      ∃ t, exec (.st g sp sz ux .plain d a b) s = .next t ∧ (List.range (Size.bytes sz)).map (fun k => t.seen (s.coreOf r) (pa + k)) = bs ∧
        (∀ core x, x < 2 ^ 56 → x < pa ∨ pa + Size.bytes sz ≤ x → t.seen core x = s.seen core x) ∧
        (∀ core x, x < 2 ^ 56 → core ≠ s.coreOf r → t.seen core x = s.seen core x) ∧ t.mem = s.mem ∧ t.l2 = s.l2 ∧ t.ways = s.ways ∧
        t.waves = s.waves ∧ t.groups = s.groups ∧ (∀ q, q ≠ r → t.thread q = s.thread q) ∧
        t.thread r = { (s.lay r (.phys pa)).thread r with
          pc := s.bnd.npc, ops := (s.thread r).ops + 1, stores := (s.thread r).stores ++ [.store .cor (some pa)],
          storeAt := (t.thread r).storeAt })

/-- R170, R172, R175, R198, R201, R226: what the check of an access answers, in the order of R175: the first cause that applies. The state v is any. -/
def Claim.AccessChecks : Prop :=
  ∀ (v : State) (r : Ref) (sp : Space) (ea n : Nat) (st : Bool) (hit : Bool),
    hit = (match v.rngOf r sp ea n with
      | some x => v.lockHit (v.dieOf r) (v.partOf r) x st
      | none => false) →
    (sp = .glob → canonical ea = false → v.check r sp ea n n st false = .error causeXlate) ∧
    ((sp = .glob → canonical ea = true) → ea % n ≠ 0 → v.check r sp ea n n st false = .error causeAlign) ∧
    (ea % n = 0 →
      (sp = .lane ∧ hdrLane (v.group r.1).hdr < ea + n) ∨ (sp = .core ∧ hdrScratch (v.group r.1).hdr < ea + n) ∨
        (sp = .cmem ∧ v.cmemSize r.1 < ea + n) ∨
        (sp = .chip ∧ (2 ^ 25 ≤ ea ∨ ((v.part (v.partOf r)).window.getD (chipDie ea) (0, 0)).2 < ea % 2 ^ 24 + n)) →
      v.check r sp ea n n st false = .error causeAccess) ∧
    (∀ c, sp = .glob → canonical ea = true → ea % n = 0 → v.page (v.partOf r) (v.coreOf r) ea n (if st then .write else .read) = .error c →
      v.check r sp ea n n st false = .error c) ∧
    (ea % n = 0 → hit = true →
      (sp = .core ∧ ea + n ≤ hdrScratch (v.group r.1).hdr) ∨ (sp = .cmem ∧ ea + n ≤ v.cmemSize r.1) ∨
        (sp = .chip ∧ ea < 2 ^ 25 ∧ ea % 2 ^ 24 + n ≤ ((v.part (v.partOf r)).window.getD (chipDie ea) (0, 0)).2) ∨
        (sp = .glob ∧ canonical ea = true ∧ ∃ p, v.page (v.partOf r) (v.coreOf r) ea n (if st then .write else .read) = .ok p) →
      v.check r sp ea n n st false = .error causeLockhit)

/-- R168, R170, R175, R422: a load or a store, of any order, whose address fails a check of R175 raises the cause that the check gives and has no
effect: memory is unchanged, the cause is set in the thread's wave, and outside handler mode the thread stays at the instruction where the cause
is enabled and goes on where it is not. -/
def Claim.RefusedAccesses : Prop :=
  ∀ (s : State) (g : Guard) (r : Ref) (u : State) (d a : Reg), Runs s g r u →
    (∀ sp sz ux o b c, u.check r sp (u.ea r sp a (Size.bytes sz) ux b) (Size.bytes sz) (Size.bytes sz) false false = .error c →
      exec (.ld g sp sz ux o d a b) s = .next (u.fail r c)) ∧
    (∀ sp sz ux o b c, (storeBytes sz ((s.thread r).block d sz.regs)).length = Size.bytes sz →
      u.bump.check r sp (u.ea r sp a (Size.bytes sz) ux b) (Size.bytes sz) (Size.bytes sz) true false = .error c →
      exec (.st g sp sz ux o d a b) s = .next (u.bump.fail r c)) ∧
    (∀ (k : BitVec 8) c, g = .always →
      (u.check r .core ((s.thread r).reg a + 4 * k.setWidth 32).toNat 4 4 false false = .error c →
        exec (.ldCompact d a k) s = .next (u.fail r c)) ∧
      (u.bump.check r .core ((s.thread r).reg a + 4 * k.setWidth 32).toNat 4 4 true false = .error c →
        exec (.stCompact d a k) s = .next (u.bump.fail r c))) ∧
    (∀ c, c < 64 → (s.thread r).handler = false →
      (u.fail r c).mem = s.mem ∧ (u.fail r c).waves = s.waves.map (fun w =>
        if w.gid = r.1 ∧ w.wid = s.widOf r then { w with cause := w.cause ||| BitVec.ofNat 64 (2 ^ c) } else w) ∧
      (u.fail r c).thread r = { s.thread r with
        pc := if (s.waveOf r).tmask.getLsbD c = true then s.bnd.pc else s.bnd.npc } ∧
      (∀ q, q ≠ r → (u.fail r c).thread q = s.thread q))

/-- R168, R170, R172, R175, R198, R201, R226, R422: the checks of an access, and a load or store that fails one. -/
def Obligations.FailedAccesses : Prop := Claim.AccessChecks ∧ Claim.RefusedAccesses

/-! ### The whole machine -/

/-- R14, R21, R30, R194, R196, R386: the state right after device reset. Partition 0 holds every cluster, every control core and both outputs,
with its domain and division; the other partitions hold nothing; `%dtb` and every core's `%clk` read 0; every mailbox is partition 0's. -/
def Obligations.ResetState : Prop :=
  (State.reset.part 0).clusters = 0xFFFF ∧ (State.reset.part 0).controls = 0xFFFFFFFF ∧ (State.reset.part 0).outputs = 3 ∧
  (∀ q, 1 ≤ q → q < 4 → (State.reset.part q).clusters = 0 ∧ (State.reset.part q).controls = 0 ∧ (State.reset.part q).outputs = 0 ∧
    (State.reset.part q).domain.slices = 0 ∧ (State.reset.part q).domain.nh = 0) ∧
  (State.reset.part 0).domain.slices = 0xFFFFFFFF ∧ (State.reset.part 0).domain.nh = 5 ∧ (State.reset.part 0).domain.gen = 0 ∧
  (∀ j, j < 5 → (State.reset.part 0).domain.hs[j]? = some (BitVec.ofNat 46 (2 ^ j + 2 ^ (j + 14)))) ∧
  (∀ q, q < 4 → layWays (State.reset.part q).laydiv = 6 ∧ layVat (State.reset.part q).laydiv = 32 ∧ layShadow (State.reset.part q).laydiv = 5 ∧
    (State.reset.part q).jseq = 0) ∧
  State.reset.dtb = 0 ∧ (∀ core, State.reset.clk core = 0) ∧
  (∀ n, (State.reset.mailbox n).part = 0 ∧ (State.reset.mailbox n).full = false) ∧ (∀ h, (State.reset.hostBox h).part = 0 ∧ (State.reset.hostBox h).prod = 0) ∧
  (∀ core part, (State.reset.ctx core part).ladder = [0, 0, 0, 0, 0] ∧ (State.reset.ctx core part).bars = []) ∧
  State.reset.mem.wf = true ∧ State.reset.threads = [] ∧ State.reset.locks = [] ∧
  State.reset.dcache = [] ∧ State.reset.l2 = [] ∧ State.reset.ways = [] ∧ State.reset.lines = [] ∧ State.reset.tlbs = [] ∧ State.reset.zeroing = []

/-- R67: the step of a chosen bundle after its instruction i has answered t, where it spent from the state s. A bundle of which every thread waits
to issue again has spent nothing (R399; log entry 19). Afterwards no bundle is chosen, but for a pair: then its second instruction issues in the
next step, for the threads that go on (log entry 12). -/
def Claim.AfterIssue (s : State) (b : Bundle) (u : UsedLine) (i : Instr) (t v : State) : Prop :=
  v = (if t.issuedNone b then { t with ctxs := s.ctxs } else t) →
    (pairedWith u.words b.pc b.npc i = none ∨ b.second = true → step s = .next { v with bundle := none }) ∧
    (∀ j refs, pairedWith u.words b.pc b.npc i = some j → b.second = false → refs = b.refs.filter (s.goesOn v b u) →
      (refs = [] → step s = .next { v with bundle := none }) ∧
      (refs ≠ [] → step s = .next { v with
        bundle := some { b with pc := b.npc, npc := nextPc u.words b.npc, refs := refs, second := true, ins := none } }))

/-- R32, R40, R48, R66, R67: a step at which a bundle is chosen runs the instruction that the words at its pc decode to, on the state in which its
activity is spent and its latency noted. Words of a line that holds none, a pc at which none starts, words that decode to none, and an instruction
that R48 refuses, raise the cause for each thread of the bundle. A bundle that was held at its instruction goes on with it, without decoding or
spending again (log entry 5). -/
def Claim.BundleSteps : Prop :=
  ∀ (s : State) (b : Bundle) (r : Ref) (u : UsedLine), s.command = none → s.bundle = some b →
    b.refs.find? (fun q => (s.thread q).live) = some r → (s.thread r).line = some u →
    (∀ st ws, b.ins = none → lineStarts u.words = some st → ws = (u.words.take 15).drop (b.pc.toNat % 64 / 4) →
      (st.any (fun p => p.1 == b.pc.toNat % 64 / 4) = true →
        (∀ i n, decodeWords ws = .ok (i, n) →
          (issueCheck i (hdrRegs (s.group r.1).hdr) (isControl b.core) (s.group r.1).priv = none →
            ∀ t v, exec i { s.issueSpend b i r with bundle := some { b with lat := latencyOf i, ins := some i } } = .next t →
              Claim.AfterIssue s b u i t v) ∧
          (∀ c, issueCheck i (hdrRegs (s.group r.1).hdr) (isControl b.core) (s.group r.1).priv = some c →
            step s = .next { s.each .always (fun v q => v.fail q c) with bundle := none })) ∧
        (∀ e, decodeWords ws = .error e → step s = .next { s.each .always (fun v q => v.fail q causeIllegal) with bundle := none })) ∧
      (st.any (fun p => p.1 == b.pc.toNat % 64 / 4) = false →
        step s = .next { s.each .always (fun v q => v.fail q causeIllegal) with bundle := none })) ∧
    (b.ins = none → lineStarts u.words = none → step s = .next { s.each .always (fun v q => v.fail q causeIllegal) with bundle := none }) ∧
    (∀ i t v, b.ins = some i → exec i s = .next t → Claim.AfterIssue s b u i t v)

/-- A chosen stream command runs in the same way, and an event of the agenda on what it names (log entry 3). With nothing chosen, the schedule goes
on. -/
def Claim.OtherSteps : Prop :=
  (∀ (s : State) (g k : Nat) (m : Stream) (c : WinCmd) (t : State), s.command = some (g, k) → s.streamOf g = some m → m.window[k]? = some c →
    exec c.ins (if (pipeWeight c.ins).2 = 0 then s
      else s.spend (s.group g).core (s.group g).part (s.weightOf 5 (pipeWeight c.ins).2)) = .next t →
    step s = .next { t with command := none }) ∧
  (∀ (s : State) (e : Ev) (rest : List Ev) (t : State), s.command = none → s.bundle = none → s.agenda = e :: rest → runsOn e.row = .event →
    exec e.row { s with agenda := rest, arg := e.arg } = .next t → step s = .next { t with arg := EventArg.none }) ∧
  (∀ (s : State), s.command = none → s.bundle = none → s.agenda = [] → step s = .next s.schedule)

/-- R32, R40, R48, R66, R67: a step runs the instruction that the words at the pc decode to; how events are chosen is the model's (log entry 3). -/
def Obligations.StepRunsTheDecodedInstruction : Prop := Claim.BundleSteps ∧ Claim.OtherSteps

/-- R41, R42, R47, R54, R99: words of the spec's own encodings, read bit by bit. -/
def Obligations.WorkedWordsDecode : Prop :=
  decodeWords [0x4C020001] = .ok (.faddCompact 2 0 1, 1) ∧
  decodeWords [0x8A0300A8, 0x21004100] = .ok (.plut .always 3 0 1 2 0xA8, 2) ∧
  decodeWords [0xC6010000, 0x00004181, 0xCCCCCCCD] = .ok (.mulhi .always .n 1 0 (.lit 0xCCCCCCCD), 3) ∧
  decodeWords [0x88010103, 0x00004100] = .ok (.shr .always false 1 1 (.imm 3), 2) ∧
  decodeWords [0x9A060205, 0x00004080] = .ok (.ldt .always .plain 6 2 (.g 5), 2) ∧
  decodeWords [0xAD040000, 0x02004000] = .ok (.ladcnt .always 4 2, 2) ∧
  decodeWords [0xAD00001F, 0x00008100] = .ok (.ladclr .always (.imm 0x1F), 2) ∧
  decodeWords [0xAE060000, 0x30004000] = .ok (.carryGet .always 3 6, 2)

/-- R40 to R55: the words of every well-formed instruction that has words, with every operand at every value that its encoding admits, decode
to that instruction and its length, whatever words follow. -/
def Obligations.EncodedInstructionsDecode : Prop := ∀ i, Sys2Proof.Laws.RoundTrip.Statement i

/-- R6, R48, R55: the other direction. Words that decode give a well-formed instruction whose own encoding they are: no bit is ignored. -/
def Obligations.DecodedWordsAreTheirEncoding : Prop :=
  ∀ (ws : List Word) (i : Instr) (n : Nat), decodeWords ws = .ok (i, n) →
    i.wellFormed = true ∧ 1 ≤ n ∧ n ≤ 3 ∧ n ≤ ws.length ∧ encode i = some (ws.take n)

/-- The model's memory (log entry 1): in its canonical form a byte written is the byte read, every other byte stays, a cleared range reads 0,
and two memories that read alike at every address are the same data. -/
def Obligations.MemoryReadsWhatWasWritten : Prop :=
  (∀ (m : Memory) (a : Nat) (v : Byte), m.wf = true → (m.write a v).read a = v ∧ ∀ x, x ≠ a → (m.write a v).read x = m.read x) ∧
  (∀ (m : Memory) (a : Nat) (bs : List Byte), m.wf = true →
    (m.writeN a bs).readN a bs.length = bs ∧ ∀ x, x < a ∨ a + bs.length ≤ x → (m.writeN a bs).read x = m.read x) ∧
  (∀ (m : Memory) (a n x : Nat), (a ≤ x → x < a + n → (m.clear a n).read x = 0) ∧ (x < a ∨ a + n ≤ x → (m.clear a n).read x = m.read x)) ∧
  (∀ (m k : Memory), m.wf = true → k.wf = true → (∀ a, m.read a = k.read a) → m = k)
end

