-- ==== Sys2Proof/Laws/Access.lean ====
section
/-! SUPPORT. Everything that the shared operations of an access can do: the checks, releases, promotions, reads and writes touch the memory
side alone; a load or a store either raises the cause that its check gives or is counted. -/

-- One proof after another: many at once would need more memory than the check of the whole package has.
set_option Elab.async false

namespace Sys2Proof.Machine

theorem MemorySide.refl (s : State) : MemorySide s s := rfl

theorem MemorySide.trans {s v w : State} (h : MemorySide s v) (k : MemorySide v w) : MemorySide s w := by
  unfold MemorySide at *
  rw [h] at k
  exact k

theorem MemorySide.threads {s v : State} (h : MemorySide s v) : v.threads = s.threads := by rw [h]
theorem MemorySide.dies {s v : State} (h : MemorySide s v) : v.dies = s.dies := by rw [h]
theorem MemorySide.waves {s v : State} (h : MemorySide s v) : v.waves = s.waves := by rw [h]
theorem MemorySide.groups {s v : State} (h : MemorySide s v) : v.groups = s.groups := by rw [h]
theorem MemorySide.locks {s v : State} (h : MemorySide s v) : v.locks = s.locks := by rw [h]
theorem MemorySide.bundle {s v : State} (h : MemorySide s v) : v.bundle = s.bundle := by rw [h]
theorem MemorySide.now {s v : State} (h : MemorySide s v) : v.now = s.now := by rw [h]
theorem MemorySide.serial {s v : State} (h : MemorySide s v) : v.serial = s.serial := by rw [h]
theorem MemorySide.thread {s v : State} (h : MemorySide s v) (r : Ref) : v.thread r = s.thread r := by unfold State.thread; rw [h.threads]
theorem MemorySide.group {s v : State} (h : MemorySide s v) (g : Nat) : v.group g = s.group g := by unfold State.group; rw [h.groups]
theorem MemorySide.partOf {s v : State} (h : MemorySide s v) (r : Ref) : v.partOf r = s.partOf r := by unfold State.partOf; rw [h.group]
theorem MemorySide.coreOf {s v : State} (h : MemorySide s v) (r : Ref) : v.coreOf r = s.coreOf r := by unfold State.coreOf; rw [h.group]
theorem MemorySide.bnd {s v : State} (h : MemorySide s v) : v.bnd = s.bnd := by unfold State.bnd; rw [h.bundle]

theorem foldl_side {α : Type} (f : State → α → State) (hf : ∀ s a, MemorySide s (f s a)) (l : List α) (s : State) :
    MemorySide s (l.foldl f s) := by
  induction l generalizing s with
  | nil => exact .refl s
  | cons a l ih => exact (hf s a).trans (ih (f s a))

theorem wakeAt_side (s : State) (pa : Nat) : MemorySide s (s.wakeAt pa) := by
  unfold State.wakeAt
  split <;> rfl

theorem useLine_side (s : State) (lv : Level) (home q line : Nat) : MemorySide s (s.useLine lv home q line) := rfl

theorem endZero_side (s : State) (z : Nat × Nat) : MemorySide s (s.endZero z) := rfl

theorem settle_side (s : State) (pa : Nat) : MemorySide s (s.settle pa) := foldl_side _ endZero_side _ s

theorem wakeEngine_side (s : State) (e : Engine) : MemorySide s (s.wakeEngine e) := rfl

theorem touchWay_side (s : State) (q pa : Nat) : MemorySide s (s.touchWay q pa) := by
  unfold State.touchWay
  simp only
  split <;> rfl

theorem touchBelow_side (s : State) (q pa : Nat) : MemorySide s (s.touchBelow q pa) := by
  unfold State.touchBelow
  split
  · simp only
    split
    · refine (MemorySide.trans ?_ (wakeEngine_side _ _)).trans (useLine_side _ _ _ _ _)
      split
      · rfl
      · exact touchWay_side _ _ _
    · exact touchWay_side _ _ _
  · rfl

theorem touch_side (s : State) (q core pa : Nat) : MemorySide s (s.touch q core pa) := by
  unfold State.touch
  refine ((wakeAt_side s pa).trans ?_).trans (useLine_side _ _ _ _ _)
  split
  · rfl
  · exact touchBelow_side _ _ _

theorem addTlb_side (s : State) (q : Nat) (l : Leaf) (home : Nat) : MemorySide s (s.addTlb q l home) := by
  unfold State.addTlb
  split <;> rfl

theorem keepLeaf_side (s : State) (q core va : Nat) (l : Leaf) : MemorySide s (s.keepLeaf q core va l) := by
  unfold State.keepLeaf
  refine MemorySide.trans ?_ (foldl_side _ (fun s h => addTlb_side s q l h) _ _)
  unfold State.lookUp
  split
  · rfl
  · exact foldl_side _ wakeAt_side _ _

theorem accept_side (s : State) (pa : Nat) : MemorySide s (s.accept pa) := by
  unfold State.accept State.wakeAt
  split
  · split <;> rfl
  · rfl

theorem putBelow_side (s : State) (q pa : Nat) (v : Byte) : MemorySide s (s.putBelow q pa v) := by
  unfold State.putBelow
  refine ((settle_side s pa).trans (touchBelow_side _ q pa)).trans ?_
  generalize (s.settle pa).touchBelow q pa = u
  simp only
  split
  · repeat' split
    all_goals rfl
  · exact MemorySide.trans (v := { u with mem := u.mem.write pa v }) rfl (accept_side _ pa)

theorem writeBack_side (s : State) (q core lo n : Nat) : MemorySide s (s.writeBack q core lo n) := by
  unfold State.writeBack
  refine MemorySide.trans ?_ (foldl_side _ (fun (s : State) (c : Host.Cell) => putBelow_side s _ _ c.2) _ _)
  rfl

theorem flushCore_side (s : State) (q core : Nat) : MemorySide s (s.flushCore q core) := writeBack_side s q core 0 (2 ^ 52)

theorem release_side (s : State) (r : Ref) (sc : Scope) : MemorySide s (s.release r sc) := by
  unfold State.release
  split
  · exact flushCore_side _ _ _
  · rfl

theorem promote_side (s : State) (q : Nat) (w : Where) : MemorySide s (s.promote q w) := by
  unfold State.promote
  split
  · rfl
  · split
    · exact MemorySide.trans (flushCore_side _ _ _) rfl
    · rfl

theorem acquireAt_side (s : State) (r : Ref) (o : Order) (w : Where) : MemorySide s (s.acquireAt r o w) := by
  unfold State.acquireAt
  split
  · exact promote_side _ _ _
  · rfl
  · rfl

theorem ownLine_side (s : State) (core : Nat) (sc : Scope) (w : Where) : MemorySide s (s.ownLine core sc w) := by
  unfold State.ownLine
  split
  · rfl
  · simp only
    split
    · rfl
    · split <;> rfl

theorem putScoped_side (s : State) (q core : Nat) (sc : Scope) (pa : Nat) (v : Byte) : MemorySide s (s.putScoped q core sc pa v) := by
  unfold State.putScoped
  refine (settle_side s pa).trans ?_
  generalize s.settle pa = u
  simp only
  split
  · rfl
  · exact MemorySide.trans (v := { u with dcache := Cells.del u.dcache (cacheKey core pa) 1 }) rfl (putBelow_side _ _ _ _)

theorem writeAt_side (s : State) (q core : Nat) (sc : Scope) (w : Where) (bs : List Byte) : MemorySide s (s.writeAt q core sc w bs) := by
  cases w with
  | own loc => rfl
  | phys pa => exact foldl_side _ (fun s k => putScoped_side s q core sc (pa + k) _) _ s

/-- Checks that pass change the memory side alone; a place of explicit memory leaves the state as it was. -/
theorem check_side {s v : State} {r : Ref} {sp : Space} {ea n al : Nat} {store free : Bool} {w : Where}
    (h : s.check r sp ea n al store free = .ok (w, v)) : MemorySide s v ∧ (∀ loc, w = .own loc → v = s) := by
  cases sp
  all_goals
    unfold State.check at h
    simp only at h
    repeat' split at h
    all_goals
      first
        | contradiction
        | (simp only [Except.ok.injEq, Prod.mk.injEq] at h
           obtain ⟨rfl, rfl⟩ := h
           exact ⟨.refl _, fun _ _ => rfl⟩)
        | (simp only [Except.ok.injEq, Prod.mk.injEq] at h
           obtain ⟨rfl, rfl⟩ := h
           exact ⟨(keepLeaf_side _ _ _ _ _).trans (touch_side _ _ _ _), fun _ e => by cases e⟩)

/-- Which line a store comes to own does not depend on the buffers that its thread's writes concern, nor these on it. -/
theorem lay_ownLine (s : State) (r : Ref) (core : Nat) (sc : Scope) (w : Where) :
    (s.lay r w).ownLine core sc w = (s.ownLine core sc w).lay r w := by
  unfold State.lay State.ownLine State.upd
  repeat' split
  all_goals rfl

/-- A store either is refused at its place, or writes, on a state whose memory side alone has moved; its write then concerns the buffer of
its layer. -/
theorem storeNow_cases (s : State) (r : Ref) (sc : Scope) (rel : Bool) (w : Where) (bs : List Byte) :
    ∃ v, MemorySide s v ∧ (s.storeNow r sc rel w bs = v.refuseLate r ∨ s.storeNow r sc rel w bs = v.lay r w) := by
  have h1 : MemorySide s (if rel then s.release r sc else s) := by
    split
    · exact release_side _ _ _
    · rfl
  unfold State.storeNow
  generalize (if rel then s.release r sc else s) = u at h1
  simp only
  split
  · exact ⟨u, h1, .inl rfl⟩
  · split
    · exact ⟨_, (h1.trans (writeAt_side _ _ _ _ _ _)).trans (ownLine_side _ _ _ _), .inr (lay_ownLine _ _ _ _ _)⟩
    · exact ⟨_, h1.trans (writeAt_side _ _ _ _ _ _), .inr rfl⟩

/-- What lies in a closed Vat part depends on the dies alone. -/
theorem MemorySide.closedAt {s v : State} (h : MemorySide s v) (w : Where) : v.closedAt w = s.closedAt w := by
  have : v.vatClosed = s.vatClosed := by
    funext pa
    simp only [State.vatClosed, State.die, h.dies]
  unfold State.closedAt
  rw [this]

/-- A page that passes its checks does not lie in a closed Vat part (R346). -/
theorem page_open {s : State} {q core va n pa : Nat} {k : Acc} {l : Leaf} (h : s.page q core va n k = .ok (l, pa)) : s.vatClosed pa = false := by
  unfold State.page at h
  split at h
  · contradiction
  · split at h
    · contradiction
    · dsimp only at h
      repeat (split at h; contradiction)
      cases h
      simp_all

/-- Nor does a place that passes those of an access. -/
theorem check_open {s v : State} {r : Ref} {sp : Space} {ea n al : Nat} {store free : Bool} {w : Where}
    (h : s.check r sp ea n al store free = .ok (w, v)) : v.closedAt w = false := by
  rw [(check_side h).1.closedAt]
  cases sp
  all_goals
    unfold State.check at h
    simp only at h
    repeat' split at h
    all_goals
      first
        | contradiction
        | (simp only [Except.ok.injEq, Prod.mk.injEq] at h
           obtain ⟨rfl, rfl⟩ := h
           first
             | rfl
             | exact page_open (by assumption))

/-- A store at a place that is open writes, after what a release makes visible. -/
theorem storeNow_open {s : State} {w : Where} (h : s.closedAt w = false) (r : Ref) (sc : Scope) (rel : Bool) (bs : List Byte) :
    s.storeNow r sc rel w bs =
      if rel then (((s.release r sc).writeAt (s.partOf r) (s.coreOf r) sc w bs).lay r w).ownLine (s.coreOf r) sc w
      else (s.writeAt (s.partOf r) (s.coreOf r) sc w bs).lay r w := by
  cases rel
  · simp [State.storeNow, h]
  · have hs := release_side s r sc
    have hl : ∀ (x : State), (x.lay r w).coreOf r = x.coreOf r := by
      intro x
      unfold State.lay
      split <;> rfl
    simp only [State.storeNow, hs.closedAt, h, if_true, Bool.false_eq_true, if_false, hl, (writeAt_side _ _ _ _ _ _).coreOf, hs.coreOf, hs.partOf]

/-- A load raises the cause of its check, is counted to be read later, or is counted with the words of its bytes, on a state whose memory side
alone has moved. -/
theorem load_cases (s : State) (r : Ref) (sp : Space) (o : Order) (ea n : Nat) (d : Reg) (f : LoadAs) :
    (∃ c, s.load r sp o ea n d f = s.fail r c) ∨
    (∃ (w : Where) (v : State), MemorySide s v ∧ s.load r sp o ea n d f = v.pushLoad r (.late (s.requestAt r w) d o w.loc n f)) ∨
    (∃ (w : Where) (v : State), MemorySide s v ∧ s.load r sp o ea n d f = v.pushLoad r (w.loaded d (f.words (v.readAt (s.coreOf r) w n)))) := by
  unfold State.load
  cases h : s.check r sp ea n n false false with
  | error c => exact .inl ⟨c, rfl⟩
  | ok p =>
    obtain ⟨w, v⟩ := p
    have h1 := (check_side h).1
    have hv := h1.trans (acquireAt_side v r o w)
    simp only
    split
    · exact .inr (.inl ⟨w, v, h1, rfl⟩)
    · exact .inr (.inr ⟨w, v.acquireAt r o w, hv, by simp only [hv.coreOf]⟩)

/-- A store raises the cause of its check, is counted to be written later, or is made and counted, on a state whose memory side alone has
moved. -/
theorem store_cases (s : State) (bun : Nat) (r : Ref) (sp : Space) (o : Order) (ea : Nat) (bs : List Byte) :
    (∃ c, s.store bun r sp o ea bs = s.fail r c) ∨
    (∃ (w : Where) (v : State), MemorySide s v ∧ s.store bun r sp o ea bs = v.pushStore r (.write bun (Order.storeScope o) (o != .plain) w.loc bs)) ∨
    (∃ (w : Where) (v : State), MemorySide s v ∧
      s.store bun r sp o ea bs = (v.storeNow r (Order.storeScope o) (o != .plain) w bs).pushStore r (.store (Order.storeScope o) w.pa)) := by
  unfold State.store
  cases h : s.check r sp ea bs.length bs.length true false with
  | error c => exact .inl ⟨c, rfl⟩
  | ok p =>
    obtain ⟨w, v⟩ := p
    have h1 := (check_side h).1
    simp only
    split
    · exact .inr (.inl ⟨w, v, h1, rfl⟩)
    · exact .inr (.inr ⟨w, v, h1, rfl⟩)

end Sys2Proof.Machine
end

