-- ==== Sys2Proof/Laws/State.lean ====
section
/-! SUPPORT. The updates of one kind of record leave every other field of the state alone: one lemma per field and update; below them,
what is read back from an updated record. -/

namespace Sys2Proof.Machine

@[simp] theorem State.upd_mem (s : State) (r : Ref) (f : Thread → Thread) : (s.upd r f).mem = s.mem := rfl
@[simp] theorem State.upd_dcache (s : State) (r : Ref) (f : Thread → Thread) : (s.upd r f).dcache = s.dcache := rfl
@[simp] theorem State.upd_l2 (s : State) (r : Ref) (f : Thread → Thread) : (s.upd r f).l2 = s.l2 := rfl
@[simp] theorem State.upd_ways (s : State) (r : Ref) (f : Thread → Thread) : (s.upd r f).ways = s.ways := rfl
@[simp] theorem State.upd_lines (s : State) (r : Ref) (f : Thread → Thread) : (s.upd r f).lines = s.lines := rfl
@[simp] theorem State.upd_tlbs (s : State) (r : Ref) (f : Thread → Thread) : (s.upd r f).tlbs = s.tlbs := rfl
@[simp] theorem State.upd_zeroing (s : State) (r : Ref) (f : Thread → Thread) : (s.upd r f).zeroing = s.zeroing := rfl
@[simp] theorem State.upd_full (s : State) (r : Ref) (f : Thread → Thread) : (s.upd r f).full = s.full := rfl
@[simp] theorem State.upd_waves (s : State) (r : Ref) (f : Thread → Thread) : (s.upd r f).waves = s.waves := rfl
@[simp] theorem State.upd_groups (s : State) (r : Ref) (f : Thread → Thread) : (s.upd r f).groups = s.groups := rfl
@[simp] theorem State.upd_csets (s : State) (r : Ref) (f : Thread → Thread) : (s.upd r f).csets = s.csets := rfl
@[simp] theorem State.upd_cbars (s : State) (r : Ref) (f : Thread → Thread) : (s.upd r f).cbars = s.cbars := rfl
@[simp] theorem State.upd_ctxs (s : State) (r : Ref) (f : Thread → Thread) : (s.upd r f).ctxs = s.ctxs := rfl
@[simp] theorem State.upd_cores (s : State) (r : Ref) (f : Thread → Thread) : (s.upd r f).cores = s.cores := rfl
@[simp] theorem State.upd_dies (s : State) (r : Ref) (f : Thread → Thread) : (s.upd r f).dies = s.dies := rfl
@[simp] theorem State.upd_parts (s : State) (r : Ref) (f : Thread → Thread) : (s.upd r f).parts = s.parts := rfl
@[simp] theorem State.upd_held (s : State) (r : Ref) (f : Thread → Thread) : (s.upd r f).held = s.held := rfl
@[simp] theorem State.upd_locks (s : State) (r : Ref) (f : Thread → Thread) : (s.upd r f).locks = s.locks := rfl
@[simp] theorem State.upd_regQueue (s : State) (r : Ref) (f : Thread → Thread) : (s.upd r f).regQueue = s.regQueue := rfl
@[simp] theorem State.upd_feQueue (s : State) (r : Ref) (f : Thread → Thread) : (s.upd r f).feQueue = s.feQueue := rfl
@[simp] theorem State.upd_mailQueue (s : State) (r : Ref) (f : Thread → Thread) : (s.upd r f).mailQueue = s.mailQueue := rfl
@[simp] theorem State.upd_launches (s : State) (r : Ref) (f : Thread → Thread) : (s.upd r f).launches = s.launches := rfl
@[simp] theorem State.upd_nodes (s : State) (r : Ref) (f : Thread → Thread) : (s.upd r f).nodes = s.nodes := rfl
@[simp] theorem State.upd_mailboxes (s : State) (r : Ref) (f : Thread → Thread) : (s.upd r f).mailboxes = s.mailboxes := rfl
@[simp] theorem State.upd_hostBoxes (s : State) (r : Ref) (f : Thread → Thread) : (s.upd r f).hostBoxes = s.hostBoxes := rfl
@[simp] theorem State.upd_msixMask (s : State) (r : Ref) (f : Thread → Thread) : (s.upd r f).msixMask = s.msixMask := rfl
@[simp] theorem State.upd_msixPending (s : State) (r : Ref) (f : Thread → Thread) : (s.upd r f).msixPending = s.msixPending := rfl
@[simp] theorem State.upd_msixSent (s : State) (r : Ref) (f : Thread → Thread) : (s.upd r f).msixSent = s.msixSent := rfl
@[simp] theorem State.upd_rstreq (s : State) (r : Ref) (f : Thread → Thread) : (s.upd r f).rstreq = s.rstreq := rfl
@[simp] theorem State.upd_ptm (s : State) (r : Ref) (f : Thread → Thread) : (s.upd r f).ptm = s.ptm := rfl
@[simp] theorem State.upd_weights (s : State) (r : Ref) (f : Thread → Thread) : (s.upd r f).weights = s.weights := rfl
@[simp] theorem State.upd_cw (s : State) (r : Ref) (f : Thread → Thread) : (s.upd r f).cw = s.cw := rfl
@[simp] theorem State.upd_powerClass (s : State) (r : Ref) (f : Thread → Thread) : (s.upd r f).powerClass = s.powerClass := rfl
@[simp] theorem State.upd_measure (s : State) (r : Ref) (f : Thread → Thread) : (s.upd r f).measure = s.measure := rfl
@[simp] theorem State.upd_rollback (s : State) (r : Ref) (f : Thread → Thread) : (s.upd r f).rollback = s.rollback := rfl
@[simp] theorem State.upd_spares (s : State) (r : Ref) (f : Thread → Thread) : (s.upd r f).spares = s.spares := rfl
@[simp] theorem State.upd_spareWays (s : State) (r : Ref) (f : Thread → Thread) : (s.upd r f).spareWays = s.spareWays := rfl
@[simp] theorem State.upd_lanes (s : State) (r : Ref) (f : Thread → Thread) : (s.upd r f).lanes = s.lanes := rfl
@[simp] theorem State.upd_eyes (s : State) (r : Ref) (f : Thread → Thread) : (s.upd r f).eyes = s.eyes := rfl
@[simp] theorem State.upd_waiting (s : State) (r : Ref) (f : Thread → Thread) : (s.upd r f).waiting = s.waiting := rfl
@[simp] theorem State.upd_hostData (s : State) (r : Ref) (f : Thread → Thread) : (s.upd r f).hostData = s.hostData := rfl
@[simp] theorem State.upd_gated (s : State) (r : Ref) (f : Thread → Thread) : (s.upd r f).gated = s.gated := rfl
@[simp] theorem State.upd_repair (s : State) (r : Ref) (f : Thread → Thread) : (s.upd r f).repair = s.repair := rfl
@[simp] theorem State.upd_buffered (s : State) (r : Ref) (f : Thread → Thread) : (s.upd r f).buffered = s.buffered := rfl
@[simp] theorem State.upd_owners (s : State) (r : Ref) (f : Thread → Thread) : (s.upd r f).owners = s.owners := rfl
@[simp] theorem State.upd_domNew (s : State) (r : Ref) (f : Thread → Thread) : (s.upd r f).domNew = s.domNew := rfl
@[simp] theorem State.upd_modules (s : State) (r : Ref) (f : Thread → Thread) : (s.upd r f).modules = s.modules := rfl
@[simp] theorem State.upd_inReset (s : State) (r : Ref) (f : Thread → Thread) : (s.upd r f).inReset = s.inReset := rfl
@[simp] theorem State.upd_dtbBase (s : State) (r : Ref) (f : Thread → Thread) : (s.upd r f).dtbBase = s.dtbBase := rfl
@[simp] theorem State.upd_dtbFrac (s : State) (r : Ref) (f : Thread → Thread) : (s.upd r f).dtbFrac = s.dtbFrac := rfl
@[simp] theorem State.upd_dtbNow (s : State) (r : Ref) (f : Thread → Thread) : (s.upd r f).dtbNow = s.dtbNow := rfl
@[simp] theorem State.upd_slew (s : State) (r : Ref) (f : Thread → Thread) : (s.upd r f).slew = s.slew := rfl
@[simp] theorem State.upd_now (s : State) (r : Ref) (f : Thread → Thread) : (s.upd r f).now = s.now := rfl
@[simp] theorem State.upd_turn (s : State) (r : Ref) (f : Thread → Thread) : (s.upd r f).turn = s.turn := rfl
@[simp] theorem State.upd_serial (s : State) (r : Ref) (f : Thread → Thread) : (s.upd r f).serial = s.serial := rfl
@[simp] theorem State.upd_draws (s : State) (r : Ref) (f : Thread → Thread) : (s.upd r f).draws = s.draws := rfl
@[simp] theorem State.upd_agenda (s : State) (r : Ref) (f : Thread → Thread) : (s.upd r f).agenda = s.agenda := rfl
@[simp] theorem State.upd_arg (s : State) (r : Ref) (f : Thread → Thread) : (s.upd r f).arg = s.arg := rfl
@[simp] theorem State.upd_bundle (s : State) (r : Ref) (f : Thread → Thread) : (s.upd r f).bundle = s.bundle := rfl
@[simp] theorem State.upd_command (s : State) (r : Ref) (f : Thread → Thread) : (s.upd r f).command = s.command := rfl

@[simp] theorem State.updGroup_mem (s : State) (g : Nat) (f : Group → Group) : (s.updGroup g f).mem = s.mem := rfl
@[simp] theorem State.updGroup_dcache (s : State) (g : Nat) (f : Group → Group) : (s.updGroup g f).dcache = s.dcache := rfl
@[simp] theorem State.updGroup_l2 (s : State) (g : Nat) (f : Group → Group) : (s.updGroup g f).l2 = s.l2 := rfl
@[simp] theorem State.updGroup_ways (s : State) (g : Nat) (f : Group → Group) : (s.updGroup g f).ways = s.ways := rfl
@[simp] theorem State.updGroup_lines (s : State) (g : Nat) (f : Group → Group) : (s.updGroup g f).lines = s.lines := rfl
@[simp] theorem State.updGroup_tlbs (s : State) (g : Nat) (f : Group → Group) : (s.updGroup g f).tlbs = s.tlbs := rfl
@[simp] theorem State.updGroup_zeroing (s : State) (g : Nat) (f : Group → Group) : (s.updGroup g f).zeroing = s.zeroing := rfl
@[simp] theorem State.updGroup_full (s : State) (g : Nat) (f : Group → Group) : (s.updGroup g f).full = s.full := rfl
@[simp] theorem State.updGroup_threads (s : State) (g : Nat) (f : Group → Group) : (s.updGroup g f).threads = s.threads := rfl
@[simp] theorem State.updGroup_waves (s : State) (g : Nat) (f : Group → Group) : (s.updGroup g f).waves = s.waves := rfl
@[simp] theorem State.updGroup_csets (s : State) (g : Nat) (f : Group → Group) : (s.updGroup g f).csets = s.csets := rfl
@[simp] theorem State.updGroup_cbars (s : State) (g : Nat) (f : Group → Group) : (s.updGroup g f).cbars = s.cbars := rfl
@[simp] theorem State.updGroup_ctxs (s : State) (g : Nat) (f : Group → Group) : (s.updGroup g f).ctxs = s.ctxs := rfl
@[simp] theorem State.updGroup_cores (s : State) (g : Nat) (f : Group → Group) : (s.updGroup g f).cores = s.cores := rfl
@[simp] theorem State.updGroup_dies (s : State) (g : Nat) (f : Group → Group) : (s.updGroup g f).dies = s.dies := rfl
@[simp] theorem State.updGroup_parts (s : State) (g : Nat) (f : Group → Group) : (s.updGroup g f).parts = s.parts := rfl
@[simp] theorem State.updGroup_held (s : State) (g : Nat) (f : Group → Group) : (s.updGroup g f).held = s.held := rfl
@[simp] theorem State.updGroup_locks (s : State) (g : Nat) (f : Group → Group) : (s.updGroup g f).locks = s.locks := rfl
@[simp] theorem State.updGroup_regQueue (s : State) (g : Nat) (f : Group → Group) : (s.updGroup g f).regQueue = s.regQueue := rfl
@[simp] theorem State.updGroup_feQueue (s : State) (g : Nat) (f : Group → Group) : (s.updGroup g f).feQueue = s.feQueue := rfl
@[simp] theorem State.updGroup_mailQueue (s : State) (g : Nat) (f : Group → Group) : (s.updGroup g f).mailQueue = s.mailQueue := rfl
@[simp] theorem State.updGroup_launches (s : State) (g : Nat) (f : Group → Group) : (s.updGroup g f).launches = s.launches := rfl
@[simp] theorem State.updGroup_nodes (s : State) (g : Nat) (f : Group → Group) : (s.updGroup g f).nodes = s.nodes := rfl
@[simp] theorem State.updGroup_mailboxes (s : State) (g : Nat) (f : Group → Group) : (s.updGroup g f).mailboxes = s.mailboxes := rfl
@[simp] theorem State.updGroup_hostBoxes (s : State) (g : Nat) (f : Group → Group) : (s.updGroup g f).hostBoxes = s.hostBoxes := rfl
@[simp] theorem State.updGroup_msixMask (s : State) (g : Nat) (f : Group → Group) : (s.updGroup g f).msixMask = s.msixMask := rfl
@[simp] theorem State.updGroup_msixPending (s : State) (g : Nat) (f : Group → Group) : (s.updGroup g f).msixPending = s.msixPending := rfl
@[simp] theorem State.updGroup_msixSent (s : State) (g : Nat) (f : Group → Group) : (s.updGroup g f).msixSent = s.msixSent := rfl
@[simp] theorem State.updGroup_rstreq (s : State) (g : Nat) (f : Group → Group) : (s.updGroup g f).rstreq = s.rstreq := rfl
@[simp] theorem State.updGroup_ptm (s : State) (g : Nat) (f : Group → Group) : (s.updGroup g f).ptm = s.ptm := rfl
@[simp] theorem State.updGroup_weights (s : State) (g : Nat) (f : Group → Group) : (s.updGroup g f).weights = s.weights := rfl
@[simp] theorem State.updGroup_cw (s : State) (g : Nat) (f : Group → Group) : (s.updGroup g f).cw = s.cw := rfl
@[simp] theorem State.updGroup_powerClass (s : State) (g : Nat) (f : Group → Group) : (s.updGroup g f).powerClass = s.powerClass := rfl
@[simp] theorem State.updGroup_measure (s : State) (g : Nat) (f : Group → Group) : (s.updGroup g f).measure = s.measure := rfl
@[simp] theorem State.updGroup_rollback (s : State) (g : Nat) (f : Group → Group) : (s.updGroup g f).rollback = s.rollback := rfl
@[simp] theorem State.updGroup_spares (s : State) (g : Nat) (f : Group → Group) : (s.updGroup g f).spares = s.spares := rfl
@[simp] theorem State.updGroup_spareWays (s : State) (g : Nat) (f : Group → Group) : (s.updGroup g f).spareWays = s.spareWays := rfl
@[simp] theorem State.updGroup_lanes (s : State) (g : Nat) (f : Group → Group) : (s.updGroup g f).lanes = s.lanes := rfl
@[simp] theorem State.updGroup_eyes (s : State) (g : Nat) (f : Group → Group) : (s.updGroup g f).eyes = s.eyes := rfl
@[simp] theorem State.updGroup_waiting (s : State) (g : Nat) (f : Group → Group) : (s.updGroup g f).waiting = s.waiting := rfl
@[simp] theorem State.updGroup_hostData (s : State) (g : Nat) (f : Group → Group) : (s.updGroup g f).hostData = s.hostData := rfl
@[simp] theorem State.updGroup_gated (s : State) (g : Nat) (f : Group → Group) : (s.updGroup g f).gated = s.gated := rfl
@[simp] theorem State.updGroup_repair (s : State) (g : Nat) (f : Group → Group) : (s.updGroup g f).repair = s.repair := rfl
@[simp] theorem State.updGroup_buffered (s : State) (g : Nat) (f : Group → Group) : (s.updGroup g f).buffered = s.buffered := rfl
@[simp] theorem State.updGroup_owners (s : State) (g : Nat) (f : Group → Group) : (s.updGroup g f).owners = s.owners := rfl
@[simp] theorem State.updGroup_domNew (s : State) (g : Nat) (f : Group → Group) : (s.updGroup g f).domNew = s.domNew := rfl
@[simp] theorem State.updGroup_modules (s : State) (g : Nat) (f : Group → Group) : (s.updGroup g f).modules = s.modules := rfl
@[simp] theorem State.updGroup_inReset (s : State) (g : Nat) (f : Group → Group) : (s.updGroup g f).inReset = s.inReset := rfl
@[simp] theorem State.updGroup_dtbBase (s : State) (g : Nat) (f : Group → Group) : (s.updGroup g f).dtbBase = s.dtbBase := rfl
@[simp] theorem State.updGroup_dtbFrac (s : State) (g : Nat) (f : Group → Group) : (s.updGroup g f).dtbFrac = s.dtbFrac := rfl
@[simp] theorem State.updGroup_dtbNow (s : State) (g : Nat) (f : Group → Group) : (s.updGroup g f).dtbNow = s.dtbNow := rfl
@[simp] theorem State.updGroup_slew (s : State) (g : Nat) (f : Group → Group) : (s.updGroup g f).slew = s.slew := rfl
@[simp] theorem State.updGroup_now (s : State) (g : Nat) (f : Group → Group) : (s.updGroup g f).now = s.now := rfl
@[simp] theorem State.updGroup_turn (s : State) (g : Nat) (f : Group → Group) : (s.updGroup g f).turn = s.turn := rfl
@[simp] theorem State.updGroup_serial (s : State) (g : Nat) (f : Group → Group) : (s.updGroup g f).serial = s.serial := rfl
@[simp] theorem State.updGroup_draws (s : State) (g : Nat) (f : Group → Group) : (s.updGroup g f).draws = s.draws := rfl
@[simp] theorem State.updGroup_agenda (s : State) (g : Nat) (f : Group → Group) : (s.updGroup g f).agenda = s.agenda := rfl
@[simp] theorem State.updGroup_arg (s : State) (g : Nat) (f : Group → Group) : (s.updGroup g f).arg = s.arg := rfl
@[simp] theorem State.updGroup_bundle (s : State) (g : Nat) (f : Group → Group) : (s.updGroup g f).bundle = s.bundle := rfl
@[simp] theorem State.updGroup_command (s : State) (g : Nat) (f : Group → Group) : (s.updGroup g f).command = s.command := rfl

@[simp] theorem State.updWave_mem (s : State) (g w : Nat) (f : Wave → Wave) : (s.updWave g w f).mem = s.mem := rfl
@[simp] theorem State.updWave_dcache (s : State) (g w : Nat) (f : Wave → Wave) : (s.updWave g w f).dcache = s.dcache := rfl
@[simp] theorem State.updWave_l2 (s : State) (g w : Nat) (f : Wave → Wave) : (s.updWave g w f).l2 = s.l2 := rfl
@[simp] theorem State.updWave_ways (s : State) (g w : Nat) (f : Wave → Wave) : (s.updWave g w f).ways = s.ways := rfl
@[simp] theorem State.updWave_lines (s : State) (g w : Nat) (f : Wave → Wave) : (s.updWave g w f).lines = s.lines := rfl
@[simp] theorem State.updWave_tlbs (s : State) (g w : Nat) (f : Wave → Wave) : (s.updWave g w f).tlbs = s.tlbs := rfl
@[simp] theorem State.updWave_zeroing (s : State) (g w : Nat) (f : Wave → Wave) : (s.updWave g w f).zeroing = s.zeroing := rfl
@[simp] theorem State.updWave_full (s : State) (g w : Nat) (f : Wave → Wave) : (s.updWave g w f).full = s.full := rfl
@[simp] theorem State.updWave_threads (s : State) (g w : Nat) (f : Wave → Wave) : (s.updWave g w f).threads = s.threads := rfl
@[simp] theorem State.updWave_groups (s : State) (g w : Nat) (f : Wave → Wave) : (s.updWave g w f).groups = s.groups := rfl
@[simp] theorem State.updWave_csets (s : State) (g w : Nat) (f : Wave → Wave) : (s.updWave g w f).csets = s.csets := rfl
@[simp] theorem State.updWave_cbars (s : State) (g w : Nat) (f : Wave → Wave) : (s.updWave g w f).cbars = s.cbars := rfl
@[simp] theorem State.updWave_ctxs (s : State) (g w : Nat) (f : Wave → Wave) : (s.updWave g w f).ctxs = s.ctxs := rfl
@[simp] theorem State.updWave_cores (s : State) (g w : Nat) (f : Wave → Wave) : (s.updWave g w f).cores = s.cores := rfl
@[simp] theorem State.updWave_dies (s : State) (g w : Nat) (f : Wave → Wave) : (s.updWave g w f).dies = s.dies := rfl
@[simp] theorem State.updWave_parts (s : State) (g w : Nat) (f : Wave → Wave) : (s.updWave g w f).parts = s.parts := rfl
@[simp] theorem State.updWave_held (s : State) (g w : Nat) (f : Wave → Wave) : (s.updWave g w f).held = s.held := rfl
@[simp] theorem State.updWave_locks (s : State) (g w : Nat) (f : Wave → Wave) : (s.updWave g w f).locks = s.locks := rfl
@[simp] theorem State.updWave_regQueue (s : State) (g w : Nat) (f : Wave → Wave) : (s.updWave g w f).regQueue = s.regQueue := rfl
@[simp] theorem State.updWave_feQueue (s : State) (g w : Nat) (f : Wave → Wave) : (s.updWave g w f).feQueue = s.feQueue := rfl
@[simp] theorem State.updWave_mailQueue (s : State) (g w : Nat) (f : Wave → Wave) : (s.updWave g w f).mailQueue = s.mailQueue := rfl
@[simp] theorem State.updWave_launches (s : State) (g w : Nat) (f : Wave → Wave) : (s.updWave g w f).launches = s.launches := rfl
@[simp] theorem State.updWave_nodes (s : State) (g w : Nat) (f : Wave → Wave) : (s.updWave g w f).nodes = s.nodes := rfl
@[simp] theorem State.updWave_mailboxes (s : State) (g w : Nat) (f : Wave → Wave) : (s.updWave g w f).mailboxes = s.mailboxes := rfl
@[simp] theorem State.updWave_hostBoxes (s : State) (g w : Nat) (f : Wave → Wave) : (s.updWave g w f).hostBoxes = s.hostBoxes := rfl
@[simp] theorem State.updWave_msixMask (s : State) (g w : Nat) (f : Wave → Wave) : (s.updWave g w f).msixMask = s.msixMask := rfl
@[simp] theorem State.updWave_msixPending (s : State) (g w : Nat) (f : Wave → Wave) : (s.updWave g w f).msixPending = s.msixPending := rfl
@[simp] theorem State.updWave_msixSent (s : State) (g w : Nat) (f : Wave → Wave) : (s.updWave g w f).msixSent = s.msixSent := rfl
@[simp] theorem State.updWave_rstreq (s : State) (g w : Nat) (f : Wave → Wave) : (s.updWave g w f).rstreq = s.rstreq := rfl
@[simp] theorem State.updWave_ptm (s : State) (g w : Nat) (f : Wave → Wave) : (s.updWave g w f).ptm = s.ptm := rfl
@[simp] theorem State.updWave_weights (s : State) (g w : Nat) (f : Wave → Wave) : (s.updWave g w f).weights = s.weights := rfl
@[simp] theorem State.updWave_cw (s : State) (g w : Nat) (f : Wave → Wave) : (s.updWave g w f).cw = s.cw := rfl
@[simp] theorem State.updWave_powerClass (s : State) (g w : Nat) (f : Wave → Wave) : (s.updWave g w f).powerClass = s.powerClass := rfl
@[simp] theorem State.updWave_measure (s : State) (g w : Nat) (f : Wave → Wave) : (s.updWave g w f).measure = s.measure := rfl
@[simp] theorem State.updWave_rollback (s : State) (g w : Nat) (f : Wave → Wave) : (s.updWave g w f).rollback = s.rollback := rfl
@[simp] theorem State.updWave_spares (s : State) (g w : Nat) (f : Wave → Wave) : (s.updWave g w f).spares = s.spares := rfl
@[simp] theorem State.updWave_spareWays (s : State) (g w : Nat) (f : Wave → Wave) : (s.updWave g w f).spareWays = s.spareWays := rfl
@[simp] theorem State.updWave_lanes (s : State) (g w : Nat) (f : Wave → Wave) : (s.updWave g w f).lanes = s.lanes := rfl
@[simp] theorem State.updWave_eyes (s : State) (g w : Nat) (f : Wave → Wave) : (s.updWave g w f).eyes = s.eyes := rfl
@[simp] theorem State.updWave_waiting (s : State) (g w : Nat) (f : Wave → Wave) : (s.updWave g w f).waiting = s.waiting := rfl
@[simp] theorem State.updWave_hostData (s : State) (g w : Nat) (f : Wave → Wave) : (s.updWave g w f).hostData = s.hostData := rfl
@[simp] theorem State.updWave_gated (s : State) (g w : Nat) (f : Wave → Wave) : (s.updWave g w f).gated = s.gated := rfl
@[simp] theorem State.updWave_repair (s : State) (g w : Nat) (f : Wave → Wave) : (s.updWave g w f).repair = s.repair := rfl
@[simp] theorem State.updWave_buffered (s : State) (g w : Nat) (f : Wave → Wave) : (s.updWave g w f).buffered = s.buffered := rfl
@[simp] theorem State.updWave_owners (s : State) (g w : Nat) (f : Wave → Wave) : (s.updWave g w f).owners = s.owners := rfl
@[simp] theorem State.updWave_domNew (s : State) (g w : Nat) (f : Wave → Wave) : (s.updWave g w f).domNew = s.domNew := rfl
@[simp] theorem State.updWave_modules (s : State) (g w : Nat) (f : Wave → Wave) : (s.updWave g w f).modules = s.modules := rfl
@[simp] theorem State.updWave_inReset (s : State) (g w : Nat) (f : Wave → Wave) : (s.updWave g w f).inReset = s.inReset := rfl
@[simp] theorem State.updWave_dtbBase (s : State) (g w : Nat) (f : Wave → Wave) : (s.updWave g w f).dtbBase = s.dtbBase := rfl
@[simp] theorem State.updWave_dtbFrac (s : State) (g w : Nat) (f : Wave → Wave) : (s.updWave g w f).dtbFrac = s.dtbFrac := rfl
@[simp] theorem State.updWave_dtbNow (s : State) (g w : Nat) (f : Wave → Wave) : (s.updWave g w f).dtbNow = s.dtbNow := rfl
@[simp] theorem State.updWave_slew (s : State) (g w : Nat) (f : Wave → Wave) : (s.updWave g w f).slew = s.slew := rfl
@[simp] theorem State.updWave_now (s : State) (g w : Nat) (f : Wave → Wave) : (s.updWave g w f).now = s.now := rfl
@[simp] theorem State.updWave_turn (s : State) (g w : Nat) (f : Wave → Wave) : (s.updWave g w f).turn = s.turn := rfl
@[simp] theorem State.updWave_serial (s : State) (g w : Nat) (f : Wave → Wave) : (s.updWave g w f).serial = s.serial := rfl
@[simp] theorem State.updWave_draws (s : State) (g w : Nat) (f : Wave → Wave) : (s.updWave g w f).draws = s.draws := rfl
@[simp] theorem State.updWave_agenda (s : State) (g w : Nat) (f : Wave → Wave) : (s.updWave g w f).agenda = s.agenda := rfl
@[simp] theorem State.updWave_arg (s : State) (g w : Nat) (f : Wave → Wave) : (s.updWave g w f).arg = s.arg := rfl
@[simp] theorem State.updWave_bundle (s : State) (g w : Nat) (f : Wave → Wave) : (s.updWave g w f).bundle = s.bundle := rfl
@[simp] theorem State.updWave_command (s : State) (g w : Nat) (f : Wave → Wave) : (s.updWave g w f).command = s.command := rfl

@[simp] theorem State.updCtx_mem (s : State) (c p : Nat) (f : Ctx → Ctx) : (s.updCtx c p f).mem = s.mem := rfl
@[simp] theorem State.updCtx_dcache (s : State) (c p : Nat) (f : Ctx → Ctx) : (s.updCtx c p f).dcache = s.dcache := rfl
@[simp] theorem State.updCtx_l2 (s : State) (c p : Nat) (f : Ctx → Ctx) : (s.updCtx c p f).l2 = s.l2 := rfl
@[simp] theorem State.updCtx_ways (s : State) (c p : Nat) (f : Ctx → Ctx) : (s.updCtx c p f).ways = s.ways := rfl
@[simp] theorem State.updCtx_lines (s : State) (c p : Nat) (f : Ctx → Ctx) : (s.updCtx c p f).lines = s.lines := rfl
@[simp] theorem State.updCtx_tlbs (s : State) (c p : Nat) (f : Ctx → Ctx) : (s.updCtx c p f).tlbs = s.tlbs := rfl
@[simp] theorem State.updCtx_zeroing (s : State) (c p : Nat) (f : Ctx → Ctx) : (s.updCtx c p f).zeroing = s.zeroing := rfl
@[simp] theorem State.updCtx_full (s : State) (c p : Nat) (f : Ctx → Ctx) : (s.updCtx c p f).full = s.full := rfl
@[simp] theorem State.updCtx_threads (s : State) (c p : Nat) (f : Ctx → Ctx) : (s.updCtx c p f).threads = s.threads := rfl
@[simp] theorem State.updCtx_waves (s : State) (c p : Nat) (f : Ctx → Ctx) : (s.updCtx c p f).waves = s.waves := rfl
@[simp] theorem State.updCtx_groups (s : State) (c p : Nat) (f : Ctx → Ctx) : (s.updCtx c p f).groups = s.groups := rfl
@[simp] theorem State.updCtx_csets (s : State) (c p : Nat) (f : Ctx → Ctx) : (s.updCtx c p f).csets = s.csets := rfl
@[simp] theorem State.updCtx_cbars (s : State) (c p : Nat) (f : Ctx → Ctx) : (s.updCtx c p f).cbars = s.cbars := rfl
@[simp] theorem State.updCtx_cores (s : State) (c p : Nat) (f : Ctx → Ctx) : (s.updCtx c p f).cores = s.cores := rfl
@[simp] theorem State.updCtx_dies (s : State) (c p : Nat) (f : Ctx → Ctx) : (s.updCtx c p f).dies = s.dies := rfl
@[simp] theorem State.updCtx_parts (s : State) (c p : Nat) (f : Ctx → Ctx) : (s.updCtx c p f).parts = s.parts := rfl
@[simp] theorem State.updCtx_held (s : State) (c p : Nat) (f : Ctx → Ctx) : (s.updCtx c p f).held = s.held := rfl
@[simp] theorem State.updCtx_locks (s : State) (c p : Nat) (f : Ctx → Ctx) : (s.updCtx c p f).locks = s.locks := rfl
@[simp] theorem State.updCtx_regQueue (s : State) (c p : Nat) (f : Ctx → Ctx) : (s.updCtx c p f).regQueue = s.regQueue := rfl
@[simp] theorem State.updCtx_feQueue (s : State) (c p : Nat) (f : Ctx → Ctx) : (s.updCtx c p f).feQueue = s.feQueue := rfl
@[simp] theorem State.updCtx_mailQueue (s : State) (c p : Nat) (f : Ctx → Ctx) : (s.updCtx c p f).mailQueue = s.mailQueue := rfl
@[simp] theorem State.updCtx_launches (s : State) (c p : Nat) (f : Ctx → Ctx) : (s.updCtx c p f).launches = s.launches := rfl
@[simp] theorem State.updCtx_nodes (s : State) (c p : Nat) (f : Ctx → Ctx) : (s.updCtx c p f).nodes = s.nodes := rfl
@[simp] theorem State.updCtx_mailboxes (s : State) (c p : Nat) (f : Ctx → Ctx) : (s.updCtx c p f).mailboxes = s.mailboxes := rfl
@[simp] theorem State.updCtx_hostBoxes (s : State) (c p : Nat) (f : Ctx → Ctx) : (s.updCtx c p f).hostBoxes = s.hostBoxes := rfl
@[simp] theorem State.updCtx_msixMask (s : State) (c p : Nat) (f : Ctx → Ctx) : (s.updCtx c p f).msixMask = s.msixMask := rfl
@[simp] theorem State.updCtx_msixPending (s : State) (c p : Nat) (f : Ctx → Ctx) : (s.updCtx c p f).msixPending = s.msixPending := rfl
@[simp] theorem State.updCtx_msixSent (s : State) (c p : Nat) (f : Ctx → Ctx) : (s.updCtx c p f).msixSent = s.msixSent := rfl
@[simp] theorem State.updCtx_rstreq (s : State) (c p : Nat) (f : Ctx → Ctx) : (s.updCtx c p f).rstreq = s.rstreq := rfl
@[simp] theorem State.updCtx_ptm (s : State) (c p : Nat) (f : Ctx → Ctx) : (s.updCtx c p f).ptm = s.ptm := rfl
@[simp] theorem State.updCtx_weights (s : State) (c p : Nat) (f : Ctx → Ctx) : (s.updCtx c p f).weights = s.weights := rfl
@[simp] theorem State.updCtx_cw (s : State) (c p : Nat) (f : Ctx → Ctx) : (s.updCtx c p f).cw = s.cw := rfl
@[simp] theorem State.updCtx_powerClass (s : State) (c p : Nat) (f : Ctx → Ctx) : (s.updCtx c p f).powerClass = s.powerClass := rfl
@[simp] theorem State.updCtx_measure (s : State) (c p : Nat) (f : Ctx → Ctx) : (s.updCtx c p f).measure = s.measure := rfl
@[simp] theorem State.updCtx_rollback (s : State) (c p : Nat) (f : Ctx → Ctx) : (s.updCtx c p f).rollback = s.rollback := rfl
@[simp] theorem State.updCtx_spares (s : State) (c p : Nat) (f : Ctx → Ctx) : (s.updCtx c p f).spares = s.spares := rfl
@[simp] theorem State.updCtx_spareWays (s : State) (c p : Nat) (f : Ctx → Ctx) : (s.updCtx c p f).spareWays = s.spareWays := rfl
@[simp] theorem State.updCtx_lanes (s : State) (c p : Nat) (f : Ctx → Ctx) : (s.updCtx c p f).lanes = s.lanes := rfl
@[simp] theorem State.updCtx_eyes (s : State) (c p : Nat) (f : Ctx → Ctx) : (s.updCtx c p f).eyes = s.eyes := rfl
@[simp] theorem State.updCtx_waiting (s : State) (c p : Nat) (f : Ctx → Ctx) : (s.updCtx c p f).waiting = s.waiting := rfl
@[simp] theorem State.updCtx_hostData (s : State) (c p : Nat) (f : Ctx → Ctx) : (s.updCtx c p f).hostData = s.hostData := rfl
@[simp] theorem State.updCtx_gated (s : State) (c p : Nat) (f : Ctx → Ctx) : (s.updCtx c p f).gated = s.gated := rfl
@[simp] theorem State.updCtx_repair (s : State) (c p : Nat) (f : Ctx → Ctx) : (s.updCtx c p f).repair = s.repair := rfl
@[simp] theorem State.updCtx_buffered (s : State) (c p : Nat) (f : Ctx → Ctx) : (s.updCtx c p f).buffered = s.buffered := rfl
@[simp] theorem State.updCtx_owners (s : State) (c p : Nat) (f : Ctx → Ctx) : (s.updCtx c p f).owners = s.owners := rfl
@[simp] theorem State.updCtx_domNew (s : State) (c p : Nat) (f : Ctx → Ctx) : (s.updCtx c p f).domNew = s.domNew := rfl
@[simp] theorem State.updCtx_modules (s : State) (c p : Nat) (f : Ctx → Ctx) : (s.updCtx c p f).modules = s.modules := rfl
@[simp] theorem State.updCtx_inReset (s : State) (c p : Nat) (f : Ctx → Ctx) : (s.updCtx c p f).inReset = s.inReset := rfl
@[simp] theorem State.updCtx_dtbBase (s : State) (c p : Nat) (f : Ctx → Ctx) : (s.updCtx c p f).dtbBase = s.dtbBase := rfl
@[simp] theorem State.updCtx_dtbFrac (s : State) (c p : Nat) (f : Ctx → Ctx) : (s.updCtx c p f).dtbFrac = s.dtbFrac := rfl
@[simp] theorem State.updCtx_dtbNow (s : State) (c p : Nat) (f : Ctx → Ctx) : (s.updCtx c p f).dtbNow = s.dtbNow := rfl
@[simp] theorem State.updCtx_slew (s : State) (c p : Nat) (f : Ctx → Ctx) : (s.updCtx c p f).slew = s.slew := rfl
@[simp] theorem State.updCtx_now (s : State) (c p : Nat) (f : Ctx → Ctx) : (s.updCtx c p f).now = s.now := rfl
@[simp] theorem State.updCtx_turn (s : State) (c p : Nat) (f : Ctx → Ctx) : (s.updCtx c p f).turn = s.turn := rfl
@[simp] theorem State.updCtx_serial (s : State) (c p : Nat) (f : Ctx → Ctx) : (s.updCtx c p f).serial = s.serial := rfl
@[simp] theorem State.updCtx_draws (s : State) (c p : Nat) (f : Ctx → Ctx) : (s.updCtx c p f).draws = s.draws := rfl
@[simp] theorem State.updCtx_agenda (s : State) (c p : Nat) (f : Ctx → Ctx) : (s.updCtx c p f).agenda = s.agenda := rfl
@[simp] theorem State.updCtx_arg (s : State) (c p : Nat) (f : Ctx → Ctx) : (s.updCtx c p f).arg = s.arg := rfl
@[simp] theorem State.updCtx_bundle (s : State) (c p : Nat) (f : Ctx → Ctx) : (s.updCtx c p f).bundle = s.bundle := rfl
@[simp] theorem State.updCtx_command (s : State) (c p : Nat) (f : Ctx → Ctx) : (s.updCtx c p f).command = s.command := rfl

@[simp] theorem State.updCore_mem (s : State) (c : Nat) (f : CoreSt → CoreSt) : (s.updCore c f).mem = s.mem := rfl
@[simp] theorem State.updCore_dcache (s : State) (c : Nat) (f : CoreSt → CoreSt) : (s.updCore c f).dcache = s.dcache := rfl
@[simp] theorem State.updCore_l2 (s : State) (c : Nat) (f : CoreSt → CoreSt) : (s.updCore c f).l2 = s.l2 := rfl
@[simp] theorem State.updCore_ways (s : State) (c : Nat) (f : CoreSt → CoreSt) : (s.updCore c f).ways = s.ways := rfl
@[simp] theorem State.updCore_lines (s : State) (c : Nat) (f : CoreSt → CoreSt) : (s.updCore c f).lines = s.lines := rfl
@[simp] theorem State.updCore_tlbs (s : State) (c : Nat) (f : CoreSt → CoreSt) : (s.updCore c f).tlbs = s.tlbs := rfl
@[simp] theorem State.updCore_zeroing (s : State) (c : Nat) (f : CoreSt → CoreSt) : (s.updCore c f).zeroing = s.zeroing := rfl
@[simp] theorem State.updCore_full (s : State) (c : Nat) (f : CoreSt → CoreSt) : (s.updCore c f).full = s.full := rfl
@[simp] theorem State.updCore_threads (s : State) (c : Nat) (f : CoreSt → CoreSt) : (s.updCore c f).threads = s.threads := rfl
@[simp] theorem State.updCore_waves (s : State) (c : Nat) (f : CoreSt → CoreSt) : (s.updCore c f).waves = s.waves := rfl
@[simp] theorem State.updCore_groups (s : State) (c : Nat) (f : CoreSt → CoreSt) : (s.updCore c f).groups = s.groups := rfl
@[simp] theorem State.updCore_csets (s : State) (c : Nat) (f : CoreSt → CoreSt) : (s.updCore c f).csets = s.csets := rfl
@[simp] theorem State.updCore_cbars (s : State) (c : Nat) (f : CoreSt → CoreSt) : (s.updCore c f).cbars = s.cbars := rfl
@[simp] theorem State.updCore_ctxs (s : State) (c : Nat) (f : CoreSt → CoreSt) : (s.updCore c f).ctxs = s.ctxs := rfl
@[simp] theorem State.updCore_dies (s : State) (c : Nat) (f : CoreSt → CoreSt) : (s.updCore c f).dies = s.dies := rfl
@[simp] theorem State.updCore_parts (s : State) (c : Nat) (f : CoreSt → CoreSt) : (s.updCore c f).parts = s.parts := rfl
@[simp] theorem State.updCore_held (s : State) (c : Nat) (f : CoreSt → CoreSt) : (s.updCore c f).held = s.held := rfl
@[simp] theorem State.updCore_locks (s : State) (c : Nat) (f : CoreSt → CoreSt) : (s.updCore c f).locks = s.locks := rfl
@[simp] theorem State.updCore_regQueue (s : State) (c : Nat) (f : CoreSt → CoreSt) : (s.updCore c f).regQueue = s.regQueue := rfl
@[simp] theorem State.updCore_feQueue (s : State) (c : Nat) (f : CoreSt → CoreSt) : (s.updCore c f).feQueue = s.feQueue := rfl
@[simp] theorem State.updCore_mailQueue (s : State) (c : Nat) (f : CoreSt → CoreSt) : (s.updCore c f).mailQueue = s.mailQueue := rfl
@[simp] theorem State.updCore_launches (s : State) (c : Nat) (f : CoreSt → CoreSt) : (s.updCore c f).launches = s.launches := rfl
@[simp] theorem State.updCore_nodes (s : State) (c : Nat) (f : CoreSt → CoreSt) : (s.updCore c f).nodes = s.nodes := rfl
@[simp] theorem State.updCore_mailboxes (s : State) (c : Nat) (f : CoreSt → CoreSt) : (s.updCore c f).mailboxes = s.mailboxes := rfl
@[simp] theorem State.updCore_hostBoxes (s : State) (c : Nat) (f : CoreSt → CoreSt) : (s.updCore c f).hostBoxes = s.hostBoxes := rfl
@[simp] theorem State.updCore_msixMask (s : State) (c : Nat) (f : CoreSt → CoreSt) : (s.updCore c f).msixMask = s.msixMask := rfl
@[simp] theorem State.updCore_msixPending (s : State) (c : Nat) (f : CoreSt → CoreSt) : (s.updCore c f).msixPending = s.msixPending := rfl
@[simp] theorem State.updCore_msixSent (s : State) (c : Nat) (f : CoreSt → CoreSt) : (s.updCore c f).msixSent = s.msixSent := rfl
@[simp] theorem State.updCore_rstreq (s : State) (c : Nat) (f : CoreSt → CoreSt) : (s.updCore c f).rstreq = s.rstreq := rfl
@[simp] theorem State.updCore_ptm (s : State) (c : Nat) (f : CoreSt → CoreSt) : (s.updCore c f).ptm = s.ptm := rfl
@[simp] theorem State.updCore_weights (s : State) (c : Nat) (f : CoreSt → CoreSt) : (s.updCore c f).weights = s.weights := rfl
@[simp] theorem State.updCore_cw (s : State) (c : Nat) (f : CoreSt → CoreSt) : (s.updCore c f).cw = s.cw := rfl
@[simp] theorem State.updCore_powerClass (s : State) (c : Nat) (f : CoreSt → CoreSt) : (s.updCore c f).powerClass = s.powerClass := rfl
@[simp] theorem State.updCore_measure (s : State) (c : Nat) (f : CoreSt → CoreSt) : (s.updCore c f).measure = s.measure := rfl
@[simp] theorem State.updCore_rollback (s : State) (c : Nat) (f : CoreSt → CoreSt) : (s.updCore c f).rollback = s.rollback := rfl
@[simp] theorem State.updCore_spares (s : State) (c : Nat) (f : CoreSt → CoreSt) : (s.updCore c f).spares = s.spares := rfl
@[simp] theorem State.updCore_spareWays (s : State) (c : Nat) (f : CoreSt → CoreSt) : (s.updCore c f).spareWays = s.spareWays := rfl
@[simp] theorem State.updCore_lanes (s : State) (c : Nat) (f : CoreSt → CoreSt) : (s.updCore c f).lanes = s.lanes := rfl
@[simp] theorem State.updCore_eyes (s : State) (c : Nat) (f : CoreSt → CoreSt) : (s.updCore c f).eyes = s.eyes := rfl
@[simp] theorem State.updCore_waiting (s : State) (c : Nat) (f : CoreSt → CoreSt) : (s.updCore c f).waiting = s.waiting := rfl
@[simp] theorem State.updCore_hostData (s : State) (c : Nat) (f : CoreSt → CoreSt) : (s.updCore c f).hostData = s.hostData := rfl
@[simp] theorem State.updCore_gated (s : State) (c : Nat) (f : CoreSt → CoreSt) : (s.updCore c f).gated = s.gated := rfl
@[simp] theorem State.updCore_repair (s : State) (c : Nat) (f : CoreSt → CoreSt) : (s.updCore c f).repair = s.repair := rfl
@[simp] theorem State.updCore_buffered (s : State) (c : Nat) (f : CoreSt → CoreSt) : (s.updCore c f).buffered = s.buffered := rfl
@[simp] theorem State.updCore_owners (s : State) (c : Nat) (f : CoreSt → CoreSt) : (s.updCore c f).owners = s.owners := rfl
@[simp] theorem State.updCore_domNew (s : State) (c : Nat) (f : CoreSt → CoreSt) : (s.updCore c f).domNew = s.domNew := rfl
@[simp] theorem State.updCore_modules (s : State) (c : Nat) (f : CoreSt → CoreSt) : (s.updCore c f).modules = s.modules := rfl
@[simp] theorem State.updCore_inReset (s : State) (c : Nat) (f : CoreSt → CoreSt) : (s.updCore c f).inReset = s.inReset := rfl
@[simp] theorem State.updCore_dtbBase (s : State) (c : Nat) (f : CoreSt → CoreSt) : (s.updCore c f).dtbBase = s.dtbBase := rfl
@[simp] theorem State.updCore_dtbFrac (s : State) (c : Nat) (f : CoreSt → CoreSt) : (s.updCore c f).dtbFrac = s.dtbFrac := rfl
@[simp] theorem State.updCore_dtbNow (s : State) (c : Nat) (f : CoreSt → CoreSt) : (s.updCore c f).dtbNow = s.dtbNow := rfl
@[simp] theorem State.updCore_slew (s : State) (c : Nat) (f : CoreSt → CoreSt) : (s.updCore c f).slew = s.slew := rfl
@[simp] theorem State.updCore_now (s : State) (c : Nat) (f : CoreSt → CoreSt) : (s.updCore c f).now = s.now := rfl
@[simp] theorem State.updCore_turn (s : State) (c : Nat) (f : CoreSt → CoreSt) : (s.updCore c f).turn = s.turn := rfl
@[simp] theorem State.updCore_serial (s : State) (c : Nat) (f : CoreSt → CoreSt) : (s.updCore c f).serial = s.serial := rfl
@[simp] theorem State.updCore_draws (s : State) (c : Nat) (f : CoreSt → CoreSt) : (s.updCore c f).draws = s.draws := rfl
@[simp] theorem State.updCore_agenda (s : State) (c : Nat) (f : CoreSt → CoreSt) : (s.updCore c f).agenda = s.agenda := rfl
@[simp] theorem State.updCore_arg (s : State) (c : Nat) (f : CoreSt → CoreSt) : (s.updCore c f).arg = s.arg := rfl
@[simp] theorem State.updCore_bundle (s : State) (c : Nat) (f : CoreSt → CoreSt) : (s.updCore c f).bundle = s.bundle := rfl
@[simp] theorem State.updCore_command (s : State) (c : Nat) (f : CoreSt → CoreSt) : (s.updCore c f).command = s.command := rfl

@[simp] theorem State.updDie_mem (s : State) (d : Nat) (f : Die → Die) : (s.updDie d f).mem = s.mem := rfl
@[simp] theorem State.updDie_dcache (s : State) (d : Nat) (f : Die → Die) : (s.updDie d f).dcache = s.dcache := rfl
@[simp] theorem State.updDie_l2 (s : State) (d : Nat) (f : Die → Die) : (s.updDie d f).l2 = s.l2 := rfl
@[simp] theorem State.updDie_ways (s : State) (d : Nat) (f : Die → Die) : (s.updDie d f).ways = s.ways := rfl
@[simp] theorem State.updDie_lines (s : State) (d : Nat) (f : Die → Die) : (s.updDie d f).lines = s.lines := rfl
@[simp] theorem State.updDie_tlbs (s : State) (d : Nat) (f : Die → Die) : (s.updDie d f).tlbs = s.tlbs := rfl
@[simp] theorem State.updDie_zeroing (s : State) (d : Nat) (f : Die → Die) : (s.updDie d f).zeroing = s.zeroing := rfl
@[simp] theorem State.updDie_full (s : State) (d : Nat) (f : Die → Die) : (s.updDie d f).full = s.full := rfl
@[simp] theorem State.updDie_threads (s : State) (d : Nat) (f : Die → Die) : (s.updDie d f).threads = s.threads := rfl
@[simp] theorem State.updDie_waves (s : State) (d : Nat) (f : Die → Die) : (s.updDie d f).waves = s.waves := rfl
@[simp] theorem State.updDie_groups (s : State) (d : Nat) (f : Die → Die) : (s.updDie d f).groups = s.groups := rfl
@[simp] theorem State.updDie_csets (s : State) (d : Nat) (f : Die → Die) : (s.updDie d f).csets = s.csets := rfl
@[simp] theorem State.updDie_cbars (s : State) (d : Nat) (f : Die → Die) : (s.updDie d f).cbars = s.cbars := rfl
@[simp] theorem State.updDie_ctxs (s : State) (d : Nat) (f : Die → Die) : (s.updDie d f).ctxs = s.ctxs := rfl
@[simp] theorem State.updDie_cores (s : State) (d : Nat) (f : Die → Die) : (s.updDie d f).cores = s.cores := rfl
@[simp] theorem State.updDie_parts (s : State) (d : Nat) (f : Die → Die) : (s.updDie d f).parts = s.parts := rfl
@[simp] theorem State.updDie_held (s : State) (d : Nat) (f : Die → Die) : (s.updDie d f).held = s.held := rfl
@[simp] theorem State.updDie_locks (s : State) (d : Nat) (f : Die → Die) : (s.updDie d f).locks = s.locks := rfl
@[simp] theorem State.updDie_regQueue (s : State) (d : Nat) (f : Die → Die) : (s.updDie d f).regQueue = s.regQueue := rfl
@[simp] theorem State.updDie_feQueue (s : State) (d : Nat) (f : Die → Die) : (s.updDie d f).feQueue = s.feQueue := rfl
@[simp] theorem State.updDie_mailQueue (s : State) (d : Nat) (f : Die → Die) : (s.updDie d f).mailQueue = s.mailQueue := rfl
@[simp] theorem State.updDie_launches (s : State) (d : Nat) (f : Die → Die) : (s.updDie d f).launches = s.launches := rfl
@[simp] theorem State.updDie_nodes (s : State) (d : Nat) (f : Die → Die) : (s.updDie d f).nodes = s.nodes := rfl
@[simp] theorem State.updDie_mailboxes (s : State) (d : Nat) (f : Die → Die) : (s.updDie d f).mailboxes = s.mailboxes := rfl
@[simp] theorem State.updDie_hostBoxes (s : State) (d : Nat) (f : Die → Die) : (s.updDie d f).hostBoxes = s.hostBoxes := rfl
@[simp] theorem State.updDie_msixMask (s : State) (d : Nat) (f : Die → Die) : (s.updDie d f).msixMask = s.msixMask := rfl
@[simp] theorem State.updDie_msixPending (s : State) (d : Nat) (f : Die → Die) : (s.updDie d f).msixPending = s.msixPending := rfl
@[simp] theorem State.updDie_msixSent (s : State) (d : Nat) (f : Die → Die) : (s.updDie d f).msixSent = s.msixSent := rfl
@[simp] theorem State.updDie_rstreq (s : State) (d : Nat) (f : Die → Die) : (s.updDie d f).rstreq = s.rstreq := rfl
@[simp] theorem State.updDie_ptm (s : State) (d : Nat) (f : Die → Die) : (s.updDie d f).ptm = s.ptm := rfl
@[simp] theorem State.updDie_weights (s : State) (d : Nat) (f : Die → Die) : (s.updDie d f).weights = s.weights := rfl
@[simp] theorem State.updDie_cw (s : State) (d : Nat) (f : Die → Die) : (s.updDie d f).cw = s.cw := rfl
@[simp] theorem State.updDie_powerClass (s : State) (d : Nat) (f : Die → Die) : (s.updDie d f).powerClass = s.powerClass := rfl
@[simp] theorem State.updDie_measure (s : State) (d : Nat) (f : Die → Die) : (s.updDie d f).measure = s.measure := rfl
@[simp] theorem State.updDie_rollback (s : State) (d : Nat) (f : Die → Die) : (s.updDie d f).rollback = s.rollback := rfl
@[simp] theorem State.updDie_spares (s : State) (d : Nat) (f : Die → Die) : (s.updDie d f).spares = s.spares := rfl
@[simp] theorem State.updDie_spareWays (s : State) (d : Nat) (f : Die → Die) : (s.updDie d f).spareWays = s.spareWays := rfl
@[simp] theorem State.updDie_lanes (s : State) (d : Nat) (f : Die → Die) : (s.updDie d f).lanes = s.lanes := rfl
@[simp] theorem State.updDie_eyes (s : State) (d : Nat) (f : Die → Die) : (s.updDie d f).eyes = s.eyes := rfl
@[simp] theorem State.updDie_waiting (s : State) (d : Nat) (f : Die → Die) : (s.updDie d f).waiting = s.waiting := rfl
@[simp] theorem State.updDie_hostData (s : State) (d : Nat) (f : Die → Die) : (s.updDie d f).hostData = s.hostData := rfl
@[simp] theorem State.updDie_gated (s : State) (d : Nat) (f : Die → Die) : (s.updDie d f).gated = s.gated := rfl
@[simp] theorem State.updDie_repair (s : State) (d : Nat) (f : Die → Die) : (s.updDie d f).repair = s.repair := rfl
@[simp] theorem State.updDie_buffered (s : State) (d : Nat) (f : Die → Die) : (s.updDie d f).buffered = s.buffered := rfl
@[simp] theorem State.updDie_owners (s : State) (d : Nat) (f : Die → Die) : (s.updDie d f).owners = s.owners := rfl
@[simp] theorem State.updDie_domNew (s : State) (d : Nat) (f : Die → Die) : (s.updDie d f).domNew = s.domNew := rfl
@[simp] theorem State.updDie_modules (s : State) (d : Nat) (f : Die → Die) : (s.updDie d f).modules = s.modules := rfl
@[simp] theorem State.updDie_inReset (s : State) (d : Nat) (f : Die → Die) : (s.updDie d f).inReset = s.inReset := rfl
@[simp] theorem State.updDie_dtbBase (s : State) (d : Nat) (f : Die → Die) : (s.updDie d f).dtbBase = s.dtbBase := rfl
@[simp] theorem State.updDie_dtbFrac (s : State) (d : Nat) (f : Die → Die) : (s.updDie d f).dtbFrac = s.dtbFrac := rfl
@[simp] theorem State.updDie_dtbNow (s : State) (d : Nat) (f : Die → Die) : (s.updDie d f).dtbNow = s.dtbNow := rfl
@[simp] theorem State.updDie_slew (s : State) (d : Nat) (f : Die → Die) : (s.updDie d f).slew = s.slew := rfl
@[simp] theorem State.updDie_now (s : State) (d : Nat) (f : Die → Die) : (s.updDie d f).now = s.now := rfl
@[simp] theorem State.updDie_turn (s : State) (d : Nat) (f : Die → Die) : (s.updDie d f).turn = s.turn := rfl
@[simp] theorem State.updDie_serial (s : State) (d : Nat) (f : Die → Die) : (s.updDie d f).serial = s.serial := rfl
@[simp] theorem State.updDie_draws (s : State) (d : Nat) (f : Die → Die) : (s.updDie d f).draws = s.draws := rfl
@[simp] theorem State.updDie_agenda (s : State) (d : Nat) (f : Die → Die) : (s.updDie d f).agenda = s.agenda := rfl
@[simp] theorem State.updDie_arg (s : State) (d : Nat) (f : Die → Die) : (s.updDie d f).arg = s.arg := rfl
@[simp] theorem State.updDie_bundle (s : State) (d : Nat) (f : Die → Die) : (s.updDie d f).bundle = s.bundle := rfl
@[simp] theorem State.updDie_command (s : State) (d : Nat) (f : Die → Die) : (s.updDie d f).command = s.command := rfl

@[simp] theorem State.updPart_mem (s : State) (q : Nat) (f : Part → Part) : (s.updPart q f).mem = s.mem := rfl
@[simp] theorem State.updPart_dcache (s : State) (q : Nat) (f : Part → Part) : (s.updPart q f).dcache = s.dcache := rfl
@[simp] theorem State.updPart_l2 (s : State) (q : Nat) (f : Part → Part) : (s.updPart q f).l2 = s.l2 := rfl
@[simp] theorem State.updPart_ways (s : State) (q : Nat) (f : Part → Part) : (s.updPart q f).ways = s.ways := rfl
@[simp] theorem State.updPart_lines (s : State) (q : Nat) (f : Part → Part) : (s.updPart q f).lines = s.lines := rfl
@[simp] theorem State.updPart_tlbs (s : State) (q : Nat) (f : Part → Part) : (s.updPart q f).tlbs = s.tlbs := rfl
@[simp] theorem State.updPart_zeroing (s : State) (q : Nat) (f : Part → Part) : (s.updPart q f).zeroing = s.zeroing := rfl
@[simp] theorem State.updPart_full (s : State) (q : Nat) (f : Part → Part) : (s.updPart q f).full = s.full := rfl
@[simp] theorem State.updPart_threads (s : State) (q : Nat) (f : Part → Part) : (s.updPart q f).threads = s.threads := rfl
@[simp] theorem State.updPart_waves (s : State) (q : Nat) (f : Part → Part) : (s.updPart q f).waves = s.waves := rfl
@[simp] theorem State.updPart_groups (s : State) (q : Nat) (f : Part → Part) : (s.updPart q f).groups = s.groups := rfl
@[simp] theorem State.updPart_csets (s : State) (q : Nat) (f : Part → Part) : (s.updPart q f).csets = s.csets := rfl
@[simp] theorem State.updPart_cbars (s : State) (q : Nat) (f : Part → Part) : (s.updPart q f).cbars = s.cbars := rfl
@[simp] theorem State.updPart_ctxs (s : State) (q : Nat) (f : Part → Part) : (s.updPart q f).ctxs = s.ctxs := rfl
@[simp] theorem State.updPart_cores (s : State) (q : Nat) (f : Part → Part) : (s.updPart q f).cores = s.cores := rfl
@[simp] theorem State.updPart_dies (s : State) (q : Nat) (f : Part → Part) : (s.updPart q f).dies = s.dies := rfl
@[simp] theorem State.updPart_held (s : State) (q : Nat) (f : Part → Part) : (s.updPart q f).held = s.held := rfl
@[simp] theorem State.updPart_locks (s : State) (q : Nat) (f : Part → Part) : (s.updPart q f).locks = s.locks := rfl
@[simp] theorem State.updPart_regQueue (s : State) (q : Nat) (f : Part → Part) : (s.updPart q f).regQueue = s.regQueue := rfl
@[simp] theorem State.updPart_feQueue (s : State) (q : Nat) (f : Part → Part) : (s.updPart q f).feQueue = s.feQueue := rfl
@[simp] theorem State.updPart_mailQueue (s : State) (q : Nat) (f : Part → Part) : (s.updPart q f).mailQueue = s.mailQueue := rfl
@[simp] theorem State.updPart_launches (s : State) (q : Nat) (f : Part → Part) : (s.updPart q f).launches = s.launches := rfl
@[simp] theorem State.updPart_nodes (s : State) (q : Nat) (f : Part → Part) : (s.updPart q f).nodes = s.nodes := rfl
@[simp] theorem State.updPart_mailboxes (s : State) (q : Nat) (f : Part → Part) : (s.updPart q f).mailboxes = s.mailboxes := rfl
@[simp] theorem State.updPart_hostBoxes (s : State) (q : Nat) (f : Part → Part) : (s.updPart q f).hostBoxes = s.hostBoxes := rfl
@[simp] theorem State.updPart_msixMask (s : State) (q : Nat) (f : Part → Part) : (s.updPart q f).msixMask = s.msixMask := rfl
@[simp] theorem State.updPart_msixPending (s : State) (q : Nat) (f : Part → Part) : (s.updPart q f).msixPending = s.msixPending := rfl
@[simp] theorem State.updPart_msixSent (s : State) (q : Nat) (f : Part → Part) : (s.updPart q f).msixSent = s.msixSent := rfl
@[simp] theorem State.updPart_rstreq (s : State) (q : Nat) (f : Part → Part) : (s.updPart q f).rstreq = s.rstreq := rfl
@[simp] theorem State.updPart_ptm (s : State) (q : Nat) (f : Part → Part) : (s.updPart q f).ptm = s.ptm := rfl
@[simp] theorem State.updPart_weights (s : State) (q : Nat) (f : Part → Part) : (s.updPart q f).weights = s.weights := rfl
@[simp] theorem State.updPart_cw (s : State) (q : Nat) (f : Part → Part) : (s.updPart q f).cw = s.cw := rfl
@[simp] theorem State.updPart_powerClass (s : State) (q : Nat) (f : Part → Part) : (s.updPart q f).powerClass = s.powerClass := rfl
@[simp] theorem State.updPart_measure (s : State) (q : Nat) (f : Part → Part) : (s.updPart q f).measure = s.measure := rfl
@[simp] theorem State.updPart_rollback (s : State) (q : Nat) (f : Part → Part) : (s.updPart q f).rollback = s.rollback := rfl
@[simp] theorem State.updPart_spares (s : State) (q : Nat) (f : Part → Part) : (s.updPart q f).spares = s.spares := rfl
@[simp] theorem State.updPart_spareWays (s : State) (q : Nat) (f : Part → Part) : (s.updPart q f).spareWays = s.spareWays := rfl
@[simp] theorem State.updPart_lanes (s : State) (q : Nat) (f : Part → Part) : (s.updPart q f).lanes = s.lanes := rfl
@[simp] theorem State.updPart_eyes (s : State) (q : Nat) (f : Part → Part) : (s.updPart q f).eyes = s.eyes := rfl
@[simp] theorem State.updPart_waiting (s : State) (q : Nat) (f : Part → Part) : (s.updPart q f).waiting = s.waiting := rfl
@[simp] theorem State.updPart_hostData (s : State) (q : Nat) (f : Part → Part) : (s.updPart q f).hostData = s.hostData := rfl
@[simp] theorem State.updPart_gated (s : State) (q : Nat) (f : Part → Part) : (s.updPart q f).gated = s.gated := rfl
@[simp] theorem State.updPart_repair (s : State) (q : Nat) (f : Part → Part) : (s.updPart q f).repair = s.repair := rfl
@[simp] theorem State.updPart_buffered (s : State) (q : Nat) (f : Part → Part) : (s.updPart q f).buffered = s.buffered := rfl
@[simp] theorem State.updPart_owners (s : State) (q : Nat) (f : Part → Part) : (s.updPart q f).owners = s.owners := rfl
@[simp] theorem State.updPart_domNew (s : State) (q : Nat) (f : Part → Part) : (s.updPart q f).domNew = s.domNew := rfl
@[simp] theorem State.updPart_modules (s : State) (q : Nat) (f : Part → Part) : (s.updPart q f).modules = s.modules := rfl
@[simp] theorem State.updPart_inReset (s : State) (q : Nat) (f : Part → Part) : (s.updPart q f).inReset = s.inReset := rfl
@[simp] theorem State.updPart_dtbBase (s : State) (q : Nat) (f : Part → Part) : (s.updPart q f).dtbBase = s.dtbBase := rfl
@[simp] theorem State.updPart_dtbFrac (s : State) (q : Nat) (f : Part → Part) : (s.updPart q f).dtbFrac = s.dtbFrac := rfl
@[simp] theorem State.updPart_dtbNow (s : State) (q : Nat) (f : Part → Part) : (s.updPart q f).dtbNow = s.dtbNow := rfl
@[simp] theorem State.updPart_slew (s : State) (q : Nat) (f : Part → Part) : (s.updPart q f).slew = s.slew := rfl
@[simp] theorem State.updPart_now (s : State) (q : Nat) (f : Part → Part) : (s.updPart q f).now = s.now := rfl
@[simp] theorem State.updPart_turn (s : State) (q : Nat) (f : Part → Part) : (s.updPart q f).turn = s.turn := rfl
@[simp] theorem State.updPart_serial (s : State) (q : Nat) (f : Part → Part) : (s.updPart q f).serial = s.serial := rfl
@[simp] theorem State.updPart_draws (s : State) (q : Nat) (f : Part → Part) : (s.updPart q f).draws = s.draws := rfl
@[simp] theorem State.updPart_agenda (s : State) (q : Nat) (f : Part → Part) : (s.updPart q f).agenda = s.agenda := rfl
@[simp] theorem State.updPart_arg (s : State) (q : Nat) (f : Part → Part) : (s.updPart q f).arg = s.arg := rfl
@[simp] theorem State.updPart_bundle (s : State) (q : Nat) (f : Part → Part) : (s.updPart q f).bundle = s.bundle := rfl
@[simp] theorem State.updPart_command (s : State) (q : Nat) (f : Part → Part) : (s.updPart q f).command = s.command := rfl

@[simp] theorem State.updNode_mem (s : State) (d p i : Nat) (f : Node → Node) : (s.updNode d p i f).mem = s.mem := rfl
@[simp] theorem State.updNode_dcache (s : State) (d p i : Nat) (f : Node → Node) : (s.updNode d p i f).dcache = s.dcache := rfl
@[simp] theorem State.updNode_l2 (s : State) (d p i : Nat) (f : Node → Node) : (s.updNode d p i f).l2 = s.l2 := rfl
@[simp] theorem State.updNode_ways (s : State) (d p i : Nat) (f : Node → Node) : (s.updNode d p i f).ways = s.ways := rfl
@[simp] theorem State.updNode_lines (s : State) (d p i : Nat) (f : Node → Node) : (s.updNode d p i f).lines = s.lines := rfl
@[simp] theorem State.updNode_tlbs (s : State) (d p i : Nat) (f : Node → Node) : (s.updNode d p i f).tlbs = s.tlbs := rfl
@[simp] theorem State.updNode_zeroing (s : State) (d p i : Nat) (f : Node → Node) : (s.updNode d p i f).zeroing = s.zeroing := rfl
@[simp] theorem State.updNode_full (s : State) (d p i : Nat) (f : Node → Node) : (s.updNode d p i f).full = s.full := rfl
@[simp] theorem State.updNode_threads (s : State) (d p i : Nat) (f : Node → Node) : (s.updNode d p i f).threads = s.threads := rfl
@[simp] theorem State.updNode_waves (s : State) (d p i : Nat) (f : Node → Node) : (s.updNode d p i f).waves = s.waves := rfl
@[simp] theorem State.updNode_groups (s : State) (d p i : Nat) (f : Node → Node) : (s.updNode d p i f).groups = s.groups := rfl
@[simp] theorem State.updNode_csets (s : State) (d p i : Nat) (f : Node → Node) : (s.updNode d p i f).csets = s.csets := rfl
@[simp] theorem State.updNode_cbars (s : State) (d p i : Nat) (f : Node → Node) : (s.updNode d p i f).cbars = s.cbars := rfl
@[simp] theorem State.updNode_ctxs (s : State) (d p i : Nat) (f : Node → Node) : (s.updNode d p i f).ctxs = s.ctxs := rfl
@[simp] theorem State.updNode_cores (s : State) (d p i : Nat) (f : Node → Node) : (s.updNode d p i f).cores = s.cores := rfl
@[simp] theorem State.updNode_dies (s : State) (d p i : Nat) (f : Node → Node) : (s.updNode d p i f).dies = s.dies := rfl
@[simp] theorem State.updNode_parts (s : State) (d p i : Nat) (f : Node → Node) : (s.updNode d p i f).parts = s.parts := rfl
@[simp] theorem State.updNode_held (s : State) (d p i : Nat) (f : Node → Node) : (s.updNode d p i f).held = s.held := rfl
@[simp] theorem State.updNode_locks (s : State) (d p i : Nat) (f : Node → Node) : (s.updNode d p i f).locks = s.locks := rfl
@[simp] theorem State.updNode_regQueue (s : State) (d p i : Nat) (f : Node → Node) : (s.updNode d p i f).regQueue = s.regQueue := rfl
@[simp] theorem State.updNode_feQueue (s : State) (d p i : Nat) (f : Node → Node) : (s.updNode d p i f).feQueue = s.feQueue := rfl
@[simp] theorem State.updNode_mailQueue (s : State) (d p i : Nat) (f : Node → Node) : (s.updNode d p i f).mailQueue = s.mailQueue := rfl
@[simp] theorem State.updNode_launches (s : State) (d p i : Nat) (f : Node → Node) : (s.updNode d p i f).launches = s.launches := rfl
@[simp] theorem State.updNode_mailboxes (s : State) (d p i : Nat) (f : Node → Node) : (s.updNode d p i f).mailboxes = s.mailboxes := rfl
@[simp] theorem State.updNode_hostBoxes (s : State) (d p i : Nat) (f : Node → Node) : (s.updNode d p i f).hostBoxes = s.hostBoxes := rfl
@[simp] theorem State.updNode_msixMask (s : State) (d p i : Nat) (f : Node → Node) : (s.updNode d p i f).msixMask = s.msixMask := rfl
@[simp] theorem State.updNode_msixPending (s : State) (d p i : Nat) (f : Node → Node) : (s.updNode d p i f).msixPending = s.msixPending := rfl
@[simp] theorem State.updNode_msixSent (s : State) (d p i : Nat) (f : Node → Node) : (s.updNode d p i f).msixSent = s.msixSent := rfl
@[simp] theorem State.updNode_rstreq (s : State) (d p i : Nat) (f : Node → Node) : (s.updNode d p i f).rstreq = s.rstreq := rfl
@[simp] theorem State.updNode_ptm (s : State) (d p i : Nat) (f : Node → Node) : (s.updNode d p i f).ptm = s.ptm := rfl
@[simp] theorem State.updNode_weights (s : State) (d p i : Nat) (f : Node → Node) : (s.updNode d p i f).weights = s.weights := rfl
@[simp] theorem State.updNode_cw (s : State) (d p i : Nat) (f : Node → Node) : (s.updNode d p i f).cw = s.cw := rfl
@[simp] theorem State.updNode_powerClass (s : State) (d p i : Nat) (f : Node → Node) : (s.updNode d p i f).powerClass = s.powerClass := rfl
@[simp] theorem State.updNode_measure (s : State) (d p i : Nat) (f : Node → Node) : (s.updNode d p i f).measure = s.measure := rfl
@[simp] theorem State.updNode_rollback (s : State) (d p i : Nat) (f : Node → Node) : (s.updNode d p i f).rollback = s.rollback := rfl
@[simp] theorem State.updNode_spares (s : State) (d p i : Nat) (f : Node → Node) : (s.updNode d p i f).spares = s.spares := rfl
@[simp] theorem State.updNode_spareWays (s : State) (d p i : Nat) (f : Node → Node) : (s.updNode d p i f).spareWays = s.spareWays := rfl
@[simp] theorem State.updNode_lanes (s : State) (d p i : Nat) (f : Node → Node) : (s.updNode d p i f).lanes = s.lanes := rfl
@[simp] theorem State.updNode_eyes (s : State) (d p i : Nat) (f : Node → Node) : (s.updNode d p i f).eyes = s.eyes := rfl
@[simp] theorem State.updNode_waiting (s : State) (d p i : Nat) (f : Node → Node) : (s.updNode d p i f).waiting = s.waiting := rfl
@[simp] theorem State.updNode_hostData (s : State) (d p i : Nat) (f : Node → Node) : (s.updNode d p i f).hostData = s.hostData := rfl
@[simp] theorem State.updNode_gated (s : State) (d p i : Nat) (f : Node → Node) : (s.updNode d p i f).gated = s.gated := rfl
@[simp] theorem State.updNode_repair (s : State) (d p i : Nat) (f : Node → Node) : (s.updNode d p i f).repair = s.repair := rfl
@[simp] theorem State.updNode_buffered (s : State) (d p i : Nat) (f : Node → Node) : (s.updNode d p i f).buffered = s.buffered := rfl
@[simp] theorem State.updNode_owners (s : State) (d p i : Nat) (f : Node → Node) : (s.updNode d p i f).owners = s.owners := rfl
@[simp] theorem State.updNode_domNew (s : State) (d p i : Nat) (f : Node → Node) : (s.updNode d p i f).domNew = s.domNew := rfl
@[simp] theorem State.updNode_modules (s : State) (d p i : Nat) (f : Node → Node) : (s.updNode d p i f).modules = s.modules := rfl
@[simp] theorem State.updNode_inReset (s : State) (d p i : Nat) (f : Node → Node) : (s.updNode d p i f).inReset = s.inReset := rfl
@[simp] theorem State.updNode_dtbBase (s : State) (d p i : Nat) (f : Node → Node) : (s.updNode d p i f).dtbBase = s.dtbBase := rfl
@[simp] theorem State.updNode_dtbFrac (s : State) (d p i : Nat) (f : Node → Node) : (s.updNode d p i f).dtbFrac = s.dtbFrac := rfl
@[simp] theorem State.updNode_dtbNow (s : State) (d p i : Nat) (f : Node → Node) : (s.updNode d p i f).dtbNow = s.dtbNow := rfl
@[simp] theorem State.updNode_slew (s : State) (d p i : Nat) (f : Node → Node) : (s.updNode d p i f).slew = s.slew := rfl
@[simp] theorem State.updNode_now (s : State) (d p i : Nat) (f : Node → Node) : (s.updNode d p i f).now = s.now := rfl
@[simp] theorem State.updNode_turn (s : State) (d p i : Nat) (f : Node → Node) : (s.updNode d p i f).turn = s.turn := rfl
@[simp] theorem State.updNode_serial (s : State) (d p i : Nat) (f : Node → Node) : (s.updNode d p i f).serial = s.serial := rfl
@[simp] theorem State.updNode_draws (s : State) (d p i : Nat) (f : Node → Node) : (s.updNode d p i f).draws = s.draws := rfl
@[simp] theorem State.updNode_agenda (s : State) (d p i : Nat) (f : Node → Node) : (s.updNode d p i f).agenda = s.agenda := rfl
@[simp] theorem State.updNode_arg (s : State) (d p i : Nat) (f : Node → Node) : (s.updNode d p i f).arg = s.arg := rfl
@[simp] theorem State.updNode_bundle (s : State) (d p i : Nat) (f : Node → Node) : (s.updNode d p i f).bundle = s.bundle := rfl
@[simp] theorem State.updNode_command (s : State) (d p i : Nat) (f : Node → Node) : (s.updNode d p i f).command = s.command := rfl

@[simp] theorem State.updLaunch_mem (s : State) (i : Nat) (f : Launch → Launch) : (s.updLaunch i f).mem = s.mem := rfl
@[simp] theorem State.updLaunch_dcache (s : State) (i : Nat) (f : Launch → Launch) : (s.updLaunch i f).dcache = s.dcache := rfl
@[simp] theorem State.updLaunch_l2 (s : State) (i : Nat) (f : Launch → Launch) : (s.updLaunch i f).l2 = s.l2 := rfl
@[simp] theorem State.updLaunch_ways (s : State) (i : Nat) (f : Launch → Launch) : (s.updLaunch i f).ways = s.ways := rfl
@[simp] theorem State.updLaunch_lines (s : State) (i : Nat) (f : Launch → Launch) : (s.updLaunch i f).lines = s.lines := rfl
@[simp] theorem State.updLaunch_tlbs (s : State) (i : Nat) (f : Launch → Launch) : (s.updLaunch i f).tlbs = s.tlbs := rfl
@[simp] theorem State.updLaunch_zeroing (s : State) (i : Nat) (f : Launch → Launch) : (s.updLaunch i f).zeroing = s.zeroing := rfl
@[simp] theorem State.updLaunch_full (s : State) (i : Nat) (f : Launch → Launch) : (s.updLaunch i f).full = s.full := rfl
@[simp] theorem State.updLaunch_threads (s : State) (i : Nat) (f : Launch → Launch) : (s.updLaunch i f).threads = s.threads := rfl
@[simp] theorem State.updLaunch_waves (s : State) (i : Nat) (f : Launch → Launch) : (s.updLaunch i f).waves = s.waves := rfl
@[simp] theorem State.updLaunch_groups (s : State) (i : Nat) (f : Launch → Launch) : (s.updLaunch i f).groups = s.groups := rfl
@[simp] theorem State.updLaunch_csets (s : State) (i : Nat) (f : Launch → Launch) : (s.updLaunch i f).csets = s.csets := rfl
@[simp] theorem State.updLaunch_cbars (s : State) (i : Nat) (f : Launch → Launch) : (s.updLaunch i f).cbars = s.cbars := rfl
@[simp] theorem State.updLaunch_ctxs (s : State) (i : Nat) (f : Launch → Launch) : (s.updLaunch i f).ctxs = s.ctxs := rfl
@[simp] theorem State.updLaunch_cores (s : State) (i : Nat) (f : Launch → Launch) : (s.updLaunch i f).cores = s.cores := rfl
@[simp] theorem State.updLaunch_dies (s : State) (i : Nat) (f : Launch → Launch) : (s.updLaunch i f).dies = s.dies := rfl
@[simp] theorem State.updLaunch_parts (s : State) (i : Nat) (f : Launch → Launch) : (s.updLaunch i f).parts = s.parts := rfl
@[simp] theorem State.updLaunch_held (s : State) (i : Nat) (f : Launch → Launch) : (s.updLaunch i f).held = s.held := rfl
@[simp] theorem State.updLaunch_locks (s : State) (i : Nat) (f : Launch → Launch) : (s.updLaunch i f).locks = s.locks := rfl
@[simp] theorem State.updLaunch_regQueue (s : State) (i : Nat) (f : Launch → Launch) : (s.updLaunch i f).regQueue = s.regQueue := rfl
@[simp] theorem State.updLaunch_feQueue (s : State) (i : Nat) (f : Launch → Launch) : (s.updLaunch i f).feQueue = s.feQueue := rfl
@[simp] theorem State.updLaunch_mailQueue (s : State) (i : Nat) (f : Launch → Launch) : (s.updLaunch i f).mailQueue = s.mailQueue := rfl
@[simp] theorem State.updLaunch_nodes (s : State) (i : Nat) (f : Launch → Launch) : (s.updLaunch i f).nodes = s.nodes := rfl
@[simp] theorem State.updLaunch_mailboxes (s : State) (i : Nat) (f : Launch → Launch) : (s.updLaunch i f).mailboxes = s.mailboxes := rfl
@[simp] theorem State.updLaunch_hostBoxes (s : State) (i : Nat) (f : Launch → Launch) : (s.updLaunch i f).hostBoxes = s.hostBoxes := rfl
@[simp] theorem State.updLaunch_msixMask (s : State) (i : Nat) (f : Launch → Launch) : (s.updLaunch i f).msixMask = s.msixMask := rfl
@[simp] theorem State.updLaunch_msixPending (s : State) (i : Nat) (f : Launch → Launch) : (s.updLaunch i f).msixPending = s.msixPending := rfl
@[simp] theorem State.updLaunch_msixSent (s : State) (i : Nat) (f : Launch → Launch) : (s.updLaunch i f).msixSent = s.msixSent := rfl
@[simp] theorem State.updLaunch_rstreq (s : State) (i : Nat) (f : Launch → Launch) : (s.updLaunch i f).rstreq = s.rstreq := rfl
@[simp] theorem State.updLaunch_ptm (s : State) (i : Nat) (f : Launch → Launch) : (s.updLaunch i f).ptm = s.ptm := rfl
@[simp] theorem State.updLaunch_weights (s : State) (i : Nat) (f : Launch → Launch) : (s.updLaunch i f).weights = s.weights := rfl
@[simp] theorem State.updLaunch_cw (s : State) (i : Nat) (f : Launch → Launch) : (s.updLaunch i f).cw = s.cw := rfl
@[simp] theorem State.updLaunch_powerClass (s : State) (i : Nat) (f : Launch → Launch) : (s.updLaunch i f).powerClass = s.powerClass := rfl
@[simp] theorem State.updLaunch_measure (s : State) (i : Nat) (f : Launch → Launch) : (s.updLaunch i f).measure = s.measure := rfl
@[simp] theorem State.updLaunch_rollback (s : State) (i : Nat) (f : Launch → Launch) : (s.updLaunch i f).rollback = s.rollback := rfl
@[simp] theorem State.updLaunch_spares (s : State) (i : Nat) (f : Launch → Launch) : (s.updLaunch i f).spares = s.spares := rfl
@[simp] theorem State.updLaunch_spareWays (s : State) (i : Nat) (f : Launch → Launch) : (s.updLaunch i f).spareWays = s.spareWays := rfl
@[simp] theorem State.updLaunch_lanes (s : State) (i : Nat) (f : Launch → Launch) : (s.updLaunch i f).lanes = s.lanes := rfl
@[simp] theorem State.updLaunch_eyes (s : State) (i : Nat) (f : Launch → Launch) : (s.updLaunch i f).eyes = s.eyes := rfl
@[simp] theorem State.updLaunch_waiting (s : State) (i : Nat) (f : Launch → Launch) : (s.updLaunch i f).waiting = s.waiting := rfl
@[simp] theorem State.updLaunch_hostData (s : State) (i : Nat) (f : Launch → Launch) : (s.updLaunch i f).hostData = s.hostData := rfl
@[simp] theorem State.updLaunch_gated (s : State) (i : Nat) (f : Launch → Launch) : (s.updLaunch i f).gated = s.gated := rfl
@[simp] theorem State.updLaunch_repair (s : State) (i : Nat) (f : Launch → Launch) : (s.updLaunch i f).repair = s.repair := rfl
@[simp] theorem State.updLaunch_buffered (s : State) (i : Nat) (f : Launch → Launch) : (s.updLaunch i f).buffered = s.buffered := rfl
@[simp] theorem State.updLaunch_owners (s : State) (i : Nat) (f : Launch → Launch) : (s.updLaunch i f).owners = s.owners := rfl
@[simp] theorem State.updLaunch_domNew (s : State) (i : Nat) (f : Launch → Launch) : (s.updLaunch i f).domNew = s.domNew := rfl
@[simp] theorem State.updLaunch_modules (s : State) (i : Nat) (f : Launch → Launch) : (s.updLaunch i f).modules = s.modules := rfl
@[simp] theorem State.updLaunch_inReset (s : State) (i : Nat) (f : Launch → Launch) : (s.updLaunch i f).inReset = s.inReset := rfl
@[simp] theorem State.updLaunch_dtbBase (s : State) (i : Nat) (f : Launch → Launch) : (s.updLaunch i f).dtbBase = s.dtbBase := rfl
@[simp] theorem State.updLaunch_dtbFrac (s : State) (i : Nat) (f : Launch → Launch) : (s.updLaunch i f).dtbFrac = s.dtbFrac := rfl
@[simp] theorem State.updLaunch_dtbNow (s : State) (i : Nat) (f : Launch → Launch) : (s.updLaunch i f).dtbNow = s.dtbNow := rfl
@[simp] theorem State.updLaunch_slew (s : State) (i : Nat) (f : Launch → Launch) : (s.updLaunch i f).slew = s.slew := rfl
@[simp] theorem State.updLaunch_now (s : State) (i : Nat) (f : Launch → Launch) : (s.updLaunch i f).now = s.now := rfl
@[simp] theorem State.updLaunch_turn (s : State) (i : Nat) (f : Launch → Launch) : (s.updLaunch i f).turn = s.turn := rfl
@[simp] theorem State.updLaunch_serial (s : State) (i : Nat) (f : Launch → Launch) : (s.updLaunch i f).serial = s.serial := rfl
@[simp] theorem State.updLaunch_draws (s : State) (i : Nat) (f : Launch → Launch) : (s.updLaunch i f).draws = s.draws := rfl
@[simp] theorem State.updLaunch_agenda (s : State) (i : Nat) (f : Launch → Launch) : (s.updLaunch i f).agenda = s.agenda := rfl
@[simp] theorem State.updLaunch_arg (s : State) (i : Nat) (f : Launch → Launch) : (s.updLaunch i f).arg = s.arg := rfl
@[simp] theorem State.updLaunch_bundle (s : State) (i : Nat) (f : Launch → Launch) : (s.updLaunch i f).bundle = s.bundle := rfl
@[simp] theorem State.updLaunch_command (s : State) (i : Nat) (f : Launch → Launch) : (s.updLaunch i f).command = s.command := rfl

@[simp] theorem State.setFull_mem (s : State) (l : Nat) (b : Bool) : (s.setFull l b).mem = s.mem := rfl
@[simp] theorem State.setFull_dcache (s : State) (l : Nat) (b : Bool) : (s.setFull l b).dcache = s.dcache := rfl
@[simp] theorem State.setFull_l2 (s : State) (l : Nat) (b : Bool) : (s.setFull l b).l2 = s.l2 := rfl
@[simp] theorem State.setFull_ways (s : State) (l : Nat) (b : Bool) : (s.setFull l b).ways = s.ways := rfl
@[simp] theorem State.setFull_lines (s : State) (l : Nat) (b : Bool) : (s.setFull l b).lines = s.lines := rfl
@[simp] theorem State.setFull_tlbs (s : State) (l : Nat) (b : Bool) : (s.setFull l b).tlbs = s.tlbs := rfl
@[simp] theorem State.setFull_zeroing (s : State) (l : Nat) (b : Bool) : (s.setFull l b).zeroing = s.zeroing := rfl
@[simp] theorem State.setFull_threads (s : State) (l : Nat) (b : Bool) : (s.setFull l b).threads = s.threads := rfl
@[simp] theorem State.setFull_waves (s : State) (l : Nat) (b : Bool) : (s.setFull l b).waves = s.waves := rfl
@[simp] theorem State.setFull_groups (s : State) (l : Nat) (b : Bool) : (s.setFull l b).groups = s.groups := rfl
@[simp] theorem State.setFull_csets (s : State) (l : Nat) (b : Bool) : (s.setFull l b).csets = s.csets := rfl
@[simp] theorem State.setFull_cbars (s : State) (l : Nat) (b : Bool) : (s.setFull l b).cbars = s.cbars := rfl
@[simp] theorem State.setFull_ctxs (s : State) (l : Nat) (b : Bool) : (s.setFull l b).ctxs = s.ctxs := rfl
@[simp] theorem State.setFull_cores (s : State) (l : Nat) (b : Bool) : (s.setFull l b).cores = s.cores := rfl
@[simp] theorem State.setFull_dies (s : State) (l : Nat) (b : Bool) : (s.setFull l b).dies = s.dies := rfl
@[simp] theorem State.setFull_parts (s : State) (l : Nat) (b : Bool) : (s.setFull l b).parts = s.parts := rfl
@[simp] theorem State.setFull_held (s : State) (l : Nat) (b : Bool) : (s.setFull l b).held = s.held := rfl
@[simp] theorem State.setFull_locks (s : State) (l : Nat) (b : Bool) : (s.setFull l b).locks = s.locks := rfl
@[simp] theorem State.setFull_regQueue (s : State) (l : Nat) (b : Bool) : (s.setFull l b).regQueue = s.regQueue := rfl
@[simp] theorem State.setFull_feQueue (s : State) (l : Nat) (b : Bool) : (s.setFull l b).feQueue = s.feQueue := rfl
@[simp] theorem State.setFull_mailQueue (s : State) (l : Nat) (b : Bool) : (s.setFull l b).mailQueue = s.mailQueue := rfl
@[simp] theorem State.setFull_launches (s : State) (l : Nat) (b : Bool) : (s.setFull l b).launches = s.launches := rfl
@[simp] theorem State.setFull_nodes (s : State) (l : Nat) (b : Bool) : (s.setFull l b).nodes = s.nodes := rfl
@[simp] theorem State.setFull_mailboxes (s : State) (l : Nat) (b : Bool) : (s.setFull l b).mailboxes = s.mailboxes := rfl
@[simp] theorem State.setFull_hostBoxes (s : State) (l : Nat) (b : Bool) : (s.setFull l b).hostBoxes = s.hostBoxes := rfl
@[simp] theorem State.setFull_msixMask (s : State) (l : Nat) (b : Bool) : (s.setFull l b).msixMask = s.msixMask := rfl
@[simp] theorem State.setFull_msixPending (s : State) (l : Nat) (b : Bool) : (s.setFull l b).msixPending = s.msixPending := rfl
@[simp] theorem State.setFull_msixSent (s : State) (l : Nat) (b : Bool) : (s.setFull l b).msixSent = s.msixSent := rfl
@[simp] theorem State.setFull_rstreq (s : State) (l : Nat) (b : Bool) : (s.setFull l b).rstreq = s.rstreq := rfl
@[simp] theorem State.setFull_ptm (s : State) (l : Nat) (b : Bool) : (s.setFull l b).ptm = s.ptm := rfl
@[simp] theorem State.setFull_weights (s : State) (l : Nat) (b : Bool) : (s.setFull l b).weights = s.weights := rfl
@[simp] theorem State.setFull_cw (s : State) (l : Nat) (b : Bool) : (s.setFull l b).cw = s.cw := rfl
@[simp] theorem State.setFull_powerClass (s : State) (l : Nat) (b : Bool) : (s.setFull l b).powerClass = s.powerClass := rfl
@[simp] theorem State.setFull_measure (s : State) (l : Nat) (b : Bool) : (s.setFull l b).measure = s.measure := rfl
@[simp] theorem State.setFull_rollback (s : State) (l : Nat) (b : Bool) : (s.setFull l b).rollback = s.rollback := rfl
@[simp] theorem State.setFull_spares (s : State) (l : Nat) (b : Bool) : (s.setFull l b).spares = s.spares := rfl
@[simp] theorem State.setFull_spareWays (s : State) (l : Nat) (b : Bool) : (s.setFull l b).spareWays = s.spareWays := rfl
@[simp] theorem State.setFull_lanes (s : State) (l : Nat) (b : Bool) : (s.setFull l b).lanes = s.lanes := rfl
@[simp] theorem State.setFull_eyes (s : State) (l : Nat) (b : Bool) : (s.setFull l b).eyes = s.eyes := rfl
@[simp] theorem State.setFull_waiting (s : State) (l : Nat) (b : Bool) : (s.setFull l b).waiting = s.waiting := rfl
@[simp] theorem State.setFull_hostData (s : State) (l : Nat) (b : Bool) : (s.setFull l b).hostData = s.hostData := rfl
@[simp] theorem State.setFull_gated (s : State) (l : Nat) (b : Bool) : (s.setFull l b).gated = s.gated := rfl
@[simp] theorem State.setFull_repair (s : State) (l : Nat) (b : Bool) : (s.setFull l b).repair = s.repair := rfl
@[simp] theorem State.setFull_buffered (s : State) (l : Nat) (b : Bool) : (s.setFull l b).buffered = s.buffered := rfl
@[simp] theorem State.setFull_owners (s : State) (l : Nat) (b : Bool) : (s.setFull l b).owners = s.owners := rfl
@[simp] theorem State.setFull_domNew (s : State) (l : Nat) (b : Bool) : (s.setFull l b).domNew = s.domNew := rfl
@[simp] theorem State.setFull_modules (s : State) (l : Nat) (b : Bool) : (s.setFull l b).modules = s.modules := rfl
@[simp] theorem State.setFull_inReset (s : State) (l : Nat) (b : Bool) : (s.setFull l b).inReset = s.inReset := rfl
@[simp] theorem State.setFull_dtbBase (s : State) (l : Nat) (b : Bool) : (s.setFull l b).dtbBase = s.dtbBase := rfl
@[simp] theorem State.setFull_dtbFrac (s : State) (l : Nat) (b : Bool) : (s.setFull l b).dtbFrac = s.dtbFrac := rfl
@[simp] theorem State.setFull_dtbNow (s : State) (l : Nat) (b : Bool) : (s.setFull l b).dtbNow = s.dtbNow := rfl
@[simp] theorem State.setFull_slew (s : State) (l : Nat) (b : Bool) : (s.setFull l b).slew = s.slew := rfl
@[simp] theorem State.setFull_now (s : State) (l : Nat) (b : Bool) : (s.setFull l b).now = s.now := rfl
@[simp] theorem State.setFull_turn (s : State) (l : Nat) (b : Bool) : (s.setFull l b).turn = s.turn := rfl
@[simp] theorem State.setFull_serial (s : State) (l : Nat) (b : Bool) : (s.setFull l b).serial = s.serial := rfl
@[simp] theorem State.setFull_draws (s : State) (l : Nat) (b : Bool) : (s.setFull l b).draws = s.draws := rfl
@[simp] theorem State.setFull_agenda (s : State) (l : Nat) (b : Bool) : (s.setFull l b).agenda = s.agenda := rfl
@[simp] theorem State.setFull_arg (s : State) (l : Nat) (b : Bool) : (s.setFull l b).arg = s.arg := rfl
@[simp] theorem State.setFull_bundle (s : State) (l : Nat) (b : Bool) : (s.setFull l b).bundle = s.bundle := rfl
@[simp] theorem State.setFull_command (s : State) (l : Nat) (b : Bool) : (s.setFull l b).command = s.command := rfl

@[simp] theorem State.putCache_mem (s : State) (c a : Nat) (v : Byte) : (s.putCache c a v).mem = s.mem := rfl
@[simp] theorem State.putCache_l2 (s : State) (c a : Nat) (v : Byte) : (s.putCache c a v).l2 = s.l2 := rfl
@[simp] theorem State.putCache_ways (s : State) (c a : Nat) (v : Byte) : (s.putCache c a v).ways = s.ways := rfl
@[simp] theorem State.putCache_lines (s : State) (c a : Nat) (v : Byte) : (s.putCache c a v).lines = s.lines := rfl
@[simp] theorem State.putCache_tlbs (s : State) (c a : Nat) (v : Byte) : (s.putCache c a v).tlbs = s.tlbs := rfl
@[simp] theorem State.putCache_zeroing (s : State) (c a : Nat) (v : Byte) : (s.putCache c a v).zeroing = s.zeroing := rfl
@[simp] theorem State.putCache_full (s : State) (c a : Nat) (v : Byte) : (s.putCache c a v).full = s.full := rfl
@[simp] theorem State.putCache_threads (s : State) (c a : Nat) (v : Byte) : (s.putCache c a v).threads = s.threads := rfl
@[simp] theorem State.putCache_waves (s : State) (c a : Nat) (v : Byte) : (s.putCache c a v).waves = s.waves := rfl
@[simp] theorem State.putCache_groups (s : State) (c a : Nat) (v : Byte) : (s.putCache c a v).groups = s.groups := rfl
@[simp] theorem State.putCache_csets (s : State) (c a : Nat) (v : Byte) : (s.putCache c a v).csets = s.csets := rfl
@[simp] theorem State.putCache_cbars (s : State) (c a : Nat) (v : Byte) : (s.putCache c a v).cbars = s.cbars := rfl
@[simp] theorem State.putCache_ctxs (s : State) (c a : Nat) (v : Byte) : (s.putCache c a v).ctxs = s.ctxs := rfl
@[simp] theorem State.putCache_cores (s : State) (c a : Nat) (v : Byte) : (s.putCache c a v).cores = s.cores := rfl
@[simp] theorem State.putCache_dies (s : State) (c a : Nat) (v : Byte) : (s.putCache c a v).dies = s.dies := rfl
@[simp] theorem State.putCache_parts (s : State) (c a : Nat) (v : Byte) : (s.putCache c a v).parts = s.parts := rfl
@[simp] theorem State.putCache_held (s : State) (c a : Nat) (v : Byte) : (s.putCache c a v).held = s.held := rfl
@[simp] theorem State.putCache_locks (s : State) (c a : Nat) (v : Byte) : (s.putCache c a v).locks = s.locks := rfl
@[simp] theorem State.putCache_regQueue (s : State) (c a : Nat) (v : Byte) : (s.putCache c a v).regQueue = s.regQueue := rfl
@[simp] theorem State.putCache_feQueue (s : State) (c a : Nat) (v : Byte) : (s.putCache c a v).feQueue = s.feQueue := rfl
@[simp] theorem State.putCache_mailQueue (s : State) (c a : Nat) (v : Byte) : (s.putCache c a v).mailQueue = s.mailQueue := rfl
@[simp] theorem State.putCache_launches (s : State) (c a : Nat) (v : Byte) : (s.putCache c a v).launches = s.launches := rfl
@[simp] theorem State.putCache_nodes (s : State) (c a : Nat) (v : Byte) : (s.putCache c a v).nodes = s.nodes := rfl
@[simp] theorem State.putCache_mailboxes (s : State) (c a : Nat) (v : Byte) : (s.putCache c a v).mailboxes = s.mailboxes := rfl
@[simp] theorem State.putCache_hostBoxes (s : State) (c a : Nat) (v : Byte) : (s.putCache c a v).hostBoxes = s.hostBoxes := rfl
@[simp] theorem State.putCache_msixMask (s : State) (c a : Nat) (v : Byte) : (s.putCache c a v).msixMask = s.msixMask := rfl
@[simp] theorem State.putCache_msixPending (s : State) (c a : Nat) (v : Byte) : (s.putCache c a v).msixPending = s.msixPending := rfl
@[simp] theorem State.putCache_msixSent (s : State) (c a : Nat) (v : Byte) : (s.putCache c a v).msixSent = s.msixSent := rfl
@[simp] theorem State.putCache_rstreq (s : State) (c a : Nat) (v : Byte) : (s.putCache c a v).rstreq = s.rstreq := rfl
@[simp] theorem State.putCache_ptm (s : State) (c a : Nat) (v : Byte) : (s.putCache c a v).ptm = s.ptm := rfl
@[simp] theorem State.putCache_weights (s : State) (c a : Nat) (v : Byte) : (s.putCache c a v).weights = s.weights := rfl
@[simp] theorem State.putCache_cw (s : State) (c a : Nat) (v : Byte) : (s.putCache c a v).cw = s.cw := rfl
@[simp] theorem State.putCache_powerClass (s : State) (c a : Nat) (v : Byte) : (s.putCache c a v).powerClass = s.powerClass := rfl
@[simp] theorem State.putCache_measure (s : State) (c a : Nat) (v : Byte) : (s.putCache c a v).measure = s.measure := rfl
@[simp] theorem State.putCache_rollback (s : State) (c a : Nat) (v : Byte) : (s.putCache c a v).rollback = s.rollback := rfl
@[simp] theorem State.putCache_spares (s : State) (c a : Nat) (v : Byte) : (s.putCache c a v).spares = s.spares := rfl
@[simp] theorem State.putCache_spareWays (s : State) (c a : Nat) (v : Byte) : (s.putCache c a v).spareWays = s.spareWays := rfl
@[simp] theorem State.putCache_lanes (s : State) (c a : Nat) (v : Byte) : (s.putCache c a v).lanes = s.lanes := rfl
@[simp] theorem State.putCache_eyes (s : State) (c a : Nat) (v : Byte) : (s.putCache c a v).eyes = s.eyes := rfl
@[simp] theorem State.putCache_waiting (s : State) (c a : Nat) (v : Byte) : (s.putCache c a v).waiting = s.waiting := rfl
@[simp] theorem State.putCache_hostData (s : State) (c a : Nat) (v : Byte) : (s.putCache c a v).hostData = s.hostData := rfl
@[simp] theorem State.putCache_gated (s : State) (c a : Nat) (v : Byte) : (s.putCache c a v).gated = s.gated := rfl
@[simp] theorem State.putCache_repair (s : State) (c a : Nat) (v : Byte) : (s.putCache c a v).repair = s.repair := rfl
@[simp] theorem State.putCache_buffered (s : State) (c a : Nat) (v : Byte) : (s.putCache c a v).buffered = s.buffered := rfl
@[simp] theorem State.putCache_owners (s : State) (c a : Nat) (v : Byte) : (s.putCache c a v).owners = s.owners := rfl
@[simp] theorem State.putCache_domNew (s : State) (c a : Nat) (v : Byte) : (s.putCache c a v).domNew = s.domNew := rfl
@[simp] theorem State.putCache_modules (s : State) (c a : Nat) (v : Byte) : (s.putCache c a v).modules = s.modules := rfl
@[simp] theorem State.putCache_inReset (s : State) (c a : Nat) (v : Byte) : (s.putCache c a v).inReset = s.inReset := rfl
@[simp] theorem State.putCache_dtbBase (s : State) (c a : Nat) (v : Byte) : (s.putCache c a v).dtbBase = s.dtbBase := rfl
@[simp] theorem State.putCache_dtbFrac (s : State) (c a : Nat) (v : Byte) : (s.putCache c a v).dtbFrac = s.dtbFrac := rfl
@[simp] theorem State.putCache_dtbNow (s : State) (c a : Nat) (v : Byte) : (s.putCache c a v).dtbNow = s.dtbNow := rfl
@[simp] theorem State.putCache_slew (s : State) (c a : Nat) (v : Byte) : (s.putCache c a v).slew = s.slew := rfl
@[simp] theorem State.putCache_now (s : State) (c a : Nat) (v : Byte) : (s.putCache c a v).now = s.now := rfl
@[simp] theorem State.putCache_turn (s : State) (c a : Nat) (v : Byte) : (s.putCache c a v).turn = s.turn := rfl
@[simp] theorem State.putCache_serial (s : State) (c a : Nat) (v : Byte) : (s.putCache c a v).serial = s.serial := rfl
@[simp] theorem State.putCache_draws (s : State) (c a : Nat) (v : Byte) : (s.putCache c a v).draws = s.draws := rfl
@[simp] theorem State.putCache_agenda (s : State) (c a : Nat) (v : Byte) : (s.putCache c a v).agenda = s.agenda := rfl
@[simp] theorem State.putCache_arg (s : State) (c a : Nat) (v : Byte) : (s.putCache c a v).arg = s.arg := rfl
@[simp] theorem State.putCache_bundle (s : State) (c a : Nat) (v : Byte) : (s.putCache c a v).bundle = s.bundle := rfl
@[simp] theorem State.putCache_command (s : State) (c a : Nat) (v : Byte) : (s.putCache c a v).command = s.command := rfl

@[simp] theorem State.bump_mem (s : State) : (s.bump).mem = s.mem := rfl
@[simp] theorem State.bump_dcache (s : State) : (s.bump).dcache = s.dcache := rfl
@[simp] theorem State.bump_l2 (s : State) : (s.bump).l2 = s.l2 := rfl
@[simp] theorem State.bump_ways (s : State) : (s.bump).ways = s.ways := rfl
@[simp] theorem State.bump_lines (s : State) : (s.bump).lines = s.lines := rfl
@[simp] theorem State.bump_tlbs (s : State) : (s.bump).tlbs = s.tlbs := rfl
@[simp] theorem State.bump_zeroing (s : State) : (s.bump).zeroing = s.zeroing := rfl
@[simp] theorem State.bump_full (s : State) : (s.bump).full = s.full := rfl
@[simp] theorem State.bump_threads (s : State) : (s.bump).threads = s.threads := rfl
@[simp] theorem State.bump_waves (s : State) : (s.bump).waves = s.waves := rfl
@[simp] theorem State.bump_groups (s : State) : (s.bump).groups = s.groups := rfl
@[simp] theorem State.bump_csets (s : State) : (s.bump).csets = s.csets := rfl
@[simp] theorem State.bump_cbars (s : State) : (s.bump).cbars = s.cbars := rfl
@[simp] theorem State.bump_ctxs (s : State) : (s.bump).ctxs = s.ctxs := rfl
@[simp] theorem State.bump_cores (s : State) : (s.bump).cores = s.cores := rfl
@[simp] theorem State.bump_dies (s : State) : (s.bump).dies = s.dies := rfl
@[simp] theorem State.bump_parts (s : State) : (s.bump).parts = s.parts := rfl
@[simp] theorem State.bump_held (s : State) : (s.bump).held = s.held := rfl
@[simp] theorem State.bump_locks (s : State) : (s.bump).locks = s.locks := rfl
@[simp] theorem State.bump_regQueue (s : State) : (s.bump).regQueue = s.regQueue := rfl
@[simp] theorem State.bump_feQueue (s : State) : (s.bump).feQueue = s.feQueue := rfl
@[simp] theorem State.bump_mailQueue (s : State) : (s.bump).mailQueue = s.mailQueue := rfl
@[simp] theorem State.bump_launches (s : State) : (s.bump).launches = s.launches := rfl
@[simp] theorem State.bump_nodes (s : State) : (s.bump).nodes = s.nodes := rfl
@[simp] theorem State.bump_mailboxes (s : State) : (s.bump).mailboxes = s.mailboxes := rfl
@[simp] theorem State.bump_hostBoxes (s : State) : (s.bump).hostBoxes = s.hostBoxes := rfl
@[simp] theorem State.bump_msixMask (s : State) : (s.bump).msixMask = s.msixMask := rfl
@[simp] theorem State.bump_msixPending (s : State) : (s.bump).msixPending = s.msixPending := rfl
@[simp] theorem State.bump_msixSent (s : State) : (s.bump).msixSent = s.msixSent := rfl
@[simp] theorem State.bump_rstreq (s : State) : (s.bump).rstreq = s.rstreq := rfl
@[simp] theorem State.bump_ptm (s : State) : (s.bump).ptm = s.ptm := rfl
@[simp] theorem State.bump_weights (s : State) : (s.bump).weights = s.weights := rfl
@[simp] theorem State.bump_cw (s : State) : (s.bump).cw = s.cw := rfl
@[simp] theorem State.bump_powerClass (s : State) : (s.bump).powerClass = s.powerClass := rfl
@[simp] theorem State.bump_measure (s : State) : (s.bump).measure = s.measure := rfl
@[simp] theorem State.bump_rollback (s : State) : (s.bump).rollback = s.rollback := rfl
@[simp] theorem State.bump_spares (s : State) : (s.bump).spares = s.spares := rfl
@[simp] theorem State.bump_spareWays (s : State) : (s.bump).spareWays = s.spareWays := rfl
@[simp] theorem State.bump_lanes (s : State) : (s.bump).lanes = s.lanes := rfl
@[simp] theorem State.bump_eyes (s : State) : (s.bump).eyes = s.eyes := rfl
@[simp] theorem State.bump_waiting (s : State) : (s.bump).waiting = s.waiting := rfl
@[simp] theorem State.bump_hostData (s : State) : (s.bump).hostData = s.hostData := rfl
@[simp] theorem State.bump_gated (s : State) : (s.bump).gated = s.gated := rfl
@[simp] theorem State.bump_repair (s : State) : (s.bump).repair = s.repair := rfl
@[simp] theorem State.bump_buffered (s : State) : (s.bump).buffered = s.buffered := rfl
@[simp] theorem State.bump_owners (s : State) : (s.bump).owners = s.owners := rfl
@[simp] theorem State.bump_domNew (s : State) : (s.bump).domNew = s.domNew := rfl
@[simp] theorem State.bump_modules (s : State) : (s.bump).modules = s.modules := rfl
@[simp] theorem State.bump_inReset (s : State) : (s.bump).inReset = s.inReset := rfl
@[simp] theorem State.bump_dtbBase (s : State) : (s.bump).dtbBase = s.dtbBase := rfl
@[simp] theorem State.bump_dtbFrac (s : State) : (s.bump).dtbFrac = s.dtbFrac := rfl
@[simp] theorem State.bump_dtbNow (s : State) : (s.bump).dtbNow = s.dtbNow := rfl
@[simp] theorem State.bump_slew (s : State) : (s.bump).slew = s.slew := rfl
@[simp] theorem State.bump_now (s : State) : (s.bump).now = s.now := rfl
@[simp] theorem State.bump_turn (s : State) : (s.bump).turn = s.turn := rfl
@[simp] theorem State.bump_draws (s : State) : (s.bump).draws = s.draws := rfl
@[simp] theorem State.bump_agenda (s : State) : (s.bump).agenda = s.agenda := rfl
@[simp] theorem State.bump_arg (s : State) : (s.bump).arg = s.arg := rfl
@[simp] theorem State.bump_bundle (s : State) : (s.bump).bundle = s.bundle := rfl
@[simp] theorem State.bump_command (s : State) : (s.bump).command = s.command := rfl

@[simp] theorem State.drawn_mem (s : State) : (s.drawn).mem = s.mem := rfl
@[simp] theorem State.drawn_dcache (s : State) : (s.drawn).dcache = s.dcache := rfl
@[simp] theorem State.drawn_l2 (s : State) : (s.drawn).l2 = s.l2 := rfl
@[simp] theorem State.drawn_ways (s : State) : (s.drawn).ways = s.ways := rfl
@[simp] theorem State.drawn_lines (s : State) : (s.drawn).lines = s.lines := rfl
@[simp] theorem State.drawn_tlbs (s : State) : (s.drawn).tlbs = s.tlbs := rfl
@[simp] theorem State.drawn_zeroing (s : State) : (s.drawn).zeroing = s.zeroing := rfl
@[simp] theorem State.drawn_full (s : State) : (s.drawn).full = s.full := rfl
@[simp] theorem State.drawn_threads (s : State) : (s.drawn).threads = s.threads := rfl
@[simp] theorem State.drawn_waves (s : State) : (s.drawn).waves = s.waves := rfl
@[simp] theorem State.drawn_groups (s : State) : (s.drawn).groups = s.groups := rfl
@[simp] theorem State.drawn_csets (s : State) : (s.drawn).csets = s.csets := rfl
@[simp] theorem State.drawn_cbars (s : State) : (s.drawn).cbars = s.cbars := rfl
@[simp] theorem State.drawn_ctxs (s : State) : (s.drawn).ctxs = s.ctxs := rfl
@[simp] theorem State.drawn_cores (s : State) : (s.drawn).cores = s.cores := rfl
@[simp] theorem State.drawn_dies (s : State) : (s.drawn).dies = s.dies := rfl
@[simp] theorem State.drawn_parts (s : State) : (s.drawn).parts = s.parts := rfl
@[simp] theorem State.drawn_held (s : State) : (s.drawn).held = s.held := rfl
@[simp] theorem State.drawn_locks (s : State) : (s.drawn).locks = s.locks := rfl
@[simp] theorem State.drawn_regQueue (s : State) : (s.drawn).regQueue = s.regQueue := rfl
@[simp] theorem State.drawn_feQueue (s : State) : (s.drawn).feQueue = s.feQueue := rfl
@[simp] theorem State.drawn_mailQueue (s : State) : (s.drawn).mailQueue = s.mailQueue := rfl
@[simp] theorem State.drawn_launches (s : State) : (s.drawn).launches = s.launches := rfl
@[simp] theorem State.drawn_nodes (s : State) : (s.drawn).nodes = s.nodes := rfl
@[simp] theorem State.drawn_mailboxes (s : State) : (s.drawn).mailboxes = s.mailboxes := rfl
@[simp] theorem State.drawn_hostBoxes (s : State) : (s.drawn).hostBoxes = s.hostBoxes := rfl
@[simp] theorem State.drawn_msixMask (s : State) : (s.drawn).msixMask = s.msixMask := rfl
@[simp] theorem State.drawn_msixPending (s : State) : (s.drawn).msixPending = s.msixPending := rfl
@[simp] theorem State.drawn_msixSent (s : State) : (s.drawn).msixSent = s.msixSent := rfl
@[simp] theorem State.drawn_rstreq (s : State) : (s.drawn).rstreq = s.rstreq := rfl
@[simp] theorem State.drawn_ptm (s : State) : (s.drawn).ptm = s.ptm := rfl
@[simp] theorem State.drawn_weights (s : State) : (s.drawn).weights = s.weights := rfl
@[simp] theorem State.drawn_cw (s : State) : (s.drawn).cw = s.cw := rfl
@[simp] theorem State.drawn_powerClass (s : State) : (s.drawn).powerClass = s.powerClass := rfl
@[simp] theorem State.drawn_measure (s : State) : (s.drawn).measure = s.measure := rfl
@[simp] theorem State.drawn_rollback (s : State) : (s.drawn).rollback = s.rollback := rfl
@[simp] theorem State.drawn_spares (s : State) : (s.drawn).spares = s.spares := rfl
@[simp] theorem State.drawn_spareWays (s : State) : (s.drawn).spareWays = s.spareWays := rfl
@[simp] theorem State.drawn_lanes (s : State) : (s.drawn).lanes = s.lanes := rfl
@[simp] theorem State.drawn_eyes (s : State) : (s.drawn).eyes = s.eyes := rfl
@[simp] theorem State.drawn_waiting (s : State) : (s.drawn).waiting = s.waiting := rfl
@[simp] theorem State.drawn_hostData (s : State) : (s.drawn).hostData = s.hostData := rfl
@[simp] theorem State.drawn_gated (s : State) : (s.drawn).gated = s.gated := rfl
@[simp] theorem State.drawn_repair (s : State) : (s.drawn).repair = s.repair := rfl
@[simp] theorem State.drawn_buffered (s : State) : (s.drawn).buffered = s.buffered := rfl
@[simp] theorem State.drawn_owners (s : State) : (s.drawn).owners = s.owners := rfl
@[simp] theorem State.drawn_domNew (s : State) : (s.drawn).domNew = s.domNew := rfl
@[simp] theorem State.drawn_modules (s : State) : (s.drawn).modules = s.modules := rfl
@[simp] theorem State.drawn_inReset (s : State) : (s.drawn).inReset = s.inReset := rfl
@[simp] theorem State.drawn_dtbBase (s : State) : (s.drawn).dtbBase = s.dtbBase := rfl
@[simp] theorem State.drawn_dtbFrac (s : State) : (s.drawn).dtbFrac = s.dtbFrac := rfl
@[simp] theorem State.drawn_dtbNow (s : State) : (s.drawn).dtbNow = s.dtbNow := rfl
@[simp] theorem State.drawn_slew (s : State) : (s.drawn).slew = s.slew := rfl
@[simp] theorem State.drawn_now (s : State) : (s.drawn).now = s.now := rfl
@[simp] theorem State.drawn_turn (s : State) : (s.drawn).turn = s.turn := rfl
@[simp] theorem State.drawn_serial (s : State) : (s.drawn).serial = s.serial := rfl
@[simp] theorem State.drawn_agenda (s : State) : (s.drawn).agenda = s.agenda := rfl
@[simp] theorem State.drawn_arg (s : State) : (s.drawn).arg = s.arg := rfl
@[simp] theorem State.drawn_bundle (s : State) : (s.drawn).bundle = s.bundle := rfl
@[simp] theorem State.drawn_command (s : State) : (s.drawn).command = s.command := rfl

/-! ### Updates named by what they do, as updates of one record -/

theorem State.updWaveOf_eq (s : State) (r : Ref) (f : Wave → Wave) : s.updWaveOf r f = s.updWave r.1 (s.widOf r) f := rfl
theorem State.updCtxOf_eq (s : State) (r : Ref) (f : Ctx → Ctx) : s.updCtxOf r f = s.updCtx (s.coreOf r) (s.partOf r) f := rfl
theorem State.setCause_eq (s : State) (r : Ref) (c : Nat) :
    s.setCause r c = s.updWave r.1 (s.widOf r) (fun w => { w with cause := w.cause ||| causeBit c }) := rfl
theorem State.put_eq (s : State) (r : Ref) (d : Reg) (w : Word) : s.put r d w = s.upd r (fun t => t.setReg d w) := rfl
theorem State.put64_eq (s : State) (r : Ref) (d : Reg) (w : DWord) : s.put64 r d w = s.upd r (fun t => t.setPair d w) := rfl
theorem State.putPred_eq (s : State) (r : Ref) (p : BitVec 3) (b : Bool) : s.putPred r p b = s.upd r (fun t => t.setPred p b) := rfl
theorem State.putBlock_eq (s : State) (r : Ref) (d : Reg) (ws : List Word) : s.putBlock r d ws = s.upd r (fun t => t.setBlock d ws) := rfl
theorem State.wake_eq (s : State) (r : Ref) : s.wake r = s.upd r (fun t => { t with park := .ready }) := rfl

/-! ### What is read from fields that an update leaves alone -/

@[simp] theorem State.upd_get_group (s : State) (r : Ref) (f : Thread → Thread) (y : Nat) : (s.upd r f).group y = s.group y := rfl
@[simp] theorem State.upd_get_wave (s : State) (r : Ref) (f : Thread → Thread) (y z : Nat) : (s.upd r f).wave y z = s.wave y z := rfl
@[simp] theorem State.upd_get_ctx (s : State) (r : Ref) (f : Thread → Thread) (y z : Nat) : (s.upd r f).ctx y z = s.ctx y z := rfl
@[simp] theorem State.upd_get_coreSt (s : State) (r : Ref) (f : Thread → Thread) (y : Nat) : (s.upd r f).coreSt y = s.coreSt y := rfl
@[simp] theorem State.upd_get_die (s : State) (r : Ref) (f : Thread → Thread) (y : Nat) : (s.upd r f).die y = s.die y := rfl
@[simp] theorem State.upd_get_part (s : State) (r : Ref) (f : Thread → Thread) (y : Nat) : (s.upd r f).part y = s.part y := rfl
@[simp] theorem State.upd_get_node (s : State) (r : Ref) (f : Thread → Thread) (y z u : Nat) : (s.upd r f).node y z u = s.node y z u := rfl
@[simp] theorem State.upd_get_cset (s : State) (r : Ref) (f : Thread → Thread) (y : Nat) : (s.upd r f).cset y = s.cset y := rfl
@[simp] theorem State.upd_get_bnd (s : State) (r : Ref) (f : Thread → Thread) : (s.upd r f).bnd = s.bnd := rfl
@[simp] theorem State.upd_get_partOf (s : State) (r : Ref) (f : Thread → Thread) (x : Ref) : (s.upd r f).partOf x = s.partOf x := rfl
@[simp] theorem State.upd_get_coreOf (s : State) (r : Ref) (f : Thread → Thread) (x : Ref) : (s.upd r f).coreOf x = s.coreOf x := rfl
@[simp] theorem State.upd_get_widOf (s : State) (r : Ref) (f : Thread → Thread) (x : Ref) : (s.upd r f).widOf x = s.widOf x := rfl
@[simp] theorem State.upd_get_laneOf (s : State) (r : Ref) (f : Thread → Thread) (x : Ref) : (s.upd r f).laneOf x = s.laneOf x := rfl
@[simp] theorem State.upd_get_dieOf (s : State) (r : Ref) (f : Thread → Thread) (x : Ref) : (s.upd r f).dieOf x = s.dieOf x := rfl
@[simp] theorem State.upd_get_greg (s : State) (r : Ref) (f : Thread → Thread) (y : Nat) (k : BitVec 6) : (s.upd r f).greg y k = s.greg y k := rfl

@[simp] theorem State.updGroup_get_thread (s : State) (g : Nat) (f : Group → Group) (x : Ref) : (s.updGroup g f).thread x = s.thread x := rfl
@[simp] theorem State.updGroup_get_hasThread (s : State) (g : Nat) (f : Group → Group) (x : Ref) : (s.updGroup g f).hasThread x = s.hasThread x := rfl
@[simp] theorem State.updGroup_get_wave (s : State) (g : Nat) (f : Group → Group) (y z : Nat) : (s.updGroup g f).wave y z = s.wave y z := rfl
@[simp] theorem State.updGroup_get_ctx (s : State) (g : Nat) (f : Group → Group) (y z : Nat) : (s.updGroup g f).ctx y z = s.ctx y z := rfl
@[simp] theorem State.updGroup_get_coreSt (s : State) (g : Nat) (f : Group → Group) (y : Nat) : (s.updGroup g f).coreSt y = s.coreSt y := rfl
@[simp] theorem State.updGroup_get_die (s : State) (g : Nat) (f : Group → Group) (y : Nat) : (s.updGroup g f).die y = s.die y := rfl
@[simp] theorem State.updGroup_get_part (s : State) (g : Nat) (f : Group → Group) (y : Nat) : (s.updGroup g f).part y = s.part y := rfl
@[simp] theorem State.updGroup_get_node (s : State) (g : Nat) (f : Group → Group) (y z u : Nat) : (s.updGroup g f).node y z u = s.node y z u := rfl
@[simp] theorem State.updGroup_get_cset (s : State) (g : Nat) (f : Group → Group) (y : Nat) : (s.updGroup g f).cset y = s.cset y := rfl
@[simp] theorem State.updGroup_get_bnd (s : State) (g : Nat) (f : Group → Group) : (s.updGroup g f).bnd = s.bnd := rfl

@[simp] theorem State.updWave_get_thread (s : State) (g w : Nat) (f : Wave → Wave) (x : Ref) : (s.updWave g w f).thread x = s.thread x := rfl
@[simp] theorem State.updWave_get_hasThread (s : State) (g w : Nat) (f : Wave → Wave) (x : Ref) : (s.updWave g w f).hasThread x = s.hasThread x := rfl
@[simp] theorem State.updWave_get_group (s : State) (g w : Nat) (f : Wave → Wave) (y : Nat) : (s.updWave g w f).group y = s.group y := rfl
@[simp] theorem State.updWave_get_ctx (s : State) (g w : Nat) (f : Wave → Wave) (y z : Nat) : (s.updWave g w f).ctx y z = s.ctx y z := rfl
@[simp] theorem State.updWave_get_coreSt (s : State) (g w : Nat) (f : Wave → Wave) (y : Nat) : (s.updWave g w f).coreSt y = s.coreSt y := rfl
@[simp] theorem State.updWave_get_die (s : State) (g w : Nat) (f : Wave → Wave) (y : Nat) : (s.updWave g w f).die y = s.die y := rfl
@[simp] theorem State.updWave_get_part (s : State) (g w : Nat) (f : Wave → Wave) (y : Nat) : (s.updWave g w f).part y = s.part y := rfl
@[simp] theorem State.updWave_get_node (s : State) (g w : Nat) (f : Wave → Wave) (y z u : Nat) : (s.updWave g w f).node y z u = s.node y z u := rfl
@[simp] theorem State.updWave_get_cset (s : State) (g w : Nat) (f : Wave → Wave) (y : Nat) : (s.updWave g w f).cset y = s.cset y := rfl
@[simp] theorem State.updWave_get_bnd (s : State) (g w : Nat) (f : Wave → Wave) : (s.updWave g w f).bnd = s.bnd := rfl
@[simp] theorem State.updWave_get_partOf (s : State) (g w : Nat) (f : Wave → Wave) (x : Ref) : (s.updWave g w f).partOf x = s.partOf x := rfl
@[simp] theorem State.updWave_get_coreOf (s : State) (g w : Nat) (f : Wave → Wave) (x : Ref) : (s.updWave g w f).coreOf x = s.coreOf x := rfl
@[simp] theorem State.updWave_get_widOf (s : State) (g w : Nat) (f : Wave → Wave) (x : Ref) : (s.updWave g w f).widOf x = s.widOf x := rfl
@[simp] theorem State.updWave_get_laneOf (s : State) (g w : Nat) (f : Wave → Wave) (x : Ref) : (s.updWave g w f).laneOf x = s.laneOf x := rfl
@[simp] theorem State.updWave_get_dieOf (s : State) (g w : Nat) (f : Wave → Wave) (x : Ref) : (s.updWave g w f).dieOf x = s.dieOf x := rfl
@[simp] theorem State.updWave_get_greg (s : State) (g w : Nat) (f : Wave → Wave) (y : Nat) (k : BitVec 6) : (s.updWave g w f).greg y k = s.greg y k := rfl

@[simp] theorem State.updCtx_get_thread (s : State) (c p : Nat) (f : Ctx → Ctx) (x : Ref) : (s.updCtx c p f).thread x = s.thread x := rfl
@[simp] theorem State.updCtx_get_hasThread (s : State) (c p : Nat) (f : Ctx → Ctx) (x : Ref) : (s.updCtx c p f).hasThread x = s.hasThread x := rfl
@[simp] theorem State.updCtx_get_group (s : State) (c p : Nat) (f : Ctx → Ctx) (y : Nat) : (s.updCtx c p f).group y = s.group y := rfl
@[simp] theorem State.updCtx_get_wave (s : State) (c p : Nat) (f : Ctx → Ctx) (y z : Nat) : (s.updCtx c p f).wave y z = s.wave y z := rfl
@[simp] theorem State.updCtx_get_coreSt (s : State) (c p : Nat) (f : Ctx → Ctx) (y : Nat) : (s.updCtx c p f).coreSt y = s.coreSt y := rfl
@[simp] theorem State.updCtx_get_die (s : State) (c p : Nat) (f : Ctx → Ctx) (y : Nat) : (s.updCtx c p f).die y = s.die y := rfl
@[simp] theorem State.updCtx_get_part (s : State) (c p : Nat) (f : Ctx → Ctx) (y : Nat) : (s.updCtx c p f).part y = s.part y := rfl
@[simp] theorem State.updCtx_get_node (s : State) (c p : Nat) (f : Ctx → Ctx) (y z u : Nat) : (s.updCtx c p f).node y z u = s.node y z u := rfl
@[simp] theorem State.updCtx_get_cset (s : State) (c p : Nat) (f : Ctx → Ctx) (y : Nat) : (s.updCtx c p f).cset y = s.cset y := rfl
@[simp] theorem State.updCtx_get_bnd (s : State) (c p : Nat) (f : Ctx → Ctx) : (s.updCtx c p f).bnd = s.bnd := rfl
@[simp] theorem State.updCtx_get_partOf (s : State) (c p : Nat) (f : Ctx → Ctx) (x : Ref) : (s.updCtx c p f).partOf x = s.partOf x := rfl
@[simp] theorem State.updCtx_get_coreOf (s : State) (c p : Nat) (f : Ctx → Ctx) (x : Ref) : (s.updCtx c p f).coreOf x = s.coreOf x := rfl
@[simp] theorem State.updCtx_get_widOf (s : State) (c p : Nat) (f : Ctx → Ctx) (x : Ref) : (s.updCtx c p f).widOf x = s.widOf x := rfl
@[simp] theorem State.updCtx_get_laneOf (s : State) (c p : Nat) (f : Ctx → Ctx) (x : Ref) : (s.updCtx c p f).laneOf x = s.laneOf x := rfl
@[simp] theorem State.updCtx_get_dieOf (s : State) (c p : Nat) (f : Ctx → Ctx) (x : Ref) : (s.updCtx c p f).dieOf x = s.dieOf x := rfl
@[simp] theorem State.updCtx_get_greg (s : State) (c p : Nat) (f : Ctx → Ctx) (y : Nat) (k : BitVec 6) : (s.updCtx c p f).greg y k = s.greg y k := rfl

@[simp] theorem State.updCore_get_thread (s : State) (c : Nat) (f : CoreSt → CoreSt) (x : Ref) : (s.updCore c f).thread x = s.thread x := rfl
@[simp] theorem State.updCore_get_hasThread (s : State) (c : Nat) (f : CoreSt → CoreSt) (x : Ref) : (s.updCore c f).hasThread x = s.hasThread x := rfl
@[simp] theorem State.updCore_get_group (s : State) (c : Nat) (f : CoreSt → CoreSt) (y : Nat) : (s.updCore c f).group y = s.group y := rfl
@[simp] theorem State.updCore_get_wave (s : State) (c : Nat) (f : CoreSt → CoreSt) (y z : Nat) : (s.updCore c f).wave y z = s.wave y z := rfl
@[simp] theorem State.updCore_get_ctx (s : State) (c : Nat) (f : CoreSt → CoreSt) (y z : Nat) : (s.updCore c f).ctx y z = s.ctx y z := rfl
@[simp] theorem State.updCore_get_die (s : State) (c : Nat) (f : CoreSt → CoreSt) (y : Nat) : (s.updCore c f).die y = s.die y := rfl
@[simp] theorem State.updCore_get_part (s : State) (c : Nat) (f : CoreSt → CoreSt) (y : Nat) : (s.updCore c f).part y = s.part y := rfl
@[simp] theorem State.updCore_get_node (s : State) (c : Nat) (f : CoreSt → CoreSt) (y z u : Nat) : (s.updCore c f).node y z u = s.node y z u := rfl
@[simp] theorem State.updCore_get_cset (s : State) (c : Nat) (f : CoreSt → CoreSt) (y : Nat) : (s.updCore c f).cset y = s.cset y := rfl
@[simp] theorem State.updCore_get_bnd (s : State) (c : Nat) (f : CoreSt → CoreSt) : (s.updCore c f).bnd = s.bnd := rfl
@[simp] theorem State.updCore_get_partOf (s : State) (c : Nat) (f : CoreSt → CoreSt) (x : Ref) : (s.updCore c f).partOf x = s.partOf x := rfl
@[simp] theorem State.updCore_get_coreOf (s : State) (c : Nat) (f : CoreSt → CoreSt) (x : Ref) : (s.updCore c f).coreOf x = s.coreOf x := rfl
@[simp] theorem State.updCore_get_widOf (s : State) (c : Nat) (f : CoreSt → CoreSt) (x : Ref) : (s.updCore c f).widOf x = s.widOf x := rfl
@[simp] theorem State.updCore_get_laneOf (s : State) (c : Nat) (f : CoreSt → CoreSt) (x : Ref) : (s.updCore c f).laneOf x = s.laneOf x := rfl
@[simp] theorem State.updCore_get_dieOf (s : State) (c : Nat) (f : CoreSt → CoreSt) (x : Ref) : (s.updCore c f).dieOf x = s.dieOf x := rfl
@[simp] theorem State.updCore_get_greg (s : State) (c : Nat) (f : CoreSt → CoreSt) (y : Nat) (k : BitVec 6) : (s.updCore c f).greg y k = s.greg y k := rfl

@[simp] theorem State.updDie_get_thread (s : State) (d : Nat) (f : Die → Die) (x : Ref) : (s.updDie d f).thread x = s.thread x := rfl
@[simp] theorem State.updDie_get_hasThread (s : State) (d : Nat) (f : Die → Die) (x : Ref) : (s.updDie d f).hasThread x = s.hasThread x := rfl
@[simp] theorem State.updDie_get_group (s : State) (d : Nat) (f : Die → Die) (y : Nat) : (s.updDie d f).group y = s.group y := rfl
@[simp] theorem State.updDie_get_wave (s : State) (d : Nat) (f : Die → Die) (y z : Nat) : (s.updDie d f).wave y z = s.wave y z := rfl
@[simp] theorem State.updDie_get_ctx (s : State) (d : Nat) (f : Die → Die) (y z : Nat) : (s.updDie d f).ctx y z = s.ctx y z := rfl
@[simp] theorem State.updDie_get_coreSt (s : State) (d : Nat) (f : Die → Die) (y : Nat) : (s.updDie d f).coreSt y = s.coreSt y := rfl
@[simp] theorem State.updDie_get_part (s : State) (d : Nat) (f : Die → Die) (y : Nat) : (s.updDie d f).part y = s.part y := rfl
@[simp] theorem State.updDie_get_node (s : State) (d : Nat) (f : Die → Die) (y z u : Nat) : (s.updDie d f).node y z u = s.node y z u := rfl
@[simp] theorem State.updDie_get_cset (s : State) (d : Nat) (f : Die → Die) (y : Nat) : (s.updDie d f).cset y = s.cset y := rfl
@[simp] theorem State.updDie_get_bnd (s : State) (d : Nat) (f : Die → Die) : (s.updDie d f).bnd = s.bnd := rfl
@[simp] theorem State.updDie_get_partOf (s : State) (d : Nat) (f : Die → Die) (x : Ref) : (s.updDie d f).partOf x = s.partOf x := rfl
@[simp] theorem State.updDie_get_coreOf (s : State) (d : Nat) (f : Die → Die) (x : Ref) : (s.updDie d f).coreOf x = s.coreOf x := rfl
@[simp] theorem State.updDie_get_widOf (s : State) (d : Nat) (f : Die → Die) (x : Ref) : (s.updDie d f).widOf x = s.widOf x := rfl
@[simp] theorem State.updDie_get_laneOf (s : State) (d : Nat) (f : Die → Die) (x : Ref) : (s.updDie d f).laneOf x = s.laneOf x := rfl
@[simp] theorem State.updDie_get_dieOf (s : State) (d : Nat) (f : Die → Die) (x : Ref) : (s.updDie d f).dieOf x = s.dieOf x := rfl
@[simp] theorem State.updDie_get_greg (s : State) (d : Nat) (f : Die → Die) (y : Nat) (k : BitVec 6) : (s.updDie d f).greg y k = s.greg y k := rfl

@[simp] theorem State.updPart_get_thread (s : State) (q : Nat) (f : Part → Part) (x : Ref) : (s.updPart q f).thread x = s.thread x := rfl
@[simp] theorem State.updPart_get_hasThread (s : State) (q : Nat) (f : Part → Part) (x : Ref) : (s.updPart q f).hasThread x = s.hasThread x := rfl
@[simp] theorem State.updPart_get_group (s : State) (q : Nat) (f : Part → Part) (y : Nat) : (s.updPart q f).group y = s.group y := rfl
@[simp] theorem State.updPart_get_wave (s : State) (q : Nat) (f : Part → Part) (y z : Nat) : (s.updPart q f).wave y z = s.wave y z := rfl
@[simp] theorem State.updPart_get_ctx (s : State) (q : Nat) (f : Part → Part) (y z : Nat) : (s.updPart q f).ctx y z = s.ctx y z := rfl
@[simp] theorem State.updPart_get_coreSt (s : State) (q : Nat) (f : Part → Part) (y : Nat) : (s.updPart q f).coreSt y = s.coreSt y := rfl
@[simp] theorem State.updPart_get_die (s : State) (q : Nat) (f : Part → Part) (y : Nat) : (s.updPart q f).die y = s.die y := rfl
@[simp] theorem State.updPart_get_node (s : State) (q : Nat) (f : Part → Part) (y z u : Nat) : (s.updPart q f).node y z u = s.node y z u := rfl
@[simp] theorem State.updPart_get_cset (s : State) (q : Nat) (f : Part → Part) (y : Nat) : (s.updPart q f).cset y = s.cset y := rfl
@[simp] theorem State.updPart_get_bnd (s : State) (q : Nat) (f : Part → Part) : (s.updPart q f).bnd = s.bnd := rfl
@[simp] theorem State.updPart_get_partOf (s : State) (q : Nat) (f : Part → Part) (x : Ref) : (s.updPart q f).partOf x = s.partOf x := rfl
@[simp] theorem State.updPart_get_coreOf (s : State) (q : Nat) (f : Part → Part) (x : Ref) : (s.updPart q f).coreOf x = s.coreOf x := rfl
@[simp] theorem State.updPart_get_widOf (s : State) (q : Nat) (f : Part → Part) (x : Ref) : (s.updPart q f).widOf x = s.widOf x := rfl
@[simp] theorem State.updPart_get_laneOf (s : State) (q : Nat) (f : Part → Part) (x : Ref) : (s.updPart q f).laneOf x = s.laneOf x := rfl
@[simp] theorem State.updPart_get_dieOf (s : State) (q : Nat) (f : Part → Part) (x : Ref) : (s.updPart q f).dieOf x = s.dieOf x := rfl
@[simp] theorem State.updPart_get_greg (s : State) (q : Nat) (f : Part → Part) (y : Nat) (k : BitVec 6) : (s.updPart q f).greg y k = s.greg y k := rfl

@[simp] theorem State.updNode_get_thread (s : State) (d p i : Nat) (f : Node → Node) (x : Ref) : (s.updNode d p i f).thread x = s.thread x := rfl
@[simp] theorem State.updNode_get_hasThread (s : State) (d p i : Nat) (f : Node → Node) (x : Ref) : (s.updNode d p i f).hasThread x = s.hasThread x := rfl
@[simp] theorem State.updNode_get_group (s : State) (d p i : Nat) (f : Node → Node) (y : Nat) : (s.updNode d p i f).group y = s.group y := rfl
@[simp] theorem State.updNode_get_wave (s : State) (d p i : Nat) (f : Node → Node) (y z : Nat) : (s.updNode d p i f).wave y z = s.wave y z := rfl
@[simp] theorem State.updNode_get_ctx (s : State) (d p i : Nat) (f : Node → Node) (y z : Nat) : (s.updNode d p i f).ctx y z = s.ctx y z := rfl
@[simp] theorem State.updNode_get_coreSt (s : State) (d p i : Nat) (f : Node → Node) (y : Nat) : (s.updNode d p i f).coreSt y = s.coreSt y := rfl
@[simp] theorem State.updNode_get_die (s : State) (d p i : Nat) (f : Node → Node) (y : Nat) : (s.updNode d p i f).die y = s.die y := rfl
@[simp] theorem State.updNode_get_part (s : State) (d p i : Nat) (f : Node → Node) (y : Nat) : (s.updNode d p i f).part y = s.part y := rfl
@[simp] theorem State.updNode_get_cset (s : State) (d p i : Nat) (f : Node → Node) (y : Nat) : (s.updNode d p i f).cset y = s.cset y := rfl
@[simp] theorem State.updNode_get_bnd (s : State) (d p i : Nat) (f : Node → Node) : (s.updNode d p i f).bnd = s.bnd := rfl
@[simp] theorem State.updNode_get_partOf (s : State) (d p i : Nat) (f : Node → Node) (x : Ref) : (s.updNode d p i f).partOf x = s.partOf x := rfl
@[simp] theorem State.updNode_get_coreOf (s : State) (d p i : Nat) (f : Node → Node) (x : Ref) : (s.updNode d p i f).coreOf x = s.coreOf x := rfl
@[simp] theorem State.updNode_get_widOf (s : State) (d p i : Nat) (f : Node → Node) (x : Ref) : (s.updNode d p i f).widOf x = s.widOf x := rfl
@[simp] theorem State.updNode_get_laneOf (s : State) (d p i : Nat) (f : Node → Node) (x : Ref) : (s.updNode d p i f).laneOf x = s.laneOf x := rfl
@[simp] theorem State.updNode_get_dieOf (s : State) (d p i : Nat) (f : Node → Node) (x : Ref) : (s.updNode d p i f).dieOf x = s.dieOf x := rfl
@[simp] theorem State.updNode_get_greg (s : State) (d p i : Nat) (f : Node → Node) (y : Nat) (k : BitVec 6) : (s.updNode d p i f).greg y k = s.greg y k := rfl

@[simp] theorem State.updLaunch_get_thread (s : State) (i : Nat) (f : Launch → Launch) (x : Ref) : (s.updLaunch i f).thread x = s.thread x := rfl
@[simp] theorem State.updLaunch_get_hasThread (s : State) (i : Nat) (f : Launch → Launch) (x : Ref) : (s.updLaunch i f).hasThread x = s.hasThread x := rfl
@[simp] theorem State.updLaunch_get_group (s : State) (i : Nat) (f : Launch → Launch) (y : Nat) : (s.updLaunch i f).group y = s.group y := rfl
@[simp] theorem State.updLaunch_get_wave (s : State) (i : Nat) (f : Launch → Launch) (y z : Nat) : (s.updLaunch i f).wave y z = s.wave y z := rfl
@[simp] theorem State.updLaunch_get_ctx (s : State) (i : Nat) (f : Launch → Launch) (y z : Nat) : (s.updLaunch i f).ctx y z = s.ctx y z := rfl
@[simp] theorem State.updLaunch_get_coreSt (s : State) (i : Nat) (f : Launch → Launch) (y : Nat) : (s.updLaunch i f).coreSt y = s.coreSt y := rfl
@[simp] theorem State.updLaunch_get_die (s : State) (i : Nat) (f : Launch → Launch) (y : Nat) : (s.updLaunch i f).die y = s.die y := rfl
@[simp] theorem State.updLaunch_get_part (s : State) (i : Nat) (f : Launch → Launch) (y : Nat) : (s.updLaunch i f).part y = s.part y := rfl
@[simp] theorem State.updLaunch_get_node (s : State) (i : Nat) (f : Launch → Launch) (y z u : Nat) : (s.updLaunch i f).node y z u = s.node y z u := rfl
@[simp] theorem State.updLaunch_get_cset (s : State) (i : Nat) (f : Launch → Launch) (y : Nat) : (s.updLaunch i f).cset y = s.cset y := rfl
@[simp] theorem State.updLaunch_get_bnd (s : State) (i : Nat) (f : Launch → Launch) : (s.updLaunch i f).bnd = s.bnd := rfl
@[simp] theorem State.updLaunch_get_partOf (s : State) (i : Nat) (f : Launch → Launch) (x : Ref) : (s.updLaunch i f).partOf x = s.partOf x := rfl
@[simp] theorem State.updLaunch_get_coreOf (s : State) (i : Nat) (f : Launch → Launch) (x : Ref) : (s.updLaunch i f).coreOf x = s.coreOf x := rfl
@[simp] theorem State.updLaunch_get_widOf (s : State) (i : Nat) (f : Launch → Launch) (x : Ref) : (s.updLaunch i f).widOf x = s.widOf x := rfl
@[simp] theorem State.updLaunch_get_laneOf (s : State) (i : Nat) (f : Launch → Launch) (x : Ref) : (s.updLaunch i f).laneOf x = s.laneOf x := rfl
@[simp] theorem State.updLaunch_get_dieOf (s : State) (i : Nat) (f : Launch → Launch) (x : Ref) : (s.updLaunch i f).dieOf x = s.dieOf x := rfl
@[simp] theorem State.updLaunch_get_greg (s : State) (i : Nat) (f : Launch → Launch) (y : Nat) (k : BitVec 6) : (s.updLaunch i f).greg y k = s.greg y k := rfl

@[simp] theorem State.setFull_get_thread (s : State) (l : Nat) (b : Bool) (x : Ref) : (s.setFull l b).thread x = s.thread x := rfl
@[simp] theorem State.setFull_get_hasThread (s : State) (l : Nat) (b : Bool) (x : Ref) : (s.setFull l b).hasThread x = s.hasThread x := rfl
@[simp] theorem State.setFull_get_group (s : State) (l : Nat) (b : Bool) (y : Nat) : (s.setFull l b).group y = s.group y := rfl
@[simp] theorem State.setFull_get_wave (s : State) (l : Nat) (b : Bool) (y z : Nat) : (s.setFull l b).wave y z = s.wave y z := rfl
@[simp] theorem State.setFull_get_ctx (s : State) (l : Nat) (b : Bool) (y z : Nat) : (s.setFull l b).ctx y z = s.ctx y z := rfl
@[simp] theorem State.setFull_get_coreSt (s : State) (l : Nat) (b : Bool) (y : Nat) : (s.setFull l b).coreSt y = s.coreSt y := rfl
@[simp] theorem State.setFull_get_die (s : State) (l : Nat) (b : Bool) (y : Nat) : (s.setFull l b).die y = s.die y := rfl
@[simp] theorem State.setFull_get_part (s : State) (l : Nat) (b : Bool) (y : Nat) : (s.setFull l b).part y = s.part y := rfl
@[simp] theorem State.setFull_get_node (s : State) (l : Nat) (b : Bool) (y z u : Nat) : (s.setFull l b).node y z u = s.node y z u := rfl
@[simp] theorem State.setFull_get_cset (s : State) (l : Nat) (b : Bool) (y : Nat) : (s.setFull l b).cset y = s.cset y := rfl
@[simp] theorem State.setFull_get_bnd (s : State) (l : Nat) (b : Bool) : (s.setFull l b).bnd = s.bnd := rfl
@[simp] theorem State.setFull_get_partOf (s : State) (l : Nat) (b : Bool) (x : Ref) : (s.setFull l b).partOf x = s.partOf x := rfl
@[simp] theorem State.setFull_get_coreOf (s : State) (l : Nat) (b : Bool) (x : Ref) : (s.setFull l b).coreOf x = s.coreOf x := rfl
@[simp] theorem State.setFull_get_widOf (s : State) (l : Nat) (b : Bool) (x : Ref) : (s.setFull l b).widOf x = s.widOf x := rfl
@[simp] theorem State.setFull_get_laneOf (s : State) (l : Nat) (b : Bool) (x : Ref) : (s.setFull l b).laneOf x = s.laneOf x := rfl
@[simp] theorem State.setFull_get_dieOf (s : State) (l : Nat) (b : Bool) (x : Ref) : (s.setFull l b).dieOf x = s.dieOf x := rfl
@[simp] theorem State.setFull_get_greg (s : State) (l : Nat) (b : Bool) (y : Nat) (k : BitVec 6) : (s.setFull l b).greg y k = s.greg y k := rfl

@[simp] theorem State.putCache_get_thread (s : State) (c a : Nat) (v : Byte) (x : Ref) : (s.putCache c a v).thread x = s.thread x := rfl
@[simp] theorem State.putCache_get_hasThread (s : State) (c a : Nat) (v : Byte) (x : Ref) : (s.putCache c a v).hasThread x = s.hasThread x := rfl
@[simp] theorem State.putCache_get_group (s : State) (c a : Nat) (v : Byte) (y : Nat) : (s.putCache c a v).group y = s.group y := rfl
@[simp] theorem State.putCache_get_wave (s : State) (c a : Nat) (v : Byte) (y z : Nat) : (s.putCache c a v).wave y z = s.wave y z := rfl
@[simp] theorem State.putCache_get_ctx (s : State) (c a : Nat) (v : Byte) (y z : Nat) : (s.putCache c a v).ctx y z = s.ctx y z := rfl
@[simp] theorem State.putCache_get_coreSt (s : State) (c a : Nat) (v : Byte) (y : Nat) : (s.putCache c a v).coreSt y = s.coreSt y := rfl
@[simp] theorem State.putCache_get_die (s : State) (c a : Nat) (v : Byte) (y : Nat) : (s.putCache c a v).die y = s.die y := rfl
@[simp] theorem State.putCache_get_part (s : State) (c a : Nat) (v : Byte) (y : Nat) : (s.putCache c a v).part y = s.part y := rfl
@[simp] theorem State.putCache_get_node (s : State) (c a : Nat) (v : Byte) (y z u : Nat) : (s.putCache c a v).node y z u = s.node y z u := rfl
@[simp] theorem State.putCache_get_cset (s : State) (c a : Nat) (v : Byte) (y : Nat) : (s.putCache c a v).cset y = s.cset y := rfl
@[simp] theorem State.putCache_get_bnd (s : State) (c a : Nat) (v : Byte) : (s.putCache c a v).bnd = s.bnd := rfl
@[simp] theorem State.putCache_get_partOf (s : State) (c a : Nat) (v : Byte) (x : Ref) : (s.putCache c a v).partOf x = s.partOf x := rfl
@[simp] theorem State.putCache_get_coreOf (s : State) (c a : Nat) (v : Byte) (x : Ref) : (s.putCache c a v).coreOf x = s.coreOf x := rfl
@[simp] theorem State.putCache_get_widOf (s : State) (c a : Nat) (v : Byte) (x : Ref) : (s.putCache c a v).widOf x = s.widOf x := rfl
@[simp] theorem State.putCache_get_laneOf (s : State) (c a : Nat) (v : Byte) (x : Ref) : (s.putCache c a v).laneOf x = s.laneOf x := rfl
@[simp] theorem State.putCache_get_dieOf (s : State) (c a : Nat) (v : Byte) (x : Ref) : (s.putCache c a v).dieOf x = s.dieOf x := rfl
@[simp] theorem State.putCache_get_greg (s : State) (c a : Nat) (v : Byte) (y : Nat) (k : BitVec 6) : (s.putCache c a v).greg y k = s.greg y k := rfl

@[simp] theorem State.bump_get_thread (s : State) (x : Ref) : (s.bump).thread x = s.thread x := rfl
@[simp] theorem State.bump_get_hasThread (s : State) (x : Ref) : (s.bump).hasThread x = s.hasThread x := rfl
@[simp] theorem State.bump_get_group (s : State) (y : Nat) : (s.bump).group y = s.group y := rfl
@[simp] theorem State.bump_get_wave (s : State) (y z : Nat) : (s.bump).wave y z = s.wave y z := rfl
@[simp] theorem State.bump_get_ctx (s : State) (y z : Nat) : (s.bump).ctx y z = s.ctx y z := rfl
@[simp] theorem State.bump_get_coreSt (s : State) (y : Nat) : (s.bump).coreSt y = s.coreSt y := rfl
@[simp] theorem State.bump_get_die (s : State) (y : Nat) : (s.bump).die y = s.die y := rfl
@[simp] theorem State.bump_get_part (s : State) (y : Nat) : (s.bump).part y = s.part y := rfl
@[simp] theorem State.bump_get_node (s : State) (y z u : Nat) : (s.bump).node y z u = s.node y z u := rfl
@[simp] theorem State.bump_get_cset (s : State) (y : Nat) : (s.bump).cset y = s.cset y := rfl
@[simp] theorem State.bump_get_bnd (s : State) : (s.bump).bnd = s.bnd := rfl
@[simp] theorem State.bump_get_partOf (s : State) (x : Ref) : (s.bump).partOf x = s.partOf x := rfl
@[simp] theorem State.bump_get_coreOf (s : State) (x : Ref) : (s.bump).coreOf x = s.coreOf x := rfl
@[simp] theorem State.bump_get_widOf (s : State) (x : Ref) : (s.bump).widOf x = s.widOf x := rfl
@[simp] theorem State.bump_get_laneOf (s : State) (x : Ref) : (s.bump).laneOf x = s.laneOf x := rfl
@[simp] theorem State.bump_get_dieOf (s : State) (x : Ref) : (s.bump).dieOf x = s.dieOf x := rfl
@[simp] theorem State.bump_get_greg (s : State) (y : Nat) (k : BitVec 6) : (s.bump).greg y k = s.greg y k := rfl

@[simp] theorem State.drawn_get_thread (s : State) (x : Ref) : (s.drawn).thread x = s.thread x := rfl
@[simp] theorem State.drawn_get_hasThread (s : State) (x : Ref) : (s.drawn).hasThread x = s.hasThread x := rfl
@[simp] theorem State.drawn_get_group (s : State) (y : Nat) : (s.drawn).group y = s.group y := rfl
@[simp] theorem State.drawn_get_wave (s : State) (y z : Nat) : (s.drawn).wave y z = s.wave y z := rfl
@[simp] theorem State.drawn_get_ctx (s : State) (y z : Nat) : (s.drawn).ctx y z = s.ctx y z := rfl
@[simp] theorem State.drawn_get_coreSt (s : State) (y : Nat) : (s.drawn).coreSt y = s.coreSt y := rfl
@[simp] theorem State.drawn_get_die (s : State) (y : Nat) : (s.drawn).die y = s.die y := rfl
@[simp] theorem State.drawn_get_part (s : State) (y : Nat) : (s.drawn).part y = s.part y := rfl
@[simp] theorem State.drawn_get_node (s : State) (y z u : Nat) : (s.drawn).node y z u = s.node y z u := rfl
@[simp] theorem State.drawn_get_cset (s : State) (y : Nat) : (s.drawn).cset y = s.cset y := rfl
@[simp] theorem State.drawn_get_bnd (s : State) : (s.drawn).bnd = s.bnd := rfl
@[simp] theorem State.drawn_get_partOf (s : State) (x : Ref) : (s.drawn).partOf x = s.partOf x := rfl
@[simp] theorem State.drawn_get_coreOf (s : State) (x : Ref) : (s.drawn).coreOf x = s.coreOf x := rfl
@[simp] theorem State.drawn_get_widOf (s : State) (x : Ref) : (s.drawn).widOf x = s.widOf x := rfl
@[simp] theorem State.drawn_get_laneOf (s : State) (x : Ref) : (s.drawn).laneOf x = s.laneOf x := rfl
@[simp] theorem State.drawn_get_dieOf (s : State) (x : Ref) : (s.drawn).dieOf x = s.dieOf x := rfl
@[simp] theorem State.drawn_get_greg (s : State) (y : Nat) (k : BitVec 6) : (s.drawn).greg y k = s.greg y k := rfl

/-! ### The record that an update changes -/

theorem Thread.is_key {t : Thread} {r : Ref} : t.is r = true ↔ (t.gid, t.tid) = r := by
  simp [Thread.is, Prod.ext_iff]

theorem find?_map_key {α : Type} (p : α → Bool) (f : α → α) (l : List α) (hf : ∀ x, p (f x) = p x) :
    (l.map (fun x => if p x = true then f x else x)).find? p = (l.find? p).map f := by
  induction l with
  | nil => rfl
  | cons x xs ih =>
    by_cases h : p x = true
    · simp [h, hf]
    · simp only [Bool.not_eq_true] at h
      simp [h, ih]

theorem find?_map_other {α : Type} (p q : α → Bool) (f : α → α) (l : List α) (hp : ∀ x, p x = true → q x = false) (hf : ∀ x, q (f x) = q x) :
    (l.map (fun x => if p x = true then f x else x)).find? q = l.find? q := by
  induction l with
  | nil => rfl
  | cons x xs ih =>
    by_cases h : p x = true
    · simp [h, hf, hp x h, ih]
    · simp only [Bool.not_eq_true] at h
      by_cases k : q x = true
      · simp [h, k]
      · simp only [Bool.not_eq_true] at k
        simp [h, k, ih]

/-- A change of a thread's record that keeps its number is read back where the thread is listed. -/
theorem State.upd_thread {s : State} {r : Ref} {f : Thread → Thread} (hf : ∀ t, (f t).is r = t.is r) (h : s.hasThread r = true) :
    (s.upd r f).thread r = f (s.thread r) := by
  simp only [State.hasThread, List.any_eq_true] at h
  obtain ⟨t, ht, hr⟩ := h
  have hs : (s.threads.find? (fun t => t.is r)).isSome = true := List.find?_isSome.mpr ⟨t, ht, hr⟩
  obtain ⟨u, hu⟩ := Option.isSome_iff_exists.mp hs
  simp [State.thread, State.upd, find?_map_key (fun t => t.is r) f s.threads hf, hu]

/-- Another thread's record is as it was. -/
theorem State.upd_thread_other {s : State} {r q : Ref} {f : Thread → Thread} (hq : q ≠ r) (hf : ∀ t, (f t).is q = t.is q) :
    (s.upd r f).thread q = s.thread q := by
  have hp : ∀ x : Thread, x.is r = true → x.is q = false := by
    intro x hx
    rw [Thread.is_key] at hx
    by_contra hn
    rw [Bool.not_eq_false, Thread.is_key] at hn
    exact hq (hn.symm.trans hx)
  simp only [State.thread, State.upd, find?_map_other (fun t => t.is r) (fun t => t.is q) f s.threads hp hf]

@[simp] theorem Thread.goto_is (t : Thread) (pc : DWord) (r : Ref) : (t.goto pc).is r = t.is r := rfl
@[simp] theorem Thread.setReg_is (t : Thread) (d : Reg) (w : Word) (r : Ref) : (t.setReg d w).is r = t.is r := rfl
@[simp] theorem Thread.setPair_is (t : Thread) (d : Reg) (w : DWord) (r : Ref) : (t.setPair d w).is r = t.is r := rfl
@[simp] theorem Thread.setPred_is (t : Thread) (p : BitVec 3) (b : Bool) (r : Ref) : (t.setPred p b).is r = t.is r := rfl
theorem Thread.setBlock_is (t : Thread) (d : Reg) (ws : List Word) (r : Ref) : (t.setBlock d ws).is r = t.is r := by
  induction ws generalizing t d with
  | nil => rfl
  | cons w ws ih => exact ih _ _
theorem State.upd_hasThread {s : State} {r q : Ref} {f : Thread → Thread} (hf : ∀ t, (f t).is q = t.is q) :
    (s.upd r f).hasThread q = s.hasThread q := by
  simp only [State.hasThread, State.upd, List.any_map]
  congr 1
  funext t
  simp only [Function.comp]
  split
  · exact hf t
  · rfl

end Sys2Proof.Machine
end

