-- ==== Sys2Proof/Laws/Bundle.lean ====
section
/-! SUPPORT. What `State.each` does: for a bundle of one thread, and for an effect that changes nothing but its own thread. -/

-- One proof after another: many at once would need more memory than the check of the whole package has.
set_option Elab.async false

namespace Sys2Proof.Machine

/-! ### A bundle of one thread -/

theorem Acts.here' {s : State} {g : Guard} {r : Ref} (h : Acts s g r) : s.hasThread r = true := h.toAlone.here

/-- The one thread moves on, and the effect follows. -/
theorem each_acts {s : State} {g : Guard} {r : Ref} (h : Acts s g r) (f : State → Ref → State) : s.each g f = f (s.moved r) r := by
  simp only [State.each, h.refs, List.foldl_cons, List.foldl_nil, State.one, h.live, h.holds, if_true]
  rfl

/-- Where the guard does not hold, the thread only moves on (R44). -/
theorem each_skips {s : State} {g : Guard} {r : Ref} (h : Alone s r) (hg : guardHolds g (s.thread r) = false) (f : State → Ref → State) :
    s.each g f = s.moved r := by
  simp only [State.each, h.refs, List.foldl_cons, List.foldl_nil, State.one, h.live, hg, if_true]
  rfl

theorem Acts.acting {s : State} {g : Guard} {r : Ref} (h : Acts s g r) : s.acting g = [r] := by
  simp [State.acting, h.refs, h.live, h.holds]

theorem acting_nil {s : State} {g : Guard} {r : Ref} (h : Alone s r) (hg : guardHolds g (s.thread r) = false) : s.acting g = [] := by
  simp [State.acting, h.refs, hg]

/-- The one thread takes its effect at once, or the bundle is held. -/
theorem eachAfter_acts {s : State} {g : Guard} {r : Ref} (h : Acts s g r) (wait : State → Ref → Bool) (f : State → Ref → State) :
    s.eachAfter g wait f = if wait s r then (s.moved r).heldBack r else f (s.moved r) r := by
  have hb : ({ s.bnd with refs := [r] } : Bundle) = s.bnd := by rw [← h.refs]
  simp only [State.eachAfter, h.acting, List.any_cons, List.any_nil, Bool.or_false]
  split
  · simp only [State.holdBundle, h.acting, each_acts h, hb]
    rfl
  · exact each_acts h f

/-- Where the guard does not hold, nothing is held. -/
theorem eachAfter_skips {s : State} {g : Guard} {r : Ref} (h : Alone s r) (hg : guardHolds g (s.thread r) = false)
    (wait : State → Ref → Bool) (f : State → Ref → State) : s.eachAfter g wait f = s.moved r := by
  simp only [State.eachAfter, acting_nil h hg, List.any_nil, Bool.false_eq_true, if_false]
  exact each_skips h hg f

/-- A bundle without a listed live thread changes nothing. -/
theorem each_nil {s : State} (g : Guard) (f : State → Ref → State) (h : s.bnd.refs = []) : s.each g f = s := by
  simp [State.each, h]

/-! ### The state in which the thread has moved on -/

theorem moved_thread {s : State} {r : Ref} (h : s.hasThread r = true) : (s.moved r).thread r = (s.thread r).goto s.bnd.npc :=
  State.upd_thread (fun _ => rfl) h

theorem moved_other {s : State} {r q : Ref} (h : q ≠ r) : (s.moved r).thread q = s.thread q :=
  State.upd_thread_other h (fun _ => rfl)

theorem moved_hasThread {s : State} {r q : Ref} : (s.moved r).hasThread q = s.hasThread q :=
  State.upd_hasThread (fun _ => rfl)

theorem moved_eq (s : State) (r : Ref) :
    s.moved r = { s with threads := s.threads.map (fun t => if t.is r then t.goto s.bnd.npc else t) } := rfl

@[simp] theorem Thread.goto_regs (t : Thread) (pc : DWord) : (t.goto pc).regs = t.regs := rfl
@[simp] theorem Thread.goto_reg (t : Thread) (pc : DWord) (a : Reg) : (t.goto pc).reg a = t.reg a := rfl
@[simp] theorem Thread.goto_pair (t : Thread) (pc : DWord) (a : Reg) : (t.goto pc).pair a = t.pair a := rfl
@[simp] theorem Thread.goto_pred (t : Thread) (pc : DWord) (p : BitVec 3) : (t.goto pc).pred p = t.pred p := rfl
@[simp] theorem Thread.goto_live (t : Thread) (pc : DWord) : (t.goto pc).live = t.live := rfl
@[simp] theorem Thread.goto_pc (t : Thread) (pc : DWord) : (t.goto pc).pc = pc := rfl
@[simp] theorem Thread.goto_gid (t : Thread) (pc : DWord) : (t.goto pc).gid = t.gid := rfl
@[simp] theorem Thread.goto_tid (t : Thread) (pc : DWord) : (t.goto pc).tid = t.tid := rfl

/-! ### Effects that change only their own thread -/

theorem Thread.is_iff_key {t : Thread} {r : Ref} : t.is r = true ↔ t.key = r := Thread.is_key

/-- With numbers apart, the thread found by its number is the listed one. -/
theorem thread_of_mem {s : State} (hk : s.KeysApart) {t : Thread} (ht : t ∈ s.threads) : s.thread t.key = t := by
  unfold State.KeysApart at hk
  unfold State.thread
  revert hk ht
  generalize s.threads = l
  intro hk ht
  induction l with
  | nil => cases ht
  | cons x xs ih =>
    rw [List.map_cons, List.nodup_cons] at hk
    rcases List.mem_cons.mp ht with rfl | h
    · simp [Thread.is, Thread.key]
    · have hne : x.is t.key = false := by
        by_contra hn
        rw [Bool.not_eq_false, Thread.is_iff_key] at hn
        exact hk.1 (hn ▸ List.mem_map_of_mem h)
      simp only [List.find?_cons, hne]
      exact ih hk.2 h

/-- Two changes of a record that agree on the listed threads are one change. -/
theorem upd_congr {s : State} {r : Ref} {f g : Thread → Thread} (h : ∀ t ∈ s.threads, t.is r = true → f t = g t) : s.upd r f = s.upd r g := by
  unfold State.upd
  have : s.threads.map (fun t => if t.is r = true then f t else t) = s.threads.map (fun t => if t.is r = true then g t else t) := by
    apply List.map_congr_left
    intro t ht
    by_cases hr : t.is r = true
    · simp [hr, h t ht hr]
    · simp [hr]
  simp only [this]

/-- With numbers apart, an effect made from the thread found by its number is one made from the record itself. -/
theorem upd_self {s : State} (hk : s.KeysApart) (r : Ref) (f : Thread → Thread → Thread) :
    s.upd r (f (s.thread r)) = s.upd r (fun t => f t t) := by
  apply upd_congr
  intro t ht hr
  rw [Thread.is_iff_key] at hr
  rw [← hr, thread_of_mem hk ht]

theorem upd_upd (s : State) (r : Ref) (f g : Thread → Thread) (hf : ∀ t, (f t).is r = t.is r) :
    (s.upd r f).upd r g = s.upd r (fun t => g (f t)) := by
  simp only [State.upd, List.map_map]
  congr 1
  apply List.map_congr_left
  intro t _
  by_cases h : t.is r = true
  · simp [h, hf]
  · simp [h]

theorem upd_keys {s : State} {r : Ref} {f : Thread → Thread} (hf : ∀ t, (f t).key = t.key) (hk : s.KeysApart) : (s.upd r f).KeysApart := by
  unfold State.KeysApart at *
  simp only [State.upd, List.map_map]
  have : (Thread.key ∘ fun t => if t.is r = true then f t else t) = Thread.key := by
    funext t
    simp only [Function.comp]
    split
    · exact hf t
    · rfl
  rw [this]
  exact hk

/-- A thread that is not listed is not live. -/
theorem thread_absent {s : State} {r : Ref} (h : ∀ t ∈ s.threads, t.is r = false) : (s.thread r).live = false := by
  have : s.threads.find? (fun t => t.is r) = none := by
    rw [List.find?_eq_none]
    intro t ht
    simp [h t ht]
  simp [State.thread, this, Thread.none]

theorem thread_mem {s : State} {r : Ref} (h : (s.thread r).live = true) : ∃ t ∈ s.threads, t.is r = true := by
  by_contra hn
  have : ∀ t ∈ s.threads, t.is r = false := by
    intro t ht
    by_contra hb
    exact hn ⟨t, ht, by simpa using hb⟩
  rw [thread_absent this] at h
  cases h

/-- An effect that only makes `f` of its own thread, in every state with the same groups, steps each thread of the bundle and nothing
else. -/
theorem each_threads {s : State} {g : Guard} {e : State → Ref → State} {f : Thread → Thread}
    (hkey : ∀ t, (f t).key = t.key)
    (he : ∀ (u : State) (r : Ref), u.groups = s.groups → u.bundle = s.bundle → u.KeysApart → e u r = u.upd r f)
    (hk : s.KeysApart) (hn : s.bnd.refs.Nodup) :
    s.each g e = { s with threads := s.threads.map (s.stepThread g f) } := by
  have main : ∀ (l : List Ref) (u : State), l.Nodup → u.groups = s.groups → u.bundle = s.bundle → u.KeysApart →
      l.foldl (State.one g e) u =
        { u with threads := u.threads.map (fun t => if t.key ∈ l ∧ t.live = true then
          (if guardHolds g t = true then f (t.goto s.bnd.npc) else t.goto s.bnd.npc) else t) } := by
    intro l
    induction l with
    | nil => intro u _ _ _ _; simp
    | cons r rs ih =>
      intro u hd hg hb hku
      rw [List.nodup_cons] at hd
      have hbn : u.bnd = s.bnd := by simp only [State.bnd, hb]
      let F : Thread → Thread := fun t =>
        if t.live = true then (if guardHolds g t = true then f (t.goto s.bnd.npc) else t.goto s.bnd.npc) else t
      have hF : ∀ t, (F t).key = t.key := by
        intro t
        simp only [F]
        split
        · split
          · rw [hkey]; rfl
          · rfl
        · rfl
      have hone : State.one g e u r = u.upd r F := by
        unfold State.one
        by_cases hl : (u.thread r).live = true
        · simp only [hl, if_true]
          have hgo : ∀ t : Thread, (t.goto u.bnd.npc).key = t.key := fun _ => rfl
          by_cases hh : guardHolds g (u.thread r) = true
          · simp only [hh, if_true]
            rw [he _ r (by simpa using hg) (by simpa using hb) (upd_keys hgo hku), upd_upd u r (fun t => t.goto u.bnd.npc) f (fun _ => rfl)]
            apply upd_congr
            intro t ht hr
            have : u.thread r = t := by
              rw [Thread.is_iff_key] at hr
              rw [← hr, thread_of_mem hku ht]
            rw [this] at hl hh
            simp [F, hl, hh, hbn]
          · simp only [hh]
            apply upd_congr
            intro t ht hr
            have : u.thread r = t := by
              rw [Thread.is_iff_key] at hr
              rw [← hr, thread_of_mem hku ht]
            rw [this] at hl hh
            simp [F, hl, hh, hbn]
        · simp only [hl]
          have : u.upd r F = u.upd r (fun t => t) := by
            apply upd_congr
            intro t ht hr
            have : u.thread r = t := by
              rw [Thread.is_iff_key] at hr
              rw [← hr, thread_of_mem hku ht]
            rw [this] at hl
            simp [F, hl]
          rw [this]
          simp [State.upd]
      rw [List.foldl_cons, hone, ih (u.upd r F) hd.2 (by simpa using hg) (by simpa using hb) (upd_keys hF hku)]
      simp only [State.upd, List.map_map]
      congr 1
      apply List.map_congr_left
      intro t _
      simp only [Function.comp]
      by_cases hr : t.is r = true
      · have hkr : t.key = r := Thread.is_iff_key.mp hr
        have hnot : (F t).key ∉ rs := by rw [hF, hkr]; exact hd.1
        simp only [hr, if_true, hnot, false_and, if_false, hkr, List.mem_cons, true_or, true_and]
        rfl
      · have hkr : t.key ≠ r := fun h => hr (Thread.is_iff_key.mpr h)
        simp [hr, hkr]
  have := main s.bnd.refs s hn rfl rfl hk
  unfold State.each
  rw [this]
  rfl

/-- Causes ORed into the wave of a thread. -/
def State.orCause (s : State) (r : Ref) (c : DWord) : State := s.updWave r.1 (s.widOf r) (fun w => { w with cause := w.cause ||| c })

theorem updWave_same (s : State) (g w : Nat) (f : Wave → Wave) (h : ∀ x, f x = x) : s.updWave g w f = s := by
  have : s.waves.map (fun x => if (x.gid == g && x.wid == w) = true then f x else x) = s.waves := by
    have : (fun x : Wave => if (x.gid == g && x.wid == w) = true then f x else x) = id := by
      funext x
      simp [h]
    rw [this, List.map_id]
  unfold State.updWave
  rw [this]

theorem addFlags_eq (s : State) (r : Ref) (f : Fl) :
    s.addFlags r f = (s.upd r (fun t => t.flags f)).orCause r (flagCauses f) := by
  unfold State.addFlags
  by_cases h : flagCauses f = 0
  · simp only [h, if_true, State.orCause]
    rw [updWave_same _ _ _ _ (fun x => by simp)]
    rfl
  · simp only [h, if_false]
    rfl

/-- As `each_threads`, for effects that also OR causes into the thread's wave. -/
theorem each_floats {s : State} {g : Guard} {e : State → Ref → State} {f : Thread → Thread} {fl : Thread → Fl}
    (hkey : ∀ t, (f t).key = t.key) (hfl : ∀ t pc, fl (t.goto pc) = fl t)
    (he : ∀ (u : State) (r : Ref), u.groups = s.groups → u.KeysApart → (∃ t ∈ u.threads, t.is r = true) →
      e u r = (u.upd r f).orCause r (flagCauses (fl (u.thread r))))
    (hk : s.KeysApart) (hn : s.bnd.refs.Nodup) :
    s.each g e = { s with
      threads := s.threads.map (s.stepThread g f),
      waves := s.waves.map (fun w => { w with cause := s.waveCause g fl s.bnd.refs w }) } := by
  have main : ∀ (l : List Ref) (u : State), l.Nodup → u.groups = s.groups → u.bundle = s.bundle → u.KeysApart →
      (∀ r ∈ l, u.thread r = s.thread r) →
      l.foldl (State.one g e) u =
        { u with
          threads := u.threads.map (fun t => if t.key ∈ l ∧ t.live = true then
            (if guardHolds g t = true then f (t.goto s.bnd.npc) else t.goto s.bnd.npc) else t),
          waves := u.waves.map (fun w => { w with cause := s.waveCause g fl l w }) } := by
    intro l
    induction l with
    | nil => intro u _ _ _ _ _; simp [State.waveCause]
    | cons r rs ih =>
      intro u hd hg hb hku hsame
      rw [List.nodup_cons] at hd
      have hbn : u.bnd = s.bnd := by simp only [State.bnd, hb]
      have hur : u.thread r = s.thread r := hsame r List.mem_cons_self
      have hwid : u.widOf r = s.widOf r := by simp only [State.widOf, State.waveW, State.group, hg]
      let F : Thread → Thread := fun t =>
        if t.live = true then (if guardHolds g t = true then f (t.goto s.bnd.npc) else t.goto s.bnd.npc) else t
      let G : Wave → Wave := fun w => { w with cause := s.waveCause g fl [r] w }
      have hF : ∀ t, (F t).key = t.key := by
        intro t
        simp only [F]
        split
        · split
          · rw [hkey]; rfl
          · rfl
        · rfl
      have hGid : ((s.thread r).live = true ∧ guardHolds g (s.thread r) = true → False) → u.waves.map G = u.waves := by
        intro hn
        have : G = id := by
          funext w
          simp only [G, id, State.waveCause, List.foldl_cons, List.foldl_nil]
          split
          · rename_i h; exact absurd ⟨h.1, h.2.1⟩ hn
          · rfl
        rw [this, List.map_id]
      have hself : ∀ t ∈ u.threads, t.is r = true → u.thread r = t := by
        intro t ht hr
        rw [Thread.is_iff_key] at hr
        rw [← hr, thread_of_mem hku ht]
      have hgo : ∀ t : Thread, (t.goto u.bnd.npc).key = t.key := fun _ => rfl
      have hone : State.one g e u r = { u.upd r F with waves := u.waves.map G } := by
        unfold State.one
        by_cases hl : (u.thread r).live = true
        · simp only [hl, if_true]
          obtain ⟨t0, ht0, hr0⟩ := thread_mem hl
          have hth : (u.upd r (fun t => t.goto u.bnd.npc)).thread r = (u.thread r).goto u.bnd.npc :=
            State.upd_thread (fun _ => rfl) (by simpa [State.hasThread] using ⟨t0, ht0, hr0⟩)
          by_cases hh : guardHolds g (u.thread r) = true
          · simp only [hh, if_true]
            have hin : ∃ t ∈ (u.upd r (fun t => t.goto u.bnd.npc)).threads, t.is r = true :=
              ⟨t0.goto u.bnd.npc, by simpa [State.upd] using ⟨t0, ht0, by simp [hr0]⟩, hr0⟩
            rw [he _ r (by simpa using hg) (upd_keys hgo hku) hin, upd_upd u r (fun t => t.goto u.bnd.npc) f (fun _ => rfl), hth, hfl]
            have e1 : (u.upd r fun t => f (t.goto u.bnd.npc)) = u.upd r F := by
              apply upd_congr
              intro t ht hr
              have := hself t ht hr
              rw [this] at hl hh
              simp [F, hl, hh, hbn]
            rw [e1]
            unfold State.orCause State.updWave
            have hw2 : (u.upd r F).widOf r = s.widOf r := by rw [State.upd_get_widOf]; exact hwid
            rw [hw2]
            have e2 : u.waves.map (fun x => if (x.gid == r.1 && x.wid == s.widOf r) = true then
                { x with cause := x.cause ||| flagCauses (fl (u.thread r)) } else x) = u.waves.map G := by
              apply List.map_congr_left
              intro w _
              simp only [G, State.waveCause, List.foldl_cons, List.foldl_nil]
              rw [hur] at hl hh ⊢
              by_cases hc : (w.gid == r.1 && w.wid == s.widOf r) = true
              · simp [hc, hl, hh]
              · simp [hc]
            rw [State.upd_waves, e2]
          · simp only [hh]
            rw [hGid (by rw [← hur]; exact fun h => hh h.2)]
            show u.upd r (fun t => t.goto u.bnd.npc) = u.upd r F
            apply upd_congr
            intro t ht hr
            have := hself t ht hr
            rw [this] at hl hh
            simp [F, hl, hh, hbn]
        · simp only [hl]
          rw [hGid (by rw [← hur]; exact fun h => hl h.1)]
          have : u.upd r F = u.upd r (fun t => t) := by
            apply upd_congr
            intro t ht hr
            have := hself t ht hr
            rw [this] at hl
            simp [F, hl]
          rw [this]
          simp [State.upd]
      have hsame2 : ∀ q ∈ rs, ({ u.upd r F with waves := u.waves.map G } : State).thread q = s.thread q := by
        intro q hq
        show (u.upd r F).thread q = s.thread q
        have hne : q ≠ r := fun h => hd.1 (h ▸ hq)
        rw [State.upd_thread_other hne]
        · exact hsame q (List.mem_cons_of_mem _ hq)
        · intro t
          have := hF t
          rw [Bool.eq_iff_iff, Thread.is_iff_key, Thread.is_iff_key, this]
      have hkv : ({ u.upd r F with waves := u.waves.map G } : State).KeysApart := by
        have := upd_keys (r := r) hF hku
        exact this
      rw [List.foldl_cons, hone, ih { u.upd r F with waves := u.waves.map G } hd.2 hg hb hkv hsame2]
      simp only [State.upd, List.map_map]
      congr 1
      · apply List.map_congr_left
        intro t _
        simp only [Function.comp]
        by_cases hr : t.is r = true
        · have hkr : t.key = r := Thread.is_iff_key.mp hr
          have hnot : (F t).key ∉ rs := by rw [hF, hkr]; exact hd.1
          simp only [hr, if_true, hnot, false_and, if_false, hkr, List.mem_cons, true_or, true_and]
          rfl
        · have hkr : t.key ≠ r := fun h => hr (Thread.is_iff_key.mpr h)
          simp [hr, hkr]
  have := main s.bnd.refs s hn rfl rfl hk (fun _ _ => rfl)
  unfold State.each
  rw [this]
  rfl

/-- The next state of a threadwise instruction, from the meaning's effect. -/
theorem threadwise_of {i : Instr} {g : Guard} {e : State → Ref → State} {f : State → Thread → Thread}
    (hx : ∀ s, exec i s = .next (s.each g e)) (hkey : ∀ s t, (f s t).key = t.key)
    (he : ∀ (s u : State) (r : Ref), u.groups = s.groups → u.KeysApart → e u r = u.upd r (f s)) : Threadwise i g f := by
  intro s hk hn
  rw [hx, each_threads (hkey s) (fun u r hg _ hku => he s u r hg hku) hk hn]

/-- The next state of a float instruction, from the meaning's effect. -/
theorem floatwise_of {i : Instr} {g : Guard} {e : State → Ref → State} {f : State → Thread → Thread × Fl}
    (hx : ∀ s, exec i s = .next (s.each g e)) (hkey : ∀ s t, (f s t).1.key = t.key) (hfl : ∀ s t pc, (f s (t.goto pc)).2 = (f s t).2)
    (he : ∀ (s u : State) (r : Ref), u.groups = s.groups → u.KeysApart → (∃ t ∈ u.threads, t.is r = true) →
      e u r = (u.upd r (fun t => (f s t).1.flags (f s t).2)).orCause r (flagCauses (f s (u.thread r)).2)) : Floatwise i g f := by
  intro s hk hn
  rw [hx, each_floats (f := fun t => (f s t).1.flags (f s t).2) (fl := fun t => (f s t).2) (fun t => hkey s t) (fun t pc => hfl s t pc)
    (fun u r hg hku hm => he s u r hg hku hm) hk hn]

/-- A float result of what the thread found by its number holds. -/
theorem putF_self {u : State} (hk : u.KeysApart) (r : Ref) (d : Reg) (x : Thread → Word × Fl) :
    u.putF r d (x (u.thread r)) = (u.upd r (fun t => (t.setReg d (x t).1).flags (x t).2)).orCause r (flagCauses (x (u.thread r)).2) := by
  unfold State.putF
  rw [addFlags_eq, State.put_eq, upd_upd u r (fun t => t.setReg d (x (u.thread r)).1) _ (fun _ => rfl),
    upd_self hk r (fun v t => (t.setReg d (x v).1).flags (x v).2)]

/-- A register written from what the thread and its group hold. -/
theorem put_of {s u : State} {r : Ref} {d : Reg} {w : Word} {v : State → Thread → Word}
    (hw : ∀ t ∈ u.threads, t.key = r → w = v s t) : u.put r d w = u.upd r (fun t => t.setReg d (v s t)) := by
  rw [State.put_eq]
  apply upd_congr
  intro t ht hr
  rw [← hw t ht (Thread.is_iff_key.mp hr)]

end Sys2Proof.Machine
end

