-- ==== Sys2Proof/Laws/Operands.lean ====
section
/-! SUPPORT. What the operands of a thread are, read from its record; and the two shapes in which most meanings write: a register or
predicate of the thread, and a float result. -/

-- One proof after another: many at once would need more memory than the check of the whole package has.
set_option Elab.async false

namespace Sys2Proof.Machine

/-! ### Operands of a listed thread -/

section
variable {s u : State} {r : Ref} {t : Thread}

theorem thread_listed (hk : u.KeysApart) (ht : t ∈ u.threads) (hr : t.is r = true) : u.thread r = t := by
  rw [Thread.is_iff_key] at hr
  rw [← hr, thread_of_mem hk ht]

theorem listed_gid (hr : t.is r = true) : t.gid = r.1 := by
  rw [Thread.is_iff_key] at hr
  rw [← hr]
  rfl

theorem rd_listed (hk : u.KeysApart) (ht : t ∈ u.threads) (hr : t.is r = true) (a : Reg) : u.rd r a = t.reg a := by
  rw [State.rd, thread_listed hk ht hr]

theorem rd64_listed (hk : u.KeysApart) (ht : t ∈ u.threads) (hr : t.is r = true) (a : Reg) : u.rd64 r a = t.pair a := by
  rw [State.rd64, thread_listed hk ht hr]

theorem pr_listed (hk : u.KeysApart) (ht : t ∈ u.threads) (hr : t.is r = true) (p : BitVec 3) : u.pr r p = t.pred p := by
  rw [State.pr, thread_listed hk ht hr]

theorem greg_same (hg : u.groups = s.groups) (k : Nat) (n : BitVec 6) : u.greg k n = s.greg k n := by
  simp only [State.greg, State.group, hg]

theorem src32_listed (hg : u.groups = s.groups) (hk : u.KeysApart) (ht : t ∈ u.threads) (hr : t.is r = true) (b : Src) :
    u.src32 r b = s.val32 t b := by
  cases b with
  | v n => exact rd_listed hk ht hr n
  | g n => rw [State.src32, State.val32, greg_same hg, listed_gid hr]
  | imm k => rfl
  | lit w => rfl

theorem src64_listed (hg : u.groups = s.groups) (hk : u.KeysApart) (ht : t ∈ u.threads) (hr : t.is r = true) (b : Src) :
    u.src64 r b = s.val64 t b := by
  cases b with
  | v n => exact rd64_listed hk ht hr n
  | g n => rw [State.src64, State.val64, greg_same hg, listed_gid hr]
  | imm k => rfl
  | lit w => rfl

theorem srcF_listed (hg : u.groups = s.groups) (hk : u.KeysApart) (ht : t ∈ u.threads) (hr : t.is r = true) (b : Src) :
    u.srcF r b = s.valF t b := by
  cases b with
  | v n => exact rd_listed hk ht hr n
  | g n => rw [State.srcF, State.valF, State.src32, greg_same hg, listed_gid hr]
  | imm k => rfl
  | lit w => rfl

theorem srcH_listed (hg : u.groups = s.groups) (hk : u.KeysApart) (ht : t ∈ u.threads) (hr : t.is r = true) (bf : Bool) (b : Src) :
    u.srcH r bf b = s.valH t bf b := by
  cases b with
  | v n => exact rd_listed hk ht hr n
  | g n => rw [State.srcH, State.valH, State.src32, greg_same hg, listed_gid hr]
  | imm k => rfl
  | lit w => rfl

end

@[simp] theorem Thread.key_setReg (t : Thread) (d : Reg) (w : Word) : (t.setReg d w).key = t.key := rfl
@[simp] theorem Thread.key_setPair (t : Thread) (d : Reg) (w : DWord) : (t.setPair d w).key = t.key := rfl
@[simp] theorem Thread.key_setPred (t : Thread) (p : BitVec 3) (b : Bool) : (t.setPred p b).key = t.key := rfl
@[simp] theorem Thread.key_flags (t : Thread) (f : Fl) : (t.flags f).key = t.key := rfl
@[simp] theorem Thread.key_goto (t : Thread) (pc : DWord) : (t.goto pc).key = t.key := rfl

@[simp] theorem val32_goto (s : State) (t : Thread) (pc : DWord) (b : Src) : s.val32 (t.goto pc) b = s.val32 t b := by cases b <;> rfl
@[simp] theorem val64_goto (s : State) (t : Thread) (pc : DWord) (b : Src) : s.val64 (t.goto pc) b = s.val64 t b := by cases b <;> rfl
@[simp] theorem valF_goto (s : State) (t : Thread) (pc : DWord) (b : Src) : s.valF (t.goto pc) b = s.valF t b := by cases b <;> rfl
@[simp] theorem valH_goto (s : State) (t : Thread) (pc : DWord) (bf : Bool) (b : Src) : s.valH (t.goto pc) bf b = s.valH t bf b := by
  cases b <;> rfl

/-! ### An effect written as a change of the thread's record -/

/-- The meaning's effect is a change of the record: enough that they agree on each listed thread. -/
theorem threadwise_by {i : Instr} {g : Guard} {e : State → Ref → State} {c : State → Ref → Thread → Thread} {f : State → Thread → Thread}
    (hx : ∀ s, exec i s = .next (s.each g e)) (hc : ∀ u r, e u r = u.upd r (c u r)) (hkey : ∀ s t, (f s t).key = t.key)
    (h : ∀ (s u : State) (r : Ref) (t : Thread), u.groups = s.groups → u.KeysApart → t ∈ u.threads → t.is r = true → c u r t = f s t) :
    Threadwise i g f :=
  threadwise_of hx hkey (fun s u r hg hk => by
    rw [hc]
    exact upd_congr (fun t ht hr => h s u r t hg hk ht hr))

/-- A 32-bit result from A and b. -/
theorem alu32_threadwise {i : Instr} {g : Guard} {d a : Reg} {b : Src} {f F : Word → Word → Word}
    (hx : ∀ s, exec i s = .next (s.alu32 g d a b f)) (h : ∀ x y, f x y = F x y) :
    Threadwise i g (fun s t => t.setReg d (F (t.reg a) (s.val32 t b))) :=
  threadwise_by hx (fun _ _ => rfl) (fun _ _ => rfl) (fun s u r t hg hk ht hr => by
    rw [rd_listed hk ht hr, src32_listed hg hk ht hr, h])

/-- A 32-bit result of A. -/
theorem unary_threadwise {i : Instr} {g : Guard} {d a : Reg} {f F : Word → Word}
    (hx : ∀ s, exec i s = .next (s.each g (fun s r => s.put r d (f (s.rd r a))))) (h : ∀ x, f x = F x) :
    Threadwise i g (fun _ t => t.setReg d (F (t.reg a))) :=
  threadwise_by hx (fun _ _ => rfl) (fun _ _ => rfl) (fun s u r t hg hk ht hr => by rw [rd_listed hk ht hr, h])

/-- A float result. -/
theorem floatwise_by {i : Instr} {g : Guard} {e : State → Ref → State} {d : Reg} {c : State → Ref → Word × Fl} {x : State → Thread → Word × Fl}
    (hx : ∀ s, exec i s = .next (s.each g e)) (hc : ∀ u r, e u r = u.putF r d (c u r)) (hgo : ∀ s t pc, x s (t.goto pc) = x s t)
    (h : ∀ (s u : State) (r : Ref) (t : Thread), u.groups = s.groups → u.KeysApart → t ∈ u.threads → t.is r = true → c u r = x s t) :
    Floatwise i g (fun s t => t.result d (x s t)) := by
  refine floatwise_of hx (fun _ _ => rfl) (fun s t pc => by simp only [Thread.result, hgo]) (fun s u r hg hk hm => ?_)
  obtain ⟨t, ht, hr⟩ := hm
  rw [hc]
  have hcr : c u r = x s (u.thread r) := by rw [h s u r t hg hk ht hr, thread_listed hk ht hr]
  rw [hcr]
  exact putF_self hk r d (x s)

end Sys2Proof.Machine
end

