-- ==== Sys2Proof/Laws/Moved.lean ====
section
/-! SUPPORT. What is read from the state in which the acting thread stands at the next instruction: everything but that thread's pc is as it
was. -/

namespace Sys2Proof.Machine

theorem Runs.each {s u : State} {g : Guard} {r : Ref} (h : Runs s g r u) (f : State → Ref → State) : s.each g f = f u r := by
  rw [each_acts h.1, h.2]

@[simp] theorem moved_mem (s : State) (r : Ref) : (s.moved r).mem = s.mem := rfl
@[simp] theorem moved_dcache (s : State) (r : Ref) : (s.moved r).dcache = s.dcache := rfl
@[simp] theorem moved_l2 (s : State) (r : Ref) : (s.moved r).l2 = s.l2 := rfl
@[simp] theorem moved_ways (s : State) (r : Ref) : (s.moved r).ways = s.ways := rfl
@[simp] theorem moved_lines (s : State) (r : Ref) : (s.moved r).lines = s.lines := rfl
@[simp] theorem moved_tlbs (s : State) (r : Ref) : (s.moved r).tlbs = s.tlbs := rfl
@[simp] theorem moved_zeroing (s : State) (r : Ref) : (s.moved r).zeroing = s.zeroing := rfl
@[simp] theorem moved_full (s : State) (r : Ref) : (s.moved r).full = s.full := rfl
@[simp] theorem moved_waves (s : State) (r : Ref) : (s.moved r).waves = s.waves := rfl
@[simp] theorem moved_groups (s : State) (r : Ref) : (s.moved r).groups = s.groups := rfl
@[simp] theorem moved_csets (s : State) (r : Ref) : (s.moved r).csets = s.csets := rfl
@[simp] theorem moved_cbars (s : State) (r : Ref) : (s.moved r).cbars = s.cbars := rfl
@[simp] theorem moved_ctxs (s : State) (r : Ref) : (s.moved r).ctxs = s.ctxs := rfl
@[simp] theorem moved_cores (s : State) (r : Ref) : (s.moved r).cores = s.cores := rfl
@[simp] theorem moved_dies (s : State) (r : Ref) : (s.moved r).dies = s.dies := rfl
@[simp] theorem moved_parts (s : State) (r : Ref) : (s.moved r).parts = s.parts := rfl
@[simp] theorem moved_held (s : State) (r : Ref) : (s.moved r).held = s.held := rfl
@[simp] theorem moved_locks (s : State) (r : Ref) : (s.moved r).locks = s.locks := rfl
@[simp] theorem moved_regQueue (s : State) (r : Ref) : (s.moved r).regQueue = s.regQueue := rfl
@[simp] theorem moved_feQueue (s : State) (r : Ref) : (s.moved r).feQueue = s.feQueue := rfl
@[simp] theorem moved_mailQueue (s : State) (r : Ref) : (s.moved r).mailQueue = s.mailQueue := rfl
@[simp] theorem moved_launches (s : State) (r : Ref) : (s.moved r).launches = s.launches := rfl
@[simp] theorem moved_nodes (s : State) (r : Ref) : (s.moved r).nodes = s.nodes := rfl
@[simp] theorem moved_mailboxes (s : State) (r : Ref) : (s.moved r).mailboxes = s.mailboxes := rfl
@[simp] theorem moved_hostBoxes (s : State) (r : Ref) : (s.moved r).hostBoxes = s.hostBoxes := rfl
@[simp] theorem moved_msixMask (s : State) (r : Ref) : (s.moved r).msixMask = s.msixMask := rfl
@[simp] theorem moved_msixPending (s : State) (r : Ref) : (s.moved r).msixPending = s.msixPending := rfl
@[simp] theorem moved_msixSent (s : State) (r : Ref) : (s.moved r).msixSent = s.msixSent := rfl
@[simp] theorem moved_rstreq (s : State) (r : Ref) : (s.moved r).rstreq = s.rstreq := rfl
@[simp] theorem moved_ptm (s : State) (r : Ref) : (s.moved r).ptm = s.ptm := rfl
@[simp] theorem moved_weights (s : State) (r : Ref) : (s.moved r).weights = s.weights := rfl
@[simp] theorem moved_cw (s : State) (r : Ref) : (s.moved r).cw = s.cw := rfl
@[simp] theorem moved_powerClass (s : State) (r : Ref) : (s.moved r).powerClass = s.powerClass := rfl
@[simp] theorem moved_measure (s : State) (r : Ref) : (s.moved r).measure = s.measure := rfl
@[simp] theorem moved_rollback (s : State) (r : Ref) : (s.moved r).rollback = s.rollback := rfl
@[simp] theorem moved_spares (s : State) (r : Ref) : (s.moved r).spares = s.spares := rfl
@[simp] theorem moved_spareWays (s : State) (r : Ref) : (s.moved r).spareWays = s.spareWays := rfl
@[simp] theorem moved_lanes (s : State) (r : Ref) : (s.moved r).lanes = s.lanes := rfl
@[simp] theorem moved_eyes (s : State) (r : Ref) : (s.moved r).eyes = s.eyes := rfl
@[simp] theorem moved_waiting (s : State) (r : Ref) : (s.moved r).waiting = s.waiting := rfl
@[simp] theorem moved_hostData (s : State) (r : Ref) : (s.moved r).hostData = s.hostData := rfl
@[simp] theorem moved_gated (s : State) (r : Ref) : (s.moved r).gated = s.gated := rfl
@[simp] theorem moved_repair (s : State) (r : Ref) : (s.moved r).repair = s.repair := rfl
@[simp] theorem moved_buffered (s : State) (r : Ref) : (s.moved r).buffered = s.buffered := rfl
@[simp] theorem moved_owners (s : State) (r : Ref) : (s.moved r).owners = s.owners := rfl
@[simp] theorem moved_domNew (s : State) (r : Ref) : (s.moved r).domNew = s.domNew := rfl
@[simp] theorem moved_modules (s : State) (r : Ref) : (s.moved r).modules = s.modules := rfl
@[simp] theorem moved_inReset (s : State) (r : Ref) : (s.moved r).inReset = s.inReset := rfl
@[simp] theorem moved_dtbBase (s : State) (r : Ref) : (s.moved r).dtbBase = s.dtbBase := rfl
@[simp] theorem moved_dtbFrac (s : State) (r : Ref) : (s.moved r).dtbFrac = s.dtbFrac := rfl
@[simp] theorem moved_dtbNow (s : State) (r : Ref) : (s.moved r).dtbNow = s.dtbNow := rfl
@[simp] theorem moved_slew (s : State) (r : Ref) : (s.moved r).slew = s.slew := rfl
@[simp] theorem moved_now (s : State) (r : Ref) : (s.moved r).now = s.now := rfl
@[simp] theorem moved_turn (s : State) (r : Ref) : (s.moved r).turn = s.turn := rfl
@[simp] theorem moved_serial (s : State) (r : Ref) : (s.moved r).serial = s.serial := rfl
@[simp] theorem moved_draws (s : State) (r : Ref) : (s.moved r).draws = s.draws := rfl
@[simp] theorem moved_agenda (s : State) (r : Ref) : (s.moved r).agenda = s.agenda := rfl
@[simp] theorem moved_arg (s : State) (r : Ref) : (s.moved r).arg = s.arg := rfl
@[simp] theorem moved_bundle (s : State) (r : Ref) : (s.moved r).bundle = s.bundle := rfl
@[simp] theorem moved_command (s : State) (r : Ref) : (s.moved r).command = s.command := rfl

@[simp] theorem moved_get_group (s : State) (r : Ref) (y : Nat) : (s.moved r).group y = s.group y := rfl
@[simp] theorem moved_get_wave (s : State) (r : Ref) (y z : Nat) : (s.moved r).wave y z = s.wave y z := rfl
@[simp] theorem moved_get_ctx (s : State) (r : Ref) (y z : Nat) : (s.moved r).ctx y z = s.ctx y z := rfl
@[simp] theorem moved_get_coreSt (s : State) (r : Ref) (y : Nat) : (s.moved r).coreSt y = s.coreSt y := rfl
@[simp] theorem moved_get_die (s : State) (r : Ref) (y : Nat) : (s.moved r).die y = s.die y := rfl
@[simp] theorem moved_get_part (s : State) (r : Ref) (y : Nat) : (s.moved r).part y = s.part y := rfl
@[simp] theorem moved_get_node (s : State) (r : Ref) (y z u : Nat) : (s.moved r).node y z u = s.node y z u := rfl
@[simp] theorem moved_get_cset (s : State) (r : Ref) (y : Nat) : (s.moved r).cset y = s.cset y := rfl
@[simp] theorem moved_get_bnd (s : State) (r : Ref) : (s.moved r).bnd = s.bnd := rfl
@[simp] theorem moved_get_partOf (s : State) (r : Ref) (x : Ref) : (s.moved r).partOf x = s.partOf x := rfl
@[simp] theorem moved_get_coreOf (s : State) (r : Ref) (x : Ref) : (s.moved r).coreOf x = s.coreOf x := rfl
@[simp] theorem moved_get_widOf (s : State) (r : Ref) (x : Ref) : (s.moved r).widOf x = s.widOf x := rfl
@[simp] theorem moved_get_laneOf (s : State) (r : Ref) (x : Ref) : (s.moved r).laneOf x = s.laneOf x := rfl
@[simp] theorem moved_get_dieOf (s : State) (r : Ref) (x : Ref) : (s.moved r).dieOf x = s.dieOf x := rfl
@[simp] theorem moved_get_greg (s : State) (r : Ref) (y : Nat) (k : BitVec 6) : (s.moved r).greg y k = s.greg y k := rfl
@[simp] theorem moved_get_waveOf (s : State) (r : Ref) (x : Ref) : (s.moved r).waveOf x = s.waveOf x := rfl
@[simp] theorem moved_get_ctxOf (s : State) (r : Ref) (x : Ref) : (s.moved r).ctxOf x = s.ctxOf x := rfl
@[simp] theorem moved_get_dtb (s : State) (r : Ref) : (s.moved r).dtb = s.dtb := rfl
@[simp] theorem moved_get_clk (s : State) (r : Ref) (c : Nat) : (s.moved r).clk c = s.clk c := rfl
@[simp] theorem moved_get_rawClk (s : State) (r : Ref) (c : Nat) : (s.moved r).rawClk c = s.rawClk c := rfl
@[simp] theorem moved_get_freeVal (s : State) (r : Ref) : (s.moved r).freeVal = s.freeVal := rfl
@[simp] theorem moved_get_ccOf (s : State) (r : Ref) (x : Ref) : (s.moved r).ccOf x = s.ccOf x := rfl
@[simp] theorem moved_get_tcOf (s : State) (r : Ref) (g : Nat) : (s.moved r).tcOf g = s.tcOf g := rfl
@[simp] theorem moved_get_waveW (s : State) (r : Ref) (g : Nat) : (s.moved r).waveW g = s.waveW g := rfl
@[simp] theorem moved_get_below (s : State) (r : Ref) (a : Nat) : (s.moved r).below a = s.below a := rfl
@[simp] theorem moved_get_seen (s : State) (r : Ref) (c a : Nat) : (s.moved r).seen c a = s.seen c a := rfl
@[simp] theorem moved_get_readAt (s : State) (r : Ref) (c : Nat) (w : Where) (n : Nat) : (s.moved r).readAt c w n = s.readAt c w n := rfl
@[simp] theorem moved_get_isFull (s : State) (r : Ref) (l : Nat) : (s.moved r).isFull l = s.isFull l := rfl
@[simp] theorem moved_get_cmemSize (s : State) (r : Ref) (g : Nat) : (s.moved r).cmemSize g = s.cmemSize g := rfl
@[simp] theorem moved_get_lockHit (s : State) (r : Ref) (d p : Nat) (x : Rng) (b : Bool) : (s.moved r).lockHit d p x b = s.lockHit d p x b := rfl
@[simp] theorem moved_get_rngOf (s : State) (r : Ref) (x : Ref) (sp : Space) (a n : Nat) : (s.moved r).rngOf x sp a n = s.rngOf x sp a n := rfl
@[simp] theorem moved_get_streamOf (s : State) (r : Ref) (g : Nat) : (s.moved r).streamOf g = s.streamOf g := rfl
@[simp] theorem moved_get_streamsOn (s : State) (r : Ref) (c p : Nat) : (s.moved r).streamsOn c p = s.streamsOn c p := rfl
@[simp] theorem moved_get_mxrunStatus (s : State) (r : Ref) (g : Nat) (x : DWord) (n : Nat) : (s.moved r).mxrunStatus g x n = s.mxrunStatus g x n := rfl
@[simp] theorem moved_get_vatRecs (s : State) (r : Ref) (d v i : Nat) : (s.moved r).vatRecs d v i = s.vatRecs d v i := rfl
@[simp] theorem moved_get_vgetRange (s : State) (r : Ref) (x : Ref) (n k o : Nat) : (s.moved r).vgetRange x n k o = s.vgetRange x n k o := rfl
@[simp] theorem moved_get_dispOf (s : State) (r : Ref) (x : Ref) : (s.moved r).dispOf x = s.dispOf x := rfl
@[simp] theorem moved_get_engRng (s : State) (r : Ref) (g : Nat) (sp : ESpace) (a n : Nat) : (s.moved r).engRng g sp a n = s.engRng g sp a n := rfl
@[simp] theorem moved_get_rowputBad (s : State) (r : Ref) (g : Nat) (x : Rng) : (s.moved r).rowputBad g x = s.rowputBad g x := rfl
@[simp] theorem moved_get_myBar (s : State) (r : Ref) (x : Ref) (c : Bool) (n : Nat) : (s.moved r).myBar x c n = s.myBar x c n := rfl

/-- A listed thread, or the record of none. -/
theorem moved_thread_cases (s : State) (r q : Ref) : (s.moved r).thread q = s.thread q ∨ (s.moved r).thread q = (s.thread q).goto s.bnd.npc := by
  by_cases hq : q = r
  · subst hq
    by_cases h : s.hasThread q = true
    · exact .inr (moved_thread h)
    · left
      have h1 : s.threads.find? (fun t => t.is q) = none := by
        rw [List.find?_eq_none]
        intro t ht hc
        exact h (List.any_eq_true.mpr ⟨t, ht, hc⟩)
      have h2 : (s.moved q).threads.find? (fun t => t.is q) = none := by
        rw [List.find?_eq_none]
        intro t ht hc
        exact h (by rw [← moved_hasThread (s := s) (r := q)]; exact List.any_eq_true.mpr ⟨t, ht, hc⟩)
      simp only [State.thread, h1, h2]
  · exact .inl (moved_other hq)

@[simp] theorem moved_thread_gid (s : State) (r q : Ref) : ((s.moved r).thread q).gid = (s.thread q).gid := by
  rcases moved_thread_cases s r q with h | h <;> rw [h] <;> rfl
@[simp] theorem moved_thread_tid (s : State) (r q : Ref) : ((s.moved r).thread q).tid = (s.thread q).tid := by
  rcases moved_thread_cases s r q with h | h <;> rw [h] <;> rfl
@[simp] theorem moved_thread_regs (s : State) (r q : Ref) : ((s.moved r).thread q).regs = (s.thread q).regs := by
  rcases moved_thread_cases s r q with h | h <;> rw [h] <;> rfl
@[simp] theorem moved_thread_preds (s : State) (r q : Ref) : ((s.moved r).thread q).preds = (s.thread q).preds := by
  rcases moved_thread_cases s r q with h | h <;> rw [h] <;> rfl
@[simp] theorem moved_thread_tpc (s : State) (r q : Ref) : ((s.moved r).thread q).tpc = (s.thread q).tpc := by
  rcases moved_thread_cases s r q with h | h <;> rw [h] <;> rfl
@[simp] theorem moved_thread_handler (s : State) (r q : Ref) : ((s.moved r).thread q).handler = (s.thread q).handler := by
  rcases moved_thread_cases s r q with h | h <;> rw [h] <;> rfl
@[simp] theorem moved_thread_depth (s : State) (r q : Ref) : ((s.moved r).thread q).depth = (s.thread q).depth := by
  rcases moved_thread_cases s r q with h | h <;> rw [h] <;> rfl
@[simp] theorem moved_thread_fflags (s : State) (r q : Ref) : ((s.moved r).thread q).fflags = (s.thread q).fflags := by
  rcases moved_thread_cases s r q with h | h <;> rw [h] <;> rfl
@[simp] theorem moved_thread_rng (s : State) (r q : Ref) : ((s.moved r).thread q).rng = (s.thread q).rng := by
  rcases moved_thread_cases s r q with h | h <;> rw [h] <;> rfl
@[simp] theorem moved_thread_live (s : State) (r q : Ref) : ((s.moved r).thread q).live = (s.thread q).live := by
  rcases moved_thread_cases s r q with h | h <;> rw [h] <;> rfl
@[simp] theorem moved_thread_park (s : State) (r q : Ref) : ((s.moved r).thread q).park = (s.thread q).park := by
  rcases moved_thread_cases s r q with h | h <;> rw [h] <;> rfl
@[simp] theorem moved_thread_parkPc (s : State) (r q : Ref) : ((s.moved r).thread q).parkPc = (s.thread q).parkPc := by
  rcases moved_thread_cases s r q with h | h <;> rw [h] <;> rfl
@[simp] theorem moved_thread_since (s : State) (r q : Ref) : ((s.moved r).thread q).since = (s.thread q).since := by
  rcases moved_thread_cases s r q with h | h <;> rw [h] <;> rfl
@[simp] theorem moved_thread_counted (s : State) (r q : Ref) : ((s.moved r).thread q).counted = (s.thread q).counted := by
  rcases moved_thread_cases s r q with h | h <;> rw [h] <;> rfl
@[simp] theorem moved_thread_meet (s : State) (r q : Ref) : ((s.moved r).thread q).meet = (s.thread q).meet := by
  rcases moved_thread_cases s r q with h | h <;> rw [h] <;> rfl
@[simp] theorem moved_thread_formed (s : State) (r q : Ref) : ((s.moved r).thread q).formed = (s.thread q).formed := by
  rcases moved_thread_cases s r q with h | h <;> rw [h] <;> rfl
@[simp] theorem moved_thread_stood (s : State) (r q : Ref) : ((s.moved r).thread q).stood = (s.thread q).stood := by
  rcases moved_thread_cases s r q with h | h <;> rw [h] <;> rfl
@[simp] theorem moved_thread_age (s : State) (r q : Ref) : ((s.moved r).thread q).age = (s.thread q).age := by
  rcases moved_thread_cases s r q with h | h <;> rw [h] <;> rfl
@[simp] theorem moved_thread_ops (s : State) (r q : Ref) : ((s.moved r).thread q).ops = (s.thread q).ops := by
  rcases moved_thread_cases s r q with h | h <;> rw [h] <;> rfl
@[simp] theorem moved_thread_laid (s : State) (r q : Ref) : ((s.moved r).thread q).laid = (s.thread q).laid := by
  rcases moved_thread_cases s r q with h | h <;> rw [h] <;> rfl
@[simp] theorem moved_thread_loads (s : State) (r q : Ref) : ((s.moved r).thread q).loads = (s.thread q).loads := by
  rcases moved_thread_cases s r q with h | h <;> rw [h] <;> rfl
@[simp] theorem moved_thread_loadAt (s : State) (r q : Ref) : ((s.moved r).thread q).loadAt = (s.thread q).loadAt := by
  rcases moved_thread_cases s r q with h | h <;> rw [h] <;> rfl
@[simp] theorem moved_thread_stores (s : State) (r q : Ref) : ((s.moved r).thread q).stores = (s.thread q).stores := by
  rcases moved_thread_cases s r q with h | h <;> rw [h] <;> rfl
@[simp] theorem moved_thread_storeAt (s : State) (r q : Ref) : ((s.moved r).thread q).storeAt = (s.thread q).storeAt := by
  rcases moved_thread_cases s r q with h | h <;> rw [h] <;> rfl
@[simp] theorem moved_thread_hit (s : State) (r q : Ref) : ((s.moved r).thread q).hit = (s.thread q).hit := by
  rcases moved_thread_cases s r q with h | h <;> rw [h] <;> rfl
@[simp] theorem moved_thread_hitSt (s : State) (r q : Ref) : ((s.moved r).thread q).hitSt = (s.thread q).hitSt := by
  rcases moved_thread_cases s r q with h | h <;> rw [h] <;> rfl
@[simp] theorem moved_thread_spos (s : State) (r q : Ref) : ((s.moved r).thread q).spos = (s.thread q).spos := by
  rcases moved_thread_cases s r q with h | h <;> rw [h] <;> rfl
@[simp] theorem moved_thread_srow (s : State) (r q : Ref) : ((s.moved r).thread q).srow = (s.thread q).srow := by
  rcases moved_thread_cases s r q with h | h <;> rw [h] <;> rfl
@[simp] theorem moved_thread_record (s : State) (r q : Ref) : ((s.moved r).thread q).record = (s.thread q).record := by
  rcases moved_thread_cases s r q with h | h <;> rw [h] <;> rfl
@[simp] theorem moved_thread_recDone (s : State) (r q : Ref) : ((s.moved r).thread q).recDone = (s.thread q).recDone := by
  rcases moved_thread_cases s r q with h | h <;> rw [h] <;> rfl
@[simp] theorem moved_thread_holds (s : State) (r q : Ref) : ((s.moved r).thread q).holds = (s.thread q).holds := by
  rcases moved_thread_cases s r q with h | h <;> rw [h] <;> rfl
@[simp] theorem moved_thread_line (s : State) (r q : Ref) : ((s.moved r).thread q).line = (s.thread q).line := by
  rcases moved_thread_cases s r q with h | h <;> rw [h] <;> rfl
@[simp] theorem moved_thread_reg (s : State) (r q : Ref) (a : Reg) : ((s.moved r).thread q).reg a = (s.thread q).reg a := by
  rcases moved_thread_cases s r q with h | h <;> rw [h] <;> rfl
@[simp] theorem moved_thread_pair (s : State) (r q : Ref) (a : Reg) : ((s.moved r).thread q).pair a = (s.thread q).pair a := by
  rcases moved_thread_cases s r q with h | h <;> rw [h] <;> rfl
@[simp] theorem moved_thread_pred (s : State) (r q : Ref) (p : BitVec 3) : ((s.moved r).thread q).pred p = (s.thread q).pred p := by
  rcases moved_thread_cases s r q with h | h <;> rw [h] <;> rfl
@[simp] theorem moved_thread_block (s : State) (r q : Ref) (a : Reg) (n : Nat) : ((s.moved r).thread q).block a n = (s.thread q).block a n := by
  rcases moved_thread_cases s r q with h | h <;> rw [h] <;> rfl
@[simp] theorem moved_thread_is (s : State) (r q : Ref) (x : Ref) : ((s.moved r).thread q).is x = (s.thread q).is x := by
  rcases moved_thread_cases s r q with h | h <;> rw [h] <;> rfl
@[simp] theorem moved_thread_unperformed (s : State) (r q : Ref) : ((s.moved r).thread q).unperformed = (s.thread q).unperformed := by
  rcases moved_thread_cases s r q with h | h <;> rw [h] <;> rfl
@[simp] theorem moved_thread_behind (s : State) (r q : Ref) (k loc n : Nat) : ((s.moved r).thread q).behind k loc n = (s.thread q).behind k loc n := by
  rcases moved_thread_cases s r q with h | h <;> rw [h] <;> rfl
@[simp] theorem moved_thread_feBehind (s : State) (r q : Ref) (loc : Nat) (x : Bool) : ((s.moved r).thread q).feBehind loc x = (s.thread q).feBehind loc x := by
  rcases moved_thread_cases s r q with h | h <;> rw [h] <;> rfl
@[simp] theorem moved_thread_doneBefore (s : State) (r q : Ref) (k : Nat) : ((s.moved r).thread q).doneBefore k = (s.thread q).doneBefore k := by
  rcases moved_thread_cases s r q with h | h <;> rw [h] <;> rfl
@[simp] theorem moved_thread_loadNo (s : State) (r q : Ref) : ((s.moved r).thread q).loadNo = (s.thread q).loadNo := by
  rcases moved_thread_cases s r q with h | h <;> rw [h] <;> rfl
@[simp] theorem moved_thread_storeNo (s : State) (r q : Ref) : ((s.moved r).thread q).storeNo = (s.thread q).storeNo := by
  rcases moved_thread_cases s r q with h | h <;> rw [h] <;> rfl
@[simp] theorem moved_thread_acquiring (s : State) (r q : Ref) (k : Nat) : ((s.moved r).thread q).acquiring k = (s.thread q).acquiring k := by
  rcases moved_thread_cases s r q with h | h <;> rw [h] <;> rfl
@[simp] theorem moved_thread_reading (s : State) (r q : Ref) : ((s.moved r).thread q).reading = (s.thread q).reading := by
  rcases moved_thread_cases s r q with h | h <;> rw [h] <;> rfl
@[simp] theorem moved_thread_settled (s : State) (r q : Ref) : ((s.moved r).thread q).settled = (s.thread q).settled := by
  rcases moved_thread_cases s r q with h | h <;> rw [h] <;> rfl
@[simp] theorem moved_thread_tracing (s : State) (r q : Ref) : ((s.moved r).thread q).tracing = (s.thread q).tracing := by
  rcases moved_thread_cases s r q with h | h <;> rw [h] <;> rfl

@[simp] theorem moved_owes (s : State) (r q : Ref) : (s.moved r).owes q = s.owes q := moved_thread_unperformed s r q
@[simp] theorem moved_acquires (s : State) (r q : Ref) : (s.moved r).acquires q = s.acquires q := by simp only [State.acquires, moved_thread_loads]
@[simp] theorem moved_trails (s : State) (r q : Ref) (loc n : Nat) : (s.moved r).trails q loc n = s.trails q loc n := by
  simp only [State.trails, moved_thread_behind, moved_thread_ops]

@[simp] theorem moved_holds (s : State) (r q : Ref) (g : Guard) : guardHolds g ((s.moved r).thread q) = guardHolds g (s.thread q) := by
  rcases moved_thread_cases s r q with h | h <;> rw [h] <;> rfl
@[simp] theorem moved_rd (s : State) (r q : Ref) (a : Reg) : (s.moved r).rd q a = (s.thread q).reg a := moved_thread_reg s r q a
@[simp] theorem moved_rd64 (s : State) (r q : Ref) (a : Reg) : (s.moved r).rd64 q a = (s.thread q).pair a := moved_thread_pair s r q a
@[simp] theorem moved_pr (s : State) (r q : Ref) (p : BitVec 3) : (s.moved r).pr q p = (s.thread q).pred p := moved_thread_pred s r q p
@[simp] theorem moved_lcOf (s : State) (r q : Ref) : (s.moved r).lcOf q = s.lcOf q := by simp [State.lcOf]
@[simp] theorem moved_scOf (s : State) (r q : Ref) : (s.moved r).scOf q = s.scOf q := by simp [State.scOf]
@[simp] theorem moved_enters (s : State) (r q : Ref) (c : Nat) : (s.moved r).enters q c = s.enters q c := by simp [State.enters]

/-! ### Operands of an acting thread -/

section
variable {s : State} {r : Ref}

theorem Alone.gid (h : Alone s r) : (s.thread r).gid = r.1 := by
  obtain ⟨t, ht, hr⟩ := thread_mem h.live
  have : (s.thread r).is r = true := by
    unfold State.thread
    cases hf : s.threads.find? (fun t => t.is r) with
    | none => exact absurd hr (by simpa using List.find?_eq_none.mp hf t ht)
    | some u => simpa using List.find?_some hf
  exact listed_gid this

@[simp] theorem moved_src32 (h : Alone s r) (b : Src) : (s.moved r).src32 r b = s.val32 (s.thread r) b := by
  cases b <;> simp [State.src32, State.val32, h.gid]
@[simp] theorem moved_src64 (h : Alone s r) (b : Src) : (s.moved r).src64 r b = s.val64 (s.thread r) b := by
  cases b <;> simp [State.src64, State.val64, h.gid]
@[simp] theorem moved_srcF (h : Alone s r) (b : Src) : (s.moved r).srcF r b = s.valF (s.thread r) b := by
  cases b <;> simp [State.srcF, State.valF, State.src32, h.gid]
@[simp] theorem moved_srcH (h : Alone s r) (bf : Bool) (b : Src) : (s.moved r).srcH r bf b = s.valH (s.thread r) bf b := by
  cases b <;> simp [State.srcH, State.valH, State.src32, h.gid]

end

end Sys2Proof.Machine
end

