-- ==== Sys2Proof/Laws/Meeting.lean ====
section
/-! SUPPORT. A formed meeting: what the fold over its present threads does to the state, once for every cross-lane instruction. -/

-- One proof after another: many at once would need more memory than the check of the whole package has.
set_option Elab.async false

namespace Sys2Proof.Machine

/-- Changes of different threads' records, one after another, are one change of the list. -/
theorem foldl_upd (F : Ref → Thread → Thread) (hF : ∀ r t, (F r t).key = t.key) (l : List Ref) (hn : l.Nodup) (s : State) :
    l.foldl (fun u r => u.upd r (F r)) s = { s with threads := s.threads.map (fun t => if t.key ∈ l then F t.key t else t) } := by
  induction l generalizing s with
  | nil => simp
  | cons r rs ih =>
    rw [List.nodup_cons] at hn
    rw [List.foldl_cons, ih hn.2]
    simp only [State.upd, List.map_map]
    congr 1
    apply List.map_congr_left
    intro t _
    simp only [Function.comp]
    by_cases hr : t.is r = true
    · have hk : t.key = r := Thread.is_iff_key.mp hr
      simp [hr, hF, hk, hn.1]
    · have hk : t.key ≠ r := fun h => hr (Thread.is_iff_key.mpr h)
      simp [hr, hk]

/-- The step that one present thread makes. -/
def meetStep (old : State) (g : Guard) (c : State → Ref → Thread → Thread) (r : Ref) (t : Thread) : Thread :=
  if guardHolds g (old.thread r) = true then c old r { t with pc := old.bnd.npc, meet := none, formed := none }
  else { t with pc := old.bnd.npc, meet := none, formed := none }

theorem attend_eq {old u : State} {g : Guard} {f : State → Ref → State → State} {c : State → Ref → Thread → Thread} {r : Ref}
    (hb : u.bundle = old.bundle) (hf : ∀ v, f old r v = v.upd r (c old r)) :
    State.attend old g f u r = u.upd r (meetStep old g c r) := by
  have hbn : u.bnd = old.bnd := by simp only [State.bnd, hb]
  unfold State.attend meetStep
  by_cases h : guardHolds g (old.thread r) = true
  · simp only [h, if_true, hf, hbn]
    rw [upd_upd]
    intro t
    rfl
  · simp only [h, hbn]
    rfl

theorem foldl_attend {old : State} {g : Guard} {f : State → Ref → State → State} {c : State → Ref → Thread → Thread}
    (hf : ∀ r v, f old r v = v.upd r (c old r)) (l : List Ref) (u : State) (hb : u.bundle = old.bundle) :
    l.foldl (State.attend old g f) u = l.foldl (fun v r => v.upd r (meetStep old g c r)) u := by
  induction l generalizing u with
  | nil => rfl
  | cons r rs ih =>
    simp only [List.foldl_cons]
    rw [attend_eq hb (hf r), ih _ (by simpa using hb)]

/-- A formed meeting whose effect on each guard-true thread is a change of its record. -/
theorem cross_meets {s : State} {g : Guard} {m : Mask} {f : State → Ref → State → State} {c : State → Ref → Thread → Thread}
    (h : Meeting s) (hf : ∀ r v, f s r v = v.upd r (c s r)) (hc : ∀ r t, (c s r t).key = t.key) :
    s.cross m g f = { s with threads := s.threads.map (s.meetThread g (c s)) } := by
  unfold State.cross
  rw [h.formed]
  show List.foldl _ _ _ = _
  rw [foldl_attend hf _ _ rfl, foldl_upd _ _ _ h.nodup]
  · congr 1
    apply List.map_congr_left
    intro t ht
    have hk : s.thread t.key = t := thread_of_mem h.apart ht
    simp only [State.meetThread, meetStep, hk]
  · intro r t
    unfold meetStep
    split
    · rw [hc]; rfl
    · rfl

/-- The voter of a lane, as the thread that contributes. -/
theorem voterAt_lane (s : State) (g : Guard) (l : Nat) : (s.voterAt g l).map s.thread = s.lane g l := rfl

end Sys2Proof.Machine
end

