-- ==== Sys2Proof/Laws/Memory.lean ====
section
/-! SUPPORT. Every operation over memory keeps its canonical form: addresses strictly rising, and no entry equal to what an unlisted
address reads as. -/

-- One proof after another: many at once would need more memory than the check of the whole package has.
set_option Elab.async false

namespace Sys2Proof.Machine

/-- The canonical form, said of the whole list. -/
theorem wf_iff (m : Memory) : m.wf = true ↔ m.Pairwise (fun a b => a.1 < b.1) ∧ ∀ c ∈ m, c.2 ≠ memDefault := by
  induction m with
  | nil => simp [Memory.wf]
  | cons c m ih =>
    obtain ⟨a, v⟩ := c
    cases m with
    | nil => simp [Memory.wf]
    | cons d m =>
      obtain ⟨b, w⟩ := d
      simp only [Memory.wf, Bool.and_eq_true, decide_eq_true_eq, bne_iff_ne, ih]
      constructor
      · rintro ⟨⟨hv, hab⟩, hp, hd⟩
        refine ⟨List.pairwise_cons.mpr ⟨?_, hp⟩, ?_⟩
        · intro c hc
          rcases List.mem_cons.mp hc with rfl | hc
          · exact hab
          · exact Nat.lt_trans hab ((List.pairwise_cons.mp hp).1 c hc)
        · intro c hc
          rcases List.mem_cons.mp hc with rfl | hc
          · exact hv
          · exact hd c hc
      · rintro ⟨hp, hd⟩
        refine ⟨⟨hd _ List.mem_cons_self, (List.pairwise_cons.mp hp).1 _ List.mem_cons_self⟩, (List.pairwise_cons.mp hp).2, ?_⟩
        exact fun c hc => hd c (List.mem_cons_of_mem _ hc)

theorem wf_nil : Memory.wf [] = true := rfl

/-- What an entry put in leaves in the list: what stood there, and the entry. -/
theorem put_mem {m : Memory} {a : Nat} {v : Byte} {c : Host.Cell} (h : c ∈ Cells.put m a v) : c ∈ m ∨ c = (a, v) := by
  induction m with
  | nil => exact .inr (List.mem_singleton.mp h)
  | cons d m ih =>
    unfold Cells.put at h
    split at h
    · exact (List.mem_cons.mp h).symm
    · split at h
      · exact (List.mem_cons.mp h).symm.imp (List.mem_cons_of_mem _) id
      · rcases List.mem_cons.mp h with h | h
        · exact .inl (h ▸ List.mem_cons_self)
        · exact (ih h).imp (List.mem_cons_of_mem _) id

/-- An entry put in keeps the addresses rising. -/
theorem put_pairwise {m : Memory} (a : Nat) (v : Byte) (h : m.Pairwise (fun a b => a.1 < b.1)) :
    List.Pairwise (fun a b => a.1 < b.1) (Cells.put m a v) := by
  induction m with
  | nil => simp [Cells.put]
  | cons d m ih =>
    obtain ⟨b, w⟩ := d
    have hp := List.pairwise_cons.mp h
    unfold Cells.put
    split
    · refine List.pairwise_cons.mpr ⟨fun c hc => ?_, h⟩
      rcases List.mem_cons.mp hc with rfl | hc
      · assumption
      · exact Nat.lt_trans ‹_› (hp.1 c hc)
    · split
      · subst a
        exact List.pairwise_cons.mpr ⟨hp.1, hp.2⟩
      · refine List.pairwise_cons.mpr ⟨fun c hc => ?_, ih hp.2⟩
        rcases put_mem hc with hc | rfl
        · exact hp.1 c hc
        · show b < a
          omega

/-- Taking entries away keeps the form. -/
theorem filter_wf {m : Memory} (p : Host.Cell → Bool) (h : m.wf = true) : Memory.wf (m.filter p) = true := by
  rw [wf_iff] at h ⊢
  exact ⟨h.1.filter p, fun c hc => h.2 c (List.mem_filter.mp hc).1⟩

/-- Writing one byte keeps the form. -/
theorem write_wf {m : Memory} (a : Nat) (v : Byte) (h : m.wf = true) : (m.write a v).wf = true := by
  have hf := filter_wf (fun c => c.1 != a) h
  unfold Memory.write
  split
  · exact hf
  · rw [wf_iff] at hf ⊢
    refine ⟨put_pairwise a v hf.1, fun c hc => ?_⟩
    rcases put_mem hc with hc | rfl
    · exact hf.2 c hc
    · assumption

/-- What is read where an entry was put in. -/
theorem put_read (m : Memory) (a : Nat) (v : Byte) (x : Nat) : Memory.read (Cells.put m a v) x = if x = a then v else m.read x := by
  induction m with
  | nil => by_cases h : a = x <;> simp [Cells.put, Memory.read, h, eq_comm]
  | cons d m ih =>
    obtain ⟨b, w⟩ := d
    unfold Cells.put
    split
    · simp only [Memory.read, eq_comm]
    · split
      · subst a
        by_cases h : b = x
        · simp [Memory.read, h]
        · have : x ≠ b := fun e => h e.symm
          simp [Memory.read, h, this]
      · by_cases h : b = x
        · have : x ≠ a := by omega
          simp [Memory.read, h, this]
        · simp [Memory.read, h, ih]

/-- What is read where the entries of one address were taken away. -/
theorem filter_read (m : Memory) (a x : Nat) : Memory.read (m.filter (fun c => c.1 != a)) x = if x = a then memDefault else m.read x := by
  induction m with
  | nil => simp [Memory.read]
  | cons d m ih =>
    obtain ⟨b, w⟩ := d
    by_cases hb : b = a
    · by_cases hx : x = a
      · rw [if_pos hx] at ih
        simpa [List.filter, hb, hx] using ih
      · have : a ≠ x := fun h => hx h.symm
        simp [List.filter, hb, hx, ih, Memory.read, this]
    · have e : (b != a) = true := by simpa using hb
      simp only [List.filter, e, Memory.read, ih]
      by_cases hx : b = x
      · have : x ≠ a := fun h => hb (hx.trans h)
        simp [hx, this]
      · simp [hx]

/-- Writing bytes keeps the form. -/
theorem writeN_wf {m : Memory} (a : Nat) (bs : List Byte) (h : m.wf = true) : (m.writeN a bs).wf = true := by
  induction bs generalizing m a with
  | nil => exact h
  | cons v bs ih => exact ih (a + 1) (write_wf a v h)

/-- Clearing a range keeps the form. -/
theorem clear_wf {m : Memory} (a n : Nat) (h : m.wf = true) : (m.clear a n).wf = true := filter_wf _ h

/-- Writes one after another keep the form. -/
theorem foldl_write_wf {m : Memory} (l : List (Nat × Byte)) (h : m.wf = true) : (l.foldl (fun m c => m.write c.1 c.2) m).wf = true := by
  induction l generalizing m with
  | nil => exact h
  | cons c l ih => exact ih (write_wf c.1 c.2 h)

/-- Reset's memory lists nothing. -/
theorem reset_wf : State.reset.mem.wf = true := rfl

/-- A store to a place that only it addresses keeps the form. -/
theorem writeAt_own_wf (s : State) (part core : Nat) (sc : Scope) (loc : Nat) (bs : List Byte) (h : s.mem.wf = true) :
    (s.writeAt part core sc (.own loc) bs).mem.wf = true := writeN_wf loc bs h

/-- The end of a zeroing keeps the form. -/
theorem endZero_wf (s : State) (z : Nat × Nat) (h : s.mem.wf = true) : (s.endZero z).mem.wf = true := filter_wf _ h

/-- Changes one after another, each of which keeps the form, keep it. -/
theorem foldl_wf {α : Type} {f : State → α → State} (hf : ∀ s a, s.mem.wf = true → (f s a).mem.wf = true) (l : List α) (s : State)
    (h : s.mem.wf = true) : (l.foldl f s).mem.wf = true := by
  induction l generalizing s with
  | nil => exact h
  | cons a l ih => exact ih _ (hf s a h)

/-- The end of every zeroing of a page keeps the form. -/
theorem settle_wf (s : State) (pa : Nat) (h : s.mem.wf = true) : (s.settle pa).mem.wf = true := foldl_wf endZero_wf _ s h

/-- A change of the layer division keeps the form. -/
theorem rezone_wf (s : State) (base : Nat) (old new : Word) (h : s.mem.wf = true) : (s.rezone base old new).mem.wf = true :=
  endZero_wf _ _ (endZero_wf _ _ h)

/-- Bytes written at system scope keep the form. -/
theorem writeSys_wf (s : State) (pa : Nat) (bs : List Byte) (h : s.mem.wf = true) : (s.writeSys pa bs).mem.wf = true :=
  writeN_wf pa bs (foldl_wf (fun s k h => settle_wf s (pa + k) h) _ s h)

/-- The use of a way's line is no write. -/
theorem touchWay_mem (s : State) (part pa : Nat) : (s.touchWay part pa).mem = s.mem := by
  unfold State.touchWay
  simp only
  split <;> rfl

/-- The use of a line is no write. -/
theorem touchBelow_mem (s : State) (part pa : Nat) : (s.touchBelow part pa).mem = s.mem := by
  unfold State.touchBelow
  split
  · simp only
    split
    · show (if _ then s else s.touchWay part pa).mem = s.mem
      split
      · rfl
      · exact touchWay_mem s part pa
    · exact touchWay_mem s part pa
  · rfl

/-- A byte that leaves the data caches keeps the form. -/
theorem putBelow_wf (s : State) (part pa : Nat) (v : Byte) (h : s.mem.wf = true) : (s.putBelow part pa v).mem.wf = true := by
  have hu : ((s.settle pa).touchBelow part pa).mem.wf = true := by rw [touchBelow_mem]; exact settle_wf s pa h
  unfold State.putBelow
  generalize (s.settle pa).touchBelow part pa = u at hu
  unfold State.accept State.wakeAt
  simp only
  repeat' split
  all_goals first | exact hu | exact write_wf _ _ hu

end Sys2Proof.Machine
end

