-- ==== Sys2Proof/Tests/Slice0.lean ====
section
/-! SUPPORT. Small tests: words read as the encoding tables write them, refused encodings and ill-formed terms. Every expected value is read
off the spec's tables by hand. -/

-- One proof after another: many at once would need more memory than the check of the whole package has.
set_option Elab.async false

open Sys2Proof Sys2Proof.Machine

namespace Sys2Proof.Tests

/-! ### Decoding: each word written out from its row of the encoding tables (R41, R42) -/

theorem test_decode_control_1 :
  ([
    ([0x41FFFFFE], .braCompact 0xFFFFFE),
    ([0x81FFFFFA, 0x00002300], .bra (.when false 1) (.short 0xFFFFFA)),
    ([0xC1000000, 0x00000180, 0x12345678], .bra .always (.long 0x12345678)),
    ([0x81000609, 0x00007480], .brx (.when true 2) 6 (.g 9)),
    ([0x42000010], .callCompact 0x000010),
    ([0x82010203, 0x00000100], .call .always (.short 0x010203)),
    ([0x82000A03, 0x00004000], .callx .always 10 (.v 3)),
    ([0x82000000, 0x00008000], .ret .always),
    ([0x43FFFFFF], .nopCompact),
    ([0x83000000, 0x00000000], .nop .always none),
    ([0xC3000000, 0x00002380, 0xDEADBEEF], .nop (.when false 1) (some 0xDEADBEEF)),
    ([0x83000000, 0x00004000], .exit .always),
    ([0x83000000, 0x00008000], .yield .always),
    ([0x4303FFFF], .waitCompact 0 63 63 63),
    ([0x830420C4, 0x0000C100], .wait .always 1 2 3 4),
    ([0x83000064, 0x00010100], .sleep .always (.imm 100))] : List (List Word × Instr)).all
    (fun p => decodeWords p.1 == .ok (p.2, p.1.length)) = true := by decide +kernel

theorem test_decode_control_2 :
  ([
    ([0x83000400, 0x00012201], .sleepAbs (.when false 1) 4)] : List (List Word × Instr)).all
    (fun p => decodeWords p.1 == .ok (p.2, p.1.length)) = true := by decide +kernel

theorem test_decode_integer_1 :
  ([
    ([0x44030900], .movCompact 3 9),
    ([0x84070080, 0x00003500], .mov (.when true 2) 7 (.imm 0x80)),
    ([0x843F0008, 0x00000020], .movG .always 63 (.v 8)),
    ([0xC4080000, 0x00004180, 0x89ABCDEF], .movl .always 8 (.lit 0x89ABCDEF)),
    ([0x84050006, 0x00004020], .movlG .always 5 (.v 6)),
    ([0x84040607, 0x05008088], .sel .always true 4 6 (.g 7) 5),
    ([0x45020001], .addCompact 2 0 1),
    ([0x85010203, 0x00000005], .add .always .n true 1 2 (.v 3)),
    ([0x85010203, 0x00004104], .sub .always .i true 1 2 (.imm 3)),
    ([0x85010203, 0x00008001], .min .always .n 1 2 (.v 3)),
    ([0x85010203, 0x0000C000], .max .always .i 1 2 (.v 3)),
    ([0x85040500, 0x00010004], .abs .always true 4 5),
    ([0x46090807], .mulCompact 9 8 7),
    ([0x86090807, 0x00000001], .mul .always .n false 9 8 (.v 7)),
    ([0xC6010000, 0x00004181, 0xCCCCCCCD], .mulhi .always .n 1 0 (.lit 0xCCCCCCCD)),
    ([0x86010203, 0x04008004], .mad .always .i true 1 2 (.v 3) 4)] : List (List Word × Instr)).all
    (fun p => decodeWords p.1 == .ok (p.2, p.1.length)) = true := by decide +kernel

theorem test_decode_integer_2 :
  ([
    ([0x47010203], .andCompact 1 2 3),
    ([0x87010203, 0x00000010], .and .always true false 1 2 (.v 3)),
    ([0x87020406, 0x00004008], .or .always false true 2 4 (.v 6)),
    ([0x87020406, 0x00008018], .xor .always true true 2 4 (.v 6)),
    ([0x48010203], .shlCompact 1 2 3),
    ([0x88020406, 0x00000108], .shl .always true 2 4 (.imm 6)),
    ([0x88010103, 0x00004100], .shr .always false 1 1 (.imm 3)),
    ([0x88010203, 0x00008000], .sar .always false 1 2 (.v 3)),
    ([0x89010203, 0x04000101], .bext .always .n 1 2 (.imm 3) 4),
    ([0x89010203, 0x20004100], .bins .always 1 2 (.imm 3) 32),
    ([0x89010200, 0x00008008], .popc .always true 1 2),
    ([0x89010300, 0x0000C000], .clz .always false 1 3),
    ([0x89040600, 0x00010008], .brev .always true 4 6),
    ([0x8A030406, 0x0000001D], .icmp .always .ge .n true 3 4 (.v 6)),
    ([0x8A0300A8, 0x21004100], .plut .always 3 0 1 2 0xA8),
    ([0x8B020406, 0x00000015], .add64 .always .n true true 2 4 (.v 6))] : List (List Word × Instr)).all
    (fun p => decodeWords p.1 == .ok (p.2, p.1.length)) = true := by decide +kernel

theorem test_decode_integer_3 :
  ([
    ([0x8B020507, 0x04004000], .mad64 .always .i false 2 5 (.v 7) 4),
    ([0x8B020409, 0x00008071], .lea .always .n 7 2 4 (.v 9))] : List (List Word × Instr)).all
    (fun p => decodeWords p.1 == .ok (p.2, p.1.length)) = true := by decide +kernel

theorem test_decode_float_1 :
  ([
    ([0x4C020001], .faddCompact 2 0 1),
    ([0x8C020001, 0x00000001], .fadd .always ⟨.rtz, false, false, false, false, false⟩ 2 0 (.v 1)),
    ([0x8C010203, 0x00004004], .fmin .always ⟨.rne, true, false, false, false, false⟩ 1 2 (.v 3)),
    ([0x8C010203, 0x00008108], .fmax .always ⟨.rne, false, true, false, false, false⟩ 1 2 (.imm 3)),
    ([0x4D050304], .fmulCompact 5 3 4),
    ([0x8D010203, 0x00000092], .fmul .always ⟨.rup, false, false, true, false, false⟩ 1 2 (.g 3)),
    ([0x8D010203, 0x0000410B], .fscl .always ⟨.rdn, false, true, false, false, false⟩ 1 2 (.imm 3)),
    ([0x4E010203], .fmaCompact 1 2 3),
    ([0x8E040102, 0x03000002], .fma .always ⟨.rup, false, false, false, false, false⟩ 4 1 (.v 2) 3),
    ([0x8F020304, 0x0000000F], .fcmp .always .ord true 2 3 (.v 4)),
    ([0x8F030400, 0x00004000], .fcls .always 3 4),
    ([0x8F010200, 0x0000800D], .frint .always ⟨.rtz, true, true, false, false, false⟩ 1 2),
    ([0x90010203, 0x00000040], .h2add .always ⟨.rne, false, false, false, false, true⟩ 1 2 (.v 3)),
    ([0x90010203, 0x0000400B], .h2mul .always ⟨.rdn, false, true, false, false, false⟩ 1 2 (.v 3)),
    ([0x50010203], .h2fmaCompact 1 2 3),
    ([0x90060607, 0x06008040], .h2fma .always ⟨.rne, false, false, false, false, true⟩ 6 6 (.v 7) 6)] : List (List Word × Instr)).all
    (fun p => decodeWords p.1 == .ok (p.2, p.1.length)) = true := by decide +kernel

theorem test_decode_float_2 :
  ([
    ([0x91010203, 0x00000010], .h2min .always ⟨.rne, false, false, true, false, false⟩ 1 2 (.v 3)),
    ([0x91010203, 0x00004044], .h2max .always ⟨.rne, true, false, false, false, true⟩ 1 2 (.v 3)),
    ([0x92010200, 0x00000004], .rcp .always ⟨.rne, true, false, false, false, false⟩ 1 2),
    ([0x92010200, 0x00004008], .rsqrt .always ⟨.rne, false, true, false, false, false⟩ 1 2),
    ([0x92010200, 0x00008002], .sqrt .always ⟨.rup, false, false, false, false, false⟩ 1 2),
    ([0x92010000, 0x0000C000], .exp2 .always ⟨.rne, false, false, false, false, false⟩ 1 0),
    ([0x92010200, 0x00010000], .log2 .always ⟨.rne, false, false, false, false, false⟩ 1 2),
    ([0x93010200, 0x00000000], .sin .always ⟨.rne, false, false, false, false, false⟩ 1 2),
    ([0x93010200, 0x00004000], .cos .always ⟨.rne, false, false, false, false, false⟩ 1 2),
    ([0x93010200, 0x00008000], .tanh .always ⟨.rne, false, false, false, false, false⟩ 1 2),
    ([0x93010203, 0x0000C013], .fdiv .always ⟨.rdn, false, false, true, false, false⟩ 1 2 (.v 3))] : List (List Word × Instr)).all
    (fun p => decodeWords p.1 == .ok (p.2, p.1.length)) = true := by decide +kernel

theorem test_decode_narrow :
  ([
    ([0x94030000, 0x0000001C], .cvt .always .e2m1 .f32 .rne false false 3 0),
    ([0x94040500, 0x61000031], .cvt .always .i64 .f16 .rtz true true 4 5),
    ([0x94030105, 0x20004090], .cvts .always .e4m3 .f32 true false 3 1 (.g 5)),
    ([0x95010207, 0x00000108], .pack .always .i4 1 2 (.imm 7)),
    ([0x95010203, 0x00004028], .unpk .always .i4 true 1 2 (.v 3)),
    ([0x95010200, 0x00008023], .qblk .always .e5m2 true 1 2),
    ([0x96010203, 0x04000008], .dot4 .always .e2m1 .i4 false 1 2 (.v 3) 4),
    ([0x96010203, 0x0400406C], .dot8 .always .i8 .n8 true 1 2 (.v 3) 4),
    ([0x96010203, 0x04008046], .dot2h .always ⟨.rup, true, false, false, false, true⟩ 1 2 (.v 3) 4),
    ([0x97010200, 0x1F000000], .obres .always 1 2 31),
    ([0x97010000, 0x1E004000], .obrel .always 1 30),
    ([0x97000204, 0x03008100], .obwr .always 2 (.imm 4) 3),
    ([0x97010002, 0x0300C000], .obrd .always 1 (.v 2) 3)] : List (List Word × Instr)).all
    (fun p => decodeWords p.1 == .ok (p.2, p.1.length)) = true := by decide +kernel

theorem test_decode_crossLane :
  ([
    ([0x98020403, 0x06000016], .lxch .always .down true true (.pair 6) 2 4 (.v 3)),
    ([0x98010200, 0x00004008], .lvoteAny .always .full 1 2),
    ([0x98010200, 0x00004009], .lvoteAll .always .full 1 2),
    ([0x98040200, 0x08004002], .lvoteBal .always (.pair 8) 4 2),
    ([0x98020400, 0x00008018], .lmatch .always true .full 2 4),
    ([0x98030000, 0x0000C008], .lelect .always .full 3),
    ([0x99040200, 0x00000028], .lred .always .add .f32 .full 4 2),
    ([0x99040500, 0x02004052], .lscan .always .max .n32 true (.pair 2) 4 5)] : List (List Word × Instr)).all
    (fun p => decodeWords p.1 == .ok (p.2, p.1.length)) = true := by decide +kernel

theorem test_decode_memory :
  ([
    ([0x5A030102], .ldCompact 3 1 2),
    ([0x9A040802, 0x4600002C], .ld .always .glob .b64 false (.sync .dev) 4 8 (.v 2)),
    ([0x9A0408FF, 0x00000149], .ld .always .core .s8 true .plain 4 8 (.imm 0xFF)),
    ([0x9A060205, 0x00004080], .ldt .always .plain 6 2 (.g 5)),
    ([0x5B030102], .stCompact 3 1 2),
    ([0x9B040810, 0x45000133], .st .always .chip .b128 false (.sync .die) 4 8 (.imm 16)),
    ([0x9B060205, 0x44004080], .stt .always (.sync .clu) 6 2 (.g 5)),
    ([0x9C010203, 0x00000103], .ldf .always true true false 1 2 (.imm 3)),
    ([0x9C010203, 0x00004140], .ste .always false true 1 2 (.imm 3)),
    ([0x9D000204, 0xFF000103], .tags .always true true false 2 (.imm 4) 255),
    ([0x9D010203, 0x00004000], .tagq .always false false 1 2 (.v 3)),
    ([0x9D000200, 0x07008102], .pref .always .lay false 2 (.imm 0) 7)] : List (List Word × Instr)).all
    (fun p => decodeWords p.1 == .ok (p.2, p.1.length)) = true := by decide +kernel

theorem test_decode_caches :
  ([
    ([0x9E000208, 0x00002201], .cwb (.when false 1) .lay 2 (.v 8)),
    ([0x9E000203, 0x00004002], .cinv .always .mem 2 (.v 3)),
    ([0x9E000203, 0x00008000], .cwbi .always .l2 2 (.v 3)),
    ([0x9E000203, 0x0000C006], .iinv .always .dev 2 (.v 3)),
    ([0x9E000000, 0x00010000], .fbar .always),
    ([0x9F010C00, 0x00002200], .domset (.when false 1) 1 12),
    ([0x9F010200, 0x00004000], .laydivw .always 1 2),
    ([0x9F000400, 0x00008000], .tlbinv .always 4),
    ([0x9F000000, 0x00008001], .tlbinvAll .always),
    ([0x9F010204, 0x0700C000], .pgmap .always 1 2 4 7),
    ([0x9F010200, 0x00010000], .pgunmap .always 1 2),
    ([0x9F020400, 0x00014000], .pgqPte .always 2 4),
    ([0x9F020400, 0x00014001], .pgqZero .always 2 4),
    ([0x9F020000, 0x00014002], .pgqRoot .always 2)] : List (List Word × Instr)).all
    (fun p => decodeWords p.1 == .ok (p.2, p.1.length)) = true := by decide +kernel

theorem test_decode_streams :
  ([
    ([0xA0090403, 0x06000025], .cpy .always .obuf .glob .dev 9 4 (.v 3)),
    ([0xA03F0102, 0x04004000], .cpyt .always .clu 63 1 (.v 2)),
    ([0xA1010203, 0x09000003], .sebind .always false .cor false 9 1 2 (.v 3)),
    ([0xA1010203, 0x49000013], .sebind .always true .cor true 9 1 2 (.v 3)),
    ([0xA1040000, 0x40004000], .sefree .always true 4),
    ([0xA1050004, 0x00008000], .slotw .always false 5 (.v 4)),
    ([0xA1000004, 0x4000C000], .slotrel .always true (.v 4)),
    ([0xA2020007, 0x00000101], .tagwait .always true 2 (.imm 7)),
    ([0xA2020007, 0x00004080], .tagff .always false 2 (.g 7)),
    ([0xA2000006, 0x00008000], .tagclr .always (.v 6)),
    ([0xA2010204, 0x0000C110], .lockqAddr .always .glob 1 2 (.imm 4)),
    ([0xA2010000, 0x0000C001], .lockqFree .always 1),
    ([0xA2020004, 0x0000C002], .lockqErr .always 2 (.v 4))] : List (List Word × Instr)).all
    (fun p => decodeWords p.1 == .ok (p.2, p.1.length)) = true := by decide +kernel

theorem test_decode_atomics :
  ([
    ([0xA3040801, 0x06000004], .atom .always .add .glob ⟨.relaxed, false, false, .dev⟩ 4 8 (.v 1)),
    ([0xA3040802, 0xE3000049], .atom .always .incw .core ⟨.ar, true, false, .cor⟩ 4 8 (.v 2)),
    ([0xA3040802, 0x56004004], .cas .always .glob ⟨.acq, false, true, .dev⟩ 4 8 (.v 2)),
    ([0xA4040802, 0x04000022], .atomf .always .addBf16 .cmem ⟨.relaxed, false, false, .clu⟩ 4 8 (.v 2)),
    ([0xA4000802, 0x85004053], .red .always (.flt .maxF32) .chip ⟨.rel, false, false, .die⟩ 8 (.v 2)),
    ([0xA4000802, 0x8500403B], .red .always (.int .xor) .chip ⟨.rel, false, false, .die⟩ 8 (.v 2)),
    ([0xA5030004, 0x0F000101], .binit .always true 15 3 (.imm 4)),
    ([0xA5090000, 0x01004000], .barv .always false 1 9),
    ([0xA5000900, 0x01008000], .bwait .always false 1 9),
    ([0xA5000000, 0x3F00C000], .bsync .always false 63),
    ([0xA5050000, 0x02010001], .bqry .always true 2 5)] : List (List Word × Instr)).all
    (fun p => decodeWords p.1 == .ok (p.2, p.1.length)) = true := by decide +kernel

theorem test_decode_fences :
  ([
    ([0xA6000000, 0x00000036], .fence .always .sc .dev),
    ([0xA6000000, 0x00004000], .lfence .always),
    ([0xA600004D, 0x0F004101], .lfenceArray .always (.imm 77) 0xF),
    ([0xA6000000, 0x00008016], .efence .always true .dev)] : List (List Word × Instr)).all
    (fun p => decodeWords p.1 == .ok (p.2, p.1.length)) = true := by decide +kernel

theorem test_decode_matrix_1 :
  ([
    ([0xA7010404, 0x00000100], .mxrun .always 1 4 (.imm 4)),
    ([0xA7020000, 0x00004000], .mxq .always 2),
    ([0xE8DEBC02, 0x04000181, 0x002BF149], .mldw ⟨9, 5, 0x3F⟩ true .e4m3 .bs16 .b64 0x02BCDE),
    ([0xE8DEBC2A, 0x04000180, 0x002BF149], .mldw ⟨9, 5, 0x3F⟩ false .e4m3 .bs16 .b64 0x2ABCDE),
    ([0xE8000000, 0x00004180, 0x0003FFC3], .mswap ⟨3, 0x3F, 0x3F⟩),
    ([0xE9000000, 0x02000181, 0x003FFFC5], .mstr ⟨5, 0x3F, 0x3F⟩ true 0 2 0 15),
    ([0xE9400203, 0x01000180, 0x003C2047], .mstr ⟨7, 1, 2⟩ false 0x40 1 0x0302 15),
    ([0xEA7F0000, 0x00000180, 0x0FFFFFC1], .mzero ⟨1, 0x3F, 0x3F⟩ 127 1023),
    ([0xEA01FE07, 0x00004180, 0x0027FFC1], .maccld ⟨1, 0x3F, 0x3F⟩ 1 0x7FE 9),
    ([0xEA010201, 0x00008180, 0x0027FFC1], .maccst ⟨1, 0x3F, 0x3F⟩ 1 0x102 9),
    ([0xEB020102, 0x670001E3, 0x0027FFC1], .mepi ⟨1, 0x3F, 0x3F⟩ .tanh 2 99 7 0x0201 9),
    ([0xEC000000, 0x02000180, 0x0003F209], .mbar ⟨9, 8, 0x3F⟩ false 2),
    ([0xEC000000, 0x03004181, 0x0003FFC9], .mwaitb ⟨9, 0x3F, 0x3F⟩ true 3),
    ([0xEC000000, 0x00008180, 0x0003FFFE], .mend ⟨62, 0x3F, 0x3F⟩),
    ([0xED000000, 0x01000182, 0x0103FFC1], .mlad ⟨1, 0x3F, 0x3F⟩ 0 0 0 1 2 0x40),
    ([0xED030405, 0x01000182, 0x0103FFC1], .mlad ⟨1, 0x3F, 0x3F⟩ 3 4 5 1 2 0x40),
    ([0xAD040000, 0x02004000], .ladcnt .always 4 2)] : List (List Word × Instr)).all
    (fun p => decodeWords p.1 == .ok (p.2, p.1.length)) = true := by decide +kernel

/-- With `.bank`, offset bits [21:19] are zero. -/
theorem test_decode_refuses_mldw : (decodeWords [0xE8DEBC0A, 0x04000181, 0x002BF149]).toOption = none := by decide +kernel

theorem test_decode_matrix_2 :
  ([
    ([0xAD00001F, 0x00008100], .ladclr .always (.imm 0x1F)),
    ([0xAE030102, 0x0A000000], .scan .always false (some 2) 0 3 1 (.v 2)),
    ([0xAE030102, 0x70000004], .scan .always true none 7 3 1 (.v 2)),
    ([0xAE060000, 0x30004000], .carryGet .always 3 6),
    ([0xAE000006, 0x30004001], .carrySet .always 3 (.v 6)),
    ([0xAE040203, 0x00008004], .stepk .always true 4 2 (.v 3)),
    ([0xEE010203, 0x0400C181, 0x00FFFFC6], .mscan ⟨6, 0x3F, 0x3F⟩ true 1 2 3 4 63)] : List (List Word × Instr)).all
    (fun p => decodeWords p.1 == .ok (p.2, p.1.length)) = true := by decide +kernel

theorem test_decode_sampling :
  ([
    ([0xAF000102, 0x00000001], .priow .always .mot 1 (.v 2)),
    ([0xAF000004, 0x00000003], .priowWt .always (.v 4)),
    ([0xAF010200, 0x00004004], .prior .always .acc 1 2),
    ([0xAF040000, 0x06008000], .sepq .always 6 4),
    ([0xAF040000, 0x0000C000], .sposPos .always 4),
    ([0xAF050000, 0x0000C001], .sposRow .always 5),
    ([0xB0001000, 0x00000000], .vput .always 16),
    ([0xB0000800, 0x00000001], .vputOvl .always 8),
    ([0xB0001404, 0x03004100], .vget .always 3 20 (.imm 4)),
    ([0xB0040500, 0x00008000], .vqry .always 4 5),
    ([0xB0040000, 0x00008001], .vqryCfg .always 4),
    ([0xB1050001, 0x00000100], .rowdlRow .always 5 (.imm 1)),
    ([0xB1040005, 0x00000001], .rowdlTime .always 4 (.v 5)),
    ([0xB1010203, 0x00004003], .rowput .always .chip 1 2 (.v 3))] : List (List Word × Instr)).all
    (fun p => decodeWords p.1 == .ok (p.2, p.1.length)) = true := by decide +kernel

theorem test_decode_nodes :
  ([
    ([0xB2010200, 0x03000000], .probeOpen .always 3 1 2),
    ([0xB2000800, 0x01004000], .probeTri .always 1 8),
    ([0xB2050000, 0x02008000], .probeEnd .always 2 5),
    ([0xB2040300, 0x0200C000], .probeSmp .always 2 4 3),
    ([0xB3000800, 0x01000001], .curve .always .quad 1 8),
    ([0xB3020300, 0x0F004000], .pathendOpen .always 15 2 3),
    ([0xB3020000, 0x01004001], .pathendNz .always 1 2),
    ([0xB3020000, 0x01004002], .pathendEo .always 1 2),
    ([0xB3050300, 0x01008000], .cvg .always false 1 5 3),
    ([0xB3050300, 0x01008001], .cvg .always true 1 5 3),
    ([0xB4001004, 0x00000080], .trace .always false false 16 (.g 4)),
    ([0xB4001004, 0x00000003], .trace .always true true 16 (.v 4)),
    ([0xB4140000, 0x00004000], .hitr .always 20),
    ([0xB4150000, 0x00004001], .hitrSt .always 21)] : List (List Word × Instr)).all
    (fun p => decodeWords p.1 == .ok (p.2, p.1.length)) = true := by decide +kernel

theorem test_decode_dispatch_1 :
  ([
    ([0xB5010002, 0x03000001], .mbwait .always true 3 1 (.v 2)),
    ([0xB5020405, 0x00004000], .mbtake .always 2 4 (.v 5)),
    ([0xB5011003, 0x00008101], .mbpost .always true 1 16 (.imm 3)),
    ([0xB5020000, 0x0000C000], .jnlSeq .always 2),
    ([0xB5010203, 0x0000C001], .jnlFail .always 1 2 (.v 3)),
    ([0xB6020400, 0x00000100], .launch .always 2 4 (.imm 0)),
    ([0xB6010204, 0x00004000], .sliceDl .always 1 2 (.v 4)),
    ([0xB6010200, 0x00004001], .sliceKill .always 1 2),
    ([0xB6010203, 0x00008000], .nodegoCfg .always 1 2 (.v 3)),
    ([0xB6010200, 0x00008001], .nodegoFlush .always 1 2),
    ([0xB6040200, 0x00008002], .nodegoQ .always 4 2),
    ([0xB6010200, 0x00008003], .nodegoOff .always 1 2),
    ([0xB6040200, 0x0000C000], .admitqEnergy .always 4 2),
    ([0xB6040200, 0x0000C001], .admitqTherm .always 4 2),
    ([0xB6040200, 0x0000C002], .admitqAct .always 4 2),
    ([0xB6040200, 0x0000C003], .admitqGate .always 4 2)] : List (List Word × Instr)).all
    (fun p => decodeWords p.1 == .ok (p.2, p.1.length)) = true := by decide +kernel

theorem test_decode_dispatch_2 :
  ([
    ([0xB6040200, 0x0000C004], .admitqQueue .always 4 2),
    ([0xB7010200, 0x00000000], .recalloc .always 1 2),
    ([0xB7000102, 0x00004000], .recemit .always 1 (.v 2)),
    ([0xB7010003, 0x00008100], .recrd .always 1 (.imm 3)),
    ([0xB7000000, 0x0000C000], .recfin .always)] : List (List Word × Instr)).all
    (fun p => decodeWords p.1 == .ok (p.2, p.1.length)) = true := by decide +kernel

theorem test_decode_system :
  ([
    ([0x78281300], .srdCompact 0x28 0x13),
    ([0xB8041B00, 0x00000000], .srd .always 4 0x1B),
    ([0xB8001408, 0x00004000], .swr .always 0x14 (.v 8)),
    ([0xB9000000, 0x03000000], .trap .always 3),
    ([0xB9000000, 0x00004000], .tret .always),
    ([0xB9000028, 0x00008000], .cclr .always (.v 40)),
    ([0xB9020005, 0x0000C080], .tmaskOr .always 2 (.g 5)),
    ([0xB9020004, 0x0000C001], .tmaskAndn .always 2 (.v 4)),
    ([0xB9020004, 0x0000C002], .tmaskWr .always 2 (.v 4)),
    ([0xB9000000, 0x00010000], .bkpt .always),
    ([0xBA010203, 0x00000000], .preempt .always 1 2 (.v 3)),
    ([0xBA010203, 0x00004000], .ctxsv .always 1 2 (.v 3)),
    ([0xBA010203, 0x00008000], .ctxld .always 1 2 (.v 3)),
    ([0xBB020000, 0x01000000], .haltq .always 1 2)] : List (List Word × Instr)).all
    (fun p => decodeWords p.1 == .ok (p.2, p.1.length)) = true := by decide +kernel

/-! ### Words that no row admits (R48) -/

theorem test_refused_words :
  ([
    [0x00000000], [0x3FFFFFFF], [0x80000000, 0], [0xC0000000, 0, 0],          -- no length 0; MAJ 0 is no row
    [0x4E000000 + 0x01000000], [0x7F000000], [0xBC000000, 0],                  -- MAJ without a 32-bit form, MAJ 0x3F, MAJ 0x3C
    [0x85000000, 0x00000008], [0x85000000, 0x00014000], [0x85000000, 0x01000000], -- ADD: a reserved MOD bit, MIN 5, C
    [0x85000000, 0x00000980], [0xC5000000, 0x00000000, 0],                      -- BK 0b11 in 64 bits, BK 0b00 in 96
    [0x8A000000, 0x00000006], [0x8A000000, 0x00000060], [0x8A080000, 0x00000000], -- ICMP: condition 6, MOD[6:5], D[3]
    [0x8C000000, 0x00000020], [0x8D000000, 0x00004010], [0x92000000, 0x00000001], -- FADD .nc, FSCL .nb, RCP with rm
    [0x98000000, 0x00004003], [0x99000000, 0x00000006], [0x99000000, 0x00000038], -- LVOTE kind 3, LRED op 6, LRED type 3
    [0x9A000000, 0x00000005], [0x9A000000, 0x00000039], [0x9B000000, 0x00000009], -- LD space 5, LD size 7, ST .s8
    [0x9A000000, 0x01000000], [0xA3000000, 0x06000000], [0xA4000000, 0x06000044], -- LD C with kind 0, ATOM .lane, ATOMF op 8
    [0xA5000000, 0x40000000], [0xA6000000, 0x00000000], [0xA7000000, 0x00008000], -- BINIT C[7:6], FENCE scope 0, MIN 2 of 0x27
    [0xE8000000, 0x00000180, 0x0003FFFF], [0xE8000000, 0x00000100, 0x0003FFC0],   -- a command of identifier 63; BK of a command
    [0xAD000000, 0x05004000], [0xAF000000, 0x00004005], [0xB1000000, 0x00004000], -- LADCNT 5, PRIOR 5, ROWPUT space 0
    [0xB3000000, 0x00000003], [0xB6000000, 0x0000C005], [0xB8000E00, 0x00000000], -- CURVE 3, ADMITQ 5, SRD 0x0E
    [0xB9000000, 0x00014000], [0xBB000000, 0x05000000], [0x9F000000, 0x00016200]] -- MIN 5 of 0x39, HALTQ 5; the last is PGQ under p1
    : List (List Word)).map (fun ws => (decodeWords ws).isOk) =
  List.replicate 40 false ++ [true] := by decide +kernel

/-! ### Ill-formed terms: one for each check -/

theorem test_illformed_control :
  ([
    .brx .always 5 (.imm 0),
    .callx .always 5 (.imm 0),
    .waitCompact 63 63 63 63,
    .sleepAbs .always 3] : List Instr).all (fun i => !i.wellFormed) = true := by decide +kernel

theorem test_illformed_integer :
  ([
    .movl .always 3 (.imm 0),
    .movl .always 2 (.v 3),
    .movlG .always 3 (.v 5),
    .sel .always true 3 2 (.imm 0) 0,
    .and .always false true 2 3 (.imm 0),
    .or .always false true 2 2 (.v 3),
    .xor .always false true 3 2 (.imm 0),
    .shl .always true 3 2 (.imm 0),
    .shr .always true 2 3 (.imm 0),
    .sar .always true 3 2 (.imm 0),
    .bext .always .i 1 2 (.imm 0) 0,
    .bext .always .i 1 2 (.imm 0) 33,
    .bins .always 1 2 (.imm 0) 0,
    .popc .always true 1 3,
    .clz .always true 1 3,
    .brev .always true 1 2,
    .icmp .always .eq .i true 0 3 (.imm 0),
    .icmp .always .eq .i true 0 2 (.v 3),
    .add64 .always .i false false 3 2 (.imm 0),
    .mad64 .always .i false 2 3 (.imm 0) 5,
    .lea .always .i 0 2 3 (.imm 0)] : List Instr).all (fun i => !i.wellFormed) = true := by decide +kernel

theorem test_illformed_float :
  ([
    .fadd .always ⟨.rne, false, false, false, true, false⟩ 1 2 (.v 3),
    .fmul .always ⟨.rne, false, false, false, false, true⟩ 1 2 (.v 3),
    .fdiv .always ⟨.rne, false, false, false, true, false⟩ 1 2 (.v 3),
    .fmin .always ⟨.rtz, false, false, false, false, false⟩ 1 2 (.v 3),
    .fmax .always ⟨.rtz, false, false, false, false, false⟩ 1 2 (.v 3),
    .fscl .always ⟨.rne, false, false, true, false, false⟩ 1 2 (.v 3),
    .fma .always ⟨.rne, false, false, false, false, true⟩ 1 2 (.v 3) 4,
    .frint .always ⟨.rne, false, false, true, false, false⟩ 1 2,
    .sqrt .always ⟨.rne, false, false, true, false, false⟩ 1 2,
    .h2add .always ⟨.rne, false, false, false, true, false⟩ 1 2 (.v 3),
    .h2mul .always ⟨.rne, false, false, false, true, false⟩ 1 2 (.v 3),
    .h2min .always ⟨.rtz, false, false, false, false, false⟩ 1 2 (.v 3),
    .h2max .always ⟨.rne, false, false, false, true, false⟩ 1 2 (.v 3),
    .rcp .always ⟨.rtz, false, false, false, false, false⟩ 1 2,
    .rsqrt .always ⟨.rtz, false, false, false, false, false⟩ 1 2,
    .exp2 .always ⟨.rtz, false, false, false, false, false⟩ 1 2,
    .log2 .always ⟨.rtz, false, false, false, false, false⟩ 1 2,
    .sin .always ⟨.rtz, false, false, false, false, false⟩ 1 2,
    .cos .always ⟨.rtz, false, false, false, false, false⟩ 1 2,
    .tanh .always ⟨.rtz, false, false, false, false, false⟩ 1 2] : List Instr).all (fun i => !i.wellFormed) = true := by decide +kernel

theorem test_illformed_narrow :
  ([
    .cvt .always .i64 .f32 .rne false false 3 2,
    .cvt .always .f32 .i64 .rne false false 2 3,
    .cvts .always .n64 .f32 false false 3 2 (.imm 0),
    .pack .always .f32 1 2 (.imm 0),
    .unpk .always .i32 false 1 2 (.imm 0),
    .unpk .always .f16 true 1 2 (.imm 0),
    .qblk .always .f16 false 1 2,
    .dot4 .always .e2m1 .i4 true 1 2 (.v 3) 4,
    .dot8 .always .i8 .e4m3 true 1 2 (.v 3) 4,
    .dot2h .always ⟨.rne, false, true, false, false, false⟩ 1 2 (.v 3) 4] : List Instr).all (fun i => !i.wellFormed) = true := by decide +kernel

theorem test_illformed_crossLane :
  ([
    .lxch .always .idx false false (.pair 3) 1 2 (.imm 0),
    .lxch .always .idx false true .full 3 2 (.imm 0),
    .lvoteAny .always (.pair 3) 1 2,
    .lvoteAll .always (.pair 3) 1 2,
    .lelect .always (.pair 3) 1,
    .lvoteBal .always .full 3 2,
    .lmatch .always true .full 2 3,
    .lred .always .xor .f32 .full 1 2,
    .lscan .always .and .f32 false .full 1 2] : List Instr).all (fun i => !i.wellFormed) = true := by decide +kernel

theorem test_illformed_memory :
  ([
    .ld .always .core .b32 true .plain 1 2 (.v 3),
    .ld .always .glob .b32 false .plain 1 3 (.imm 0),
    .ld .always .core .b64 false .plain 1 2 (.imm 0),
    .ld .always .core .b128 false .plain 2 2 (.imm 0),
    .ld .always .core .b32 false (.sync .dsp) 1 2 (.imm 0),
    .ld .always .core .b32 false (.rmt .clu) 1 2 (.imm 0),
    .ldt .always .plain 1 2 (.imm 0),
    .st .always .core .s8 false .plain 1 2 (.imm 0),
    .st .always .core .s16 false .plain 1 2 (.imm 0),
    .st .always .core .b32 false (.rmt .dev) 1 2 (.imm 0),
    .stt .always (.sync .dsp) 1 2 (.v 3),
    .stt .always .plain 1 2 (.imm 0),
    .ldf .always false false true 1 2 (.v 3),
    .ste .always false true 1 2 (.g 3),
    .tags .always false true true 2 (.v 3) 0,
    .tagq .always false true 1 2 (.v 3),
    .pref .always .dc true 2 (.v 3) 0,
    .pref .always .dc false 3 (.imm 0) 0] : List Instr).all (fun i => !i.wellFormed) = true := by decide +kernel

theorem test_illformed_caches :
  ([
    .cwb .always .l2 3 (.imm 0),
    .cinv .always .l2 3 (.imm 0),
    .cwbi .always .l2 3 (.imm 0),
    .iinv .always .cor 3 (.imm 0),
    .iinv .always .grp 2 (.imm 0),
    .iinv .always .sys 2 (.imm 0),
    .tlbinv .always 3,
    .pgmap .always 1 3 2 4,
    .pgmap .always 1 2 3 4,
    .pgunmap .always 1 3,
    .pgqPte .always 3 2,
    .pgqZero .always 2 3,
    .pgqRoot .always 3] : List Instr).all (fun i => !i.wellFormed) = true := by decide +kernel

theorem test_illformed_streams :
  ([
    .cpy .always .core .glob .dev 0 2 (.imm 0),
    .cpy .always .core .glob .wav 0 4 (.imm 0),
    .cpyt .always .dsp 0 1 (.v 2),
    .cpyt .always .dev 0 1 (.imm 2),
    .sebind .always false .thr false 0 1 2 (.v 3),
    .sebind .always false .dev false 0 1 2 (.imm 3),
    .tagwait .always false 3 (.imm 1),
    .tagff .always false 1 (.v 3),
    .tagclr .always (.v 3),
    .lockqAddr .always .glob 1 3 (.imm 0),
    .lockqErr .always 3 (.imm 0)] : List Instr).all (fun i => !i.wellFormed) = true := by decide +kernel

theorem test_illformed_atomics :
  ([
    .atom .always .add .lane ⟨.relaxed, false, false, .dev⟩ 1 2 (.v 3),
    .atom .always .add .core ⟨.relaxed, false, false, .dev⟩ 1 2 (.v 3),
    .atom .always .add .glob ⟨.relaxed, false, false, .dev⟩ 1 3 (.v 3),
    .atom .always .add .glob ⟨.relaxed, true, false, .dev⟩ 1 2 (.v 4),
    .atom .always .add .glob ⟨.relaxed, false, true, .dev⟩ 1 2 (.v 4),
    .cas .always .glob ⟨.relaxed, true, false, .dev⟩ 2 2 (.v 3),
    .atomf .always .addF32 .glob ⟨.relaxed, true, false, .dev⟩ 2 2 (.v 4),
    .red .always (.int .exch) .glob ⟨.relaxed, false, false, .dev⟩ 2 (.v 3),
    .red .always (.int .incw) .glob ⟨.relaxed, false, false, .dev⟩ 2 (.v 3),
    .red .always (.flt .addF32) .glob ⟨.relaxed, true, false, .dev⟩ 2 (.v 4),
    .red .always (.int .add) .glob ⟨.acq, false, false, .dev⟩ 2 (.v 4),
    .binit .always true 16 1 (.imm 0),
    .barv .always true 16 1,
    .bwait .always true 16 1,
    .bsync .always true 16,
    .bqry .always true 16 1] : List Instr).all (fun i => !i.wellFormed) = true := by decide +kernel

theorem test_illformed_fences :
  ([
    .fence .always .sc .thr,
    .efence .always false .wav,
    .efence .always false .dsp] : List Instr).all (fun i => !i.wellFormed) = true := by decide +kernel

theorem test_illformed_matrix :
  ([
    .mxrun .always 1 3 (.imm 0),
    .mldw ⟨63, 0x3F, 0x3F⟩ false .f16 .none .b16 0,
    .mldw ⟨1, 0x3F, 0x3F⟩ false .f32 .none .b16 0,
    .mldw ⟨1, 0x3F, 0x3F⟩ true .e4m3 .none .b16 0x80000,
    .mswap ⟨63, 0x3F, 0x3F⟩,
    .mstr ⟨63, 0x3F, 0x3F⟩ false 0 0 0 0,
    .mzero ⟨63, 0x3F, 0x3F⟩ 0 0,
    .maccld ⟨63, 0x3F, 0x3F⟩ 0 0 0,
    .maccst ⟨63, 0x3F, 0x3F⟩ 0 0 0,
    .mepi ⟨63, 0x3F, 0x3F⟩ .id 0 0 0 0 0,
    .mbar ⟨63, 0x3F, 0x3F⟩ false 0,
    .mwaitb ⟨63, 0x3F, 0x3F⟩ false 0,
    .mend ⟨63, 0x3F, 0x3F⟩,
    .mlad ⟨63, 0x3F, 0x3F⟩ 0 0 0 0 0 0,
    .ladcnt .always 3 0,
    .ladcnt .always 2 5,
    .stepk .always false 3 1 (.v 2),
    .mscan ⟨63, 0x3F, 0x3F⟩ false 0 0 0 0 0] : List Instr).all (fun i => !i.wellFormed) = true := by decide +kernel

theorem test_illformed_sampling :
  ([
    .priowWt .always (.v 3),
    .sepq .always 0 3,
    .sposPos .always 3,
    .vput .always 4,
    .vputOvl .always 4,
    .vget .always 0 2 (.imm 1),
    .vqry .always 3 1,
    .vqryCfg .always 3,
    .rowdlTime .always 3 (.v 1),
    .rowput .always .glob 1 3 (.v 2)] : List Instr).all (fun i => !i.wellFormed) = true := by decide +kernel

theorem test_illformed_nodes :
  ([
    .probeTri .always 0 4,
    .probeSmp .always 0 2 1,
    .curve .always .line 0 4,
    .trace .always false false 4 (.v 2),
    .trace .always false false 8 (.v 3),
    .trace .always false false 8 (.imm 3),
    .hitr .always 2] : List Instr).all (fun i => !i.wellFormed) = true := by decide +kernel

theorem test_illformed_dispatch :
  ([
    .mbwait .always false 0 1 (.v 3),
    .mbtake .always 3 1 (.v 2),
    .mbpost .always false 1 8 (.imm 0),
    .jnlSeq .always 3,
    .launch .always 3 2 (.imm 0),
    .launch .always 2 3 (.imm 0),
    .sliceDl .always 1 2 (.v 3),
    .nodegoQ .always 3 1,
    .admitqEnergy .always 3 1,
    .admitqTherm .always 3 1,
    .admitqAct .always 3 1,
    .admitqGate .always 3 1,
    .admitqQueue .always 3 1] : List Instr).all (fun i => !i.wellFormed) = true := by decide +kernel

theorem test_illformed_system :
  ([
    .srdCompact 3 0x13,
    .srd .always 1 0x0E,
    .srd .always 3 0x04,
    .swr .always 0x14 (.v 3),
    .swr .always 0x1D (.v 2),
    .cclr .always (.v 3),
    .tmaskOr .always 3 (.v 2),
    .tmaskAndn .always 2 (.v 3),
    .tmaskWr .always 3 (.v 2),
    .haltq .always 0 3,
    .haltq .always 5 2] : List Instr).all (fun i => !i.wellFormed) = true := by decide +kernel

end Sys2Proof.Tests
end

