-- ==== Sys2Proof/Tests/Witness.lean ====
section
/-! SUPPORT. For the statements with hypotheses: states, built from the machine after reset by placing one group, that meet them. Each
theorem is named after its statement. -/

-- One proof after another: many at once would need more memory than the check of the whole package has.
set_option Elab.async false

namespace Sys2Proof.Machine.Tests

/-! ### The states -/

def r0 : Ref := (1, 0)
def r1 : Ref := (1, 1)

/-- The first 2 MiB of virtual addresses, mapped to themselves. -/
def leaf0 : Leaf := { va := 0, size := 0x200000, pa := 0, w := true, x := true, raw := 0x1B }

/-- A line of fifteen NOPs, all of them targets. -/
def nops : List Word := List.replicate 15 0x43FFFFFF ++ [sealLine (List.replicate 15 0x43FFFFFF) 0xFFFC000]

/-- The header of a group of two threads with a handler at 0x20000; a cluster memory of 4 KiB. -/
def hdr0 : List Word :=
  [0x3E000000, 0, 0, 1, 0, 0, 0, 0, 0, 0x00400040, 64, 0, 0, 0, 0, 0, 0x10000, 0, 0x20000, 0] ++ List.replicate 12 0

def thread0 (tid : Nat) : Thread :=
  { Thread.none with
    gid := 1, tid := tid, regs := (List.range 256).map (fun k => BitVec.ofNat 32 (64 * k)), pc := 0x10000, live := true,
    line := some { va := 0x10000, line := 0x400, words := nops, bad := false } }

/-- Group 1 with its threads on a core; the bundle of thread 0 is next. -/
def onCore (core : Nat) : State :=
  { State.reset with
    serial := 7,
    threads := [thread0 0, thread0 1],
    waves := [{ Wave.none with gid := 1, wid := 0, roster := List.range 8, tmask := 0x2F }],
    groups := [{ Group.none with
      gid := 1, core := core, priv := true, hdr := hdr0, gregs := List.replicate 64 5, current := true, deadline := 2 ^ 64 - 1,
      lid := 3, cset := some 2, release := 0 }],
    csets := [{ id := 2, part := 0, cluster := 0, size := 4096, groups := 1 }],
    launches := [{ id := 3, seq := 0, part := 0, prio := 0, hdr := hdr0, hdrVa := 0, ginit := [], next := 1, total := 1, live := 1, dl := none,
                   time := 0, requeue := [], failed := false, why8 := false, die := none, node := none, recs := [], poss := [], raised := [] }],
    cores := [{ CoreSt.fresh core with icache := [{ line := 0x400, words := nops }] }],
    tlbs := [{ home := 0, part := 0, leaf := leaf0 }, { home := 160, part := 0, leaf := leaf0 }],
    bundle := some { core := core, pc := 0x10000, npc := 0x10004, refs := [r0], meeting := none, lat := 0, second := false } }

/-- On wide core 0, and on control core 0 of die 0. -/
def wide : State := onCore 0
def ctl : State := onCore 128

/-- With thread 0 changed. -/
def with0 (s : State) (f : Thread → Thread) : State := s.upd r0 f

/-- With registers of thread 0 set. -/
def regs0 (s : State) (l : List (Nat × Word)) : State :=
  s.upd r0 (fun t => { t with regs := l.foldl (fun rs p => rs.set p.1 p.2) t.regs })

/-- As a Bool: the bundle is thread 0 alone, which lives and whose guard holds. -/
def runs0 (s : State) (g : Guard) : Bool :=
  s.bnd.refs == [r0] && s.hasThread r0 && (s.thread r0).live && guardHolds g (s.thread r0)

theorem runs0_spec (s : State) (g : Guard) (h : runs0 s g = true) : Runs s g r0 (s.moved r0) := by
  simp only [runs0, Bool.and_eq_true, beq_iff_eq] at h
  exact ⟨⟨⟨h.1.1.1, h.1.1.2, h.1.2⟩, h.2⟩, rfl⟩

/-- The state after an outcome, where it is one. -/
def after (s : State) (o : Host.Outcome State Fault Refusal) : State := match o with | .next t => t | _ => s

/-- An atomic on bytes 0x40 to 0x43 of core scratchpad. -/
def atom0 : AtomReq :=
  { bun := 5, loc := locScratch 1 0x40, n := 4, kind := .relaxed, rmt := false, scope := .cor, op := .int .add, cas := false, opnd := 1, new := 0 }

/-- Thread 0 with an operation outstanding, its first. -/
def waitsLoad (s : State) (o : LoadOp) : State := with0 s (fun t => { t with ops := 1, loads := [o], loadAt := [(0, 0)] })
def waitsStore (s : State) (o : StoreOp) : State := with0 s (fun t => { t with ops := 1, stores := [o], storeAt := [(0, 0)] })

/-- Thread 0 while that atomic, or the same as an acquire, is not performed. -/
def lagging : State := waitsLoad wide (.atomic 2 atom0)
def acquiring : State := waitsLoad wide (.atomic 2 { atom0 with kind := .acq })

/-- Whether an access of thread 0 stands behind an earlier operation of its own. -/
def lags (s : State) (loc n : Nat) : Bool := runs0 s .always && (s.thread r0).behind (s.thread r0).ops loc n

/-- A change of domains holds every slice that partition 0 has; and a slice that holds the requests of partition 0 alone. -/
def holding0 (s : State) : State := { s with domNew := [(1, 0, [(0, Domain.whole)])] }
/-- The lines of the identity page lie behind a repaired column. -/
def repairing (s : State) : State :=
  { s with repair := [0], tlbs := [{ home := 0, part := 0, leaf := { leaf0 with pa := 0x1000000000000 } }], cores := [] }

/-- Between instructions, at an event that names a and b. -/
def ev (s : State) (a b : Nat) : State := { s with bundle := none, arg := { EventArg.none with a := a, b := b } }

/-- At an event of thread 0, which is parked. -/
def parkedOn (s : State) (p : Park) : State := ev (with0 s (fun t => { t with park := p, parkPc := 0x10000 })) 1 0
def parked (p : Park) : State := parkedOn wide p
/-- It may go on. -/
def wakes (s : State) : Bool := s.arg.a == 1 && s.arg.b == 0 && s.mayWake (s.thread r0)

/-! ### Registers (04, 05, 06) -/

/-- `Threadwise` and `Floatwise`: a bundle of both threads, one of whose guards fails. -/
def both : State := { wide with bundle := some { wide.bnd with refs := [r0, r1] } }

theorem witness_Threadwise : both.KeysApart ∧ both.bnd.refs.Nodup ∧ both.threads.length = 2 := by
  unfold State.KeysApart; decide +kernel

theorem witness_Acts : Runs wide .always r0 (wide.moved r0) ∧ Runs wide (.when true 7) r0 (wide.moved r0) :=
  ⟨runs0_spec wide _ (by decide +kernel), runs0_spec wide _ (by decide +kernel)⟩

theorem witness_BitFields : ∃ w w' : BitVec 8, w.toNat = 1 ∧ w'.toNat = 32 := ⟨1, 32, rfl, rfl⟩

/-- A signaling and a quiet operand. -/
theorem witness_NanOperands :
    (unpackF fmtF32 false 0x7F800001).1.isNan = true ∧ (unpackF fmtF32 false 0x7F800001).1.isSig = true ∧
    (unpackF fmtF32 false 0x7FC00000).1.isNan = true ∧ (unpackF fmtF32 false 0x7FC00000).1.isSig = false ∧
    addF fmtF32 .rne false false false 0x7F800001 0x3F800000 = (0x7FC00000, flNV) ∧
    mulF fmtF32 .rne false false false 0x3F800000 0x7FC00000 = (0x7FC00000, 0) := by decide +kernel

/-! ### Control (03) -/

/-- Whether a target is taken, with its line as the statement has it. -/
def takes (s : State) (pc : DWord) (tgt : Bool) : Bool :=
  match (s.moved r0).target 0 (s.coreOf r0) pc tgt with
  | (.taken _ false, _) => true
  | _ => false

theorem takes_spec (s : State) (pc : DWord) (tgt : Bool) (h : takes s pc tgt = true) (hp : s.partOf r0 = 0) :
    ∃ l v, (s.moved r0).target (s.partOf r0) (s.coreOf r0) pc tgt = (.taken l false, v) := by
  rw [hp]; unfold takes at h; split at h
  · exact ⟨_, _, ‹_›⟩
  · cases h

/-- Bytes of physical memory. -/
def withMem0 (s : State) (pa : Nat) (ws : List Word) : State := { s with mem := s.mem.writeN pa (ws.map bytesOfWord).flatten }

/-- Thread 0 with one return address on its call stack. -/
def called : State := { with0 wide (fun t => { t with depth := 1 }) with mem := Memory.writeN [] (locLane 1 0 4088) (toBytes 8 0x10008) }

/-- Whether a target is refused. -/
def refuses (s : State) (pc : DWord) : Bool :=
  match (s.moved r0).target 0 (s.coreOf r0) pc true with
  | (.refuse _, _) => true
  | _ => false

/-- Lines in the instruction cache of core 0 beside that of the NOPs. -/
def withLine (s : State) (line : Nat) (ws : List Word) : State :=
  s.updCore 0 (fun c => { c with icache := { line := line, words := ws } :: c.icache })

/-- A malformed line, and one of bad parity. -/
def badLine : List Word := List.replicate 14 0x43FFFFFF ++ [0x88010103]

/-- Each answer of a target, the last place of the call stack, and each wait. -/
theorem witness_ControlTransfers :
    Runs called .always r0 (called.moved r0) ∧ called.partOf r0 = 0 ∧
    called.trails r0 (called.entryLoc r0 (called.thread r0).depth) 8 = false ∧ called.fetchHeld 0 0 0x10008 = false ∧ called.retHeld r0 = false ∧
    (let s := waitsStore called (.write 5 .cor false (called.entryLoc r0 1) [1])
     runs0 s .always && s.trails r0 (s.entryLoc r0 (s.thread r0).depth) 8) = true ∧
    (let s := waitsStore called (.write 5 .cor false (called.entryLoc r0 0) [1])
     runs0 s .always && s.retHeld r0) = true ∧
    (runs0 (repairing called) .always && (repairing called).fetchHeld 0 0 (called.bnd.pc + dispBytes (.short 14)).toNat) = true ∧
    (let s := with0 wide (fun t => { t with depth := 512 })
     runs0 s .always && !(s.trails r0 (s.entryLoc r0 512) 8) && decide (hdrLane (s.group 1).hdr < 8 * ((s.thread r0).depth + 1))) = true ∧
    (refuses called (called.bnd.pc + dispBytes (.long 0x100000)) && !(called.fetchHeld 0 0 (called.bnd.pc + dispBytes (.long 0x100000)).toNat)) = true ∧
    (match ((withLine called 0x401 (badLine ++ [sealLine badLine 0])).moved r0).target 0 0 0x10040 true with | (.taken _ true, _) => true | _ => false) =
      true ∧
    (match ((withMem0 (withLine called 0x401 (1 :: List.replicate 15 0)) 0x10040 [1]).moved r0).target 0 0 0x10040 true with
     | (.parity, _) => true
     | _ => false) = true ∧
    (wide.thread r0).depth = 0 ∧ wide.retHeld r0 = false ∧
    (let s := { called with mem := Memory.writeN [] (locLane 1 0 4088) (toBytes 8 0x10009) }
     runs0 s .always && !(s.retHeld r0) && refuses s 0x10009) = true ∧
    takes called (called.bnd.pc + dispBytes (.short 14)) true = true ∧ takes called (called.bnd.pc + dispBytes (.long 3)) true = true ∧
    takes called (called.bnd.pc + (0x000001 : BitVec 24).signExtend 64 <<< 2) true = true ∧
    takes (regs0 called [(4, 0x10000), (5, 0)]) (((regs0 called [(4, 0x10000), (5, 0)]).thread r0).pair 4 +
      (regs0 called [(4, 0x10000), (5, 0)]).brxB r0 (.imm 2) <<< 2) true = true ∧
    8 * ((called.thread r0).depth + 1) ≤ hdrLane (called.group 1).hdr ∧ (called.thread r0).depth ≠ 0 ∧
    takes called (BitVec.ofNat 64 (ofBytes (called.mem.readN (locLane 1 0 (hdrLane (called.group 1).hdr - 8 * (called.thread r0).depth)) 8))) true = true :=
  ⟨runs0_spec _ _ (by decide +kernel), by decide +kernel⟩

/-- The call stack's last place, and targets of every answer. -/
theorem witness_CallStackAndTargets :
    (with0 wide (fun t => { t with depth := 511 })).hasThread r0 = true ∧
    8 * (((with0 wide (fun t => { t with depth := 511 })).thread r0).depth + 1) = hdrLane (wide.group 1).hdr ∧
    (wide.fetch 0 0 0x200000 == (.cause causeXlate, wide)) = true ∧ parityGood nops = true ∧ (lineStarts nops).isSome = true ∧
    (match wide.fetch 0 0 0x10000 with | (.line _ ws, _) => ws == nops | _ => false) = true ∧
    0x1003C % 64 = 60 ∧ lineTgt nops 14 = true ∧
    (let one := [0x43FFFFFF] ++ List.replicate 14 0
     let ws := one ++ [sealLine one 0]
     parityGood ws && (lineStarts ws == some [(0, 1)]) && !lineTgt ws 1) = true ∧
    (parityGood (List.replicate 16 0) && (lineStarts (List.replicate 16 0) == some [])) = true ∧
    (let cut := List.replicate 14 0x43FFFFFF ++ [0x88010103]
     parityGood (cut ++ [sealLine cut 0]) && (lineStarts (cut ++ [sealLine cut 0])).isNone) = true := by decide +kernel

theorem witness_IssueControl :
    Runs wide .always r0 (wide.moved r0) ∧
    (let budget := wide.updGroup 1 (fun g => { g with hdr := g.hdr.set 14 100 })
     runs0 budget .always && !(budget.thread r0).handler && decide (hdrBudget (budget.group 1).hdr ≠ 0)) = true ∧
    hdrBudget (wide.group 1).hdr = 0 ∧ (wide.lcOf r0 ≤ 0 ∧ wide.scOf r0 ≤ 0 ∧ wide.ccOf r0 ≤ 0 ∧ wide.tcOf 1 ≤ 0) ∧
    (let busy := with0 wide (fun t => { t with loads := [.value 1 [0]], stores := [.maint true] })
     runs0 busy .always && decide (0 < busy.lcOf r0) && decide (0 < busy.scOf r0)) = true ∧
    wide.val32 (wide.thread r0) (.imm 0) = 0 ∧ wide.val32 (wide.thread r0) (.imm 1) ≠ 0 ∧
    ((regs0 wide [(2, 0), (3, 0)]).thread r0).pair 2 = 0 ∧ wide.dtb < ((wide.thread r0).pair 2).toNat :=
  ⟨runs0_spec _ _ (by decide +kernel), by decide +kernel⟩

/-! ### Cross-lane instructions (07) -/

/-- Both threads at a cross-lane instruction, as a formed meeting. -/
def met : State := { wide with bundle := some { wide.bnd with refs := [r0, r1], meeting := some false } }

theorem witness_CrossLaneGathers : wide.bnd.meeting = none ∧ wide.bnd.refs = [r0] := by decide +kernel

theorem witness_Meetwise : Meeting met :=
  ⟨by decide +kernel, by unfold State.KeysApart; decide +kernel, by decide +kernel, by decide +kernel⟩

theorem witness_LaneFloatReductions :
    Meeting met ∧ r1 ∈ met.bnd.refs ∧ guardHolds .always (met.thread r1) = true ∧ guardHolds (.when false 3) (met.thread r1) = false :=
  ⟨witness_Meetwise, by decide +kernel⟩

/-! ### Traps and special registers (19) -/

/-- Thread 0 in its handler. -/
def handling : State := with0 wide (fun t => { t with handler := true, tpc := 0x10008 })

theorem witness_SpecialRegisters :
    Runs wide .always r0 (wide.moved r0) ∧ (wide.thread r0).handler = false ∧ isControl (wide.coreOf r0) = false ∧
    Runs handling .always r0 (handling.moved r0) ∧ (handling.thread r0).handler = true ∧
    (0x0D : BitVec 8) ≤ 0x0D ∧ (0x10 : BitVec 8) ≤ 0x13 ∧ (0x16 : BitVec 8) ≤ 0x1A ∧ (0x1D : BitVec 8) ≤ 0xFF :=
  ⟨runs0_spec _ _ (by decide +kernel), by decide +kernel, by decide +kernel, runs0_spec _ _ (by decide +kernel), by decide +kernel⟩

theorem witness_TrapInstructions :
    Runs wide .always r0 (wide.moved r0) ∧ (wide.thread r0).handler = false ∧ (wide.waveOf r0).tmask &&& 0x20000 = 0 ∧
    (let w := wide.updWaveOf r0 (fun w => { w with tmask := 0x20007 })
     runs0 w .always && ((w.waveOf r0).tmask &&& 0x20000 != 0)) = true ∧
    (handling.thread r0).handler = true ∧ handling.tretHeld r0 = false ∧
    (runs0 (repairing handling) .always && (repairing handling).tretHeld r0) = true ∧
    (match ((handling.moved r0).upd r0 (fun t => { t with handler := false, pc := t.tpc })).target 0 0 (handling.thread r0).tpc false with
     | (.taken _ false, _) => true
     | _ => false) = true :=
  ⟨runs0_spec _ _ (by decide +kernel), by decide +kernel⟩

theorem witness_ExceptionEntry :
    wide.hasThread r0 = true ∧ hdrHandler (wide.group 1).hdr = 0x20000 ∧ (wide.thread r0).park = .ready := by decide +kernel

/-! ### Memory access (08) -/

/-- Whether an access of thread 0 passes its checks, at a place of its own or at a global one. -/
def passes (s : State) (sp : Space) (ea n : Nat) (store : Bool) : Bool :=
  match (s.moved r0).check r0 sp ea n n store false with
  | .ok (.own _, _) => sp != .glob
  | .ok (.phys pa, _) => sp == .glob && pa == ea
  | .error _ => false

theorem witness_LoadsRead :
    Runs wide .always r0 (wide.moved r0) ∧
    passes wide .lane 0 16 false = true ∧ passes wide .lane 4080 16 false = true ∧ passes wide .core 4095 1 false = true ∧
    passes wide .cmem 4092 4 false = true ∧ passes wide .chip 0xFFFFF0 16 false = true ∧ passes wide .chip 0x1000000 8 false = true ∧
    passes wide .glob 0 8 false = true ∧ passes wide .glob 0x1FFFF8 8 false = true ∧
    passes wide .core ((wide.thread r0).reg 1 + 4 * (0xFF : BitVec 8).setWidth 32).toNat 4 false = true ∧
    lags wide (locScratch 1 0x40) 4 = false ∧ lags lagging (locScratch 1 0x43) 1 = true ∧ lags lagging (locScratch 1 0x44) 4 = false ∧
    lags lagging (locScratch 1 0x3C) 4 = false ∧ lags acquiring 0 8 = true ∧ wide.repairs 0x100000 = false ∧
    (runs0 (repairing wide) .always && (match ((repairing wide).moved r0).check r0 .glob 0x40 8 8 false false with
      | .ok (w, _) => (repairing wide).repairsAt w
      | .error _ => false)) = true ∧
    wide.l2May 0 (wide.requestAt r0 (.phys 0x40)) = true ∧ runs0 (holding0 wide) .always = true ∧
    (holding0 wide).l2May 0 ((holding0 wide).requestAt r0 (.phys 0x40)) = false :=
  ⟨runs0_spec _ _ (by decide +kernel), by decide +kernel⟩

theorem witness_StoresWrite :
    Runs wide.bump .always r0 (wide.bump.moved r0) ∧ wide.lowerWrites 7 r0 (locScratch 1 0x40) 4 = false ∧
    ({ wide with threads := [{ thread0 0 with stores := [.write 7 .cor false (locScratch 1 0x40) [1]] }, thread0 1] } : State).lowerWrites 7 r1
      (locScratch 1 0x40) 4 = true ∧
    passes wide .lane 4080 16 true = true ∧ passes wide .core 0 1 true = true ∧ passes wide .cmem 4092 4 true = true ∧
    passes wide .chip 0x1FFFFF0 16 true = true ∧ passes wide .glob 0x1FFFF8 8 true = true ∧
    passes wide .core ((wide.thread r0).reg 1 + 4 * (0xFF : BitVec 8).setWidth 32).toNat 4 true = true ∧
    lags wide (locScratch 1 0x40) 4 = false ∧ lags lagging (locScratch 1 0x40) 4 = true ∧ passes lagging .core 0x40 4 true = true ∧
    (wide.thread r0).unperformed = false ∧ (lagging.thread r0).unperformed = true :=
  ⟨runs0_spec _ _ (by decide +kernel), by decide +kernel⟩

/-- The spec's tensor record of 08 ("A bounded read and a hand-off"), at 0x400 in core scratchpad, with coordinates in v2 and v3. -/
def tensRec : List Word :=
  [0x00100000, 0, 0x14, 0xBF800000, 4, 0, 20, 0, 0, 0, 0, 0, 0, 0, 5, 3, 0, 0, 0, 0xFFFFFFFF, 2, 0, 0, 0, 1, 1, 0, 0, 0, 0, 0, 0]
def tens (x y : Word) : State :=
  { regs0 wide [(2, x), (3, y)] with mem := Memory.writeN [] (locScratch 1 0x400) (tensRec.map bytesOfWord).flatten }

/-- The example's coordinates inside, with the addresses it gives, and outside. -/
theorem witness_TensorElements :
    Runs (tens 3 0) .always r0 ((tens 3 0).moved r0) ∧
    (match (tens 3 0).tensor ((tens 3 0).moved r0) r0 (.lit 0x400) with | .ok (w, _) => w == tensRec | _ => false) = true ∧
    tenValid tensRec 2 256 = some (.f32, .glob) ∧ ¬(EFmt.width .f32 = 64 ∧ ((6 : Reg).toNat % 2 = 1 ∨ 256 ≤ (6 : Reg).toNat + 1)) ∧
    tenInside tensRec ((tens 3 0).tenX r0 tensRec 2) = true ∧ tenEa tensRec .glob ((tens 3 0).tenX r0 tensRec 2) = 0x00100030 ∧
    tenInside tensRec ((tens 5 0).tenX r0 tensRec 2) = true ∧ tenEa tensRec .glob ((tens 5 0).tenX r0 tensRec 2) = 0x00100038 ∧
    passes (tens 3 0) .glob 0x00100030 4 false = true ∧
    runs0 (tens 3 0).bump .always = true ∧ (tens 3 0).trails r0 (locScratch 1 0x400) 128 = false ∧
    (let s := waitsStore (tens 3 0) (.write 5 .cor false (locScratch 1 0x47F) [1])
     runs0 s .always && s.trails r0 (locScratch 1 0x400) 128) = true ∧
    (match wide.tensor (wide.moved r0) r0 (.lit 0x401) with | .error _ => true | .ok _ => false) = true ∧
    tenInside tensRec ((tens 0 0).tenX r0 tensRec 2) = false ∧ tenInside tensRec ((tens 2 1).tenX r0 tensRec 2) = false ∧
    lags (tens 3 0) 0x00100030 4 = false ∧ lags (waitsLoad (tens 3 0) (.late none 9 .plain 0x00100030 4 (.size .b32))) 0x00100030 4 = true :=
  ⟨runs0_spec _ _ (by decide +kernel), by decide +kernel⟩

theorem witness_FullEmptyWords :
    Runs wide .always r0 (wide.moved r0) ∧ (5 : Reg).toNat < (wide.thread r0).regs.length ∧ wide.feQueue = [] ∧ wide.locks = [] ∧
    (wide.thread r0).feBehind (locScratch 1 64) false = false ∧ (lagging.thread r0).feBehind (locScratch 1 64) false = true ∧
    (wide.thread r0).unperformed = false ∧ (lagging.thread r0).unperformed = true ∧ passes lagging .core 64 4 true = true ∧
    ((waitsStore wide (.tags (locScratch 1 64) 1 true)).thread r0).stores = [.tags (locScratch 1 64) 1 true] ∧
    ((acquiring.thread r0).loads.any LoadOp.acquires) = true ∧
    passes wide .core 64 4 false = true ∧ passes wide .cmem 64 4 true = true ∧ wide.isFull (locScratch 1 64) = false ∧
    (wide.setFull (locScratch 1 64) true).isFull (locScratch 1 64) = true ∧ runs0 (wide.setFull (locScratch 1 64) true) .always = true ∧
    (match (wide.moved r0).check r0 .core 64 (4 * 256) 4 true false with | .ok (.own l, _) => l == locScratch 1 64 | _ => false) = true ∧
    (wide.moved r0).ea r0 .core 2 4 false (.imm 0) % 128 = 0 :=
  ⟨runs0_spec _ _ (by decide +kernel), by decide +kernel⟩

/-! ### Caches, layers and translation (09) -/

/-- Whether a range passes page by page. -/
def allPages (s : State) (a : Acc) (lo hi : Nat) : Bool :=
  (State.pages 0 0 a (fun x _ _ _ => x) ((hi - lo) / 4096 + 2) (s.moved r0) lo hi).2.isNone

theorem witness_PrefetchOnlyMovesLines :
    (let s := regs0 wide [(2, 0x100004), (3, 0)]
     let va := (s.moved r0).ea r0 .glob 2 64 false (.imm 0) / 64 * 64
     runs0 s .always && va == 0x100000 && (match s.page 0 0 va 64 .read with | .ok (_, pa) => isLpddr pa && !(s.pathHeld 0 pa) | .error _ => false) &&
     !(s.lockHit 0 0 { sp := .glob, owner := 0, lo := va, len := 64 } false) && (holding0 s).pathHeld 0 va) = true ∧
    (match wide.page 0 0 0x200000 64 .read with | .error _ => true | .ok _ => false) = true := by decide +kernel

theorem witness_CacheMaintenance :
    Runs wide .always r0 (wide.moved r0) ∧ wide.rangeHeld r0 = false ∧
    (let s := waitsStore wide (.write 5 .cor false 0x1000 [1])
     runs0 s .always && s.rangeHeld r0 && s.owes r0) = true ∧ wide.val32 (wide.thread r0) (.imm 0) = 0 ∧ wide.val32 (wide.thread r0) (.v 2) = 128 ∧
    allPages wide .read 0xFC0 0x1080 = true ∧ allPages wide .write 0xFC0 0x1080 = true ∧ allPages wide .fetch 0xFC0 0x1080 = true ∧
    (wide.thread r0).stores = [] ∧
    (let w := with0 wide (fun t => { t with stores := [.maint true] })
     runs0 w .always && (w.thread r0).stores.contains (.maint true)) = true ∧
    canonical ((wide.thread r0).pair 2).toNat = true ∧
    (let w := regs0 wide [(2, 0), (3, 0x01000000)]
     runs0 w .always && !(canonical ((w.thread r0).pair 2).toNat)) = true :=
  ⟨runs0_spec _ _ (by decide +kernel), by decide +kernel⟩

/-- Words in core scratchpad of group 1. -/
def withRec (s : State) (off : Nat) (ws : List Word) : State :=
  { s with mem := s.mem.writeN (locScratch 1 off) (ws.map bytesOfWord).flatten }

/-- A record of n bytes in core scratchpad, as the moved state checks it and the state holds it. -/
def recAt (s : State) (ea n : Nat) (ws : List Word) : Bool :=
  match (s.moved r0).check r0 .core ea n n false false with
  | .ok (w, v) => v == s.moved r0 && wordsOfBytes (s.readAt (s.coreOf r0) w n) == ws
  | .error _ => false

/-- Thread 0 has stored to the last byte of the record of n bytes at 0x800, and has not performed it. -/
def owesRecord (off n : Nat) : Bool :=
  let s := waitsStore (regs0 wide [(2, 0x800), (3, 0x880)]) (.write 5 .cor false (locScratch 1 off) [1])
  runs0 s .always && s.trails r0 (locScratch 1 0x800) n && s.owes r0

/-- Domain records: partition 0 keeps slices 0 to 7 under NH 3; and one whose two slices do not go with NH 3. -/
def domRec (slices : Word) : List Word :=
  [slices, 0x80000003, 0x00004001, 0, 0x00008002, 0, 0x00010004, 0] ++ List.replicate 56 0

theorem witness_PartitionChanges :
    Runs wide .always r0 (wide.moved r0) ∧
    (let s := withRec (regs0 wide [(2, 0x800)]) 0x800 (domRec 0xFF)
     runs0 s .always && recAt s 0x800 256 (domRec 0xFF) && s.domStatus (domRec 0xFF) == 0 && !(s.trails r0 (locScratch 1 0x800) 256)) = true ∧
    owesRecord 0x8FF 256 = true ∧
    wide.domStatus (domRec 3) = 1 ∧ wide.layStatus 0 0x34050000 = 0 ∧ wide.layStatus 0 0x34050001 = 1 ∧
    wide.layStatus 0 0x34040000 = 2 ∧ wide.domNew = [] ∧ (wide.part 0).laydivNew = [] :=
  ⟨runs0_spec _ _ (by decide +kernel), by decide +kernel⟩

/-- Page tables below the root: four tables on the way to virtual addresses 0x400000 and on, whose leaf for 0x401000 is a page of
4 KiB, and for 0x410000 on a run of sixteen. -/
def mapped : State :=
  let root := 0x3FF0000000
  let put := fun (m : Memory) (a e : Nat) => m.writeN a (toBytes 8 e)
  let m := put (put (put (put [] root (root + 0x1001)) (root + 0x1000) (root + 0x2001)) (root + 0x2000) (root + 0x3001)) (root + 0x3010) (root + 0x4001)
  let m := put m (root + 0x4008) (0x700000 + 0xB)
  let m := (List.range 16).foldl (fun m k => put m (root + 0x4000 + 8 * (16 + k)) (0x710000 + 0x1000 * k + 0x2B)) m
  { regs0 wide [(2, 0x400000), (3, 0), (4, 0x800000), (5, 0), (6, 8)] with mem := m }

theorem witness_Pages :
    Runs mapped .always r0 (mapped.moved r0) ∧ canonical 0x400000 = true ∧ canonical (2 ^ 56) = false ∧
    mapped.mapStatus 0 0x400000 0x800000 8 = 0 ∧ mapped.mapStatus 0 0x401000 0x800000 8 = 2 ∧ mapped.mapStatus 0 0x400000 0x800000 5 = 5 ∧
    mapped.mapStatus 0 0x80000000 0x800000 8 = 1 ∧
    (mapped.entryTo 0 (0x400000 % 2 ^ 57) (pgLevel 0) (mapped.part 0).root 0 5).isSome = true ∧
    ((mapped.entryTo 0 0x401000 4 (mapped.part 0).root 0 5).map (fun e => (e.bits % 2, e.bits / 2 % 2, e.bits / 32 % 2, e.level))) = some (1, 1, 0, 4) ∧
    ((mapped.entryTo 0 0x41F000 4 (mapped.part 0).root 0 5).map (fun e => (e.bits % 2, e.bits / 2 % 2, e.bits / 32 % 2, e.level))) = some (1, 1, 1, 4) ∧
    mapped.entryTo 0 0x80000000 4 (mapped.part 0).root 0 5 = none ∧
    ([.pgmap 9 0x400000 0x800000 8, .pgmap 9 0x401000 0x800000 8, .pgunmap 9 0x401000, .pgunmap 9 0x41F000, .pgunmap 9 0x80000000, .pgunmap 9 0x402000,
      .pgunmapped 9 []] : List Park).all (fun k => wakes (parkedOn mapped k) && ((parkedOn mapped k).thread r0).park == k &&
        !((parkedOn mapped k).thread r0).unperformed) = true ∧
    ((mapped.entryTo 0 0x402000 4 (mapped.part 0).root 0 5).map (fun e => e.bits % 2)) = some 0 ∧ mapped.flown [] = true ∧
    (waitsLoad mapped (.late none 9 .plain 0x400 4 (.size .b32))).flown [(1, 0, 0)] = false :=
  ⟨runs0_spec _ _ (by decide +kernel), by decide +kernel⟩

/-! ### Operand-buffer ranges (06) and streams (10) -/

/-- The record of the spec's range ob2 (14), with a place. -/
def obRec : List Word := [0x00000087, 0, 0x1000, 32, 0x100, 0, 0, 0]
def ranged : State := wide.updCtxOf r0 (fun c => { c with ranges := [{ n := 2, owner := 1, rcd := obRec }] })

theorem witness_OperandBufferRanges :
    (let s := withRec (regs0 wide [(2, 0x800)]) 0x800 obRec
     runs0 s .always && recAt s 0x800 32 obRec && (s.ctxOf r0).obresStatus 2 obRec == 0 && !(s.trails r0 (locScratch 1 0x800) 32)) = true ∧
    owesRecord 0x81F 32 = true ∧
    (ranged.ctxOf r0).obresStatus 2 obRec = 1 ∧ (wide.ctxOf r0).obresStatus 2 (obRec.set 2 0) = 3 ∧
    Runs ranged .always r0 (ranged.moved r0) ∧ ((ranged.ctxOf r0).range 2).map (fun q => q.owner) = some 1 ∧
    ranged.heldRange 1 2 false = false ∧ ranged.heldRange 1 2 true = false ∧ (ranged.ctxOf r0).range 3 = none ∧
    recSize obRec = 0x1000 ∧ ranged.locks = [] :=
  ⟨by decide +kernel, by decide +kernel, by decide +kernel, by decide +kernel, runs0_spec _ _ (by decide +kernel), by decide +kernel⟩

/-- A copy of 64 bytes from core scratchpad 0x40 to 0x80, with the ranges as the statement forms them. -/
def copyOp (u : State) (src dst : Rng) : LockOp := { u.newOp r0 9 .cor .copy [src] [dst] 64 with id := u.serial }

theorem witness_CopiesRegister :
    (let s := regs0 wide [(4, 0x80), (5, 0), (6, 0x40), (7, 0)]
     let dst := s.engRng 1 .core (spAddr .core ((s.thread r0).pair 4)) 64
     let src := s.engRng 1 .core (spAddr .core ((s.thread r0).pair 6)) 64
     let op := copyOp (s.moved r0) src dst
     let t := { (s.moved r0).bump.lockAdd op with bundle := s.bundle }
     runs0 s .always && rngCanonical src && rngCanonical dst && s.rngBound 1 src && s.rngBound 1 dst && !(src.overlaps dst) &&
     (s.moved r0).bump.lockReady s.regQueue op && !(t.bump.lockReady t.regQueue op) && !(s.thread r0).unperformed &&
     ((waitsLoad s (.atomic 2 atom0)).thread r0).unperformed && runs0 (waitsLoad s (.atomic 2 atom0)) .always &&
     s.val32 (s.thread r0) (.imm 0) == 0) = true := by decide +kernel

/-- Two records of one box of four FP32 elements, in core scratchpad, at 0x800 and 0x880. -/
def boxRec (base : Word) : List Word :=
  [base, 0, 0x9, 0, 4, 0, 0, 0, 0, 0, 0, 0, 0, 0, 8, 0, 0, 0, 0, 0, 0, 0, 0, 0, 4, 0, 0, 0, 0, 0, 0, 0]
def boxed : State := withRec (withRec (regs0 wide [(2, 0x800), (3, 0x880)]) 0x800 (boxRec 0x100)) 0x880 (boxRec 0x200)

theorem witness_CopyTensors :
    Runs boxed .always r0 (boxed.moved r0) ∧ recAt boxed 0x800 128 (boxRec 0x100) = true ∧ recAt boxed 0x880 128 (boxRec 0x200) = true ∧
    tenEngine (boxRec 0x100) = some (.f32, .core) ∧ tenEngine (boxRec 0x200) = some (.f32, .core) ∧
    tenAgree (boxRec 0x100) (boxRec 0x200) .f32 .f32 = true ∧ (tenRange (boxRec 0x100) .f32 .core noBoxes).isSome = true :=
  ⟨runs0_spec _ _ (by decide +kernel), by decide +kernel⟩

/-- A ring of two slots of 64 bytes at 0xC00, headers at 0xE00, two boxes. -/
def ringRec : List Word := [0xC00, 0xE00, 2, 64, 2, 0, 0, 0]
def bound0 : SeBind :=
  { gid := 1, tid := 0, drain := false, scope := .cor, tag := 9, ring := ringRec, tensor := boxRec 0x100, total := 2, next := 0, finished := 0, freeing := false }
/-- Bound to group 1; box 0 stands in its slot, owned by the threads. -/
def bound : State := (({ wide.updCtxOf r0 (fun c => c.setEng false (some bound0)) with
  mem := Memory.writeN [] (locScratch 1 0xE04) (bytesOfWord 1) } : State)).setFull (locScratch 1 0xE00) true

theorem witness_StreamEngines :
    (let s := withRec (withRec (regs0 wide [(2, 0x800), (3, 0x880)]) 0x800 ringRec) 0x880 (boxRec 0x100)
     runs0 s .always && recAt s 0x800 32 ringRec && recAt s 0x880 128 (boxRec 0x100) && (s.moved r0).bindStatus r0 false ringRec (boxRec 0x100) == 0 &&
     decide ((s.ctxOf r0).tagCnt.getD 9 0 < 65535)) = true ∧
    (bound.moved r0).bindStatus r0 false ringRec (boxRec 0x100) = 1 ∧ (wide.moved r0).bindStatus r0 false (ringRec.set 2 0) (boxRec 0x100) = 2 ∧
    Runs bound .always r0 (bound.moved r0) ∧ bound.myEng r0 false = some bound0 ∧ bound.myEng r0 true = none ∧
    bound.boxesOut 0 0 false = 0 ∧ bound.regQueue = [] ∧ bound0.boxes = 2 ∧ bound.slotMine bound0 0 = true ∧
    bound.slotMine bound0 1 = false ∧ ringCm ringRec = false ∧ (bound.thread r0).unperformed = false ∧
    (let s := waitsLoad bound (.atomic 2 atom0)
     runs0 s .always && (s.thread r0).unperformed && (s.myEng r0 false == some bound0) && s.slotMine bound0 0) = true ∧
    (match bound.boxOp 0 0 false bound0 0 with
     | some op => decide (({ bound with locks := [op] } : State).boxesOut 0 0 false ≠ 0)
     | none => false) = true ∧
    ((wide.updCtxOf r0 (fun c => { c with tagCnt := c.tagCnt.set 9 65535 })).ctxOf r0).tagCnt.getD 9 0 = 65535 :=
  ⟨by decide +kernel, by decide +kernel, by decide +kernel, runs0_spec _ _ (by decide +kernel), by decide +kernel⟩

theorem witness_TagsAndLockQueries :
    Runs wide .always r0 (wide.moved r0) ∧ wide.locks = [] ∧
    (let s := wide.updCtxOf r0 (fun c => { c with ctag := 6 })
     let m := s.val64 (s.thread r0) (.imm 2)
     let n := s.val64 (s.thread r0) (.imm 1)
     runs0 s .always && (s.ctxOf r0).ctag &&& m == m && (s.ctxOf r0).ctag &&& m != 0 && (s.ctxOf r0).ctag &&& n != n &&
       (s.ctxOf r0).ctag &&& n == 0) = true :=
  ⟨runs0_spec _ _ (by decide +kernel), by decide +kernel⟩

/-! ### Atomics and barriers (11) -/

theorem witness_AtomicsIssue :
    Runs wide.bump .always r0 (wide.bump.moved r0) ∧
    (match (wide.moved r0).check r0 .glob ((wide.moved r0).atomEa r0 .glob 0) 4 4 true false with | .ok _ => false | .error _ => true) = true ∧
    (let s := regs0 wide [(2, 0x100000), (3, 0)]
     runs0 s .always && (match (s.moved r0).check r0 .glob ((s.moved r0).atomEa r0 .glob 2) 8 8 true false with | .ok _ => true | .error _ => false)) = true ∧
    (match (wide.moved r0).check r0 .core ((wide.moved r0).atomEa r0 .core 2) 4 4 true false with | .ok _ => true | .error _ => false) = true :=
  ⟨runs0_spec _ _ (by decide +kernel), by decide +kernel⟩

/-- Operands at the edges of both widths. -/
theorem witness_AtomicOperations :
    (let a : AtomReq := { bun := 0, loc := 0, n := 4, kind := .relaxed, rmt := false, scope := .dev, op := .int .minI, cas := false, opnd := 0xFFFFFFFF, new := 0 }
     decide (a.n = 4) && decide (0xFFFFFFFF < 2 ^ (8 * a.n)) && decide (a.opnd.toNat < 2 ^ (8 * a.n)) && a.after 0 == some 0xFFFFFFFF &&
     ({ a with n := 8, op := .int .maxI } : AtomReq).after 0 == some 0xFFFFFFFF && ({ a with op := .int .incw } : AtomReq).after 0xFFFFFFFF == some 0 &&
     ({ a with cas := true } : AtomReq).after 1 == none && ({ a with cas := true } : AtomReq).after 0xFFFFFFFF == some 0) = true := by decide +kernel

/-- Group 1 owns barrier 1. -/
def barred : State := wide.updCtxOf r0 (fun c => { c with bars := [{ n := 1, owner := 1, exp := 2, cnt := 0, ph := false }] })

theorem witness_Barriers :
    Runs wide .always r0 (wide.moved r0) ∧ (wide.thread r0).stores = [] ∧ wide.binitStatus r0 false 1 2 = 0 ∧ wide.barOf r0 false 1 = none ∧
    wide.binitStatus r0 false 1 0 ≠ 0 ∧ wide.binitStatus r0 true 15 2 = 0 ∧
    Runs barred .always r0 (barred.moved r0) ∧ (barred.thread r0).stores = [] ∧ barred.binitStatus r0 false 1 2 = 0 ∧
    (barred.barOf r0 false 1).isSome = true ∧ (barred.myBar r0 false 1).map (fun x => x.ph) = some false ∧
    ((barred.thread r0).reg 1).getLsbD 0 = false ∧ ((regs0 barred [(1, 1)]).thread r0).reg 1 = 1 ∧ wide.myBar r0 false 1 = none ∧
    barPresent (wide.coreOf r0) false 63 = true ∧ barPresent (ctl.coreOf r0) false 16 = false ∧
    (barred.thread r0).barLeft false 1 = false ∧ runs0 barred.bump .always = true ∧
    (let s := waitsStore barred (.arrive 5 false 1 false none)
     runs0 s .always && (s.thread r0).barLeft false 1 && !((s.thread r0).barLeft false 2) && (s.myBar r0 false 1).isSome) = true ∧
    (let s := waitsLoad barred (.bqry 2 false 1)
     runs0 s .always && (s.thread r0).barLeft false 1) = true :=
  ⟨runs0_spec _ _ (by decide +kernel), by decide +kernel, by decide +kernel, by decide +kernel, by decide +kernel, by decide +kernel,
   runs0_spec _ _ (by decide +kernel), by decide +kernel⟩

/-! ### Fences (12) -/

theorem witness_Fences :
    Runs wide .always r0 (wide.moved r0) ∧ (wide.thread r0).loads = [] ∧ (wide.thread r0).stores = [] ∧
    (let s := with0 wide (fun t => { t with stores := [.maint false] })
     runs0 s .always && (s.thread r0).stores != []) = true ∧
    (wide.part (wide.partOf r0)).clusters.getLsbD ((wide.val32 (wide.thread r0) (.imm 127)).toNat / 8) = true ∧
    wide.buffered = [] ∧ wide.repair = [] ∧
    (let s := { wide with buffered := [4 * 5] }
     runs0 s .always && ((arrayBufs 5 1).filter (fun x => !(s.gated.contains (bufEngine x)) && (s.buffered.contains x || s.bufRepair x)) != [])) = true ∧
    (lagging.thread r0).loads.any LoadOp.unperformed = true ∧ runs0 lagging .always = true ∧
    (let s := waitsLoad wide (.value 2 [7])
     runs0 s .always && !((s.thread r0).loads.any LoadOp.unperformed)) = true ∧
    (let s := waitsStore wide (.store .dev (some 0x1000000000000))
     runs0 s .always && (s.thread r0).stores.any StoreOp.toLayer) = true ∧ (lagging.thread r0).loads.any LoadOp.toLayer = false ∧
    (let s := waitsLoad wide (.atomic 2 { atom0 with loc := 0x1000000000000 })
     runs0 s .always && (s.thread r0).loads.any LoadOp.toLayer) = true ∧
    wide.ccOf r0 = 0 ∧ wide.tcOf 1 = 0 ∧ ({ wide with locks := [copyOp wide (wide.engRng 1 .core 0 64) (wide.engRng 1 .core 64 64)] } : State).ccOf r0 = 1 :=
  ⟨runs0_spec _ _ (by decide +kernel), by decide +kernel⟩

/-! ### Matrix streams, the ladder and recurrences (13, 14, 15) -/

/-- The record of the spec's ladder example ob2 (14), for sixteen rows. -/
def ladRec : List Word := [0x00001CA7, 0, 0x3800, 3072, 0x600, 0x700, 0x00020407, 0]

/-- Group 1's stream: four tiles, one command accepted, an active plane of E2M1. -/
def stream0 : Stream :=
  { (Stream.start 0 0x10000 4 0).accept 0 [0xEC000000, 0x00008180, 0x0003FFC0] (.mend ⟨0, 63, 63⟩) ⟨0, 63, 63⟩ with
    active := { Plane.empty with fmt := some .e2m1, sk := .none, bl := .b32, data := [] } }
def streamed : State :=
  { (wide.updGroup 1 (fun g => { g with stream := some stream0 })).updCtxOf r0 (fun c => { c with
      ranges := [{ n := 2, owner := 1, rcd := ladRec }, { n := 3, owner := 1, rcd := [0x00000001, 0x4000, 0x1000, 64, 0, 0, 0, 0] }],
      bars := [{ n := 1, owner := 1, exp := 2, cnt := 0, ph := false }] }) with
    command := some (1, 0) }

theorem witness_StreamStart :
    Runs wide .always r0 (wide.moved r0) ∧ (wide.streamsOn 0 0).length < 4 ∧ wide.mxrunStatus 1 0x10000 128 = (0, 0) ∧
    (wide.thread r0).unperformed = false ∧ (lagging.thread r0).unperformed = true ∧ runs0 lagging .always = true ∧
    wide.mxrunStatus 1 0x10004 4 = (2, 0) ∧ wide.mxrunStatus 1 0x10000 129 = (3, 0) ∧ wide.streamOf 1 = none ∧
    runs0 streamed .always = true ∧ streamed.streamOf 1 = some stream0 ∧
    (let s := { wide with groups := (List.range 5).map (fun k => { wide.group 1 with gid := k + 1, stream := if k = 0 then none else some stream0 }) }
     runs0 s .always && decide (4 ≤ (s.streamsOn 0 0).length)) = true :=
  ⟨runs0_spec _ _ (by decide +kernel), by decide +kernel⟩

theorem witness_StreamCommands :
    streamed.command = some (1, 0) ∧ streamed.streamOf 1 = some stream0 ∧
    streamed.mldwCheck 1 0 stream0 false .e2m1 .e8m0 .b32 0 = true ∧ streamed.mldwCheck 1 0 stream0 true .f16 .none .b16 (2 ^ 18) = true ∧
    streamed.mstrBad 1 stream0 0 2 0 16 = false ∧ streamed.ladBad 1 stream0 2 = false ∧ 16 * (3 : BitVec 7).toNat + 15 + 1 ≤ 16 * stream0.tiles ∧
    128 * ((15 : BitVec 11).toNat + 15 + 1) ≤ hdrScratch (streamed.group 1).hdr ∧ streamed.mepiBad 1 stream0 0 1 3 0 2 = false ∧
    (streamed.myBar (1, 0) false 1).isSome = true ∧ State.mscanBad stream0 0 1 2 3 16 = false := by decide +kernel

theorem witness_StreamFaults :
    streamed.command = some (1, 0) ∧ streamed.streamOf 1 = some stream0 ∧ 16 * stream0.tiles < 16 * (3 : BitVec 7).toNat + 16 + 1 ∧
    streamed.myBar (1, 0) false 2 = none ∧ ((streamed.streamFault 1 causeAccess 0).streamOf 1).isSome = true := by decide +kernel

theorem witness_ScanMeets : Meeting met ∧ met.lastVoter .always = some r1 := ⟨witness_Meetwise, by decide +kernel⟩

/-! ### Sampling (16) -/

def dispCfg : DispCfg :=
  { rpn := 2048, rpd := 1, nrow := 64, ncol := 32, vd := 16, rlat := 4096, lead := 4096, sx := 0x3F800000, ox := 0, oy := 0, held := heldBase 0 }
/-- The sink's block that gives these registers, without DSC, for the eye of die 0; and firmware's own settings. -/
def block0 : List Byte :=
  [0x7E, 0x00, 29, 0x3A, 0xD4, 0x92, 0x01, 0x01] ++ toBytes 2 64 ++ toBytes 2 32 ++ toBytes 4 2048 ++ toBytes 2 1 ++ [0, 0] ++
    toBytes 4 0x3F800000 ++ toBytes 8 0
def dispSet : DispSet := { vd := 16, rlat := 4096, lead := 4096, held := heldBase 0 }
def display0 : Display :=
  { cfg := dispCfg, vat := 32, t0 := 10000, nl := 0, gaze := [], mot := [], err := [], acc := [], sn := [], weights := 0, visit := 0, queue := [],
    wave := [], waiting := false, counters := List.replicate 5 0, lines := [] }
/-- Die 0's row engine is enabled for partition 0, and group 1 owns a range of BF16 rows. -/
def shown : State :=
  (wide.updDie 0 (fun d => { d with display := some display0 })).updCtxOf r0 (fun c => { c with
    ranges := [{ n := 3, owner := 1, rcd := [0x00000002, 0x4000, 0x1000, 1024, 0, 0, 0, 0] }] })

theorem witness_SamplingQueries :
    Runs shown .always r0 (shown.moved r0) ∧ shown.dispOf r0 = some display0 ∧ tileOf dispCfg ((shown.thread r0).reg 0) = some 0 ∧
    tileOf dispCfg ((7 : Word) * 65536 + 3) = some 31 ∧ tileOf dispCfg 4 = none ∧
    (shown.group 1).node ≠ some 1022 ∧
    (let s := shown.updGroup 1 (fun g => { g with node := some 1022 })
     runs0 s .always && s.dispOf r0 == some display0 && (s.group 1).node == some 1022) = true ∧
    tileOf dispCfg ((shown.thread r0).reg 1) = none ∧ (shown.thread r0).loads = [] ∧ (shown.thread r0).stores = [] ∧
    (let s := waitsStore shown (.priow 3 .gaze 0 5)
     runs0 s .always && (s.thread r0).stores.any StoreOp.toSep && s.dispOf r0 == some display0) = true ∧
    (let s := waitsLoad shown (.atomic 2 { atom0 with kind := .ar })
     runs0 s .always && (s.thread r0).loads.any LoadOp.acquires) = true :=
  ⟨runs0_spec _ _ (by decide +kernel), by decide +kernel⟩

theorem witness_SamplingTransfers :
    Runs shown .always r0 (shown.moved r0) ∧ shown.dispOf r0 = some display0 ∧
    sampleTile dispCfg (hdrW ((shown.thread r0).block 0 8) 0) = some 0 ∧
    (let s := regs0 shown [(4, 0), (7, 0)]
     runs0 s .always && tileOf dispCfg ((s.thread r0).reg 4) == some 0 && ((s.thread r0).reg 7 == 0) &&
     (match s.vgetRange r0 3 64 0 with | .ok _ => true | .error _ => false)) = true ∧
    (let s := regs0 shown [(5, 255), (6, 256)]
     let w : Word := 0x00030004
     let rng := s.engRng 1 (RSpace.eng .core) (spAddr (RSpace.eng .core) ((s.moved r0).rdW r0 false 2)) (4 * (w.toNat / 2 ^ 16 + 1))
     let op : LockOp := { (s.moved r0).newOp r0 0 .dsp (.rowput (display0.unwrap ((s.thread r0).reg 5)) 4) [rng] [] 16 with id := s.serial }
     runs0 s .always && decide (w.toNat < 2 ^ 24) && decide (w.toNat % 2 ^ 16 + (w.toNat / 2 ^ 16 + 1) ≤ dispCfg.ncol) && s.rowputBad 1 rng == none &&
     (s.moved r0).bump.lockReady s.regQueue op && decide (display0.unwrap ((s.thread r0).reg 5) - display0.nl < 256) &&
     decide (256 ≤ display0.unwrap ((s.thread r0).reg 6) - display0.nl) && !(s.thread r0).unperformed &&
     runs0 (waitsLoad s (.atomic 2 atom0)) .always && ((waitsLoad s (.atomic 2 atom0)).thread r0).unperformed) = true ∧
    sampleTile dispCfg (hdrW ((shown.thread r0).block 8 8) 0) = none ∧ (shown.thread r0).stores = [] ∧ wide.dispOf r0 = none ∧ runs0 wide .always = true :=
  ⟨runs0_spec _ _ (by decide +kernel), by decide +kernel⟩

/-! ### Fixed-function nodes (17) -/

/-- Bytes of physical memory. -/
def withMem (s : State) (pa : Nat) (ws : List Word) : State := { s with mem := s.mem.writeN pa (ws.map bytesOfWord).flatten }

/-- A header of one group of eight threads (R390), for node `n` of records. -/
def hdrFor (n : Nat) : List Word :=
  [0x3E080000, 3, 0, 7, 0, 0, 0, 0, 0, 0x00400040, 0, 0, 0, 0, 0, BitVec.ofNat 32 (n * 65536), 0x10000, 0] ++ List.replicate 8 0 ++ [0xFFFF] ++
    List.replicate 5 0

/-- A node of four slots of 32 bytes, its template at 0x100000. -/
def nodeDesc : List Word := [0, 0x01000003, 2, 0, 0x100000, 0, 0, 0]
def node5 : Node :=
  { die := 0, part := 0, id := 5, desc := nodeDesc, hdr := hdrFor 5, ginit := [], lref := 0, slots := [.empty, .empty, .empty, .empty], head := 0,
    pending := [], producers := 0, running := 0, count := 0, lock := 4 }
def noded : State := { wide with nodes := [node5] }

/-- A draw of 16 × 16 pixels: buffer at 0x100000, colour at 0x140000, depth at 0x150000, fragments to node 5. -/
def drawDesc : List Word := [0x100000, 0, 0x00010000, 0x00100010, 5, 0, 0x140000, 0, 0x150000, 0, 0, 0, 0, 0, 0, 0]
def draw1 : DrawSlot :=
  { n := 1, part := 0, owner := 1, lock := 6, st := .opened, desc := drawDesc, seq := 0, tris := [], used := 0, recycled := false, fail := none,
    ending := false, rastered := false, emit := [], frags := [], noted := false }
/-- A path of 16 × 16 cells at 0x4000 of the chip scratchpad. -/
def pathDesc : List Word := [0x4000, 0x00100010, 0, 0, 0, 0, 0, 0]
def path1 : PathSlot := { n := 1, part := 0, owner := 1, lock := 8, st := .opened, desc := pathDesc, rule := none, pending := [] }
/-- Draw slot 1 and path slot 1 open, draw slot 2 and path slot 2 closed. -/
def fixed : State := noded.updDie 0 (fun d => { d with
  draws := [draw1, { draw1 with n := 2, lock := 16, st := .closed }], paths := [path1, { path1 with n := 2, lock := 18, st := .closed }] })

theorem witness_DrawsAndPaths :
    Runs fixed .always r0 (fixed.moved r0) ∧
    (let s := withRec (regs0 noded [(2, 0x800)]) 0x800 drawDesc
     let op : LockOp := { (s.moved r0).newOp r0 0 .dev (.draw 1 2) [] [{ sp := .glob, owner := 0, lo := drawBase drawDesc, len := drawSize drawDesc }] 0 with
       desc := drawDesc, id := s.serial }
     runs0 s .always && !(s.drawForeign r0 1) && recAt s 0x800 64 drawDesc && s.drawStatus 0 0 1 drawDesc == 0 &&
     (s.moved r0).bump.lockReady s.regQueue op) = true ∧
    owesRecord 0x83F 64 = true ∧ owesRecord 0x81F 32 = true ∧
    (let s := waitsLoad fixed (.atomic 2 { atom0 with kind := .acq })
     runs0 s .always && s.acquires r0 && ((s.die 0).draw 2).map (fun w => w.st) == some .closed) = true ∧ fixed.acquires r0 = false ∧
    (let s := fixed.updDie 0 (fun d => { d with draws := [{ draw1 with st := .broken, fail := some causeAccess }] })
     runs0 s .always && ((s.die 0).draw 1).map (fun w => w.fail) == some (some causeAccess)) = true ∧
    fixed.drawStatus 0 0 1 drawDesc = 1 ∧ wide.drawStatus 0 0 1 drawDesc = 2 ∧ (fixed.die 0).draw 1 = some draw1 ∧ draw1.st = .opened ∧
    draw1.ending = false ∧ ((fixed.thread r0).reg (0 + 7)).toNat ≠ 2 ∧ ((regs0 fixed [(7, 2)]).thread r0).reg 7 = 2 ∧
    fixed.drawForeign r0 1 = false ∧ ((fixed.die 0).draw 2).map (fun w => w.st) = some .closed ∧
    (fixed.die 0).path 1 = some path1 ∧ path1.rule = none ∧ (((fixed.thread r0).block 0 8).take 8).all coordOk = true ∧
    fixed.pathForeign r0 1 = false ∧ ((fixed.die 0).path 2).map (fun w => w.st) = some .closed ∧ (15 : Nat) < pathW pathDesc ∧ 15 < pathH pathDesc ∧
    (let s := withRec (regs0 wide [(2, 0x800)]) 0x800 pathDesc
     let op : LockOp := { (s.moved r0).newOp r0 0 .die (.path 1 2) []
       [{ sp := .chip, owner := 0, lo := pathCbase pathDesc, len := pathBytes pathDesc }] 0 with desc := pathDesc, id := s.serial }
     runs0 s .always && recAt s 0x800 32 pathDesc && s.pathStatus 0 0 1 pathDesc == 0 && (s.moved r0).bump.lockReady s.regQueue op) = true ∧
    fixed.pathStatus 0 0 1 pathDesc = 1 ∧
    (let s := fixed.updDie 0 (fun d => { d with paths := [{ path1 with part := 2 }], draws := [{ draw1 with part := 2 }] })
     runs0 s .always && s.pathForeign r0 1 && s.drawForeign r0 1 && s.pathTaken r0 1 && s.drawTaken r0 1) = true ∧
    (let s := fixed.updDie 0 (fun d => { d with paths := [{ path1 with part := 2, st := .free }], draws := [{ draw1 with part := 2, st := .free }] })
     runs0 s .always && s.pathForeign r0 1 && s.drawForeign r0 1 && !(s.pathTaken r0 1) && !(s.drawTaken r0 1)) = true ∧
    ([FixSt.free, .broken] : List FixSt).all (fun k =>
      let s := fixed.updDie 0 (fun d => { d with paths := [{ path1 with st := k }], draws := [{ draw1 with st := k }] })
      runs0 s .always && ((s.die 0).draw 1).map (fun w => w.st) == some k && ((s.die 0).path 1).map (fun w => w.st) == some k) = true :=
  ⟨runs0_spec _ _ (by decide +kernel), by decide +kernel⟩

/-- A ray from the origin along x, and one without a direction. -/
def ray0 : List (Nat × Word) := [(8, 0), (9, 0), (10, 0), (11, 0x3F800000), (12, 0), (13, 0), (14, 0), (15, 0x447A0000)]

theorem witness_RayInstructions :
    Runs (regs0 wide ray0) .always r0 ((regs0 wide ray0).moved r0) ∧ ((regs0 wide ray0).thread r0).loads = [] ∧
    rayBad (((regs0 wide ray0).thread r0).block 8 8) = false ∧ rayBad ((regs0 wide (ray0.set 3 (11, 0)) |>.thread r0).block 8 8) = true ∧
    (let s := with0 wide (fun t => { t with loads := [.trace [] 0 false false] })
     runs0 s .always && (s.thread r0).loads.contains (.trace [] 0 false false)) = true :=
  ⟨runs0_spec _ _ (by decide +kernel), by decide +kernel⟩

/-! ### Dispatch (18) -/

/-- On a control core: mailbox 3 is full, host mailbox 5 is on with a ring of four entries and one free, launch 3 is journalled. -/
def office : State :=
  { regs0 ctl [(2, 3), (3, 4), (4, 0x100000), (5, 0), (6, 0)] with
    mailboxes := [{ n := 3, part := 0, full := true, tag := 7, msg := [] }, { n := 9, part := 1, full := true, tag := 7, msg := [] }],
    hostBoxes := [{ h := 5, ring := 5, part := 0, prod := 3 }, { h := 6, ring := 5, part := 0, prod := 4 }],
    parts := [{ Part.whole with jseq := 1, refs := [{ seq := 0, lid := 3, ended := false }] }, Part.fresh 1, Part.fresh 2, Part.fresh 3] }

theorem witness_MailboxesAndJournal :
    Runs office .always r0 (office.moved r0) ∧ office.mailFull 0 0 0x8 = some 3 ∧ office.mailFull 0 0 0x10 = none ∧
    (let s := waitsStore office (.write 5 .cor false (locScratch 1 0x7F) [1])
     runs0 s .always && s.trails r0 (locScratch 1 0x40) 64) = true ∧ office.trails r0 (locScratch 1 0x40) 64 = false ∧
    (office.mailbox 9).part ≠ 0 ∧ passes office .core 0x40 64 true = true ∧ (office.mailbox 3).full = true ∧ office.mailWaits 3 = false ∧
    (office.mailbox 4).full = false ∧ (office.hostBox 5).on = true ∧ (office.hostBox 5).part = 0 ∧ (office.hostBox 7).on = false ∧
    ofBytes ((List.range 8).map (fun k => office.below ((office.hostBox 5).base + 128 * (office.hostBox 5).size + k))) = 0 ∧
    (office.hostBox 5).size = 4 ∧ (office.hostBox 5).prod < 4 ∧ (office.hostBox 6).prod = 4 ∧
    office.mailForeign 0 9 = true ∧ office.mailForeign 0 256 = true ∧ office.mailForeign 0 255 = false ∧
    (office.thread r0).loads = [] ∧ (office.thread r0).stores = [] ∧ (office.thread r0).unperformed = false ∧
    (let s := waitsLoad office (.atomic 2 atom0)
     runs0 s .always && (s.thread r0).unperformed) = true ∧
    ({ office with mailQueue := [(1, 1)] } : State).mailbox 3 = office.mailbox 3 :=
  ⟨runs0_spec _ _ (by decide +kernel), by decide +kernel⟩

theorem witness_LaunchesAndSlices :
    (office.launchHeld r0 0x100000 = false ∧ runs0 (holding0 office) .always = true ∧ (holding0 office).launchHeld r0 0x100000 = true) ∧
    (let s := withMem office 0x100000 (hdrFor 0xFFFF)
     runs0 s .always && (match (s.moved r0).launchRead r0 ((s.thread r0).pair 4).toNat with | .ok (h, _, _) => h == hdrFor 0xFFFF | .error _ => false)) = true ∧
    (match (office.moved r0).launchRead r0 0x100000 with | .ok _ => 0 | .error st => st) = 1 ∧
    (let s := waitsLoad (withMem office 0x100000 (hdrFor 0xFFFF)) (.atomic 2 atom0)
     runs0 s .always && (match (s.moved r0).launchRead r0 ((s.thread r0).pair 4).toNat with
       | .ok (_, _, v) => (v.thread r0).unperformed
       | .error _ => false)) = true ∧
    (match office.bears 0 0 with | .ok l => l.id | .error _ => 0) = 3 ∧ (match office.bears 0 1 with | .ok _ => 0 | .error st => st) = 1 := by decide +kernel

theorem witness_NodeBinding :
    (let s := withRec (withMem (regs0 office [(2, 5), (3, 0x800)]) 0x100000 (hdrFor 5)) 0x800 nodeDesc
     !(s.tmplHeld r0 0x800) && runs0 (holding0 s) .always && (holding0 s).tmplHeld r0 0x800) = true ∧
    (let s := withRec (withMem (regs0 office [(2, 5), (3, 0x800)]) 0x100000 (hdrFor 5)) 0x800 nodeDesc
     let u := s.moved r0
     runs0 s .always && s.node 0 0 5 == none && recAt s 0x800 32 nodeDesc && s.descOk 0 0 5 nodeDesc &&
     (match u.tmplRead r0 nodeDesc with
      | some (h, es, gi, v) =>
        let w := v.release r0 .dev
        let op : LockOp := { w.newOp r0 0 .dev (.ring 5 2) [] [ringRng 0 5 nodeDesc] 0 with id := w.serial, desc := nodeDesc ++ h ++ (gi.map splitD).flatten }
        v.tmplOk 0 0 5 nodeDesc h es && w.bump.lockReady w.regQueue op
      | none => false)) = true ∧
    (let s := waitsLoad (withRec (withMem (regs0 office [(2, 5), (3, 0x800)]) 0x100000 (hdrFor 5)) 0x800 nodeDesc) (.atomic 2 atom0)
     runs0 s .always && recAt s 0x800 32 nodeDesc && !((s.thread r0).loads.any LoadOp.acquires) &&
     (match (s.moved r0).tmplRead r0 nodeDesc with
      | some (h, es, _, v) => v.tmplOk 0 0 5 nodeDesc h es && (v.thread r0).unperformed
      | none => false)) = true ∧
    ((wide.thread r0).reg 16).toNat = 1024 ∧ 0x801 % 32 ≠ 0 ∧
    office.descOk 0 0 5 (nodeDesc.set 2 0) = false ∧ (office.moved r0).tmplRead r0 nodeDesc = none ∧
    runs0 noded .always = true ∧ noded.node 0 0 5 = some node5 ∧ node5.pending = [] ∧ node5.running = 0 ∧ noded.node 0 0 6 = none ∧
    (let s := { noded with nodes := [{ node5 with pending := [(0, 0)], running := 1 }, { node5 with id := 1022 }] }
     runs0 s .always && ((s.node 0 0 5).map (fun n => n.pending)) == some [(0, 0)] && ((s.node 0 0 1022).map (fun n => n.running)) == some 0) = true :=
  by decide +kernel

/-- Thread 0 holds slot 0 of node 5 and slot 1 of the blend node, and works on the record of slot 2. -/
def holding : State :=
  { with0 noded (fun t => { t with holds := [{ node := 5, lock := 4, slot := 0, count := 1 }], record := some (5, 2) }) with
    dies := [{ Die.fresh 0 with blendHead := 2, blendRes := [{ slot := 1, gid := 1, tid := 0, count := 9 }] }, Die.fresh 1] }

theorem witness_AdmissionAndRecords :
    Runs office .always r0 (office.moved r0) ∧ (∀ p, p < 4 → (office.holds 3 p = true ↔ p = 0)) ∧
    ((office.die 0).cells[3]?) = some (0, 0) ∧
    (let s := office.updDie 0 (fun d => { d with cells := d.cells.set 3 (26000, 0) })
     runs0 s .always && (s.die 0).cells[3]? == some (26000, 0)) = true ∧ ((office.thread r0).reg 1).toNat = 64 ∧ ((office.thread r0).reg 0).toNat = 0 ∧
    ((office.thread r0).reg 2).toNat < 160 ∧ 160 ≤ ((office.thread r0).reg 4).toNat ∧
    runs0 holding .always = true ∧ holding.node 0 0 5 = some node5 ∧ node5.free? = some 0 ∧
    ({ node5 with slots := [.full, .full, .full, .full] } : Node).free? = none ∧
    (holding.die 0).blendRes.any (fun x => x.slot == (holding.die 0).blendHead) = false ∧
    ((holding.updDie 0 (fun d => { d with blendHead := 1 })).die 0).blendRes.any (fun x => x.slot == 1) = true ∧
    (⟨5, 4, 0, 1⟩ : RecHold) ∈ (holding.thread r0).holds ∧ passes holding .core 0x40 16 false = true ∧ nodeRec nodeDesc = 32 ∧
    (holding.die 0).blendRes.any (fun x => x.slot == 1 && x.gid == 1 && x.tid == 0 && x.count == 9) = true ∧ holding.node 0 0 1023 = none ∧
    (let s := waitsLoad holding (.atomic 2 { atom0 with kind := .acq })
     runs0 s .always && s.acquires r0) = true ∧
    (holding.thread r0).record = some (5, 2) ∧ (holding.thread r0).recDone = false ∧ (wide.thread r0).record = none ∧
    (7 : Nat) < nodeRec nodeDesc / 4 ∧ nodeRec nodeDesc / 4 ≤ 8 ∧ (holding.thread r0).unperformed = false ∧
    (let s := waitsLoad holding (.record 3 7)
     runs0 s .always && (s.thread r0).reading && !(s.thread r0).unperformed) = true ∧
    (let s := waitsLoad holding (.atomic 2 atom0)
     runs0 s .always && (s.thread r0).unperformed && !(s.thread r0).reading) = true ∧
    (let s := with0 holding (fun t => { t with recDone := true })
     runs0 s .always && (s.thread r0).recDone) = true :=
  ⟨runs0_spec _ _ (by decide +kernel), by decide +kernel⟩

/-- The holder's partition 0 owns clusters 0 to 15; partition 1 owns cluster 1 with it. -/
def shared : State :=
  { ctl with parts := [Part.whole, { Part.fresh 1 with clusters := 2 }, Part.fresh 2, Part.fresh 3] }

theorem witness_ContextMoves :
    Runs shared .always r0 (shared.moved r0) ∧ (shared.moved r0).ctxStatus 0 0 4 2 = 1 ∧ (shared.moved r0).ctxStatus 0 0 2 2 = 2 ∧
    (shared.moved r0).ctxStatus 0 2 1 2 = 3 ∧ shared.commonHolder 2 = some 0 ∧ (shared.moved r0).ctxStatus 0 0 1 2 = 0 ∧ shared.ctxHalted 0 0 1 2 = false ∧
    shared.atRest 0 2 = true ∧ (shared.moved r0).ctxStatus 0 1 0 2 = 0 ∧
    (let s := { shared with
       held := (List.range 16).filterMap (fun c => if c = 1 then none else some (c, 0)),
       parts := [Part.whole, { Part.fresh 1 with clusters := 2, saved := [{ clusters := 2, place := 0, time := 0, stops := [] }] }, Part.fresh 2, Part.fresh 3] }
     runs0 s .always && (s.moved r0).ctxStatus 0 2 1 2 == 0 && !(s.ctxHalted 0 2 1 2)) = true ∧
    (let s := { shared with
       groups := shared.groups ++ [{ Group.none with gid := 2, core := 8 }],
       threads := shared.threads ++ [{ thread0 0 with gid := 2, loads := [.value 0 []] }] }
     runs0 s .always && (s.moved r0).ctxStatus 0 0 1 2 == 0 &&
       s.threads.any (fun t => (s.group t.gid).within 0 2 && t.loads != [])) = true ∧
    (let s := shared.updPart 1 (fun p => { p with contained := true })
     runs0 s .always && s.ctxHalted 0 0 1 2) = true :=
  ⟨runs0_spec _ _ (by decide +kernel), by decide +kernel⟩

/-! ### Events -/

def isTid (tid : Nat) : Option Thread → Bool
  | some t => t.gid == 1 && t.tid == tid
  | none => false

theorem witness_ThreadEvents :
    (let s := ev wide 0 0
     s.bundle.isNone && ((s.rdy 0).filter (fun t => t.handler)).isEmpty && (s.blockedFor 0 (s.rdy 0)).isNone && isTid 0 (s.pickFirst 0 (s.rdy 0) true)) = true ∧
    (let s := ev (with0 wide (fun t => { t with handler := true })) 0 0
     !((s.rdy 0).filter (fun t => t.handler)).isEmpty && isTid 0 (s.pickFirst 0 ((s.rdy 0).filter (fun t => t.handler)) false)) = true ∧
    (let s := ev (wide.updCtxOf r0 (fun c => { c with act := 96 })) 0 0
     ((s.rdy 0).filter (fun t => t.handler)).isEmpty && s.blockedFor 0 (s.rdy 0) == some 0) = true ∧
    (let s := ev { wide with threads := wide.threads.map (fun t => { t with meet := some 3 }) } 0 0
     let v := s.stampMeetings 0 0
     ((v.rdy 0).filter (fun t => t.handler)).isEmpty && isTid 0 (v.meetNext 0) && !(v.actFull 0 0) && ((ev wide 0 0).stampMeetings 0 0).meetNext 0 == none) =
      true ∧
    (let s := ev (({ wide with threads := wide.threads.map (fun t => { t with meet := some 3 }) } : State).updCtxOf r0 (fun c => { c with act := 96 })) 0 0
     let v := s.stampMeetings 0 0
     isTid 0 (v.meetNext 0) && v.actFull 0 0) = true ∧
    (let s := ev { wide with threads := wide.threads.map (fun t => { t with meet := some 3, handler := true }) } 0 0
     match (s.stampMeetings 0 0).meetNext 0 with | some t => t.handler | none => false) = true ∧
    (let s := ev (with0 wide (fun t => { t with line := none })) 1 0
     s.needsLine (s.thread r0) && !(s.lineHeld r0) && !((ev wide 1 0).needsLine (wide.thread r0)) && (match s.fetch (s.partOf r0) (s.coreOf r0) (s.thread r0).pc.toNat with | (.line _ _, _) => true | _ => false)) = true ∧
    (let s := ev (with0 wide (fun t => { t with line := some { va := 0x10000, line := 0x400, words := nops, bad := true } })) 1 0
     ((s.thread r0).lineAt.map (fun x => x.bad)) == some true && parityGood (s.refetch 0 0x400).1) = true ∧
    (let s := withMem (ev (with0 wide (fun t => { t with line := some { va := 0x10000, line := 0x400, words := nops, bad := true } })) 1 0) 0x10000 [1]
     ((s.thread r0).lineAt.map (fun x => x.bad)) == some true && !(parityGood (s.refetch 0 0x400).1)) = true ∧
    ((parked .fbar).mayWake ((parked .fbar).thread r0) && ((parked .fbar).unpark r0).isSome) = true ∧
    ((parked (.wait 0 0 0 0)).mayWake ((parked (.wait 0 0 0 0)).thread r0) && (parked (.wait 0 0 0 0)).waitMet r0 0 0 0 0) = true ∧
    (parked (.sleep 0)).dtb = 0 ∧
    (let held := fun (s : State) => { parkedOn s .settle with waiting := [{ wide.bnd with ins := some .nopCompact }] }
     wakes (held lagging) && ((held lagging).thread r0).unperformed && wakes (held wide) && !((held wide).thread r0).unperformed &&
     (((held wide).waiting.find? (fun x => x.refs.contains r0)).map (fun x => x.refs)) == some [r0] && !(fetches .nopCompact)) = true ∧
    (wakes (parked (.hitr false 8)) && ((parked (.hitr true 8)).thread r0).loads == []) = true ∧
    ((parkedOn (wide.updPart 0 (fun p => { p with contained := true })) .fbar).mayWake (wide.thread r0) = false) ∧
    (let s := parkedOn barred (.bar false 1)
     wakes s && (s.unpark r0).isNone) = true ∧
    (let s := ev (wide.updWaveOf r0 (fun w => { w with cause := 1 })) 1 0
     s.trapped (s.thread r0) && s.atBoundary (s.thread r0)) = true ∧ (ev wide 1 0).trapped (wide.thread r0) = false ∧
    ((parked (.lfenceArray [])).thread r0).park = .lfenceArray [] ∧ (Scope.cor).num < 4 ∧ 
    ((parked (.fence .rel .cor)).thread r0).loads = [] ∧ ((parked (.fence .rel .cor)).thread r0).stores = [] ∧
    (parked (.efence false .cor)).ccOf r0 = 0 ∧
    ((parked .word).thread r0).counted = false ∧ (parked .word).rawClk ((parked .word).coreOf r0) - ((parked .word).thread r0).since ≤ 2 ^ 24 ∧
    (let s : State := { parked .word with now := 2 ^ 24 + 1 }
     let v := (s.setCause r0 causeFewait).upd r0 (fun t => { t with counted := true })
     let w := v.updWaveOf r0 (fun w => { w with tmask := 0xFFFFFFFF })
     decide (2 ^ 24 < s.rawClk (s.coreOf r0) - (s.thread r0).since) && !(v.enters r0 causeFewait) && w.enters r0 causeFewait) = true ∧
    (let s : State := { parked (.record 5 2) with now := 2 ^ 24 + 1 }
     let v := (s.setCause r0 causeRecfull).upd r0 (fun t => { t with counted := true })
     let w := v.updWaveOf r0 (fun w => { w with tmask := 0xFFFFFFFF })
     decide (2 ^ 24 < s.rawClk (s.coreOf r0) - (s.thread r0).since) && !(v.enters r0 causeRecfull) && w.enters r0 causeRecfull) = true := by
  decide +kernel

/-- At an event of thread 0, which has one operation outstanding; or an earlier load beside it. -/
def storing (o : StoreOp) : State := ev (waitsStore wide o) 1 0
def loading (o : LoadOp) : State := ev (waitsLoad wide o) 1 0
def storeAfter (l : LoadOp) (o : StoreOp) : State :=
  ev (with0 wide (fun t => { t with ops := 2, loads := [l], loadAt := [(0, 0)], stores := [o], storeAt := [(0, 1)] })) 1 0
def loadAfter (o : StoreOp) (l : LoadOp) : State :=
  ev (with0 wide (fun t => { t with ops := 2, loads := [l], loadAt := [(0, 1)], stores := [o], storeAt := [(0, 0)] })) 1 0

theorem witness_AccessEvents :
    (loading (.value 2 [7])).hasThread r0 = true ∧
    ([.value 2 [7], .record 2 7, .late none 2 .plain (locScratch 1 0x40) 4 (.size .b32), .tagq 2 (locScratch 1 0) 4, .bqry 2 false 1, .binit 2 false 1 5,
      .atomic 2 atom0] : List LoadOp).all (fun o => ((loading o).thread r0).loads == [o]) = true ∧
    ((loading (.late none 2 .plain (locScratch 1 0x40) 4 (.size .b32))).thread r0).behind 0 (locScratch 1 0x40) 4 = false ∧
    (let s := loadAfter (.red atom0) (.late none 2 .plain (locScratch 1 0x40) 4 (.size .b32))
     (s.thread r0).loadNo == 1 && (s.thread r0).behind 1 (locScratch 1 0x40) 4) = true ∧
    (let s := loading (.late (some (0, 0)) 2 .plain 0x40 4 (.size .b32))
     (s.thread r0).loads == [.late (some (0, 0)) 2 .plain 0x40 4 (.size .b32)] && s.l2May 0 (some (0, 0)) && !((holding0 s).l2May 0 (some (0, 0))) &&
     (s.part 0).domain.gen == 0 && (s.part 0).domain.slices.getLsbD 0 && !(s.l2May 0 (some (1, 0))) && !(s.repairsAt (.phys 0x40))) = true ∧
    (let s := loading (.fetched 0x1000000000000 2 [7])
     (s.thread r0).loads == [.fetched 0x1000000000000 2 [7]] && !(s.repairs 0x1000000000000) &&
     ({ s with repair := [0] } : State).repairs 0x1000000000000) = true ∧
    wide.closedAt (.phys 0x2000000000000) = false ∧
    (wide.updDie 0 (fun d => { d with display := some { display0 with vat := 32 } })).closedAt (.phys 0x2000000000000) = true ∧
    (let o : StoreOp := .write 5 .cor false 0x40 [1]
     let s := storing o
     (s.thread r0).stores == [o] && !(s.lowerWrites 5 r0 0x40 1) && !(s.pathHeld 0 0x40) && (holding0 s).pathHeld 0 0x40) = true ∧
    (let s := loading (.tagq 2 (locScratch 1 0) 4)
     !((s.thread r0).tagsBefore 0) && !((s.thread r0).acquiring 0) && (loadAfter (.tags (locScratch 1 0) 1 true) (.tagq 2 0 4) |>.thread r0).tagsBefore 1) =
      true ∧
    (let s := ev (waitsLoad barred (.bqry 2 false 1)) 1 0
     !((s.thread r0).barBefore 0 false 1) && !(s.bqryFree r0 false 1)) = true ∧
    (loading (.atomic 2 atom0)).atomMay r0 atom0 0 = true ∧
    ((storing (.store .cor none)).thread r0).stores = [.store .cor none] ∧
    (let s : State := { storing (.store .dev (some 0x1000000000000)) with repair := [0] }
     s.repairs 0x1000000000000) = true ∧
    (let o : StoreOp := .write 5 .cor true (locScratch 1 0x40) [1]
     let s := storing o
     !((s.thread r0).behind 0 (locScratch 1 0x40) 1) && (s.thread r0).doneBefore 0 && !((storeAfter (.atomic 2 atom0) o).thread r0).doneBefore 1 &&
     (((storeAfter (.atomic 2 atom0) o).thread r0).storeNo == 1)) = true ∧
    (let o : StoreOp := .tags (locScratch 1 64) 1 true
     ((storing o).thread r0).doneBefore 0 && !((storeAfter (.atomic 2 atom0) o).thread r0).doneBefore 1) = true ∧
    (storing (.red atom0)).atomMay r0 atom0 0 = true ∧
    (let s := ev { wide with threads := [{ thread0 0 with ops := 1, loads := [.atomic 3 atom0], loadAt := [(0, 0)] },
                                         { thread0 1 with ops := 1, stores := [.red atom0], storeAt := [(0, 0)] }] } 1 1
     (s.thread r1).loads == [] && !(s.atomMay r1 atom0 0)) = true ∧
    ((storing (.maint true)).thread r0).stores = [.maint true] ∧ (storing (.tlbinv [])).flown [] = true ∧
    (storeAfter (.atomic 2 atom0) (.tlbinv [(1, 0, 0)])).flown [(1, 0, 0)] = false ∧
    canonical (ev wide 0 0x1000).arg.b = true ∧ (ev wide 0 0x1000).leafOf 0 0 0x1000 = some leaf0 ∧ (ev wide 0 0).leafOf 0 0 0x40000000 = none ∧
    (ev { wide with buffered := [3] } 3 0).bufRepair 3 = false ∧
    ({ ev wide 0 0 with domNew := [(1, 0, [(0, Domain.whole)])] } : State).domNew = [(1, 0, [(0, Domain.whole)])] ∧
    ((ev (wide.updPart 0 (fun p => { p with laydivNew := [(1, 0, laydivReset)] })) 0 0).part 0).laydivNew = [(1, 0, laydivReset)] ∧
    isHost ((ev wide 0x200000000000 0).arg.a * 64) = true ∧
    (let s := storing (.arrive 7 false 1 false none)
     (s.arrivers 7).all (Thread.mayArrive 7) && !(s.arrivers 7).isEmpty) = true ∧
    (let s := storeAfter (.value 2 [7]) (.arrive 7 false 1 false none)
     !((s.arrivers 7).all (Thread.mayArrive 7))) = true ∧
    (let s := ev { wide with threads := wide.threads.map (fun t => { t with park := .bar false 1 }) } 1 0
     s.barDead 1 false) = true ∧
    (let s := ev { wide with threads := wide.threads.map (fun t => { t with park := .bar true 1 }) } 1 0
     !(s.barDead 1 false) && s.barDead 1 true) = true ∧ (ev wide 1 0).barDead 1 true = false := by
  decide +kernel

/-- Group 1 with one command in its stream's window. -/
def cmd0 (i : Instr) (k : Cmd) (f : WinCmd → WinCmd) : Stream :=
  let m := (Stream.start 0 0x10000 4 0).accept 0 [] i k
  { m with window := m.window.map f }
def working (m : Stream) : State :=
  { ev (wide.updGroup 1 (fun g => { g with stream := some m })) 1 0 with
    ctxs := (wide.updCtxOf r0 (fun c => { c with ranges := [{ n := 2, owner := 1, rcd := ladRec }] })).ctxs }
def noCmd : Cmd := ⟨0, 63, 63⟩
def rowsCmd (lad : Bool) (rows : Nat) : Stream :=
  cmd0 (.mstr noCmd lad 0 2 0 15) noCmd (fun c => { c with issued := true, rows := rows, total := 16, prog := if lad then some { tile := 0, rung := 0, topped := false } else none })

theorem witness_EngineEvents :
    (let op := copyOp wide (wide.engRng 1 .core 0 64) (wide.engRng 1 .core 64 64)
     let s := ev { wide with regQueue := [op] } 0 0
     (s.regFirst 0 == some op) && !op.again) = true ∧
    (let op := copyOp wide (wide.engRng 1 .core 0 64) (wide.engRng 1 .core 64 64)
     (ev { wide with locks := [op] } 7 0).lockById 7 == some op && !op.acked && ((ev wide 7 0).lockById 7).isNone) = true ∧
    (let op := { copyOp wide (wide.engRng 1 .core 0 64) (wide.engRng 1 .core 64 64) with again := true }
     (ev { wide with regQueue := [op] } 0 0).regFirst 0 == some op) = true ∧
    (ev wide 0 0).regFirst 0 = none ∧
    (let op := { copyOp wide (wide.engRng 1 .core 0 64) (wide.engRng 1 .core 64 64) with acked := true }
     let s := ev { wide with locks := [op] } 7 0
     let many := ev { wide with locks := (List.range 16).map (fun k => { op with id := 100 + k }) ++ [op] } 7 0
     s.lockById 7 == some op && s.opMay op && s.copyInUnit op && decide (op.kind = .copy) && many.lockById 7 == some op && !(many.copyInUnit op) &&
     !(s.opMay { op with acked := false })) = true ∧
    (match (wide.boxOp 0 0 false bound0 0) with
     | some op =>
       let op := { op with acked := true }
       let s := ev { bound with locks := [op] } 7 0
       s.lockById 7 == some op && s.opMay op && op.kind == .box false 0
     | none => false) = true ∧
    (let s := ev (wide.updCtxOf r0 (fun c => c.setEng false (some bound0))) 0 0
     let v := s.bump.updCtx 0 0 (fun c => c.setEng false (some { bound0 with next := 1 }))
     s.boxMay 0 0 false && ((s.ctx 0 0).eng false == some bound0) &&
     (match s.boxOp 0 0 false bound0 bound0.next with
      | some op => v.lockReady v.regQueue op && !(v.lockReady [op] op)
      | none => false)) = true ∧
    (let m := Stream.start 0 0x10000 4 0
     let s := working m
     !(s.fetchHeld 0 0 m.fetch.toNat) && !(s.issuesNow 1) && (repairing s).fetchHeld 0 0 m.fetch.toNat && (working stream0).issuesNow 1 &&
     !m.ended && m.fault.isNone && decide (m.window.length < 16) && parityGood nops && (lineStarts nops).isSome &&
     (match s.fetch 0 0 m.fetch.toNat with | (.line _ ws, _) => ws == nops | _ => false)) = true ∧
    ((working stream0).issueNext 0 1 == some (1, 0) && ((ev wide 1 0).issueNext 0 1).isNone) = true ∧
    (ev wide 0 0).boxMay 0 0 false = false ∧
    (let m := rowsCmd false 16
     (working m).streamOf 1 == some m && (m.window.find? (m.mayRetire 0)).isSome) = true ∧
    (let m := cmd0 (.mwaitb noCmd false 1) noCmd id
     let s : State := { working m with threads := wide.threads.map (fun t => { t with park := .bar false 1 }) }
     s.coreOpen 0 0 && s.mwaitbDead 1 m && !((working m).mwaitbDead 1 m) && m.stood.isNone && m.fault.isNone &&
     !m.window.isEmpty && decide (4096 ≤ ({ s with now := 5000 } : State).rawClk 0 - 0)) = true ∧
    (let s := (working (rowsCmd false 3)).updCore 0 (fun c => { c with busyTo := 3, rowRate := 2 })
     (s.rowGoesOn 0 0).arrayHeld 0 0 && ((s.rowGoesOn 0 0).coreSt 0).occupied == 1 && !((s.rowGoesOn 0 3).arrayHeld 0 3)) = true ∧
    (let m := rowsCmd false 3
     let s := working m
     let full : State := s.updCtxOf r0 (fun c => { c with act := 96 })
     (s.rowNext 0 true).map (fun p => (p.1.gid, p.2)) == some (1, 0) && (s.rowNext 0 false).isNone && !(s.arrayHeld 0 0) && !(s.actFull 0 0) &&
     (full.rowNext 0 true).isSome && full.actFull 0 0 && (s.updCore 0 (fun c => { c with occupied := 1024 })).arrayHeld 0 0) = true ∧
    (let m := cmd0 (.mldw noCmd false .e2m1 .none .b32 0) noCmd id
     let s : State := { working m with groups := (working m).groups ++ [{ (working m).group 1 with gid := 2 }] }
     ((working m).fetchNext 0).map (fun p => (p.1.gid, p.2)) == some (1, 0) && ((working stream0).fetchNext 0).isNone &&
     ((s.fetchNext 0).map (fun p => p.1.gid)) == some 1) = true ∧
    (let m := rowsCmd true 16
     let s := working m
     m.window.findIdx? (fun c => c.issued && decide (c.total ≤ c.rows) && c.prog.isSome && decide (c.hold ≤ s.now)) == some 0 &&
     s.streamOf 1 == some m && s.engineRuns 0 0) = true := by decide +kernel

/-- Die 0's row engine, at an event on thread 0 or on the die. -/
def showing (f : Display → Display) (a b : Nat) : State := ev (shown.updDisp 0 f) a b
/-- The sample node of die 0, and positions of tile 0 in the queue. -/
def waveNode : Node := { node5 with id := 1022 }
def queued : Display := { display0 with queue := [(0, 0, 0)], visit := 1 }

theorem witness_FixedUnitEvents :
    (let s := ev (waitsStore shown (.priow 3 .gaze 0 5)) 1 0
     s.priows r0 == [0] && (ev shown 1 0).priows r0 == []) = true ∧
    (let s := ev (waitsStore shown (.priowWt 3 5)) 1 0
     s.priows r0 == [0]) = true ∧
    (let s := ev (with0 shown (fun t => { t with ops := 2, stores := [.priow 3 .err 0 5, .priowWt 4 5], storeAt := [(0, 0), (0, 1)] })) 1 0
     s.priows r0 == [0, 1]) = true ∧
    (let s := ev ({ shown with threads := [{ thread0 0 with stores := [.priow 3 .gaze 0 5] },
                                            { thread0 1 with ops := 1, stores := [.priow 3 .gaze 0 6], storeAt := [(0, 0)] }] } : State) 1 1
     s.priows r1 == [] && decide ((s.thread r0).tid < (s.thread r1).tid)) = true ∧
    (let blk : List Word := List.replicate 8 0
     let s := ev (with0 shown (fun t => { t with stores := [.vput 3 blk false false] })) 1 0
     s.firstOrdered r0 3 && (s.die 0).display == some display0 && (sampleTile dispCfg (hdrW blk 0)).isSome) = true ∧
    ((ev (shown.updDie 0 (fun d => { d with overlap := [{ blk := List.replicate 8 0, gid := 1, tid := 0 }] })) 0 0).die 0).overlap ≠ [] ∧
    (let rng := shown.engRng 1 .core 0x40 16
     let op : LockOp := { shown.newOp r0 0 .dsp (.rowput 4 4) [rng] [] 16 with id := 9 }
     let s := ev (with0 { shown with locks := [op] } (fun t => { t with stores := [.rowput 9 4 4] })) 1 0
     let op1 := { op with acked := true }
     let u : State := { s with locks := [op1] }
     s.lockById 9 == some op && !op.acked && u.lockById 9 == some op1 && !(u.rowputBefore op1 4) && !(u.opRepairs op1) &&
     (u.die op.die).display == some display0 && !(u.rowLocked display0 4) && ({ u with dtbBase := 2 ^ 40 } : State).rowLocked display0 4 &&
     (match u.engRead op.gid rng.sp rng.lo rng.len with | .ok _ => true | .error _ => false) && u.rowputBefore { op1 with id := 10 } 4) = true ∧
    (showing id 0 0).dtb = 0 ∧ display0.visitAt display0.visit = 10000 - 4096 - 4096 ∧ ({ showing id 0 0 with dtbBase := 4000 } : State).dtb = 4000 ∧
    display0.deadline 0 = 10000 - 4096 ∧
    (let s := showing (fun _ => queued) 0 0
     let t := { s with nodes := [waveNode] }
     let full : Node := { waveNode with slots := [.full, .full, .full, .full] }
     t.sampleNode 0 == some waveNode && waveNode.firstEmpty == some 0 && full.firstEmpty == none && !queued.waiting &&
     ({ waveNode with slots := [.full, .full, .empty, .full] } : Node).firstEmpty == some 2 &&
     decide ((t.dtb : Int) < queued.deadline 0) && decide (queued.deadline 0 ≤ (10000 : Int))) = true ∧
    (decide (((showing id 0 0).dtb : Int) < display0.light display0.nl - 4096) &&
      decide (display0.light display0.nl - 4096 ≤ (({ showing id 0 0 with dtbBase := 6000 } : State).dtb : Int))) = true ∧
    (let s : State := { ev wide 0 0 with arg := { (ev wide 0 0).arg with disp := some dispSet, data := block0 } }
     (match s.outputOf 0 with
      | some p => s.parts.all (fun q => !(q.onDie 0) || q.vatIs (layVat p.laydiv)) && blkValid block0 0 && s.dispCfg 0 block0 dispSet == dispCfg &&
        dispValid dispCfg 0 (layVat p.laydiv) ((s.arg.data.getD 18 0).getLsbD 0)
      | none => false) && (s.die 0).display.isNone) = true ∧ blkValid block0 1 = false ∧ blkValid (block0.set 0 0x7F) 0 = false ∧
    (let s := ev (with0 fixed (fun t => { t with stores := [.tri 6 0 (List.replicate 48 0)] })) 1 0
     s.triFirst 6 0 && !(s.unacked 6) && s.repair == [] && (s.die 0).drawBy 6 == some draw1 && draw1.st == .opened) = true ∧
    (let f : Frag := { px := 0, py := 0, seq := 0, rcd := List.replicate 8 0, home := none, ans := some blendNone }
     let w := { draw1 with emit := [f] }
     let d := { draw1 with frags := [f] }
     let e := { draw1 with ending := true }
     let s := fun (x : DrawSlot) => ev (fixed.updDie 0 (fun y => { y with draws := [x] })) 0 1
     ((s w).die 0).draw 1 == some w && w.emit == [f] && ((s e).die 0).draw 1 == some e && e.ending && !e.rastered && !((s e).trisLeft e.lock) &&
     ((s d).die 0).draws.findSome? (fun w => (firstReady [] w.frags).map (fun f => (w, f))) == some (d, f)) = true ∧
    (let s := ev (with0 fixed (fun t => { t with stores := [.curve 8 .line (List.replicate 8 0)] })) 1 0
     (s.die 0).pathBy 8 == some path1 && path1.st == .opened && !(s.unacked 8)) = true ∧
    (let w := { path1 with rule := some true }
     let s := ev (fixed.updDie 0 (fun d => { d with paths := [w] })) 0 1
     (s.die 0).path 1 == some w && !(s.curvesLeft w.lock) && !(s.unacked w.lock) && !((s.closers w.lock).any s.owes)) = true ∧
    (let ray : List Word := [0, 0, 0, 0x3F800000, 0, 0, 0, 0x447A0000]
     let s := loading (.trace ray 0x100000 false false)
     ((s.thread r0).loads == [.trace ray 0x100000 false false]) && (s.thread r0).doneBefore (s.thread r0).loadNo && s.repair == [] &&
     (s.walkRay r0 ray false false 65536 [.node 0x100000 1] []).fault.isNone) = true := by
  decide +kernel

/-- A node with one record waiting, at an event on it. -/
def pendingNode (p : Nat) : Node := { node5 with desc := nodeDesc.set 1 0x01000003, pending := [(0, 0)], producers := p }
def atNode (n : Node) : State :=
  { ev { wide with nodes := [n] } 0 0 with arg := { EventArg.none with a := 0, b := 0, c := 5 } }
/-- Launch 4 of partition 0 waits with one group of eight threads. -/
def waiting0 (h : List Word) : Launch :=
  { id := 4, seq := 1, part := 0, prio := 0, hdr := h, hdrVa := 0, ginit := [], next := 0, total := 1, live := 0, dl := none, time := 0, requeue := [],
    failed := false, why8 := false, die := none, node := none, recs := [], poss := [], raised := [] }
def queue0 (h : List Word) : State := ev { wide with launches := [waiting0 h] } 0 0

theorem witness_DispatchEvents :
    (let n := pendingNode 0
     (atNode n).node 0 0 5 == some n && n.id != 1022 && n.pending != [] && n.producers == 0) = true ∧
    (let n := { pendingNode 1 with desc := nodeDesc.set 1 0x02000003 }
     (atNode n).node 0 0 5 == some n && decide (n.pending.length < nodeThr n.desc) && n.producers != 0 &&
     decide (nodeAge n.desc ≤ ({ atNode n with now := 2 ^ 20 } : State).dieClk n.die - 0)) = true ∧
    ((queue0 (hdrFor 0xFFFF)).part 0).contained = false ∧ ((queue0 (hdrFor 0xFFFF)).part 0).inReset = false ∧
    ((queue0 (hdrFor 0xFFFF)).scanOrder 0 0).map (fun l => l.id) = [4] ∧
    (match ((queue0 (hdrFor 0xFFFF)).wakeEntries (waiting0 (hdrFor 0xFFFF)) 0).tryPlace (waiting0 (hdrFor 0xFFFF)) 0 [] with | .done _ => true | _ => false) = true ∧
    (let h := ((hdrFor 0xFFFF).set 20 1).set 21 0
     match ((queue0 h).wakeEntries (waiting0 h) 0).tryPlace (waiting0 h) 0 [] with | .bad => true | _ => false) = true ∧
    (let s := ev { wide with threads := wide.threads.map (fun t => { t with live := false }) } 1 0
     s.groupDone 1) = true ∧ (ev wide 1 0).groupDone 1 = false ∧
    (let s := ev (wide.updGroup 1 (fun g => { g with current := false, release := 5 })) 1 0
     !(s.group 1).current && decide (s.dtb < (s.group 1).release) && decide ((s.group 1).release ≤ ({ s with dtbBase := 5 } : State).dtb)) = true ∧
    (let s := ev (wide.updGroup 1 (fun g => { g with hdr := g.hdr.set 14 100, left := 0 })) 1 0
     (s.group 1).current && hdrBudget (s.group 1).hdr != 0 && (s.group 1).left == 0) = true := by decide +kernel

/-- The device right after reset, and an event on partition 0 with what it carries. -/
def atBoundary0 (a b c : Nat) : State := { State.reset with arg := { EventArg.none with a := a, b := b, c := c } }
/-- A partition without anything. -/
def nothingPart : PartCfg :=
  { clusters := 0, controls := 0, outputs := 0, laydiv := laydivReset, slices := 0, nh := 0, hs := [0, 0, 0, 0, 0], win0 := 0, win1 := 0,
    base0 := 0, base1 := 0, root := 0, grants := [] }

/-- An image whose header does not go with its body. -/
def imageBad : Image := { length := 1, version := 0, digest := 0, body := [], sign := [] }

/-- An image whose header goes with its body. -/
def imageGood : Image := { length := 0, version := 0, digest := sha3 [], body := [], sign := [] }

theorem witness_PlatformEvents :
    1 ≤ (atBoundary0 0 5 0).arg.b ∧ (atBoundary0 0 5 0).arg.b ≤ 5 ∧ (atBoundary0 3 5 0).arg.a < 4 ∧ (atBoundary0 0 0 1).arg.c ≠ 0 ∧
    (let one := fun (f : Thread → Thread) (b : Option Nat) =>
       ({ (ev wide 0 0).updCore 0 (fun c => { c with stalled := b }) with threads := [f (thread0 0)], now := 2 ^ 26 } : State)
     let at_ := fun (s : State) =>
       (s.threads.filter (fun x => (s.group x.gid).core == s.arg.a) == s.threads) && s.threads.all s.ready && decide (2 ^ 26 ≤ s.rawClk 0)
     at_ (one id (some 0)) && at_ (one id (some 1)) && at_ (one id none) && at_ (one (fun t => { t with handler := true, stood := some 5 }) none) &&
     ((one id (some 1)).coreSt 0).stalled == some 1) = true ∧
    (let s := (atBoundary0 0 0 0).updPart 0 (fun p => { p with contained := true })
     (s.part 0).contained && !(s.part 0).stopped) = true ∧
    State.reset.idle (.core 3) = true ∧ wide.idle (.core 0) = false ∧ Engine.core 3 ∉ State.reset.gated ∧ State.reset.idle (.array 3) = true ∧
    128 ≤ (atBoundary0 128 0 0).arg.a ∧ (atBoundary0 127 16 0).arg.a < 128 ∧
    (((State.reset.lanes.find? (fun l => l.1 == 127)).map (fun l => l.2)).getD 0) + 16 ≤ 16 ∧
    (atBoundary0 159 0 0).arg.a < 160 ∧ State.reset.groups = [] ∧ State.reset.spares = [] ∧ State.reset.spareLeft 3 = true ∧
    ({ State.reset with spares := [4] } : State).spareLeft 3 = false ∧ ({ State.reset with spares := [128, 129] } : State).spareLeft 130 = false ∧
    ({ State.reset with spares := [128, 129] } : State).spareLeft 144 = true ∧ (atBoundary0 1 0 1).arg.a < 2 ∧
    (atBoundary0 3 0 0).mailDrops 3 = false ∧ (atBoundary0 256 0 0).mailDrops 256 = true ∧ (atBoundary0 3 64 0).arg.b + ([] : List Byte).length ≤ 64 ∧
    State.reset.inReset = false ∧ State.reset.inDeviceReset.inReset = true ∧ wide.groups.any (fun g => g.part == 3) = false ∧
    ({ EventArg.none with part := some nothingPart } : EventArg).part = some nothingPart ∧ State.reset.mayAssign 3 nothingPart = true ∧
    State.reset.mayAssign 3 { nothingPart with outputs := 1 } = false ∧ (0, 0) ∈ (State.reset.assign 0 { nothingPart with clusters := 1 }).held ∧
    (0x1000 : Nat) % 4096 = 0 ∧ (0x1000 : Nat) + 4096 ≤ 2 ^ 51 ∧
    reserved 0x3F90000000 = true ∧ reserved (0x3F90000000 - 1) = false ∧ 0x3F90000000 - 1 < fittedLpddr ∧ fittedLpddr ≤ 0x4000000000 ∧
    pairing 0x3000 (toBytes 4 1 ++ toBytes 4 0x3F800000 ++ List.replicate 56 0) = some (1, 0x3F800000, 0, 0) ∧
    pairing 0x2000 (List.replicate 64 0) = none ∧ imageBad.version < ({ State.reset with rollback := 1 } : State).rollback ∧
    imageBad.length ≠ imageBad.body.length ∧
    ({ EventArg.none with images := [imageBad, imageGood] } : EventArg).images = [imageBad, imageGood] := by decide +kernel

theorem witness_Images : State.reset.rollback ≤ imageGood.version ∧ imageGood.length = imageGood.body.length ∧ imageGood.digest = sha3 imageGood.body :=
  ⟨Nat.zero_le _, by simp only [imageGood, List.length_nil], by simp only [imageGood]⟩

/-! ### Loads and stores -/

theorem witness_StoreFrames :
    Runs wide.bump .always r0 (wide.bump.moved r0) ∧ wide.lowerWrites wide.serial r0 (locScratch 1 0x40) 4 = false ∧
    wide.trails r0 (locScratch 1 0x40) 4 = false ∧ wide.trails r0 0x100000 4 = false ∧ (storeBytes .b32 ((wide.thread r0).block 1 1)).length = Size.bytes .b32 ∧
    wide.zeroing = [] ∧ lags wide (locScratch 1 0x40) 4 = false ∧ lags wide 0x100000 4 = false ∧
    (match (wide.moved r0).check r0 .core 0x40 4 4 true false with | .ok (.own loc, _) => loc == locScratch 1 0x40 | _ => false) = true ∧
    (let s := regs0 wide [(2, 0x100000), (3, 0)]
     runs0 s .always && (match (s.moved r0).check r0 .glob ((s.moved r0).ea r0 .glob 2 4 false (.imm 0)) 4 4 true false with
       | .ok (.phys pa, _) => pa == 0x100000 && decide (pa + 16 ≤ 2 ^ 56)
       | _ => false)) = true :=
  ⟨runs0_spec _ _ (by decide +kernel), by decide +kernel⟩

theorem witness_FailedAccesses :
    Runs wide .always r0 (wide.moved r0) ∧
    (let s := regs0 wide [(2, 0), (3, 0x80000000)]
     runs0 s .always && !(canonical ((s.moved r0).ea r0 .glob 2 4 false (.imm 0)))) = true ∧
    (wide.moved r0).ea r0 .core 1 4 false (.imm 1) % 4 = 0 ∧
    (let s := regs0 wide [(2, 0x41), (3, 0)]
     runs0 s .always && (s.moved r0).ea r0 .core 2 4 false (.imm 0) % 4 == 1 && canonical ((s.moved r0).ea r0 .glob 2 4 false (.imm 0))) = true ∧
    (let s := regs0 wide [(2, 4096), (3, 0)]
     runs0 s .always && (s.moved r0).ea r0 .lane 2 4 false (.imm 0) == 4096 && decide (hdrLane (s.group 1).hdr < 4096 + 4) &&
       decide (s.cmemSize 1 < 4096 + 4) && hdrLane (s.group 1).hdr == 4096) = true ∧
    (let s := regs0 wide [(2, 0x100000), (3, 0)]
     runs0 s .always && (match (s.moved r0).check r0 .chip 0x2000000 4 4 false false with | .error c => c == causeAccess | .ok _ => false) &&
       (match (s.moved r0).check r0 .glob 0x200000 4 4 true false with | .error c => c == causeXlate | .ok _ => false) &&
       decide (hdrScratch (s.group 1).hdr < (s.moved r0).ea r0 .core 2 4 false (.imm 0) + 4) &&
       (s.moved r0).ea r0 .core 2 4 false (.imm 0) % 4 == 0) = true ∧
    (let op := { copyOp wide (wide.engRng 1 .core 0 64) (wide.engRng 1 .core 64 64) with acked := true }
     let s : State := { wide with locks := [op] }
     runs0 s .always && (match (s.moved r0).rngOf r0 .core 64 4 with | some x => s.lockHit (s.dieOf r0) (s.partOf r0) x true | none => false) &&
     (match (s.moved r0).check r0 .core 64 4 4 true false with | .error c => c == causeLockhit | .ok _ => false)) = true ∧
    (wide.thread r0).handler = false ∧ (63 : Nat) < 64 :=
  ⟨runs0_spec _ _ (by decide +kernel), by decide +kernel⟩

/-! ### The whole machine -/

theorem witness_StepRunsTheDecodedInstruction :
    wide.command = none ∧ wide.bundle.isSome = true ∧ wide.bnd.refs.find? (fun q => (wide.thread q).live) = some r0 ∧
    ((wide.thread r0).line.map (fun u => u.words)) = some nops ∧
    (lineStarts nops).map (fun st => st.any (fun p => p.1 == wide.bnd.pc.toNat % 64 / 4)) = some true ∧
    (match decodeWords ((nops.take 15).drop (wide.bnd.pc.toNat % 64 / 4)) with
     | .ok (i, n) => i == .nopCompact && n == 1 && issueCheck i (hdrRegs (wide.group 1).hdr) false true == none
     | .error _ => false) = true ∧
    wide.bnd.ins = none ∧
    (match exec .nopCompact { wide.issueSpend wide.bnd .nopCompact r0 with
        bundle := some { wide.bnd with lat := latencyOf .nopCompact, ins := some .nopCompact } } with
     | .next _ => true
     | _ => false) = true ∧
    (match exec .nopCompact { wide with bundle := some { wide.bnd with ins := some .nopCompact } } with | .next _ => true | _ => false) = true ∧
    (match decodeWords (List.replicate 15 0) with | .error _ => true | .ok _ => false) = true ∧
    (lineStarts (List.replicate 16 0)).map (fun st => st.any (fun p => p.1 == 0)) = some false ∧
    issueCheck (.mbtake .always 0 0 (.imm 1)) 64 false true = some causeIllegal ∧ issueCheck .nopCompact 64 false false = none ∧
    lineStarts (nops.set 14 0x88010103) = none ∧ streamed.command = some (1, 0) ∧ (streamed.streamOf 1).bind (fun m => (m.window[0]?).map (fun c => c.ins)) = some (.mend ⟨0, 63, 63⟩) ∧
    (match exec (.mend ⟨0, 63, 63⟩) streamed with | .next _ => true | _ => false) = true ∧
    runsOn .perstAssert = .event ∧ State.reset.command = none ∧ State.reset.bundle = none ∧ State.reset.agenda = [] ∧
    (match exec .perstAssert State.reset with | .next _ => true | _ => false) = true := by decide +kernel

theorem witness_EncodedInstructionsDecode :
    (Instr.shr .always false 1 1 (.imm 3)).wellFormed = true ∧ encode (.shr .always false 1 1 (.imm 3)) = some [0x88010103, 0x00004100] := by
  decide +kernel

theorem witness_DecodedWordsAreTheirEncoding : decodeWords [0x88010103, 0x00004100, 0xFFFFFFFF] = .ok (.shr .always false 1 1 (.imm 3), 2) := by
  decide +kernel

theorem witness_MemoryReadsWhatWasWritten :
    Memory.wf [(3, 7), (9, 1)] = true ∧ Memory.wf [(3, 7), (3, 1)] = false ∧ Memory.wf [(3, 0)] = false ∧
    Memory.write [(3, 7), (9, 1)] 3 0 = [(9, 1)] := by decide +kernel

end Sys2Proof.Machine.Tests
end

