-- ==== Sys2Proof/Tests/Worked.lean ====
section
/-! SUPPORT. Worked examples and tables of the spec, each by one instruction on a small state: the words are the spec's where it gives them,
and every expected value is the spec's own. -/

-- One proof after another: many at once would need more memory than the check of the whole package has.
set_option Elab.async false

namespace Sys2Proof.Machine.Tests

/-- Decode the words and run what they mean. -/
def run (ws : List Word) (s : State) : State :=
  match decodeWords ws with
  | .ok (i, _) => after s (exec i s)
  | .error _ => s

def out (s : State) (k : Nat) : Word := (s.thread r0).regs.getD k 0

/-- Thread 0 with v0 and v1. -/
def two (a b : Word) : State := regs0 wide [(0, a), (1, b)]

/-- R92: ABS of -2^31. -/
theorem test_abs_least :
    out (after wide (exec (.abs .always false 2 0) (two 0x80000000 0))) 2 = 0x80000000 ∧
    out (after wide (exec (.abs .always true 2 0) (two 0x80000000 0))) 2 = 0x7FFFFFFF := by decide +kernel

/-- R95: the table of boundary cases. -/
theorem test_shift_amounts :
    ([(0x80000001, 31, 0x80000000, 0x00000001, 0xFFFFFFFF), (0x80000001, 32, 0, 0, 0xFFFFFFFF), (0x80000001, 0xFFFFFFFF, 0, 0, 0xFFFFFFFF),
      (0x7FFFFFFF, 40, 0, 0, 0)] : List (Word × Word × Word × Word × Word)).all (fun (a, b, l, r, n) =>
      out (after wide (exec (.shl .always false 2 0 (.v 1)) (two a b))) 2 == l && out (after wide (exec (.shr .always false 2 0 (.v 1)) (two a b))) 2 == r &&
      out (after wide (exec (.sar .always false 2 0 (.v 1)) (two a b))) 2 == n) = true := by decide +kernel

/-- 04: the table 0xA8 is p0 and (p1 or p2). -/
theorem test_plut_table :
    (List.range 8).all (fun k =>
      let s := with0 wide (fun t => { t with preds := BitVec.ofNat 8 k })
      ((run [0x8A0300A8, 0x21004100] s).thread r0).preds.getLsbD 3 == (k.testBit 0 && (k.testBit 1 || k.testBit 2))) = true := by decide +kernel

/-- 05: 1.0 and 1.5 × 2^-24 in the four rounding modes, and with both negated. -/
theorem test_fadd_rounding :
    (let s := two 0x3F800000 0x33C00000
     out (run [0x4C020001] s) 2 == 0x3F800001 && out (run [0x8C020001, 0x00000001] s) 2 == 0x3F800000 &&
     ((run [0x4C020001] s).thread r0).fflags == 1 &&
     [(Rnd.rne, 0x3F800001#32, 0xBF800001#32), (.rtz, 0x3F800000, 0xBF800000), (.rup, 0x3F800001, 0xBF800000), (.rdn, 0x3F800000, 0xBF800001)].all
       (fun (m, a, b) => addF fmtF32 m false false false 0x3F800000 0x33C00000 == (a.toNat, flNX) &&
         addF fmtF32 m false false false 0xBF800000 0xB3C00000 == (b.toNat, flNX))) = true := by decide +kernel

/-- 05: EXP2 of -149, and with .ftz. -/
theorem test_exp2_least_subnormal :
    out (run [0x92010000, 0x0000C000] (two 0xC3150000 0)) 1 = 1 ∧ ((run [0x92010000, 0x0000C000] (two 0xC3150000 0)).thread r0).fflags = 0 := by
  decide +kernel

/-- Eight threads of one 8-wide wave, met, with registers given by lane. -/
def eight (f : Nat → List (Nat × Word)) (alive : Nat → Bool) : State :=
  let refs := ((List.range 8).filter alive).map (fun k => ((1, k) : Ref))
  { wide with
    threads := (List.range 8).map (fun k =>
      { thread0 k with live := alive k, regs := (f k).foldl (fun rs p => rs.set p.1 p.2) (thread0 k).regs }),
    bundle := some { wide.bnd with refs := refs, meeting := some false } }
def outAll (s : State) (k : Nat) : List Word := s.threads.map (fun t => t.regs.getD k 0)

/-- 07: LXCH.down by 2 of 10 + %lane, without and with .wrap. -/
theorem test_lxch_down :
    outAll (after wide (exec (.lxch .always .down false false .full 3 2 (.imm 2)) (eight (fun k => [(2, BitVec.ofNat 32 (10 + k))]) (fun _ => true)))) 3 =
      [12, 13, 14, 15, 16, 17, 0, 0] ∧
    outAll (after wide (exec (.lxch .always .down true false .full 3 2 (.imm 2)) (eight (fun k => [(2, BitVec.ofNat 32 (10 + k))]) (fun _ => true)))) 3 =
      [12, 13, 14, 15, 16, 17, 10, 11] := by decide +kernel

/-- 07: the reduction of 2^24 and seven ones, with and without lane 5. -/
theorem test_lred_tree :
    (let vs := fun (k : Nat) => [(2, if k = 0 then 0x4B800000#32 else 0x3F800000)]
     outAll (run [0x99040200, 0x00000028] (eight vs (fun _ => true))) 4 == List.replicate 8 0x4B800003 &&
     out (run [0x99040200, 0x00000028] (eight vs (fun k => k != 5))) 4 == 0x4B800002 &&
     ((run [0x99040200, 0x00000028] (eight vs (fun _ => true))).thread r0).fflags == 1) = true := by decide +kernel

/-- 15: SCAN with a = 0.5 and b = 1, lane 5 resetting, slot h0 at +0. -/
theorem test_scan_reset :
    (let s0 := eight (fun _ => [(1, 0x3F000000), (2, 0x3F800000)]) (fun _ => true)
     let s := { s0 with threads := s0.threads.map (fun t => { t with preds := if t.tid = 5 then 4 else 0 }) }
     let t := run [0xAE030102, 0x0A000000] s
     outAll t 3 == [0x3F800000, 0x3FC00000, 0x3FE00000, 0x3FF00000, 0x3FF80000, 0x3F800000, 0x3FC00000, 0x3FE00000] &&
     (t.waveOf r0).carry.getD 0 1 == 0x3FE00000) = true := by decide +kernel

/-- 11: 2^24 plus 1.0, then plus 2.0, at a word of cluster memory. -/
theorem test_atomf_order :
    (let at_ := fun (opnd : DWord) (old : Nat) =>
       ({ bun := 0, loc := 0, n := 4, kind := .relaxed, rmt := false, scope := .clu, op := .flt .addF32, cas := false, opnd := opnd, new := 0 } : AtomReq).after old
     at_ 0x3F800000 0x4B800000 == some 0x4B800000 && at_ 0x40000000 0x4B800000 == some 0x4B800001) = true := by decide +kernel

/-- 17: the triangle that the ray along z meets from behind, with identifier 42. -/
theorem test_trace_leaf :
    (let ray : List Word := [0, 0, 0xBF800000, 0, 0, 0x3F800000, 0, 0x41000000]
     let leaf : List Word := [0xBF800000, 0xBF800000, 0x3F800000, 0x3F800000, 0xBF800000, 0x3F800000, 0xBF800000, 0x3F800000, 0x3F800000, 42, 0, 0]
     let w := fun (c : Bool) => ({ hits := (leafHit ray leaf c).toList, limit := false, fault := none } : Walk).result
     w false == ([0x40000000, 42, 0x3F000000, 0x3F000000], 3) && w true == (hitMiss, 0)) = true := by decide +kernel

/-- 02: the placed words of PLUT run as the next step after reset, and the machine goes on at the next instruction. -/
theorem test_placed_word_runs :
    (match step (State.reset.withFetchWord 64 0x210041008A0300A8) with
     | .next t => t.bundle.isNone && t.threads.length == 1 && t.threads.all (fun q => q.live && q.pc == 0x10008#64 || q.pc == 0x10040)
     | _ => false) = true := by decide +kernel

end Sys2Proof.Machine.Tests
end

section
/-! What the integer instructions (04) do thread by thread: the shapes in which they read and write, the arithmetic of their functions, and
the statements about them. -/

namespace Sys2Proof.Machine

/-! ### Operands and results of a thread of the bundle -/

/-- t is a listed thread of u with number r, and u has the groups of s: what makes the operands of r in u those of the record t. -/
structure Listed (s u : State) (r : Ref) (t : Thread) : Prop where
  groups : u.groups = s.groups
  apart : u.KeysApart
  mem : t ∈ u.threads
  is : t.is r = true

section
variable {s u : State} {r : Ref} {t : Thread}

theorem Listed.rd (h : Listed s u r t) (a : Reg) : u.rd r a = t.reg a := rd_listed h.apart h.mem h.is a
theorem Listed.rd64 (h : Listed s u r t) (a : Reg) : u.rd64 r a = t.pair a := rd64_listed h.apart h.mem h.is a
theorem Listed.pr (h : Listed s u r t) (p : BitVec 3) : u.pr r p = t.pred p := pr_listed h.apart h.mem h.is p
theorem Listed.src32 (h : Listed s u r t) (b : Src) : u.src32 r b = s.val32 t b := src32_listed h.groups h.apart h.mem h.is b
theorem Listed.src64 (h : Listed s u r t) (b : Src) : u.src64 r b = s.val64 t b := src64_listed h.groups h.apart h.mem h.is b

end

theorem rdW_32 (s : State) (r : Ref) (a : Reg) : s.rdW r false a = zext64 (s.rd r a) := rfl
theorem rdW_64 (s : State) (r : Ref) (a : Reg) : s.rdW r true a = s.rd64 r a := rfl
theorem srcW_32 (s : State) (r : Ref) (b : Src) : s.srcW r false b = zext64 (s.src32 r b) := rfl
theorem srcW_64 (s : State) (r : Ref) (b : Src) : s.srcW r true b = s.src64 r b := rfl

section
variable {i : Instr} {g : Guard} {d a : Reg} {b : Src}

/-- An instruction that writes one register. -/
theorem put_threadwise {v : State → Ref → Word} {x : State → Thread → Word}
    (hx : ∀ s, exec i s = .next (s.each g (fun s r => s.put r d (v s r)))) (h : ∀ {s u r t}, Listed s u r t → v u r = x s t) :
    Threadwise i g (fun s t => t.setReg d (x s t)) :=
  threadwise_by hx (fun _ _ => rfl) (fun _ _ => rfl) (fun _ _ _ _ hg hk ht hr => by rw [h ⟨hg, hk, ht, hr⟩])

/-- An instruction that writes a pair. -/
theorem put64_threadwise {v : State → Ref → DWord} {x : State → Thread → DWord}
    (hx : ∀ s, exec i s = .next (s.each g (fun s r => s.put64 r d (v s r)))) (h : ∀ {s u r t}, Listed s u r t → v u r = x s t) :
    Threadwise i g (fun s t => t.setPair d (x s t)) :=
  threadwise_by hx (fun _ _ => rfl) (fun _ _ => rfl) (fun _ _ _ _ hg hk ht hr => by rw [h ⟨hg, hk, ht, hr⟩])

/-- An instruction that writes a predicate. -/
theorem putPred_threadwise {p : BitVec 3} {v : State → Ref → Bool} {x : State → Thread → Bool}
    (hx : ∀ s, exec i s = .next (s.each g (fun s r => s.putPred r p (v s r)))) (h : ∀ {s u r t}, Listed s u r t → v u r = x s t) :
    Threadwise i g (fun s t => t.setPred p (x s t)) :=
  threadwise_by hx (fun _ _ => rfl) (fun _ _ => rfl) (fun _ _ _ _ hg hk ht hr => by rw [h ⟨hg, hk, ht, hr⟩])

/-- A logic operation at 32 bits: the low word of its function on the zero-extended operands. -/
theorem aluW_threadwise_32 {f : DWord → DWord → DWord} {x : State → Thread → Word}
    (hx : ∀ s, exec i s = .next (s.aluW g false d a b f)) (h : ∀ s t, lo32 (f (zext64 (t.reg a)) (zext64 (s.val32 t b))) = x s t) :
    Threadwise i g (fun s t => t.setReg d (x s t)) :=
  put_threadwise hx (fun l => by rw [rdW_32, srcW_32, l.rd, l.src32, h])

/-- A logic operation at 64 bits. -/
theorem aluW_threadwise_64 {f : DWord → DWord → DWord} {x : State → Thread → DWord}
    (hx : ∀ s, exec i s = .next (s.aluW g true d a b f)) (h : ∀ s t, f (t.pair a) (s.val64 t b) = x s t) :
    Threadwise i g (fun s t => t.setPair d (x s t)) :=
  put64_threadwise hx (fun l => by rw [rdW_64, srcW_64, l.rd64, l.src64, h])

/-- A shift at 32 bits: the low word of its function on the zero-extended operand. -/
theorem shiftW_threadwise_32 {f : Bool → DWord → Word → DWord} {x : State → Thread → Word}
    (hx : ∀ s, exec i s = .next (s.shiftW g false d a b f)) (h : ∀ s t, lo32 (f false (zext64 (t.reg a)) (s.val32 t b)) = x s t) :
    Threadwise i g (fun s t => t.setReg d (x s t)) :=
  put_threadwise hx (fun l => by rw [rdW_32, l.rd, l.src32, h])

/-- A shift at 64 bits. -/
theorem shiftW_threadwise_64 {f : Bool → DWord → Word → DWord} {x : State → Thread → DWord}
    (hx : ∀ s, exec i s = .next (s.shiftW g true d a b f)) (h : ∀ s t, f true (t.pair a) (s.val32 t b) = x s t) :
    Threadwise i g (fun s t => t.setPair d (x s t)) :=
  put64_threadwise hx (fun l => by rw [rdW_64, l.rd64, l.src32, h])

end

/-! ### Low words and zero extension -/

@[simp] theorem lo32_zext64 (x : Word) : lo32 (zext64 x) = x := by
  simp [lo32, zext64, BitVec.extractLsb'_setWidth_of_le, BitVec.extractLsb'_eq_self]

@[simp] theorem toNat_zext64 (x : Word) : (zext64 x).toNat = x.toNat := by
  simp only [zext64, BitVec.toNat_setWidth]
  omega

@[simp] theorem lo32_and (x y : DWord) : lo32 (x &&& y) = lo32 x &&& lo32 y := BitVec.extractLsb'_and
@[simp] theorem lo32_or (x y : DWord) : lo32 (x ||| y) = lo32 x ||| lo32 y := BitVec.extractLsb'_or
@[simp] theorem lo32_xor (x y : DWord) : lo32 (x ^^^ y) = lo32 x ^^^ lo32 y := BitVec.extractLsb'_xor

@[simp] theorem lo32_invB (inv : Bool) (y : Word) : lo32 (invB inv (zext64 y)) = if inv then ~~~y else y := by
  cases inv with
  | false => exact lo32_zext64 y
  | true => simp [invB, lo32, zext64, BitVec.extractLsb'_not_of_lt, BitVec.extractLsb'_setWidth_of_le, BitVec.extractLsb'_eq_self]

theorem lo32_and_invB (inv : Bool) (x y : Word) : lo32 (zext64 x &&& invB inv (zext64 y)) = x &&& (if inv then ~~~y else y) := by
  rw [lo32_and, lo32_zext64, lo32_invB]
theorem lo32_or_invB (inv : Bool) (x y : Word) : lo32 (zext64 x ||| invB inv (zext64 y)) = x ||| (if inv then ~~~y else y) := by
  rw [lo32_or, lo32_zext64, lo32_invB]
theorem lo32_xor_invB (inv : Bool) (x y : Word) : lo32 (zext64 x ^^^ invB inv (zext64 y)) = x ^^^ (if inv then ~~~y else y) := by
  rw [lo32_xor, lo32_zext64, lo32_invB]

theorem lo32_ofNat (n : Nat) : lo32 (BitVec.ofNat 64 n) = BitVec.ofNat 32 n := by
  apply BitVec.eq_of_toNat_eq
  simp only [lo32, BitVec.extractLsb'_toNat, BitVec.toNat_ofNat, Nat.shiftRight_zero]
  omega

/-! ### Narrowing (R89) -/

section
variable {n : Nat} (ty : IntTy)

@[simp] theorem ofInt_asTy (x : BitVec n) : BitVec.ofInt n (asTy ty x) = x := by
  cases ty with
  | i => exact BitVec.ofInt_toInt
  | n => simp [asTy]

theorem ofInt_sub (x y : Int) : BitVec.ofInt n (x - y) = BitVec.ofInt n x - BitVec.ofInt n y := by
  rw [Int.sub_eq_add_neg, BitVec.ofInt_add, BitVec.ofInt_neg, BitVec.sub_eq_add_neg]

theorem narrow_wrap (x : Int) : narrow ty false n x = BitVec.ofInt n x := rfl

theorem narrow_sat_i32 (x : Int) : narrow .i true 32 x = BitVec.ofInt 32 (min (max x (-2147483648)) 2147483647) := rfl

theorem narrow_sat_i64 (x : Int) :
    narrow .i true 64 x = BitVec.ofInt 64 (min (max x (-9223372036854775808)) 9223372036854775807) := rfl

/-- An exact result that is not negative is held to the greatest unsigned value. -/
theorem narrow_sat_n (x : Nat) : narrow .n true n x = BitVec.ofNat n (min x (2 ^ n - 1)) := by
  have hpos : 1 ≤ 2 ^ n := Nat.one_le_two_pow
  have hmin : min (max (x : Int) 0) ((2 ^ n : Nat) - 1) = (min x (2 ^ n - 1) : Nat) := by omega
  simp only [narrow, if_true, hmin, BitVec.ofInt_natCast]

/-- A difference of unsigned values is held to 0. -/
theorem narrow_sat_n_sub (x y : BitVec n) : narrow .n true n ((x.toNat : Int) - y.toNat) = BitVec.ofNat n (x.toNat - y.toNat) := by
  have hx : x.toNat < 2 ^ n := x.isLt
  have hmin : min (max ((x.toNat : Int) - y.toNat) 0) ((2 ^ n : Nat) - 1) = (x.toNat - y.toNat : Nat) := by omega
  simp only [narrow, if_true, hmin, BitVec.ofInt_natCast]

end

/-! ### Sums, differences and products -/

section
variable (ty : IntTy) (x y z : Word)

theorem addI_wrap : addI ty false x y = x + y := by simp [addI, narrow_wrap, BitVec.ofInt_add]
theorem subI_wrap : subI ty false x y = x - y := by simp [subI, narrow_wrap, ofInt_sub]
theorem mulI_wrap : mulI ty false x y = x * y := by simp [mulI, narrow_wrap, BitVec.ofInt_mul]
theorem madI_wrap : madI ty false x y z = x * y + z := by simp [madI, narrow_wrap, BitVec.ofInt_add, BitVec.ofInt_mul]

theorem addI_sat_i : addI .i true x y = BitVec.ofInt 32 (min (max (x.toInt + y.toInt) (-2147483648)) 2147483647) := narrow_sat_i32 _
theorem subI_sat_i : subI .i true x y = BitVec.ofInt 32 (min (max (x.toInt - y.toInt) (-2147483648)) 2147483647) := narrow_sat_i32 _
theorem mulI_sat_i : mulI .i true x y = BitVec.ofInt 32 (min (max (x.toInt * y.toInt) (-2147483648)) 2147483647) := narrow_sat_i32 _
theorem madI_sat_i :
    madI .i true x y z = BitVec.ofInt 32 (min (max (x.toInt * y.toInt + z.toInt) (-2147483648)) 2147483647) := narrow_sat_i32 _

theorem addI_sat_n : addI .n true x y = BitVec.ofNat 32 (min (x.toNat + y.toNat) 4294967295) :=
  narrow_sat_n (n := 32) _
theorem subI_sat_n : subI .n true x y = BitVec.ofNat 32 (x.toNat - y.toNat) := narrow_sat_n_sub x y
theorem mulI_sat_n : mulI .n true x y = BitVec.ofNat 32 (min (x.toNat * y.toNat) 4294967295) :=
  narrow_sat_n (n := 32) _
theorem madI_sat_n : madI .n true x y z = BitVec.ofNat 32 (min (x.toNat * y.toNat + z.toNat) 4294967295) :=
  narrow_sat_n (n := 32) _

theorem mulhiI_i : mulhiI .i x y = BitVec.ofInt 32 (x.toInt * y.toInt / 4294967296) := rfl
theorem mulhiI_n : mulhiI .n x y = BitVec.ofNat 32 (x.toNat * y.toNat / 4294967296) := by
  rw [← BitVec.ofInt_natCast, Int.natCast_ediv, Nat.cast_mul]; rfl

theorem minI_i : minI .i x y = if x.toInt ≤ y.toInt then x else y := rfl
theorem minI_n : minI .n x y = if x.toNat ≤ y.toNat then x else y := by simp [minI, asTy]
theorem maxI_i : maxI .i x y = if x.toInt < y.toInt then y else x := by
  simp only [maxI, asTy, ← Int.not_lt, ite_not]
theorem maxI_n : maxI .n x y = if x.toNat < y.toNat then y else x := by
  simp only [maxI, asTy, Int.ofNat_le, ← Nat.not_lt, ite_not]

/-- The magnitude that ABS narrows. -/
theorem absI_eq (sat : Bool) : absI sat x = narrow .i sat 32 x.toInt.natAbs := by
  have habs : (if x.toInt < 0 then -x.toInt else x.toInt) = (x.toInt.natAbs : Int) := by omega
  rw [absI, habs]

theorem absI_wrap : absI false x = BitVec.ofNat 32 x.toInt.natAbs := by rw [absI_eq, narrow_wrap, BitVec.ofInt_natCast]

theorem absI_sat : absI true x = BitVec.ofNat 32 (min x.toInt.natAbs 2147483647) := by
  have hmin : min (max (x.toInt.natAbs : Int) (-2147483648)) 2147483647 = (min x.toInt.natAbs 2147483647 : Nat) := by omega
  rw [absI_eq, narrow_sat_i32, hmin, BitVec.ofInt_natCast]

end

/-! ### 64-bit arithmetic -/

section
variable (ty : IntTy) (p q : DWord) (x y : Word)

theorem add64I_wrap : add64I ty false false p q = p + q := by simp [add64I, narrow_wrap, BitVec.ofInt_add]
theorem add64I_neg_wrap : add64I ty false true p q = p - q := by simp [add64I, narrow_wrap, ofInt_sub]

theorem add64I_sat_i : add64I .i true false p q =
    BitVec.ofInt 64 (min (max (p.toInt + q.toInt) (-9223372036854775808)) 9223372036854775807) := narrow_sat_i64 _
theorem add64I_neg_sat_i : add64I .i true true p q =
    BitVec.ofInt 64 (min (max (p.toInt - q.toInt) (-9223372036854775808)) 9223372036854775807) := narrow_sat_i64 _
theorem add64I_sat_n : add64I .n true false p q = BitVec.ofNat 64 (min (p.toNat + q.toNat) 18446744073709551615) :=
  narrow_sat_n (n := 64) _
theorem add64I_neg_sat_n : add64I .n true true p q = BitVec.ofNat 64 (p.toNat - q.toNat) := narrow_sat_n_sub p q

theorem mad64I_wrap : mad64I ty false x y p = BitVec.ofInt 64 (asTy ty x * asTy ty y) + p := by
  simp [mad64I, narrow_wrap, BitVec.ofInt_add]
theorem mad64I_wrap_i : mad64I .i false x y p = BitVec.ofInt 64 (x.toInt * y.toInt) + p := mad64I_wrap .i p x y
theorem mad64I_wrap_n : mad64I .n false x y p = BitVec.ofNat 64 (x.toNat * y.toNat) + p := by
  rw [mad64I_wrap, ← BitVec.ofInt_natCast, Nat.cast_mul]; rfl
theorem mad64I_sat_i : mad64I .i true x y p =
    BitVec.ofInt 64 (min (max (x.toInt * y.toInt + p.toInt) (-9223372036854775808)) 9223372036854775807) := narrow_sat_i64 _
theorem mad64I_sat_n : mad64I .n true x y p = BitVec.ofNat 64 (min (x.toNat * y.toNat + p.toNat) 18446744073709551615) :=
  narrow_sat_n (n := 64) _

/-- LEA scales the signed index. -/
theorem extIdx_i_shift (k : Nat) : extIdx .i x <<< k = BitVec.ofInt 64 (x.toInt * 2 ^ k) := by
  have hpow : BitVec.twoPow 64 k = BitVec.ofInt 64 (2 ^ k) := by
    rw [← Nat.cast_two, ← Nat.cast_pow, BitVec.ofInt_natCast]
    exact BitVec.eq_of_toNat_eq (by rw [BitVec.toNat_twoPow, BitVec.toNat_ofNat])
  rw [BitVec.shiftLeft_eq_mul_twoPow, BitVec.ofInt_mul, hpow]
  rfl

theorem extIdx_n_shift (k : Nat) : extIdx .n x <<< k = BitVec.ofNat 64 (x.toNat * 2 ^ k) := by
  apply BitVec.eq_of_toNat_eq
  rw [BitVec.toNat_shiftLeft, BitVec.toNat_ofNat, Nat.shiftLeft_eq]
  exact congrArg (fun m => m * 2 ^ k % 2 ^ 64) (toNat_zext64 x)

end

/-! ### Shifts by any amount (R95) -/

/-- What no longer changes from 64 up is the same at the amount held to 64. -/
theorem at_amount {α : Type} (f : Nat → α) (h : ∀ m, 64 < m → f m = f 64) (n : Word) : f (amount n) = f n.toNat := by
  rcases Nat.lt_or_ge 64 n.toNat with hn | hn
  · rw [h n.toNat hn, amount, show Nat.min n.toNat 64 = 64 from Nat.min_eq_right hn.le]
  · rw [amount, show Nat.min n.toNat 64 = n.toNat from Nat.min_eq_left hn]

section
variable {w : Nat} (hw : w ≤ 64) (x : BitVec w) (n : Word)
include hw

theorem shiftLeft_amount : x <<< amount n = x <<< n.toNat :=
  at_amount (x <<< ·) (fun m hm => by rw [BitVec.shiftLeft_eq_zero (by omega), BitVec.shiftLeft_eq_zero hw]) n

theorem ushiftRight_amount : x >>> amount n = x >>> n.toNat :=
  at_amount (x >>> ·) (fun m hm => by rw [BitVec.ushiftRight_eq_zero (by omega), BitVec.ushiftRight_eq_zero hw]) n

theorem sshiftRight_amount : x.sshiftRight (amount n) = x.sshiftRight n.toNat := by
  refine at_amount x.sshiftRight (fun m hm => ?_) n
  ext i hi
  have hfar : ¬ m + i < w ∧ ¬ 64 + i < w := by omega
  simp [BitVec.getElem_sshiftRight, hfar]

end

section
variable {w : Nat} (x : BitVec w) (n : Nat)

theorem shiftLeft_eq_mul_pow : x <<< n = BitVec.ofNat w (x.toNat * 2 ^ n) := by
  apply BitVec.eq_of_toNat_eq
  rw [BitVec.toNat_shiftLeft, BitVec.toNat_ofNat, Nat.shiftLeft_eq]

theorem ushiftRight_eq_div_pow : x >>> n = BitVec.ofNat w (x.toNat / 2 ^ n) := by
  rw [← Nat.shiftRight_eq_div_pow, ← BitVec.toNat_ushiftRight, BitVec.ofNat_toNat, BitVec.setWidth_eq]

theorem sshiftRight_eq_div_pow : x.sshiftRight n = BitVec.ofInt w (x.toInt / 2 ^ n) := by
  rw [BitVec.sshiftRight_eq, Int.shiftRight_eq_div_pow, Nat.cast_pow, Nat.cast_ofNat]

end

section
variable (x : Word) (p : DWord) (n : Word)

theorem shlW_32 : lo32 (shlW false (zext64 x) n) = BitVec.ofNat 32 (x.toNat * 2 ^ n.toNat) := by
  rw [shlW, if_neg Bool.false_ne_true, lo32_zext64, lo32_zext64, shiftLeft_amount (by decide), shiftLeft_eq_mul_pow]
theorem shrW_32 : lo32 (shrW false (zext64 x) n) = BitVec.ofNat 32 (x.toNat / 2 ^ n.toNat) := by
  rw [shrW, if_neg Bool.false_ne_true, lo32_zext64, lo32_zext64, ushiftRight_amount (by decide), ushiftRight_eq_div_pow]
theorem sarW_32 : lo32 (sarW false (zext64 x) n) = BitVec.ofInt 32 (x.toInt / 2 ^ n.toNat) := by
  rw [sarW, if_neg Bool.false_ne_true, lo32_zext64, lo32_zext64, sshiftRight_amount (by decide), sshiftRight_eq_div_pow]

theorem shlW_64 : shlW true p n = BitVec.ofNat 64 (p.toNat * 2 ^ n.toNat) := by
  rw [shlW, if_pos rfl, shiftLeft_amount (le_refl 64), shiftLeft_eq_mul_pow]
theorem shrW_64 : shrW true p n = BitVec.ofNat 64 (p.toNat / 2 ^ n.toNat) := by
  rw [shrW, if_pos rfl, ushiftRight_amount (le_refl 64), ushiftRight_eq_div_pow]
theorem sarW_64 : sarW true p n = BitVec.ofInt 64 (p.toInt / 2 ^ n.toNat) := by
  rw [sarW, if_pos rfl, sshiftRight_amount (le_refl 64), sshiftRight_eq_div_pow]

end

/-! ### Bit fields (R96) -/

section
variable {w : Nat} (y x p : Word)

/-- The field that BEXT reads, before it is extended. -/
theorem toNat_field : (x >>> amount p).toNat % 2 ^ w = x.toNat / 2 ^ p.toNat % 2 ^ w := by
  rw [ushiftRight_amount (by decide), BitVec.toNat_ushiftRight, Nat.shiftRight_eq_div_pow]

theorem bextF_n : bextF .n x p w = BitVec.ofNat 32 (x.toNat / 2 ^ p.toNat % 2 ^ w) := by
  rw [← toNat_field]
  rfl

/-- A field of w bits read as signed is the balanced remainder of the bits above the position. -/
theorem bextF_i {w : Nat} (hw : 1 ≤ w) (x p : Word) : bextF .i x p w = BitVec.ofInt 32 (Int.bmod (x.toNat / 2 ^ p.toNat) (2 ^ w)) := by
  obtain ⟨k, rfl⟩ : ∃ k, w = k + 1 := ⟨w - 1, by omega⟩
  have hfield : ((x.toNat : Int) / 2 ^ p.toNat) % (2 ^ (k + 1) : Nat) = (x.toNat / 2 ^ p.toNat % 2 ^ (k + 1) : Nat) := by push_cast; rfl
  have hhalf : (((2 ^ (k + 1) : Nat) : Int) + 1) / 2 = (2 ^ k : Nat) := by omega
  rw [Int.bmod_def, hfield, hhalf]
  simp only [bextF, toNat_field, Nat.add_sub_cancel, Nat.cast_lt]
  split
  · rw [BitVec.ofInt_natCast]
  · push_cast; rfl

/-- BINS bit by bit: the low w bits of x from position p on, and y elsewhere. -/
theorem binsF_eq : binsF y x p w = BitVec.ofFnLE (fun k : Fin 32 =>
    if p.toNat ≤ k.val ∧ k.val < p.toNat + w then x.getLsbD (k.val - p.toNat) else y.getLsbD k.val) := by
  apply BitVec.eq_of_getLsbD_eq
  intro k hk
  have hlow : k - p.toNat < 32 := by omega
  simp only [binsF, shiftLeft_amount (show 32 ≤ 64 by decide), BitVec.getLsbD_ofFnLE, BitVec.getLsbD_or, BitVec.getLsbD_and,
    BitVec.getLsbD_not, BitVec.getLsbD_shiftLeft, BitVec.getLsbD_ofNat, Nat.testBit_two_pow_sub_one, hk, hlow, decide_true, Bool.true_and, dif_pos]
  by_cases hfield : p.toNat ≤ k ∧ k < p.toNat + w
  · have hat : ¬ k < p.toNat ∧ k - p.toNat < w := by omega
    simp [hfield, hat]
  · have hoff : k < p.toNat ∨ ¬ k - p.toNat < w := by omega
    rcases hoff with hbelow | habove
    · simp [hfield, hbelow]
    · simp [hfield, habove]

end

/-! ### Counts and reversal (R97) -/

theorem popcount_toNat {w : Nat} (x : BitVec w) (n : Nat) : popcount n x.toNat = (List.range n).countP (fun k => x.getLsbD k) :=
  List.countP_eq_length_filter.symm

/-- The indices below n that come before the first at which `p` fails. -/
theorem takeWhile_range {p : Nat → Bool} {m n : Nat} (hm : m < n) (hbelow : ∀ k < m, p k = true) (hat : p m = false) :
    (List.range n).takeWhile p = List.range m := by
  obtain ⟨j, rfl⟩ : ∃ j, n = m + (j + 1) := ⟨n - m - 1, by omega⟩
  rw [List.range_add, List.takeWhile_append_of_pos (by simpa using hbelow), List.range_succ_eq_map]
  simp [hat]

theorem leadingZeros_zero (n : Nat) : leadingZeros n 0 = n := by
  simp [leadingZeros, List.takeWhile_eq_self_iff.mpr]

theorem leadingZeros_of_ne_zero {n x : Nat} (h0 : x ≠ 0) (hn : x < 2 ^ n) : leadingZeros n x = n - 1 - x.log2 := by
  have hlog : x.log2 < n := (Nat.log2_lt h0).mpr hn
  have hlead : (List.range n).takeWhile (fun k => !x.testBit (n - 1 - k)) = List.range (n - 1 - x.log2) := by
    refine takeWhile_range (by omega) (fun k hk => ?_) ?_
    · have hzero : x.testBit (n - 1 - k) = false := Nat.testBit_eq_false_of_lt ((Nat.log2_lt h0).mp (by omega))
      rw [hzero]; rfl
    · rw [show n - 1 - (n - 1 - x.log2) = x.log2 by omega, Nat.testBit_log2 h0]; rfl
  rw [leadingZeros, hlead, List.length_range]

theorem ofNat_leadingZeros {w : Nat} (x : BitVec w) :
    BitVec.ofNat 32 (leadingZeros w x.toNat) = if x = 0 then BitVec.ofNat 32 w else BitVec.ofNat 32 (w - 1 - x.toNat.log2) := by
  split
  case isTrue h => simp [h, leadingZeros_zero]
  case isFalse h => rw [leadingZeros_of_ne_zero (fun h0 => h (BitVec.eq_of_toNat_eq h0)) x.isLt]

/-- One bit more: the reversal so far moves up and bit n comes in below. -/
theorem reverseBits_succ (n x : Nat) : reverseBits (n + 1) x = 2 * reverseBits n x + (x.testBit n).toNat := by
  have hdouble : (List.range n).foldl (fun acc k => if x.testBit k then acc + 2 ^ (n - k) else acc) 0 = 2 * reverseBits n x := by
    refine List.foldl_rel (r := fun u v => u = 2 * v) rfl (fun k hk u v huv => ?_)
    obtain ⟨j, rfl⟩ : ∃ j, n = k + j + 1 := ⟨n - k - 1, by have := List.mem_range.mp hk; omega⟩
    have hj : k + j + 1 - k = j + 1 ∧ k + j + 1 - 1 - k = j := by omega
    rw [hj.1, hj.2, huv, Nat.pow_succ]
    split
    · ring
    · rfl
  simp only [reverseBits, List.range_succ, List.foldl_append, List.foldl_cons, List.foldl_nil, Nat.add_sub_cancel, hdouble]
  cases x.testBit n <;> simp

theorem testBit_reverseBits (n x k : Nat) : (reverseBits n x).testBit k = (decide (k < n) && x.testBit (n - 1 - k)) := by
  induction n generalizing k with
  | zero => simp [reverseBits]
  | succ n ih =>
    have hbit : (x.testBit n).toNat < 2 := Bool.toNat_lt _
    cases k with
    | zero => cases hx : x.testBit n <;> simp [reverseBits_succ, Nat.testBit_zero, hx]
    | succ k =>
      have hhalf : reverseBits (n + 1) x / 2 = reverseBits n x := by rw [reverseBits_succ]; omega
      rw [Nat.testBit_succ, hhalf, ih, show n + 1 - 1 - (k + 1) = n - 1 - k by omega]
      simp

theorem ofNat_reverseBits {w : Nat} (x : BitVec w) : BitVec.ofNat w (reverseBits w x.toNat) = x.reverse := by
  apply BitVec.eq_of_getLsbD_eq
  intro k hk
  rw [BitVec.getLsbD_ofNat, testBit_reverseBits, BitVec.getLsbD_reverse, BitVec.getMsbD_eq_getLsbD, decide_eq_true hk, Bool.true_and]
  rfl

/-! ### Comparison and predicate logic (R98, R99) -/

theorem plutF_eq (table : BitVec 8) (x y z : Bool) : plutF table x y z = table.getLsbD (x.toNat + 2 * y.toNat + 4 * z.toNat) := by
  have hterm : ∀ (b : Bool) (k : Nat), (if b then k else 0) = k * b.toNat := by
    intro b k
    cases b <;> simp
  rw [plutF, hterm, hterm, hterm, Nat.one_mul]

/-! ### The statements of the chapter -/

theorem movesAndSelection_vector : Claim.MovesAndSelection :=
  ⟨fun _ _ => put_threadwise (fun _ => rfl) (fun l => l.rd _),
   fun _ _ _ => put_threadwise (fun _ => rfl) (fun l => l.src32 _),
   fun _ _ _ => put64_threadwise (fun _ => rfl) (fun l => l.src64 _),
   fun _ _ _ _ _ => put_threadwise (fun _ => rfl) (fun l => by
    rw [l.pr, rdW_32, srcW_32, l.rd, l.src32, apply_ite lo32, lo32_zext64, lo32_zext64]),
   fun _ _ _ _ _ => put64_threadwise (fun _ => rfl) (fun l => by rw [l.pr, rdW_64, srcW_64, l.rd64, l.src64])⟩

theorem groupRegisterMoves : Claim.GroupRegisterMoves := by
  intro s g r d b hacts
  have hmovG : exec (.movG g d b) s = .next (s.each g (fun u q => u.setGreg q.1 d (zext64 (u.src32 q b)))) := rfl
  have hmovlG : exec (.movlG g d b) s = .next (s.each g (fun u q => u.setGreg q.1 d (u.src64 q b))) := rfl
  constructor
  · rw [hmovG, each_acts hacts, moved_src32 hacts.toAlone]
    rfl
  · rw [hmovlG, each_acts hacts, moved_src64 hacts.toAlone]
    rfl

/-- Settles O1, by the thread's own write for vector registers and by the one acting thread's write for group-uniform ones. -/
theorem movesAndSelection : Obligations.MovesAndSelection := ⟨movesAndSelection_vector, groupRegisterMoves⟩

/-- Settles O2: each result is its exact value, narrowed as R89 says. -/
theorem addSubtractMinMaxAbs : Obligations.AddSubtractMinMaxAbs :=
  ⟨fun _ _ b => alu32_threadwise (b := .v b) (fun _ => rfl) (addI_wrap .i),
   fun _ ty _ _ _ => alu32_threadwise (fun _ => rfl) (addI_wrap ty),
   fun _ ty _ _ _ => alu32_threadwise (fun _ => rfl) (subI_wrap ty),
   fun _ _ _ _ => alu32_threadwise (fun _ => rfl) addI_sat_i,
   fun _ _ _ _ => alu32_threadwise (fun _ => rfl) addI_sat_n,
   fun _ _ _ _ => alu32_threadwise (fun _ => rfl) subI_sat_i,
   fun _ _ _ _ => alu32_threadwise (fun _ => rfl) subI_sat_n,
   fun _ _ _ _ => put_threadwise (fun _ => rfl) (fun l => by rw [l.rd, l.src32, minI_i]),
   fun _ _ _ _ => put_threadwise (fun _ => rfl) (fun l => by rw [l.rd, l.src32, minI_n]),
   fun _ _ _ _ => put_threadwise (fun _ => rfl) (fun l => by rw [l.rd, l.src32, maxI_i]),
   fun _ _ _ _ => put_threadwise (fun _ => rfl) (fun l => by rw [l.rd, l.src32, maxI_n]),
   fun _ _ _ => unary_threadwise (fun _ => rfl) absI_wrap,
   fun _ _ _ => unary_threadwise (fun _ => rfl) absI_sat⟩

/-- Settles O3: MUL and MAD narrow the exact result once, and MULHI takes its high word. -/
theorem multiplication : Obligations.Multiplication :=
  ⟨fun _ _ b => alu32_threadwise (b := .v b) (fun _ => rfl) (mulI_wrap .i),
   fun _ ty _ _ _ => alu32_threadwise (fun _ => rfl) (mulI_wrap ty),
   fun _ _ _ _ => alu32_threadwise (fun _ => rfl) mulI_sat_i,
   fun _ _ _ _ => alu32_threadwise (fun _ => rfl) mulI_sat_n,
   fun _ _ _ _ => alu32_threadwise (fun _ => rfl) mulhiI_n,
   fun _ _ _ _ => alu32_threadwise (fun _ => rfl) mulhiI_i,
   fun _ ty _ _ _ _ => put_threadwise (fun _ => rfl) (fun l => by rw [l.rd, l.src32, l.rd, madI_wrap]),
   fun _ _ _ _ _ => put_threadwise (fun _ => rfl) (fun l => by rw [l.rd, l.src32, l.rd, madI_sat_i]),
   fun _ _ _ _ _ => put_threadwise (fun _ => rfl) (fun l => by rw [l.rd, l.src32, l.rd, madI_sat_n])⟩

theorem logicOperations : Claim.LogicOperations :=
  ⟨fun _ _ b => alu32_threadwise (b := .v b) (F := fun x y => x &&& y) (fun _ => rfl) (fun _ _ => rfl),
   fun _ inv _ _ _ => aluW_threadwise_32 (fun _ => rfl) (fun _ _ => lo32_and_invB inv _ _),
   fun _ inv _ _ _ => aluW_threadwise_32 (fun _ => rfl) (fun _ _ => lo32_or_invB inv _ _),
   fun _ inv _ _ _ => aluW_threadwise_32 (fun _ => rfl) (fun _ _ => lo32_xor_invB inv _ _),
   fun _ _ _ _ _ => aluW_threadwise_64 (fun _ => rfl) (fun _ _ => rfl),
   fun _ _ _ _ _ => aluW_threadwise_64 (fun _ => rfl) (fun _ _ => rfl),
   fun _ _ _ _ _ => aluW_threadwise_64 (fun _ => rfl) (fun _ _ => rfl)⟩

theorem shifts : Claim.Shifts :=
  ⟨fun _ _ b => shiftW_threadwise_32 (b := .v b) (fun _ => rfl) (fun _ _ => shlW_32 _ _),
   fun _ _ _ _ => shiftW_threadwise_32 (fun _ => rfl) (fun _ _ => shlW_32 _ _),
   fun _ _ _ _ => shiftW_threadwise_64 (fun _ => rfl) (fun _ _ => shlW_64 _ _),
   fun _ _ _ _ => shiftW_threadwise_32 (fun _ => rfl) (fun _ _ => shrW_32 _ _),
   fun _ _ _ _ => shiftW_threadwise_64 (fun _ => rfl) (fun _ _ => shrW_64 _ _),
   fun _ _ _ _ => shiftW_threadwise_32 (fun _ => rfl) (fun _ _ => sarW_32 _ _),
   fun _ _ _ _ => shiftW_threadwise_64 (fun _ => rfl) (fun _ _ => sarW_64 _ _)⟩

/-- Settles O4, at both widths; a shift by 64 or more is one by 64. -/
theorem logicAndShifts : Obligations.LogicAndShifts := ⟨logicOperations, shifts⟩

theorem bitFields : Claim.BitFields :=
  ⟨fun _ _ _ _ _ _ _ => alu32_threadwise (fun _ => rfl) bextF_n,
   fun _ _ _ _ _ h1 _ => alu32_threadwise (fun _ => rfl) (bextF_i h1),
   fun _ _ _ _ _ _ _ => put_threadwise (fun _ => rfl) (fun l => by rw [l.rd, l.rd, l.src32, binsF_eq]),
   fun _ _ _ => put_threadwise (fun _ => rfl) (fun l => by
    rw [rdW_32, l.rd, toNat_zext64, popcount_toNat]; rfl),
   fun _ _ _ => put_threadwise (fun _ => rfl) (fun l => by rw [rdW_64, l.rd64, popcount_toNat]; rfl),
   fun _ _ _ => put_threadwise (fun _ => rfl) (fun l => by rw [rdW_32, l.rd, toNat_zext64]; exact ofNat_leadingZeros _),
   fun _ _ _ => put_threadwise (fun _ => rfl) (fun l => by rw [rdW_64, l.rd64]; exact ofNat_leadingZeros _),
   fun _ _ _ => put_threadwise (fun _ => rfl) (fun l => by
    rw [rdW_32, l.rd, toNat_zext64, lo32_ofNat]; exact ofNat_reverseBits _),
   fun _ _ _ => put64_threadwise (fun _ => rfl) (fun l => by rw [rdW_64, l.rd64]; exact ofNat_reverseBits _)⟩

theorem predicates : Claim.Predicates :=
  ⟨fun _ _ _ _ _ => putPred_threadwise (fun _ => rfl) (fun l => by rw [l.rd, l.src32]; rfl),
   fun _ _ _ _ _ => putPred_threadwise (fun _ => rfl) (fun l => by rw [l.rd, l.src32]; rfl),
   fun _ _ _ _ _ => putPred_threadwise (fun _ => rfl) (fun l => by rw [l.rd64, l.src64]; rfl),
   fun _ _ _ _ _ => putPred_threadwise (fun _ => rfl) (fun l => by rw [l.rd64, l.src64]; rfl),
   fun _ _ _ _ _ _ => putPred_threadwise (fun _ => rfl) (fun l => by rw [l.pr, l.pr, l.pr, plutF_eq])⟩

/-- Settles O5, by what each bit and count of the results is. -/
theorem bitFieldsAndPredicates : Obligations.BitFieldsAndPredicates := ⟨bitFields, predicates⟩

/-- Settles O6: the exact sum is narrowed once, and LEA wraps. -/
theorem wideArithmetic : Obligations.WideArithmetic :=
  ⟨fun _ _ _ _ _ => put64_threadwise (fun _ => rfl) (fun l => by rw [l.rd64, l.src64, add64I_wrap]),
   fun _ _ _ _ _ => put64_threadwise (fun _ => rfl) (fun l => by rw [l.rd64, l.src64, add64I_neg_wrap]),
   fun _ _ _ _ => put64_threadwise (fun _ => rfl) (fun l => by rw [l.rd64, l.src64, add64I_sat_i]),
   fun _ _ _ _ => put64_threadwise (fun _ => rfl) (fun l => by rw [l.rd64, l.src64, add64I_neg_sat_i]),
   fun _ _ _ _ => put64_threadwise (fun _ => rfl) (fun l => by rw [l.rd64, l.src64, add64I_sat_n]),
   fun _ _ _ _ => put64_threadwise (fun _ => rfl) (fun l => by rw [l.rd64, l.src64, add64I_neg_sat_n]),
   fun _ _ _ _ _ => put64_threadwise (fun _ => rfl) (fun l => by rw [l.rd, l.src32, l.rd64, mad64I_wrap_i]),
   fun _ _ _ _ _ => put64_threadwise (fun _ => rfl) (fun l => by rw [l.rd, l.src32, l.rd64, mad64I_wrap_n]),
   fun _ _ _ _ _ => put64_threadwise (fun _ => rfl) (fun l => by rw [l.rd, l.src32, l.rd64, mad64I_sat_i]),
   fun _ _ _ _ _ => put64_threadwise (fun _ => rfl) (fun l => by rw [l.rd, l.src32, l.rd64, mad64I_sat_n]),
   fun _ _ _ _ _ => put64_threadwise (fun _ => rfl) (fun l => by rw [l.rd64, l.src32, extIdx_i_shift]),
   fun _ _ _ _ _ => put64_threadwise (fun _ => rfl) (fun l => by rw [l.rd64, l.src32, extIdx_n_shift])⟩

end Sys2Proof.Machine
end

section
/-! The encoding of every instruction, in both directions (R6, R40 to R55), and the worked words of the spec. -/

namespace Sys2Proof.Laws.RoundTrip

/-- The round trip of each constructor, for every instruction. -/
theorem every_instr : ∀ i, Statement i
  | .braCompact .. => braCompact _ | .bra .. => bra _ _ | .brx .. => brx _ _ _ | .callCompact .. => callCompact _ | .call .. => call _ _
  | .callx .. => callx _ _ _ | .ret .. => ret _ | .nopCompact => nopCompact | .nop .. => nop _ _ | .exit .. => exit _
  | .yield .. => yield _ | .waitCompact .. => waitCompact _ _ _ _ | .wait .. => wait _ _ _ _ _ | .sleep .. => sleep _ _
  | .sleepAbs .. => sleepAbs _ _ | .movCompact .. => movCompact _ _ | .mov .. => mov _ _ _ | .movG .. => movG _ _ _
  | .movl .. => movl _ _ _ | .movlG .. => movlG _ _ _ | .sel .. => sel _ _ _ _ _ _ | .addCompact .. => addCompact _ _ _
  | .add .. => add _ _ _ _ _ _ | .sub .. => sub _ _ _ _ _ _ | .min .. => min _ _ _ _ _ | .max .. => max _ _ _ _ _ | .abs .. => abs _ _ _ _
  | .mulCompact .. => mulCompact _ _ _ | .mul .. => mul _ _ _ _ _ _ | .mulhi .. => mulhi _ _ _ _ _ | .mad .. => mad _ _ _ _ _ _ _
  | .andCompact .. => andCompact _ _ _ | .and .. => and _ _ _ _ _ _ | .or .. => or _ _ _ _ _ _ | .xor .. => xor _ _ _ _ _ _
  | .shlCompact .. => shlCompact _ _ _ | .shl .. => shl _ _ _ _ _ | .shr .. => shr _ _ _ _ _ | .sar .. => sar _ _ _ _ _
  | .bext .. => bext _ _ _ _ _ _ | .bins .. => bins _ _ _ _ _ | .popc .. => popc _ _ _ _ | .clz .. => clz _ _ _ _
  | .brev .. => brev _ _ _ _ | .icmp .. => icmp _ _ _ _ _ _ _ | .plut .. => plut _ _ _ _ _ _ | .add64 .. => add64 _ _ _ _ _ _ _
  | .mad64 .. => mad64 _ _ _ _ _ _ _ | .lea .. => lea _ _ _ _ _ _ | .faddCompact .. => faddCompact _ _ _ | .fadd .. => fadd _ _ _ _ _
  | .fmin .. => fmin _ _ _ _ _ | .fmax .. => fmax _ _ _ _ _ | .fmulCompact .. => fmulCompact _ _ _ | .fmul .. => fmul _ _ _ _ _
  | .fscl .. => fscl _ _ _ _ _ | .fmaCompact .. => fmaCompact _ _ _ | .fma .. => fma _ _ _ _ _ _ | .fcmp .. => fcmp _ _ _ _ _ _
  | .fcls .. => fcls _ _ _ | .frint .. => frint _ _ _ _ | .h2add .. => h2add _ _ _ _ _ | .h2mul .. => h2mul _ _ _ _ _
  | .h2fmaCompact .. => h2fmaCompact _ _ _ | .h2fma .. => h2fma _ _ _ _ _ _ | .h2min .. => h2min _ _ _ _ _ | .h2max .. => h2max _ _ _ _ _
  | .rcp .. => rcp _ _ _ _ | .rsqrt .. => rsqrt _ _ _ _ | .sqrt .. => sqrt _ _ _ _ | .exp2 .. => exp2 _ _ _ _ | .log2 .. => log2 _ _ _ _
  | .sin .. => sin _ _ _ _ | .cos .. => cos _ _ _ _ | .tanh .. => tanh _ _ _ _ | .fdiv .. => fdiv _ _ _ _ _
  | .cvt .. => cvt _ _ _ _ _ _ _ _ | .cvts .. => cvts _ _ _ _ _ _ _ _ | .pack .. => pack _ _ _ _ _ | .unpk .. => unpk _ _ _ _ _ _
  | .qblk .. => qblk _ _ _ _ _ | .dot4 .. => dot4 _ _ _ _ _ _ _ _ | .dot8 .. => dot8 _ _ _ _ _ _ _ _ | .dot2h .. => dot2h _ _ _ _ _ _
  | .obres .. => obres _ _ _ _ | .obrel .. => obrel _ _ _ | .obwr .. => obwr _ _ _ _ | .obrd .. => obrd _ _ _ _
  | .lxch .. => lxch _ _ _ _ _ _ _ _ | .lvoteAny .. => lvoteAny _ _ _ _ | .lvoteAll .. => lvoteAll _ _ _ _
  | .lvoteBal .. => lvoteBal _ _ _ _ | .lmatch .. => lmatch _ _ _ _ _ | .lelect .. => lelect _ _ _ | .lred .. => lred _ _ _ _ _ _
  | .lscan .. => lscan _ _ _ _ _ _ _ | .ldCompact .. => ldCompact _ _ _ | .ld .. => ld _ _ _ _ _ _ _ _ | .ldt .. => ldt _ _ _ _ _
  | .stCompact .. => stCompact _ _ _ | .st .. => st _ _ _ _ _ _ _ _ | .stt .. => stt _ _ _ _ _ | .ldf .. => ldf _ _ _ _ _ _ _
  | .ste .. => ste _ _ _ _ _ _ | .tags .. => tags _ _ _ _ _ _ _ | .tagq .. => tagq _ _ _ _ _ _ | .pref .. => pref _ _ _ _ _ _
  | .cwb .. => cwb _ _ _ _ | .cinv .. => cinv _ _ _ _ | .cwbi .. => cwbi _ _ _ _ | .iinv .. => iinv _ _ _ _ | .fbar .. => fbar _
  | .domset .. => domset _ _ _ | .laydivw .. => laydivw _ _ _ | .tlbinv .. => tlbinv _ _ | .tlbinvAll .. => tlbinvAll _
  | .pgmap .. => pgmap _ _ _ _ _ | .pgunmap .. => pgunmap _ _ _ | .pgqPte .. => pgqPte _ _ _ | .pgqZero .. => pgqZero _ _ _
  | .pgqRoot .. => pgqRoot _ _ | .cpy .. => cpy _ _ _ _ _ _ _ | .cpyt .. => cpyt _ _ _ _ _ | .sebind .. => sebind _ _ _ _ _ _ _ _
  | .sefree .. => sefree _ _ _ | .slotw .. => slotw _ _ _ _ | .slotrel .. => slotrel _ _ _ | .tagwait .. => tagwait _ _ _ _
  | .tagff .. => tagff _ _ _ _ | .tagclr .. => tagclr _ _ | .lockqAddr .. => lockqAddr _ _ _ _ _ | .lockqFree .. => lockqFree _ _
  | .lockqErr .. => lockqErr _ _ _ | .atom .. => atom _ _ _ _ _ _ _ | .cas .. => cas _ _ _ _ _ _ | .atomf .. => atomf _ _ _ _ _ _ _
  | .red .. => red _ _ _ _ _ _ | .binit .. => binit _ _ _ _ _ | .barv .. => barv _ _ _ _ | .bwait .. => bwait _ _ _ _
  | .bsync .. => bsync _ _ _ | .bqry .. => bqry _ _ _ _ | .fence .. => fence _ _ _ | .lfence .. => lfence _
  | .lfenceArray .. => lfenceArray _ _ _ | .efence .. => efence _ _ _ | .mxrun .. => mxrun _ _ _ _ | .mxq .. => mxq _ _
  | .mldw .. => mldw _ _ _ _ _ _ | .mswap .. => mswap _ | .mstr .. => mstr _ _ _ _ _ _ | .mzero .. => mzero _ _ _
  | .maccld .. => maccld _ _ _ _ | .maccst .. => maccst _ _ _ _ | .mepi .. => mepi _ _ _ _ _ _ _ | .mbar .. => mbar _ _ _
  | .mwaitb .. => mwaitb _ _ _ | .mend .. => mend _ | .mlad .. => mlad _ _ _ _ _ _ _ | .ladcnt .. => ladcnt _ _ _
  | .ladclr .. => ladclr _ _ | .scan .. => scan _ _ _ _ _ _ _ | .carryGet .. => carryGet _ _ _ | .carrySet .. => carrySet _ _ _
  | .stepk .. => stepk _ _ _ _ _ | .mscan .. => mscan _ _ _ _ _ _ _ | .priow .. => priow _ _ _ _ | .priowWt .. => priowWt _ _
  | .prior .. => prior _ _ _ _ | .sepq .. => sepq _ _ _ | .sposPos .. => sposPos _ _ | .sposRow .. => sposRow _ _ | .vput .. => vput _ _
  | .vputOvl .. => vputOvl _ _ | .vget .. => vget _ _ _ _ | .vqry .. => vqry _ _ _ | .vqryCfg .. => vqryCfg _ _
  | .rowdlRow .. => rowdlRow _ _ _ | .rowdlTime .. => rowdlTime _ _ _ | .rowput .. => rowput _ _ _ _ _ | .probeOpen .. => probeOpen _ _ _ _
  | .probeTri .. => probeTri _ _ _ | .probeEnd .. => probeEnd _ _ _ | .probeSmp .. => probeSmp _ _ _ _ | .curve .. => curve _ _ _ _
  | .pathendOpen .. => pathendOpen _ _ _ _ | .pathendNz .. => pathendNz _ _ _ | .pathendEo .. => pathendEo _ _ _ | .cvg .. => cvg _ _ _ _ _
  | .trace .. => trace _ _ _ _ _ | .hitr .. => hitr _ _ | .hitrSt .. => hitrSt _ _ | .mbwait .. => mbwait _ _ _ _ _
  | .mbtake .. => mbtake _ _ _ _ | .mbpost .. => mbpost _ _ _ _ _ | .jnlSeq .. => jnlSeq _ _ | .jnlFail .. => jnlFail _ _ _ _
  | .launch .. => launch _ _ _ _ | .sliceDl .. => sliceDl _ _ _ _ | .sliceKill .. => sliceKill _ _ _ | .nodegoCfg .. => nodegoCfg _ _ _ _
  | .nodegoFlush .. => nodegoFlush _ _ _ | .nodegoQ .. => nodegoQ _ _ _ | .nodegoOff .. => nodegoOff _ _ _
  | .admitqEnergy .. => admitqEnergy _ _ _ | .admitqTherm .. => admitqTherm _ _ _ | .admitqAct .. => admitqAct _ _ _
  | .admitqGate .. => admitqGate _ _ _ | .admitqQueue .. => admitqQueue _ _ _ | .recalloc .. => recalloc _ _ _
  | .recemit .. => recemit _ _ _ | .recrd .. => recrd _ _ _ | .recfin .. => recfin _ | .srdCompact .. => srdCompact _ _
  | .srd .. => srd _ _ _ | .swr .. => swr _ _ _ | .trap .. => trap _ _ | .tret .. => tret _ | .cclr .. => cclr _ _
  | .tmaskOr .. => tmaskOr _ _ _ | .tmaskAndn .. => tmaskAndn _ _ _ | .tmaskWr .. => tmaskWr _ _ _ | .bkpt .. => bkpt _
  | .preempt .. => preempt _ _ _ _ | .ctxsv .. => ctxsv _ _ _ _ | .ctxld .. => ctxld _ _ _ _ | .haltq .. => haltq _ _ _
  | .meetingForm => meetingForm | .fewaitTimeout => fewaitTimeout | .loadComplete => loadComplete | .storePerformed => storePerformed
  | .atomicPerformed => atomicPerformed | .l2RequestReplay => l2RequestReplay | .pageZeroingDone => pageZeroingDone | .pageWalk => pageWalk
  | .lockEntryRegister => lockEntryRegister | .lockMirrorAck => lockMirrorAck | .copyComplete => copyComplete | .boxStart => boxStart
  | .boxComplete => boxComplete | .barrierArrivalCounted => barrierArrivalCounted | .barrierDeadlockDetect => barrierDeadlockDetect
  | .streamLineFetch => streamLineFetch | .streamCommandIssue => streamCommandIssue | .streamCommandRetire => streamCommandRetire
  | .mwaitbDeadlockDetect => mwaitbDeadlockDetect | .matrixRowEntry => matrixRowEntry | .mldwFetchStart => mldwFetchStart
  | .ladderPassDecide => ladderPassDecide | .separatorApply => separatorApply | .vatPlacement => vatPlacement
  | .overlapIngest => overlapIngest | .rowputCopy => rowputCopy | .separatorVisit => separatorVisit | .positionIssue => positionIssue
  | .separatorHeaderRetry => separatorHeaderRetry | .rowLock => rowLock | .rowEngineEnable => rowEngineEnable | .triangleBin => triangleBin
  | .binRasterise => binRasterise | .blendRecord => blendRecord | .curveSegmentAdd => curveSegmentAdd | .pathClose => pathClose
  | .traceComplete => traceComplete | .recfullTimeout => recfullTimeout | .nodeLaunch => nodeLaunch | .nodeAgeExpiry => nodeAgeExpiry
  | .dispatchPlace => dispatchPlace | .groupRetire => groupRetire | .sliceRelease => sliceRelease | .budgetExhausted => budgetExhausted
  | .activityWindow => activityWindow | .occupancyWindow => occupancyWindow | .pick => pick | .lineFetch => lineFetch
  | .lineRefetch => lineRefetch | .threadUnpark => threadUnpark | .sleepWake => sleepWake | .fenceComplete => fenceComplete
  | .handlerEntry => handlerEntry | .haltLineRise => haltLineRise | .watchdogExpiry => watchdogExpiry | .partitionResume => partitionResume
  | .thermalAdmissionStop => thermalAdmissionStop | .thermalClockHalve => thermalClockHalve | .thermalClockRestore => thermalClockRestore
  | .thermalArrayGate => thermalArrayGate | .engineWake => engineWake | .vbusLaneRepair => vbusLaneRepair | .spareRemap => spareRemap
  | .mailboxMessageWrite => mailboxMessageWrite | .mailboxControlWrite => mailboxControlWrite | .rstreq => rstreq | .hmring => hmring
  | .bar0Write => bar0Write | .hostMemoryAccess => hostMemoryAccess | .ptmExchange => ptmExchange | .bridgeRetry => bridgeRetry
  | .bridgeUncorrectable => bridgeUncorrectable | .moduleOutOfService => moduleOutOfService | .memoryUncorrectable => memoryUncorrectable
  | .backgroundScrub => backgroundScrub | .attestationReport => attestationReport | .perstDeassert => perstDeassert
  | .partitionReset => partitionReset | .vbusRepairComplete => vbusRepairComplete | .fabricError => fabricError
  | .rowEngineDisable => rowEngineDisable | .engineGate => engineGate | .partitionRelease => partitionRelease
  | .domainChangeComplete => domainChangeComplete | .laydivChangeComplete => laydivChangeComplete
  | .cacheMaintenanceComplete => cacheMaintenanceComplete | .writeBufferCommit => writeBufferCommit | .msixVectorUnmask => msixVectorUnmask
  | .perstAssert => perstAssert | .configurationRequest => configurationRequest | .hostSnoop => hostSnoop

/-- Settles O57, by the round trip of each constructor. -/
theorem encodedInstructionsDecode : Obligations.EncodedInstructionsDecode := every_instr

/-! ### The other direction -/

/-- The decoder takes what was parsed only where its own code is the one read. -/
theorem codeOf_of_decodeCode {c : Code} {i : Instr} (h : decodeCode c = .ok i) : i.wellFormed = true ∧ codeOf i = some c := by
  unfold decodeCode at h
  split at h
  · split at h <;> cases h
  · repeat' split at h
    all_goals cases h
    exact ⟨‹_›, ‹_›⟩

theorem codeOf_of_checkLong {f : Fields} {i : Instr} (h : checkLong f = .ok i) : i.wellFormed = true ∧ codeOf i = some (.long f) := by
  unfold checkLong at h
  split at h
  · cases h
  · split at h
    · cases h
    · exact codeOf_of_decodeCode h

/-- A word is its length, its major opcode and its body put together. -/
theorem join_short (w : Word) : w.extractLsb' 30 2 ++ w.extractLsb' 24 6 ++ w.extractLsb' 0 24 = w := by
  rw [BitVec.extractLsb'_append_extractLsb'_eq_extractLsb' (by rfl), BitVec.extractLsb'_append_extractLsb'_eq_extractLsb' (by rfl)]
  exact BitVec.extractLsb'_eq_self

theorem join_word0 (w : Word) :
    word0 (w.extractLsb' 30 2) (w.extractLsb' 24 6) (w.extractLsb' 16 8) (w.extractLsb' 8 8) (w.extractLsb' 0 8) = w := by
  rw [word0, BitVec.append_assoc, BitVec.append_assoc, BitVec.append_assoc]
  repeat rw [BitVec.extractLsb'_append_extractLsb'_eq_extractLsb' (by rfl)]
  exact BitVec.extractLsb'_eq_self

theorem join_word1 (w : Word) :
    word1 (w.extractLsb' 24 8) (w.extractLsb' 14 10) (w.extractLsb' 9 5) (w.extractLsb' 7 2) (w.extractLsb' 0 7) = w := by
  rw [word1, BitVec.append_assoc, BitVec.append_assoc, BitVec.append_assoc]
  repeat rw [BitVec.extractLsb'_append_extractLsb'_eq_extractLsb' (by rfl)]
  exact BitVec.extractLsb'_eq_self

theorem of_map_pair {e : Except DecodeError Instr} {k n : Nat} {i : Instr} (h : e.map (fun i => (i, k)) = .ok (i, n)) :
    e = .ok i ∧ n = k := by
  cases e with
  | error e => cases h
  | ok j => cases h; exact ⟨rfl, rfl⟩

/-- The encoding of an instruction of 32 bits is the word whose fields its code has. -/
theorem encode_short {i : Instr} {w : Word} (hl : w.extractLsb' 30 2 = 1#2)
    (h : codeOf i = some (.short (w.extractLsb' 24 6) (w.extractLsb' 0 24))) : encode i = some [w] := by
  rw [encode, h, Option.map_some, Code.words, ← hl, join_short]

/-- The encoding of an instruction of 64 bits is the two words whose fields its code has. -/
theorem encode_long {i : Instr} {w w1 : Word} (hl : w.extractLsb' 30 2 = 2) (h : codeOf i = some (.long (fieldsOf w w1 none))) :
    encode i = some [w, w1] := by
  have e0 := join_word0 w
  rw [hl] at e0
  simp only [encode, h, Option.map_some, Code.words, fieldsOf, e0, join_word1]

/-- The encoding of an instruction of 96 bits is the three words whose fields its code has. -/
theorem encode_literal {i : Instr} {w w1 w2 : Word} (hl : w.extractLsb' 30 2 = 3)
    (h : codeOf i = some (.long (fieldsOf w w1 (some w2)))) : encode i = some [w, w1, w2] := by
  have e0 := join_word0 w
  rw [hl] at e0
  simp only [encode, h, Option.map_some, Code.words, fieldsOf, e0, join_word1]

/-- Settles O58, by the length that the first word names: the decoder compares the fields with the code of what it read, and fields put
together again are the words. -/
theorem decodedWordsAreTheirEncoding : Obligations.DecodedWordsAreTheirEncoding := by
  intro ws i n h
  cases ws with
  | nil => cases h
  | cons w rest =>
    simp only [decodeWords] at h
    split at h
    · cases h
    split at h
    · obtain ⟨hd, rfl⟩ := of_map_pair h
      obtain ⟨hw, hc⟩ := codeOf_of_decodeCode hd
      refine ⟨hw, by omega, by omega, by simp, ?_⟩
      simpa using encode_short (BitVec.eq_of_toNat_eq ‹_›) hc
    split at h
    · cases rest with
      | nil => cases h
      | cons w1 rest =>
        obtain ⟨hd, rfl⟩ := of_map_pair h
        obtain ⟨hw, hc⟩ := codeOf_of_checkLong hd
        refine ⟨hw, by omega, by omega, by simp, ?_⟩
        simpa using encode_long (BitVec.eq_of_toNat_eq ‹_›) hc
    · have h3 : (w.extractLsb' 30 2).toNat = 3 := by have := (w.extractLsb' 30 2).isLt; omega
      split at h
      · obtain ⟨hd, rfl⟩ := of_map_pair h
        obtain ⟨hw, hc⟩ := codeOf_of_checkLong hd
        refine ⟨hw, by omega, by omega, by simp, ?_⟩
        simpa using encode_literal (BitVec.eq_of_toNat_eq h3) hc
      · cases h

/-- Settles O56, by running the decoder on the words. -/
theorem workedWordsDecode : Obligations.WorkedWordsDecode := by
  unfold Obligations.WorkedWordsDecode
  decide +kernel

end Sys2Proof.Laws.RoundTrip
end

section
/-! The memory of the model read after writes (log entry 1), and the state right after device reset. -/

namespace Sys2Proof.Machine

theorem write_read {m : Memory} (a : Nat) (v : Byte) (x : Nat) : (m.write a v).read x = if x = a then v else m.read x := by
  unfold Memory.write
  split
  · rename_i hv
    rw [filter_read, hv]
  · rw [put_read, filter_read]
    split <;> rfl

/-- Bytes written from an address on leave those below it. -/
theorem writeN_read_below (bs : List Byte) {m : Memory} {a x : Nat} (h : x < a) : (m.writeN a bs).read x = m.read x := by
  induction bs generalizing m a with
  | nil => rfl
  | cons v bs ih => rw [Memory.writeN, ih (by omega), write_read, if_neg (by omega)]

theorem writeN_read_above (bs : List Byte) {m : Memory} {a x : Nat} (h : a + bs.length ≤ x) : (m.writeN a bs).read x = m.read x := by
  induction bs generalizing m a with
  | nil => rfl
  | cons v bs ih =>
    rw [List.length_cons] at h
    rw [Memory.writeN, ih (by omega), write_read, if_neg (by omega)]

/-- The bytes from an address on: the first, and those behind it. -/
theorem readN_succ (m : Memory) (a n : Nat) : m.readN a (n + 1) = m.read a :: m.readN (a + 1) n := by
  simp only [Memory.readN, List.range_succ_eq_map, List.map_cons, List.map_map, Nat.add_zero]
  congr 1
  apply List.map_congr_left
  intro k _
  show m.read (a + (k + 1)) = m.read (a + 1 + k)
  congr 1
  omega

/-- Bytes written are the bytes read. -/
theorem writeN_readN (bs : List Byte) (m : Memory) (a : Nat) : (m.writeN a bs).readN a bs.length = bs := by
  induction bs generalizing m a with
  | nil => rfl
  | cons v bs ih =>
    rw [List.length_cons, readN_succ, Memory.writeN, ih, writeN_read_below bs (by omega), write_read, if_pos rfl]

/-- What is read where a range was cleared. -/
theorem clear_read (m : Memory) (a n x : Nat) : (m.clear a n).read x = if a ≤ x ∧ x < a + n then 0 else m.read x := by
  induction m with
  | nil => simp [Memory.clear, Memory.read, memDefault]
  | cons d m ih =>
    obtain ⟨b, w⟩ := d
    unfold Memory.clear at ih ⊢
    by_cases hb : b < a ∨ a + n ≤ b
    · rw [List.filter_cons_of_pos (by simpa using hb), Memory.read, Memory.read, ih]
      by_cases hx : b = x
      · rw [if_pos hx, if_pos hx, if_neg (by omega)]
      · rw [if_neg hx, if_neg hx]
    · rw [List.filter_cons_of_neg (by simpa using hb), ih, Memory.read]
      by_cases hx : a ≤ x ∧ x < a + n
      · rw [if_pos hx, if_pos hx]
      · rw [if_neg hx, if_neg hx, if_neg (by omega)]

/-- In the canonical form the entries are the bytes that differ from the default. -/
theorem mem_iff_read {m : Memory} (h : m.wf = true) (a : Nat) (v : Byte) : (a, v) ∈ m ↔ m.read a = v ∧ v ≠ memDefault := by
  obtain ⟨hp, hd⟩ := (wf_iff m).mp h
  clear h
  induction m with
  | nil =>
    simp only [List.not_mem_nil, Memory.read, false_iff, not_and, ne_eq, not_not]
    exact fun h => h.symm
  | cons d m ih =>
    obtain ⟨b, w⟩ := d
    obtain ⟨hb, hp⟩ := List.pairwise_cons.mp hp
    have hw : w ≠ memDefault := hd _ List.mem_cons_self
    have ih := ih hp (fun c hc => hd c (List.mem_cons_of_mem _ hc))
    rw [List.mem_cons, Memory.read]
    by_cases hx : b = a
    · subst hx
      have hn : (b, v) ∉ m := fun hm => Nat.lt_irrefl b (hb _ hm)
      simp only [hn, or_false, if_pos, Prod.mk.injEq, true_and]
      exact ⟨fun e => ⟨e.symm, e ▸ hw⟩, fun e => e.1.symm⟩
    · rw [if_neg hx, ← ih]
      simp [Ne.symm hx]

/-- Memories in the canonical form that read alike are the same list. -/
theorem eq_of_read {m k : Memory} (hm : m.wf = true) (hk : k.wf = true) (h : ∀ a, m.read a = k.read a) : m = k := by
  have : Std.Irrefl (fun a b : Host.Cell => a.1 < b.1) := ⟨fun a => Nat.lt_irrefl a.1⟩
  have : Std.Antisymm (fun a b : Host.Cell => a.1 < b.1) := ⟨fun a b hab hba => absurd hab (Nat.lt_asymm hba)⟩
  refine List.Pairwise.eq_of_mem_iff ((wf_iff m).mp hm).1 ((wf_iff k).mp hk).1 ?_
  rintro ⟨a, v⟩
  rw [mem_iff_read hm, mem_iff_read hk, h]

/-- Settles O59, by what is read after a byte is written, bytes are written and a range is cleared. -/
theorem memoryReadsWhatWasWritten : Obligations.MemoryReadsWhatWasWritten := by
  refine ⟨fun m a v _ => ⟨?_, fun x hx => ?_⟩, fun m a bs _ => ⟨writeN_readN bs m a, fun x hx => ?_⟩, fun m a n x => ⟨fun h1 h2 => ?_, fun h => ?_⟩,
    fun m k => eq_of_read⟩
  · rw [write_read, if_pos rfl]
  · rw [write_read, if_neg hx]
  · exact hx.elim (writeN_read_below bs) (writeN_read_above bs)
  · rw [clear_read, if_pos ⟨h1, h2⟩]
  · rw [clear_read, if_neg (by omega)]

theorem reset_die (d : Nat) : State.reset.die d = Die.fresh d := by
  obtain rfl | rfl | hd : d = 0 ∨ d = 1 ∨ 2 ≤ d := by omega
  · rfl
  · rfl
  · have h0 : ¬0 = d := by omega
    have h1 : ¬1 = d := by omega
    simp [State.die, State.reset, Die.fresh, h0, h1]

/-- No clock has counted at reset (R30). -/
theorem reset_clk (core : Nat) : State.reset.clk core = 0 := by
  have hr : State.reset.rawClk core = 0 := by
    unfold State.rawClk
    split
    · rfl
    · unfold State.dieClk
      rw [reset_die]
      rfl
  rw [State.clk, hr, Nat.zero_sub]

/-- Settles O54, by evaluating the state of device reset. -/
theorem resetState : Obligations.ResetState := by
  refine ⟨rfl, rfl, rfl, ?_, rfl, rfl, rfl, ?_, ?_, rfl, ?_, ?_, ?_, ?_, rfl, rfl, rfl, rfl, rfl, rfl, rfl, rfl, rfl⟩
  · intro q h1 h2
    interval_cases q <;> decide
  · decide
  · decide
  · exact reset_clk
  · exact fun _ => ⟨rfl, rfl⟩
  · exact fun _ => ⟨rfl, rfl⟩
  · exact fun _ _ => ⟨rfl, rfl⟩

end Sys2Proof.Machine
end

section
/-! What the float instructions (05) and the conversions (06) do thread by thread, and the NaN results of R105. -/

namespace Sys2Proof.Machine

/-! ### The shapes in which they write -/

section
variable {s u : State} {r : Ref} {t : Thread}

theorem Listed.srcF (h : Listed s u r t) (b : Src) : u.srcF r b = s.valF t b := srcF_listed h.groups h.apart h.mem h.is b
theorem Listed.srcH (h : Listed s u r t) (bf : Bool) (b : Src) : u.srcH r bf b = s.valH t bf b :=
  srcH_listed h.groups h.apart h.mem h.is bf b
theorem Listed.thread (h : Listed s u r t) : u.thread r = t := thread_listed h.apart h.mem h.is

end

section
variable {i : Instr} {g : Guard} {d a c : Reg} {b : Src}

/-- An instruction that changes its thread's record and raises flags. -/
theorem change_floatwise {ch : State → Ref → Thread → Thread} {fl : State → Ref → Fl} {f : State → Thread → Thread × Fl}
    (hx : ∀ s, exec i s = .next (s.each g (fun s r => (s.upd r (ch s r)).addFlags r (fl s r)))) (hkey : ∀ s t, (f s t).1.key = t.key)
    (hgo : ∀ s t pc, (f s (t.goto pc)).2 = (f s t).2)
    (h : ∀ {s u r t}, Listed s u r t → ch u r t = (f s t).1 ∧ fl u r = (f s t).2) : Floatwise i g f := by
  refine floatwise_of hx hkey hgo (fun s u r hg hk ⟨t, ht, hr⟩ => ?_)
  have hl : Listed s u r t := ⟨hg, hk, ht, hr⟩
  have hch : u.upd r (ch u r) = u.upd r (fun t => (f s t).1) := upd_congr (fun t ht hr => (h ⟨hg, hk, ht, hr⟩).1)
  have his : ∀ t, (f s t).1.is r = t.is r := fun t => by
    have e := hkey s t
    rw [Thread.key, Thread.key, Prod.mk.injEq] at e
    rw [Thread.is, Thread.is, e.1, e.2]
  rw [(h hl).2, hch, addFlags_eq, upd_upd u r _ _ his, hl.thread]
  refine congrArg (fun v => State.orCause v r (flagCauses (f s t).2)) (upd_congr (fun t' ht' hr' => ?_))
  rw [← thread_listed hk ht' hr', hl.thread]

/-- An instruction that writes one float result. -/
theorem putF_floatwise {v : State → Ref → Word × Fl} {x : State → Thread → Word × Fl}
    (hx : ∀ s, exec i s = .next (s.each g (fun s r => s.putF r d (v s r)))) (hgo : ∀ s t pc, x s (t.goto pc) = x s t)
    (h : ∀ {s u r t}, Listed s u r t → v u r = x s t) : Floatwise i g (fun s t => t.result d (x s t)) :=
  floatwise_by hx (fun _ _ => rfl) hgo (fun _ _ _ _ hg hk ht hr => h ⟨hg, hk, ht, hr⟩)

theorem flt1_floatwise {f : Nat → Nat × Fl} (hx : ∀ s, exec i s = .next (s.flt1 g d a f)) :
    Floatwise i g (fun _ t => t.result d (toWord (f (t.reg a).toNat))) :=
  putF_floatwise hx (fun _ _ _ => rfl) (fun l => by rw [l.rd])

theorem flt2_floatwise {f : Nat → Nat → Nat × Fl} (hx : ∀ s, exec i s = .next (s.flt2 g d a b f)) :
    Floatwise i g (fun s t => t.result d (toWord (f (t.reg a).toNat (s.valF t b).toNat))) :=
  putF_floatwise hx (fun _ _ _ => by simp) (fun l => by rw [l.rd, l.srcF])

theorem flt3_floatwise {f : Nat → Nat → Nat → Nat × Fl} (hx : ∀ s, exec i s = .next (s.flt3 g d a b c f)) :
    Floatwise i g (fun s t => t.result d (toWord (f (t.reg a).toNat (s.valF t b).toNat (t.reg c).toNat))) :=
  putF_floatwise hx (fun _ _ _ => by simp) (fun l => by rw [l.rd, l.srcF, l.rd])

theorem half2_floatwise {bf : Bool} {f : Nat → Nat → Nat × Fl} (hx : ∀ s, exec i s = .next (s.half2 g bf d a b f)) :
    Floatwise i g (fun s t => t.result d (pairF f (t.reg a) (s.valH t bf b))) :=
  putF_floatwise hx (fun _ _ _ => by simp) (fun l => by rw [l.rd, l.srcH])

theorem half3_floatwise {bf : Bool} {f : Nat → Nat → Nat → Nat × Fl} (hx : ∀ s, exec i s = .next (s.half3 g bf d a b c f)) :
    Floatwise i g (fun s t => t.result d (pairF3 f (t.reg a) (s.valH t bf b) (t.reg c))) :=
  putF_floatwise hx (fun _ _ _ => by simp) (fun l => by rw [l.rd, l.srcH, l.rd])

theorem sfu1_floatwise {m : FMod} {fn : Sfu} (hx : ∀ s, exec i s = .next (s.sfu1 g m d a fn)) :
    Floatwise i g (fun _ t => t.result d (toWord (sfuF fn m.ftz m.na (t.reg a)))) :=
  putF_floatwise hx (fun _ _ _ => rfl) (fun l => by rw [l.rd])

end

/-! ### The FP32, pair and special-function instructions -/

theorem floatArithmetic_claim : Claim.FloatArithmetic :=
  ⟨fun _ _ _ _ _ => flt2_floatwise (fun _ => rfl), fun _ _ _ _ _ => flt2_floatwise (fun _ => rfl),
   fun _ _ _ _ _ _ => flt3_floatwise (fun _ => rfl),
   fun _ _ b => flt2_floatwise (b := .v b) (f := addF fmtF32 .rne false false false) (fun _ => rfl),
   fun _ _ b => flt2_floatwise (b := .v b) (f := mulF fmtF32 .rne false false false) (fun _ => rfl),
   fun _ _ b => flt3_floatwise (b := .v b) (f := fmaF fmtF32 .rne false false false false) (fun _ => rfl)⟩

theorem floatOtherArithmetic_claim : Claim.FloatOtherArithmetic :=
  ⟨fun _ _ _ _ _ => flt2_floatwise (fun _ => rfl), fun _ _ _ _ _ => flt2_floatwise (fun _ => rfl),
   fun _ _ _ _ _ => putF_floatwise (fun _ => rfl) (fun _ _ _ => by simp) (fun l => by rw [l.rd, l.src32]),
   fun _ _ _ _ => flt1_floatwise (fun _ => rfl), fun _ _ _ _ => flt1_floatwise (fun _ => rfl), fun _ _ _ _ _ => flt2_floatwise (fun _ => rfl)⟩

theorem floatComparison_claim : Claim.FloatComparison :=
  ⟨fun _ _ _ _ _ _ => change_floatwise (fun _ => rfl) (fun _ _ => rfl) (fun _ _ _ => by simp) (fun l => by rw [l.rd, l.srcF]; exact ⟨rfl, rfl⟩),
   fun _ _ _ => put_threadwise (fun _ => rfl) (fun l => by rw [l.rd])⟩

/-- Settles O7, by the shapes in which the FP32 instructions write. -/
theorem floatArithmetic : Obligations.FloatArithmetic := ⟨floatArithmetic_claim, floatOtherArithmetic_claim, floatComparison_claim⟩

theorem pairArithmetic_claim : Claim.PairArithmetic :=
  ⟨fun _ _ _ _ _ => half2_floatwise (fun _ => rfl), fun _ _ _ _ _ => half2_floatwise (fun _ => rfl),
   fun _ _ _ _ _ _ => half3_floatwise (fun _ => rfl),
   fun _ _ b => half3_floatwise (b := .v b) (f := fmaF fmtF16 .rne false false false false) (fun _ => rfl),
   fun _ _ _ _ _ => half2_floatwise (fun _ => rfl), fun _ _ _ _ _ => half2_floatwise (fun _ => rfl)⟩

theorem specialFunctions_claim : Claim.SpecialFunctions :=
  ⟨fun _ _ _ _ => sfu1_floatwise (fun _ => rfl), fun _ _ _ _ => sfu1_floatwise (fun _ => rfl), fun _ _ _ _ => sfu1_floatwise (fun _ => rfl),
   fun _ _ _ _ => sfu1_floatwise (fun _ => rfl), fun _ _ _ _ => sfu1_floatwise (fun _ => rfl), fun _ _ _ _ => sfu1_floatwise (fun _ => rfl),
   fun _ _ _ _ => sfu1_floatwise (fun _ => rfl)⟩

/-- Settles O8, by the shapes in which the pair and special-function instructions write. -/
theorem pairsAndSpecialFunctions : Obligations.PairsAndSpecialFunctions := ⟨pairArithmetic_claim, specialFunctions_claim⟩

/-! ### NaN operands (R105) -/

@[simp] theorem Val.negate_isNan (v : Val) (flip : Bool) : (v.negate flip).isNan = v.isNan := by cases v <;> rfl
@[simp] theorem Val.negate_isSig (v : Val) (flip : Bool) : (v.negate flip).isSig = v.isSig := by cases v <;> rfl

/-- Reading an operand raises FZ or nothing (R104). -/
theorem unpackF_flags (f : Fmt) (ftz : Bool) (x : Nat) : (unpackF f ftz x).2 = 0 ∨ (unpackF f ftz x).2 = flFZ := by
  unfold unpackF
  simp only
  repeat' split
  all_goals simp

/-- The flags of an operation with a NaN operand: NV stands exactly for a signaling one. -/
theorem nanFlags_nv {f1 f2 : Fl} (h1 : f1 = 0 ∨ f1 = flFZ) (h2 : f2 = 0 ∨ f2 = flFZ) (x y : Val) :
    (f1 ||| f2 ||| sigFl [x, y]) &&& flNV ≠ 0 ↔ x.isSig = true ∨ y.isSig = true := by
  have hs : sigFl [x, y] = if x.isSig || y.isSig then flNV else 0 := by simp [sigFl]
  rw [hs, ← Bool.or_eq_true]
  cases x.isSig || y.isSig <;> rcases h1 with rfl | rfl <;> rcases h2 with rfl | rfl <;> decide

section
variable (rm : Rnd) (ftz na nb : Bool) (x y : Nat)

/-- What a sum, product or quotient gives for a NaN operand: the canonical NaN, with the operands' own flags. -/
def nanResult : Nat × Fl :=
  (fmtF32.nanBits, (unpackF fmtF32 ftz x).2 ||| (unpackF fmtF32 ftz y).2 |||
    sigFl [(unpackF fmtF32 ftz x).1.negate na, (unpackF fmtF32 ftz y).1.negate nb])

variable {rm ftz na nb x y}

theorem addF_of_nan (h : ((unpackF fmtF32 ftz x).1.isNan || (unpackF fmtF32 ftz y).1.isNan) = true) :
    addF fmtF32 rm ftz na nb x y = nanResult ftz na nb x y := by
  simp only [addF, Val.negate_isNan, h, if_true, nanResult]

theorem mulF_of_nan (h : ((unpackF fmtF32 ftz x).1.isNan || (unpackF fmtF32 ftz y).1.isNan) = true) :
    mulF fmtF32 rm ftz na nb x y = nanResult ftz na nb x y := by
  simp only [mulF, Val.negate_isNan, h, if_true, nanResult]

theorem divF_of_nan (h : ((unpackF fmtF32 ftz x).1.isNan || (unpackF fmtF32 ftz y).1.isNan) = true) :
    divF rm ftz na nb x y = nanResult ftz na nb x y := by
  unfold divF nanResult
  generalize unpackF fmtF32 ftz x = p at h ⊢
  generalize unpackF fmtF32 ftz y = q at h ⊢
  obtain ⟨v, f1⟩ := p
  obtain ⟨w, f2⟩ := q
  exact if_pos (by simpa using h)

end

/-- Settles O9: all three give `nanResult`, whose NV is a signaling operand's. -/
theorem nanOperandsGiveTheCanonicalNan : Obligations.NanOperandsGiveTheCanonicalNan := by
  intro rm ftz na nb x y z hnan hz
  have h : ((unpackF fmtF32 ftz x).1.isNan || (unpackF fmtF32 ftz y).1.isNan) = true := by simpa using hnan
  have e : z = nanResult ftz na nb x y := by
    rcases hz with rfl | rfl | rfl
    · exact addF_of_nan h
    · exact mulF_of_nan h
    · exact divF_of_nan h
  rw [e]
  refine ⟨rfl, ?_⟩
  rw [nanResult, nanFlags_nv (unpackF_flags fmtF32 ftz x) (unpackF_flags fmtF32 ftz y), Val.negate_isSig, Val.negate_isSig]

/-! ### Conversions and packed dot products (06) -/

/-- The bits that a conversion reads of a thread (R146). -/
def Thread.cvtBits (t : Thread) (src : EFmt) (a : Reg) : Nat :=
  if EFmt.width src = 64 then (t.pair a).toNat else (t.reg a).toNat % 2 ^ EFmt.width src

/-- A thread with the result of a conversion (R146). -/
def Thread.cvtPut (t : Thread) (dst : EFmt) (d : Reg) (z : Nat) : Thread :=
  if EFmt.width dst = 64 then t.setPair d (BitVec.ofNat 64 z) else t.setReg d (BitVec.ofNat 32 z)

theorem Listed.cvtBits {s u : State} {r : Ref} {t : Thread} (h : Listed s u r t) (src : EFmt) (a : Reg) :
    u.cvtBits r src a = t.cvtBits src a := by
  rw [State.cvtBits, Thread.cvtBits, h.rd64, h.rd]

@[simp] theorem Thread.goto_rng (t : Thread) (pc : DWord) : (t.goto pc).rng = t.rng := rfl

theorem Thread.key_cvtPut (t : Thread) (dst : EFmt) (d : Reg) (z : Nat) : (t.cvtPut dst d z).key = t.key := by
  unfold Thread.cvtPut
  split <;> rfl

/-- The result of a conversion is a change of the thread's record. -/
theorem cvtPut_eq (s : State) (r : Ref) (dst : EFmt) (d : Reg) (z : Nat × Fl) :
    s.cvtPut r dst d z = (s.upd r (fun t => t.cvtPut dst d z.1)).addFlags r z.2 := by
  unfold State.cvtPut State.putW Thread.cvtPut
  by_cases h : dst.width = 64
  · simp [h, State.put64_eq]
  · simp [h, State.put_eq, lo32_ofNat]

/-- A conversion behind a step of the generator is one change of the record (R137). -/
theorem upd_rng_cvtPut (s : State) (r : Ref) (st : DWord) (dst : EFmt) (d : Reg) (z : Nat × Fl) :
    (s.upd r (fun t => { t with rng := st })).cvtPut r dst d z =
      (s.upd r (fun t => Thread.cvtPut { t with rng := st } dst d z.1)).addFlags r z.2 := by
  rw [cvtPut_eq, upd_upd s r (fun t => { t with rng := st }) _ (fun _ => rfl)]

theorem conversions_claim : Claim.Conversions := by
  refine ⟨?_, ?_, fun _ _ _ _ _ => put_threadwise (fun _ => rfl) (fun l => by rw [l.rd, l.rd, l.src32]),
    fun _ _ _ _ _ _ => putF_floatwise (fun _ => rfl) (fun _ _ _ => by simp) (fun l => by rw [l.rd, l.src32]),
    fun _ _ _ _ _ => put_threadwise (fun _ => rfl) (fun l => by rw [l.rd])⟩
  · intro g dst src rm sat ftz d a
    refine change_floatwise (i := .cvt g dst src rm sat ftz d a)
      (ch := fun u r t => t.cvtPut dst d (convert dst src (.mode rm) ftz sat (u.cvtBits r src a)).1)
      (fl := fun u r => (convert dst src (.mode rm) ftz sat (u.cvtBits r src a)).2) (fun s => ?_) (fun s t => ?_) (fun _ _ _ => rfl) (fun l => ?_)
    · show execCvt g dst src rm sat ftz d a s = _
      simp only [execCvt, cvtPut_eq]
    · exact Thread.key_cvtPut t dst d _
    · rw [l.cvtBits]
      exact ⟨rfl, rfl⟩
  · intro g dst src sat ftz d a b
    refine change_floatwise (i := .cvts g dst src sat ftz d a b)
      (ch := fun u r t => Thread.cvtPut { t with rng := nextRng (u.thread r).rng } dst d
        (convert dst src (.draw (drawOf (nextRng (u.thread r).rng) (u.src32 r b)).toNat) ftz sat (u.cvtBits r src a)).1)
      (fl := fun u r => (convert dst src (.draw (drawOf (nextRng (u.thread r).rng) (u.src32 r b)).toNat) ftz sat (u.cvtBits r src a)).2)
      (fun s => ?_) (fun s t => ?_) (fun s t pc => ?_) (fun l => ?_)
    · show execCvts g dst src sat ftz d a b s = _
      simp only [execCvts, upd_rng_cvtPut]
    · dsimp only
      split <;> rfl
    · simp only [val32_goto, Thread.goto_pair, Thread.goto_reg, Thread.goto_rng]
    · rw [l.cvtBits, l.thread, l.src32]
      exact ⟨rfl, rfl⟩

theorem dotProducts_claim : Claim.DotProducts :=
  ⟨fun _ _ _ _ _ _ _ _ => putF_floatwise (fun _ => rfl) (fun _ _ _ => by simp) (fun l => by rw [l.rd, l.src32, l.rd]),
   fun _ _ _ _ _ _ _ _ => putF_floatwise (fun _ => rfl) (fun _ _ _ => by simp) (fun l => by rw [l.rd, l.src32, l.rd]),
   fun _ _ _ _ _ _ => putF_floatwise (fun _ => rfl) (fun _ _ _ => by simp) (fun l => by rw [l.rd, l.srcH, l.rd])⟩

/-- Settles O10, by the shapes in which the conversions write. -/
theorem narrowFormats : Obligations.NarrowFormats := ⟨conversions_claim, dotProducts_claim⟩

end Sys2Proof.Machine
end

section
/-! Branches, calls and returns, the call stack, and the instructions that wait (03); taking an exception (19). -/

namespace Sys2Proof.Machine

/-! ### The one thread of a bundle -/

section
variable {s u : State} {g : Guard} {r : Ref}

/-- The one thread takes its effect at once, or the bundle is held (log entry 5). -/
theorem Runs.after (h : Runs s g r u) (wait : State → Ref → Bool) (f : State → Ref → State) :
    s.eachAfter g wait f = if wait s r then u.heldBack r else f u r := by
  rw [eachAfter_acts h.1, h.2]

theorem Runs.alone (h : Runs s g r u) : Alone s r := h.1.toAlone
theorem Runs.thread (h : Runs s g r u) : u.thread r = (s.thread r).goto s.bnd.npc := by rw [h.2, moved_thread h.alone.here]
theorem Runs.hasThread (h : Runs s g r u) : u.hasThread r = true := by rw [h.2, moved_hasThread, h.alone.here]

end

/-- The record of a listed thread after a change that keeps its number. -/
theorem upd_listed {s : State} {r : Ref} {f : Thread → Thread} (h : s.hasThread r = true)
    (hf : ∀ t, (f t).is r = t.is r := by exact fun _ => rfl) : (s.upd r f).thread r = f (s.thread r) :=
  State.upd_thread hf h

/-! ### Transfers (R72, R77 to R79) -/

section
variable {s u v : State} {r : Ref} {dest : DWord} {ok : State → State}

theorem transfer_good {l : UsedLine} (h : u.target (u.partOf r) (u.coreOf r) dest true = (.taken l false, v)) :
    u.transfer r dest ok = (ok v).upd r (fun t => { t with pc := dest, line := some l }) := by
  simp [State.transfer, h]

theorem transfer_malformed {l : UsedLine} (h : u.target (u.partOf r) (u.coreOf r) dest true = (.taken l true, v)) :
    u.transfer r dest ok = ((ok v).upd r (fun t => { t with pc := dest, line := some l })).note r causeIllegal := by
  simp [State.transfer, h]

theorem transfer_refused {c : Nat} (h : u.target (u.partOf r) (u.coreOf r) dest true = (.refuse c, v)) :
    u.transfer r dest ok = v.fail r c := by
  simp [State.transfer, h]

theorem transfer_parity (h : u.target (u.partOf r) (u.coreOf r) dest true = (.parity, v)) :
    u.transfer r dest ok = (v.upd r (fun t => t.goto v.bnd.pc)).raiseHalt (v.partOf r) 3 (v.coreOf r) r.1 := by
  simp [State.transfer, h]

end

/-- What a branch or a call to dest answers: it waits for the line and, as a call, for the entry; else it makes the transfer. -/
def State.jump (s u : State) (r : Ref) (call : Bool) (dest : DWord) : State :=
  if (call && s.trails r (s.entryLoc r (s.thread r).depth) 8) || s.fetchHeld (s.partOf r) (s.coreOf r) dest.toNat then u.heldBack r
  else if call then u.callTo r dest else u.transfer r dest (fun v => v)

@[simp] theorem moved_brxB (s : State) (r q : Ref) (b : Src) : (s.moved r).brxB q b = s.brxB q b := by
  cases b <;> simp [State.brxB, State.rd]

@[simp] theorem moved_farPc (s : State) (r q : Ref) (a : Reg) (b : Src) : (s.moved r).farPc q a b = s.farPc q a b := by
  simp [State.farPc, State.rd64]

@[simp] theorem moved_nearPc (s : State) (r : Ref) (d : Disp) : (s.moved r).nearPc d = s.nearPc d := rfl

section
variable {s u : State} {g : Guard} {r : Ref}

theorem jump_branch (h : Runs s g r u) {toPc : State → Ref → DWord} (hto : toPc u r = toPc s r) :
    s.eachAfter g (fun s r => s.targetHeld r (toPc s r)) (fun s r => s.transfer r (toPc s r) (fun s => s)) = s.jump u r false (toPc s r) := by
  rw [h.after, hto]
  rfl

theorem jump_call (h : Runs s g r u) {toPc : State → Ref → DWord} (hto : toPc u r = toPc s r) :
    s.eachAfter g (fun s r => s.callHeld r (toPc s r)) (fun s r => s.callTo r (toPc s r)) = s.jump u r true (toPc s r) := by
  rw [h.after, hto]
  rfl

theorem exec_bra (h : Runs s g r u) (d : Disp) : exec (.bra g d) s = .next (s.jump u r false (s.nearPc d)) :=
  congrArg Host.Outcome.next (jump_branch h (toPc := fun s _ => s.nearPc d) (by rw [h.2, moved_nearPc]))
theorem exec_call (h : Runs s g r u) (d : Disp) : exec (.call g d) s = .next (s.jump u r true (s.nearPc d)) :=
  congrArg Host.Outcome.next (jump_call h (toPc := fun s _ => s.nearPc d) (by rw [h.2, moved_nearPc]))
theorem exec_brx (h : Runs s g r u) (a : Reg) (b : Src) : exec (.brx g a b) s = .next (s.jump u r false (s.farPc r a b)) :=
  congrArg Host.Outcome.next (jump_branch h (toPc := fun s r => s.farPc r a b) (by rw [h.2, moved_farPc]))
theorem exec_callx (h : Runs s g r u) (a : Reg) (b : Src) : exec (.callx g a b) s = .next (s.jump u r true (s.farPc r a b)) :=
  congrArg Host.Outcome.next (jump_call h (toPc := fun s r => s.farPc r a b) (by rw [h.2, moved_farPc]))
theorem exec_braCompact (h : Runs s .always r u) (c : BitVec 24) : exec (.braCompact c) s = .next (s.jump u r false (s.nearPc (.short c))) :=
  exec_bra h (.short c)
theorem exec_callCompact (h : Runs s .always r u) (c : BitVec 24) : exec (.callCompact c) s = .next (s.jump u r true (s.nearPc (.short c))) :=
  exec_call h (.short c)

/-- Every branch and call of the list is a jump to its own target. -/
theorem exec_jump {i : Instr} {call : Bool} {dest : DWord} {d : Disp} {c : BitVec 24} {a : Reg} {b : Src} (h : Runs s g r u)
    (hi : (i, call, dest) ∈ [(Instr.bra g d, false, s.bnd.pc + dispBytes d), (.call g d, true, s.bnd.pc + dispBytes d),
        (.brx g a b, false, (s.thread r).pair a + s.brxB r b <<< 2), (.callx g a b, true, (s.thread r).pair a + s.brxB r b <<< 2)] ∨
      (g = .always ∧ (i, call, dest) ∈ [(Instr.braCompact c, false, s.bnd.pc + c.signExtend 64 <<< 2),
        (.callCompact c, true, s.bnd.pc + c.signExtend 64 <<< 2)])) :
    exec i s = .next (s.jump u r call dest) := by
  simp only [List.mem_cons, Prod.mk.injEq, List.not_mem_nil, or_false] at hi
  rcases hi with (⟨rfl, rfl, rfl⟩ | ⟨rfl, rfl, rfl⟩ | ⟨rfl, rfl, rfl⟩ | ⟨rfl, rfl, rfl⟩) | ⟨rfl, ⟨rfl, rfl, rfl⟩ | ⟨rfl, rfl, rfl⟩⟩
  · exact exec_bra h d
  · exact exec_call h d
  · exact exec_brx h a b
  · exact exec_callx h a b
  · exact exec_braCompact h c
  · exact exec_callCompact h c

/-- A call whose entry lies in lane memory is a transfer that pushes; a branch pushes nothing. -/
theorem jump_transfer {call : Bool} {dest : DWord} (h : Runs s g r u)
    (hheld : ((call && s.trails r (s.entryLoc r (s.thread r).depth) 8) || s.fetchHeld (s.partOf r) (s.coreOf r) dest.toNat) = false)
    (hroom : call = false ∨ 8 * ((s.thread r).depth + 1) ≤ hdrLane (s.group r.1).hdr) :
    s.jump u r call dest = u.transfer r dest (fun v => if call = true then v.push r else v) := by
  rw [State.jump, if_neg (Bool.eq_false_iff.mp hheld)]
  cases call with
  | false => rfl
  | true =>
    have hr : ¬hdrLane (u.group r.1).hdr < 8 * ((u.thread r).depth + 1) := by
      rw [h.2]
      simpa using hroom
    simp only [if_true, State.callTo, if_neg hr]

end

theorem branchesAndCalls : Claim.BranchesAndCalls := by
  intro s g r u i call dest d c a b h hi held hheld
  rw [exec_jump h hi]
  subst hheld
  have hu : u.partOf r = s.partOf r ∧ u.coreOf r = s.coreOf r := by rw [h.2]; exact ⟨rfl, rfl⟩
  refine ⟨fun hw => ?_, fun hw => ⟨fun hc hs => ?_, fun hroom => ?_⟩⟩
  · rw [State.jump, if_pos hw]
  · subst hc
    have hs' : hdrLane (u.group r.1).hdr < 8 * ((u.thread r).depth + 1) := by
      rw [h.2]
      simpa using hs
    rw [State.jump, if_neg (Bool.eq_false_iff.mp hw), if_pos rfl, State.callTo, if_pos hs']
  · rw [jump_transfer h hw hroom, ← hu.1, ← hu.2]
    refine ⟨fun l v w hv hw => ?_, fun l v w hv hw => ?_, fun x v hv => ?_, fun v hv => ?_⟩
    · rw [transfer_good hv, hw]
    · rw [transfer_malformed hv, hw]
    · rw [transfer_refused hv]
    · rw [transfer_parity hv]

theorem exec_ret {s u : State} {g : Guard} {r : Ref} (h : Runs s g r u) :
    exec (.ret g) s = .next (if s.retHeld r then u.heldBack r else u.ret r) :=
  congrArg Host.Outcome.next (h.after _ _)

theorem returns : Claim.Returns := by
  intro s g r u h
  rw [exec_ret h]
  have hd : (u.thread r).depth = (s.thread r).depth := by rw [h.2]; simp
  refine ⟨fun hw => by rw [if_pos hw], fun hw => ?_⟩
  rw [if_neg (by simp [hw])]
  refine ⟨fun h0 => by rw [State.ret, hd, if_pos h0], fun dest h0 hdest => ?_⟩
  have hpc : u.retPc r = dest := by
    rw [State.retPc, State.entryLoc, hd, hdest, callSlot, Nat.sub_add_cancel (Nat.pos_of_ne_zero h0), h.2]
    rfl
  have hu : u.partOf r = s.partOf r ∧ u.coreOf r = s.coreOf r := by rw [h.2]; exact ⟨rfl, rfl⟩
  rw [State.ret, hd, if_neg h0, hpc, ← hu.1, ← hu.2]
  refine ⟨fun l v hv => ?_, fun x v hv => by rw [transfer_refused hv]⟩
  rw [transfer_good hv, upd_upd v r (fun t => { t with depth := t.depth - 1 }) _ (fun _ => rfl)]

/-- Settles O11, by what a jump and a return answer. -/
theorem controlTransfers : Obligations.ControlTransfers := ⟨branchesAndCalls, returns⟩

/-! ### The call stack, and the checks on a target -/

@[simp] theorem toBytes_length (n x : Nat) : (toBytes n x).length = n := by
  induction n generalizing x with
  | zero => rfl
  | succ n ih => simp [toBytes, ih]

/-- The value of the low bytes of a number is the number modulo their width. -/
theorem ofBytes_toBytes (n x : Nat) : ofBytes (toBytes n x) = x % 256 ^ n := by
  induction n generalizing x with
  | zero => simp [toBytes, ofBytes, Nat.mod_one]
  | succ n ih =>
    rw [toBytes, ofBytes, ih, BitVec.toNat_ofNat, show (2 : Nat) ^ 8 = 256 from rfl, Nat.pow_succ', Nat.mod_mul]

theorem ofBytes_toBytes_dword (x : DWord) : BitVec.ofNat 64 (ofBytes (toBytes 8 x.toNat)) = x := by
  rw [ofBytes_toBytes, show 256 ^ 8 = 2 ^ 64 from rfl, Nat.mod_eq_of_lt x.isLt, BitVec.ofNat_toNat, BitVec.setWidth_eq]

theorem push_thread {s : State} {r : Ref} (h : s.hasThread r = true) :
    (s.push r).thread r = { s.thread r with depth := (s.thread r).depth + 1 } :=
  State.upd_thread (fun _ => rfl) h

theorem push_mem (s : State) (r : Ref) :
    (s.push r).mem = s.mem.writeN (s.entryLoc r (s.thread r).depth) (toBytes 8 s.bnd.npc.toNat) := rfl

theorem callPushesWhatReturnPops : Claim.CallPushesWhatReturnPops := by
  intro s r hr hroom
  have hd : ((s.push r).thread r).depth = (s.thread r).depth + 1 := by rw [push_thread hr]
  refine ⟨hd, ?_, fun x hx => ?_⟩
  · rw [hd, push_mem]
    have := writeN_readN (toBytes 8 s.bnd.npc.toNat) s.mem (s.entryLoc r (s.thread r).depth)
    rw [toBytes_length] at this
    rw [State.entryLoc, callSlot] at this ⊢
    rw [this, ofBytes_toBytes_dword]
  · rw [push_mem, State.entryLoc, callSlot]
    rcases hx with hx | hx
    · exact writeN_read_below _ hx
    · refine writeN_read_above _ ?_
      rw [toBytes_length]
      simp only [locLane] at hx ⊢
      omega

section
variable {s v : State} {part core n : Nat} {pc : DWord} {tgt : Bool} {ws : List Word} {st : List (Nat × Nat)}

/-- The checks on an aligned place in a good, well-formed line: only check 5 is left. -/
theorem target_started (hf : s.fetch part core pc.toNat = (.line n ws, v)) (hp : parityGood ws = true)
    (hpc : ¬(pc.toNat % 4 ≠ 0 ∨ 60 ≤ pc.toNat % 64)) (hl : lineStarts ws = some st) :
    s.target part core pc tgt =
      if (tgt && pc.toNat % 64 / 4 != 0 && !(st.any (fun p => p.1 == pc.toNat % 64 / 4) && lineTgt ws (pc.toNat % 64 / 4))) = true then
        (.refuse causeTarget, v)
      else (.taken { va := pc.toNat / 64 * 64, line := n, words := ws, bad := false } false, v) := by
  simp only [State.target, hf, hp, if_true, hl, hpc, if_false, Bool.not_true, Bool.false_eq_true]

end

theorem targetChecks : Claim.TargetChecks := by
  intro s part core pc tgt
  refine ⟨fun c v hf => by simp [State.target, hf], fun n ws v hf hp => ⟨fun hpc => ?_, fun h4 h60 hl => ?_, fun st h4 h60 hl => ?_⟩⟩
  · simp [State.target, hf, hp, hpc]
  · have hpc : ¬(pc.toNat % 4 ≠ 0 ∨ 60 ≤ pc.toNat % 64) := by omega
    simp [State.target, hf, hp, hpc, hl]
  · have hpc : ¬(pc.toNat % 4 ≠ 0 ∨ 60 ≤ pc.toNat % 64) := by omega
    rw [target_started hf hp hpc hl]
    refine ⟨fun ht h0 hbad => if_pos ?_, fun hgood => if_neg ?_⟩
    · have hslot : pc.toNat % 64 / 4 ≠ 0 := by omega
      rcases hbad with hb | hb <;> simp only [ht, hb, bne_iff_ne.mpr hslot, Bool.and_false, Bool.false_and, Bool.not_false, Bool.and_true]
    · rcases hgood with ht | h0 | ⟨hs, ht⟩
      · simp [ht]
      · simp [h0]
      · simp only [hs, ht, Bool.and_true, Bool.not_true, Bool.and_false, Bool.false_eq_true, not_false_eq_true]

/-- Settles O12, by the memory that a push writes and the order of the checks on a target. -/
theorem callStackAndTargets : Obligations.CallStackAndTargets := ⟨callPushesWhatReturnPops, targetChecks⟩

end Sys2Proof.Machine
end

section
/-! The instructions that wait (03), traps, special registers and halt queries (19), and taking an exception. -/

namespace Sys2Proof.Machine

/-! ### The end of a thread (R81) -/

theorem thread_of_threads {s v : State} (h : v.threads = s.threads) (r : Ref) : v.thread r = s.thread r := by
  simp only [State.thread, h]

theorem hasThread_of_threads {s v : State} (h : v.threads = s.threads) (r : Ref) : v.hasThread r = s.hasThread r := by
  simp only [State.hasThread, h]

/-- An unlisted number has the record of none. -/
theorem thread_unlisted {s : State} {r : Ref} (h : ¬s.hasThread r = true) : s.thread r = Thread.none := by
  have hn : s.threads.find? (fun t => t.is r) = none := by
    rw [List.find?_eq_none]
    exact fun t ht hc => h (List.any_eq_true.mpr ⟨t, ht, hc⟩)
  simp [State.thread, hn]

/-- v has the memory of s, and of the threads of s only r's record is another, with its number and registers. -/
structure OwnRecord (s v : State) (r : Ref) : Prop where
  mem : v.mem = s.mem
  has : v.hasThread r = s.hasThread r
  regs : (v.thread r).regs = (s.thread r).regs
  other : ∀ q, q ≠ r → v.thread q = s.thread q

theorem OwnRecord.of_threads {s v : State} {r : Ref} (hm : v.mem = s.mem) (ht : v.threads = s.threads) : OwnRecord s v r :=
  ⟨hm, hasThread_of_threads ht r, by rw [thread_of_threads ht], fun q _ => thread_of_threads ht q⟩

theorem OwnRecord.trans {s v w : State} {r : Ref} (h : OwnRecord s v r) (k : OwnRecord v w r) : OwnRecord s w r :=
  ⟨k.mem.trans h.mem, k.has.trans h.has, k.regs.trans h.regs, fun q hq => (k.other q hq).trans (h.other q hq)⟩

theorem OwnRecord.of_upd (s : State) (r : Ref) {f : Thread → Thread} (hk : ∀ t, (f t).key = t.key) (hf : ∀ t, (f t).regs = t.regs) :
    OwnRecord s (s.upd r f) r := by
  have his : ∀ t q, (f t).is q = t.is q := fun t q => by
    have e := hk t
    rw [Thread.key, Thread.key, Prod.mk.injEq] at e
    rw [Thread.is, Thread.is, e.1, e.2]
  refine ⟨rfl, State.upd_hasThread (fun t => his t r), ?_, fun q hq => State.upd_thread_other hq (fun t => his t q)⟩
  by_cases h : s.hasThread r = true
  · rw [State.upd_thread (fun t => his t r) h, hf]
  · have h' : ¬(s.upd r f).hasThread r = true := by rwa [State.upd_hasThread (fun t => his t r)]
    rw [thread_unlisted h, thread_unlisted h']

theorem emptyRecord_own (s : State) (r : Ref) : OwnRecord s (s.emptyRecord r) r := by
  unfold State.emptyRecord
  simp only
  split
  · exact .of_threads rfl rfl
  · split <;> exact .of_threads rfl rfl

theorem dropRecord_own (s : State) (r : Ref) : OwnRecord s (s.dropRecord r) r := by
  unfold State.dropRecord
  split
  · refine .trans (.trans (.of_threads ?_ ?_) (.of_upd _ r ?_ ?_)) (emptyRecord_own _ r) <;> intros <;> rfl
  · exact .of_threads rfl rfl

theorem foldl_own {α : Type} {f : State → α → State} {r : Ref} (hf : ∀ s a, OwnRecord s (f s a) r) (l : List α) (s : State) :
    OwnRecord s (l.foldl f s) r := by
  induction l generalizing s with
  | nil => exact .of_threads rfl rfl
  | cons a l ih => exact (hf s a).trans (ih (f s a))

theorem dropHolds_own (s : State) (r : Ref) : OwnRecord s (s.dropHolds r) r := by
  unfold State.dropHolds
  simp only
  have h1 : OwnRecord s (s.updDie (s.dieOf r) (fun y => { y with blendRes := y.blendRes.filter (fun b => !(b.gid == r.1 && b.tid == r.2)) })) r :=
    .of_threads rfl rfl
  have h2 := foldl_own (r := r) (f := fun (v : State) h => v.dropHold (v.dieOf r) (v.partOf r) h) (fun _ _ => .of_threads rfl rfl)
    (s.thread r).holds (s.updDie (s.dieOf r) (fun y => { y with blendRes := y.blendRes.filter (fun b => !(b.gid == r.1 && b.tid == r.2)) }))
  refine (h1.trans h2).trans (.of_upd _ r ?_ ?_) <;> exact fun _ => rfl

theorem endThread_own (s : State) (r : Ref) : OwnRecord s (s.endThread r) r :=
  .trans (.trans (dropRecord_own s r) (dropHolds_own _ r)) (.of_upd _ r (fun _ => rfl) (fun _ => rfl))

/-- R81: the thread that ended is not live and not in handler mode. -/
theorem endThread_ended {s : State} {r : Ref} (h : s.hasThread r = true) :
    ((s.endThread r).thread r).live = false ∧ ((s.endThread r).thread r).handler = false := by
  have hh : ((s.dropRecord r).dropHolds r).hasThread r = true := by
    rw [((dropRecord_own s r).trans (dropHolds_own _ r)).has, h]
  rw [State.endThread, upd_listed hh]
  exact ⟨rfl, rfl⟩

theorem endThread_moved {s u : State} {g : Guard} {r : Ref} (h : Runs s g r u) :
    ((u.endThread r).thread r).live = false ∧ ((u.endThread r).thread r).handler = false ∧
      ((u.endThread r).thread r).regs = (s.thread r).regs ∧ (∀ q, q ≠ r → (u.endThread r).thread q = s.thread q) ∧
      (u.endThread r).mem = s.mem := by
  obtain ⟨hl, hh⟩ := endThread_ended h.hasThread
  have ho := endThread_own u r
  refine ⟨hl, hh, ?_, fun q hq => ?_, ?_⟩
  · rw [ho.regs, h.2, moved_thread_regs]
  · rw [ho.other q hq, h.2, moved_other hq]
  · rw [ho.mem, h.2, moved_mem]

/-! ### Waiting (R80, R83 to R85) -/

section
variable {s u : State} {g : Guard} {r : Ref}

@[simp] theorem moved_waitMet (s : State) (r q : Ref) (l sc c t : Nat) : (s.moved r).waitMet q l sc c t = s.waitMet q l sc c t := by
  unfold State.waitMet
  rw [moved_lcOf, moved_scOf, moved_get_ccOf, moved_get_tcOf]

theorem exec_wait (h : Runs s g r u) (l sc c t : BitVec 6) :
    exec (.wait g l sc c t) s = .next (if s.waitMet r l.toNat sc.toNat c.toNat t.toNat then u
      else u.parkAs r (.wait l.toNat sc.toNat c.toNat t.toNat)) := by
  show Host.Outcome.next (s.each g _) = _
  rw [h.each, State.waitOn, h.2, moved_waitMet]

theorem exec_sleep (h : Runs s g r u) (b : Src) :
    exec (.sleep g b) s = .next (u.sleepTo r (s.dtb + (s.val32 (s.thread r) b).toNat)) := by
  show Host.Outcome.next (s.each g _) = _
  rw [h.each, h.2, moved_src32 h.alone, moved_get_dtb]

theorem exec_sleepAbs (h : Runs s g r u) (a : Reg) : exec (.sleepAbs g a) s = .next (u.sleepTo r ((s.thread r).pair a).toNat) := by
  show Host.Outcome.next (s.each g _) = _
  rw [h.each, h.2, moved_rd64]

theorem exec_yield (h : Runs s g r u) :
    exec (.yield g) s = .next (if (s.thread r).handler || hdrBudget (s.group r.1).hdr == 0 then u else u.parkAs r .yielded) := by
  show Host.Outcome.next (s.each g _) = _
  rw [h.each, h.2, moved_thread_handler, moved_get_group]

/-- R85: a wake time that has come does not park. -/
theorem sleepTo_past (h : Runs s g r u) {n : Nat} (hn : n ≤ s.dtb) : u.sleepTo r n = u := by
  rw [State.sleepTo, h.2, moved_get_dtb, if_pos hn]

theorem sleepTo_ahead (h : Runs s g r u) {n : Nat} (hn : s.dtb < n) : u.sleepTo r n = u.parkAs r (.sleep n) := by
  rw [State.sleepTo, h.2, moved_get_dtb, if_neg (Nat.not_le.mpr hn)]

end

/-- Settles O13, by what each instruction does for the one thread of the bundle. -/
theorem issueControl : Obligations.IssueControl := by
  intro s g r u h
  refine ⟨fun l => congrArg Host.Outcome.next (h.each _), ?_, ⟨u.endThread r, congrArg Host.Outcome.next (h.each _), endThread_moved h⟩,
    fun hh hb => ?_, fun hy => ?_, fun l sc c t => ?_, fun b => ⟨fun hb => ?_, fun hb => ?_⟩, fun a => ⟨fun ha => ?_, fun ha => ?_⟩⟩
  · rintro rfl
    exact congrArg Host.Outcome.next (h.each _)
  · rw [exec_yield h, hh, if_neg (by simpa using hb)]
  · rw [exec_yield h, if_pos (by simpa using hy)]
  · intro met
    have hmet : s.waitMet r l.toNat sc.toNat c.toNat t.toNat = true ↔ met := by simp [State.waitMet, met, and_assoc]
    refine ⟨fun hm => ⟨?_, ?_⟩, fun hm => ⟨?_, ?_⟩⟩
    · rw [exec_wait h, if_pos (hmet.mpr hm)]
    · rintro rfl
      rw [show exec (.waitCompact l sc c t) s = exec (.wait .always l sc c t) s from rfl, exec_wait h, if_pos (hmet.mpr hm)]
    · rw [exec_wait h, if_neg (fun hw => hm (hmet.mp hw))]
    · rintro rfl
      rw [show exec (.waitCompact l sc c t) s = exec (.wait .always l sc c t) s from rfl, exec_wait h, if_neg (fun hw => hm (hmet.mp hw))]
  · rw [exec_sleep h, hb, sleepTo_past h (n := s.dtb + (0 : Word).toNat) (Nat.le_refl _)]
  · have hpos : 0 < (s.val32 (s.thread r) b).toNat := by
      rw [Nat.pos_iff_ne_zero]
      exact fun h0 => hb (BitVec.eq_of_toNat_eq h0)
    rw [exec_sleep h, sleepTo_ahead h (by omega)]
  · rw [exec_sleepAbs h, sleepTo_past h ha]
  · rw [exec_sleepAbs h, sleepTo_ahead h ha]

/-! ### Causes on a thread's own instruction (R422) -/

section
variable {s : State} {r : Ref} {c : Nat}

theorem note_outside (h : (s.thread r).handler = false) : s.note r c = s.setCause r c := by
  simp [State.note, State.raiseAt, h]

theorem fail_outside (h : (s.thread r).handler = false) :
    s.fail r c = if s.enters r c then (s.setCause r c).upd r (fun t => { t with pc := s.bnd.pc }) else s.setCause r c := by
  simp [State.fail, State.raiseAt, h]

end

theorem trapInstructions_claim : Claim.TrapInstructions := by
  intro s g r u h hh
  have hu : (u.thread r).handler = false := by rw [h.2, moved_thread_handler, hh]
  have hw : u.waveOf r = s.waveOf r := by rw [h.2, moved_get_waveOf]
  have hv : ∀ b, u.src64 r b = s.val64 (s.thread r) b := fun b => by rw [h.2, moved_src64 h.alone]
  refine ⟨fun c => ?_, ?_, fun b => ?_, fun d b => ?_, fun d b => ?_, fun d b => ?_⟩
  · show Host.Outcome.next (s.each g _) = _
    rw [h.each, note_outside hu]
    rfl
  · show Host.Outcome.next (s.each g _) = _
    have hb : u.bnd = s.bnd := by rw [h.2, moved_get_bnd]
    rw [h.each, fail_outside hu, State.enters, hu, hw, hb]
    by_cases he : (s.waveOf r).tmask &&& 0x20000 = 0
    · simp only [he, ne_eq, not_true_eq_false, if_false]
      rw [if_neg]
      · rfl
      · simpa [causeBit, causeBkpt] using he
    · simp only [he, ne_eq, not_false_eq_true, if_true]
      rw [if_pos]
      · rfl
      · simpa [causeBit, causeBkpt] using he
  · show Host.Outcome.next (s.each g _) = _
    rw [h.each, hv]
  · show Host.Outcome.next (s.each g _) = _
    rw [h.each, State.tmaskTo, hw, hv]
    rfl
  · show Host.Outcome.next (s.each g _) = _
    rw [h.each, State.tmaskTo, hw, hv]
    rfl
  · show Host.Outcome.next (s.each g _) = _
    rw [h.each, State.tmaskTo, hw, hv]
    rfl

theorem returnFromHandler : Claim.ReturnFromHandler := by
  intro s g r u h
  have he : exec (.tret g) s = .next (if s.tretHeld r then u.heldBack r else u.tret r) := congrArg Host.Outcome.next (h.after _ _)
  have hh : (u.thread r).handler = (s.thread r).handler := by rw [h.2, moved_thread_handler]
  have ht : (u.thread r).tpc = (s.thread r).tpc := by rw [h.2, moved_thread_tpc]
  have hp : u.partOf r = s.partOf r ∧ u.coreOf r = s.coreOf r := by rw [h.2]; exact ⟨rfl, rfl⟩
  rw [he]
  refine ⟨fun _ hw => by rw [if_pos hw], fun l v h1 hw hv => ?_, fun h0 => ?_⟩
  · rw [if_neg (Bool.eq_false_iff.mp hw), State.tret, hh, h1, ht]
    simp only [Bool.not_true, Bool.false_eq_true, if_false, State.upd_get_partOf, State.upd_get_coreOf, hp.1, hp.2, hv]
  · rw [if_neg (by simp [State.tretHeld, h0]), State.tret, hh, h0]
    rfl

/-- Settles O16, by what a cause does outside handler mode, and the target of TRET. -/
theorem trapInstructions : Obligations.TrapInstructions := ⟨trapInstructions_claim, returnFromHandler⟩

/-- The record of a thread that entered its handler (R422). -/
def Thread.entered (t : Thread) (pc : DWord) : Thread :=
  { t with
    tpc := t.pc
    handler := true
    pc := pc
    line := Option.none
    park := match t.park with | .unfetched _ => .ready | p => p }

theorem enterHandler_eq {s : State} {r : Ref} (h : hdrHandler (s.group r.1).hdr ≠ 0) :
    s.enterHandler r = s.upd r (fun t => t.entered (hdrHandler (s.group r.1).hdr)) := by
  rw [State.enterHandler, if_neg h]
  rfl

theorem entered_fetched {t : Thread} (pc : DWord) (h : ∀ c, t.park ≠ .unfetched c) :
    t.entered pc = { t with tpc := t.pc, handler := true, pc := pc, line := Option.none } := by
  unfold Thread.entered
  split
  · exact absurd ‹_› (h _)
  · rfl

/-- Settles O17, by the record that entering the handler writes. -/
theorem exceptionEntry : Obligations.ExceptionEntry := by
  intro s r hr hh hp
  rw [enterHandler_eq hh]
  refine ⟨?_, fun q hq => State.upd_thread_other hq (fun _ => rfl), rfl, rfl, rfl⟩
  rw [upd_listed hr, entered_fetched _ hp]

end Sys2Proof.Machine
end

section
/-! Special registers and halt queries (19). -/

namespace Sys2Proof.Machine

/-! ### Reading (R52, R436) -/

@[simp] theorem moved_special (s : State) (r q : Ref) (n : Nat) : (s.moved r).special q n = s.special q n := by
  have hw : (s.moved r).workOf q = s.workOf q := rfl
  have hs : (s.moved r).sliceWord q.1 = s.sliceWord q.1 := rfl
  unfold State.special
  simp only [moved_get_group, moved_get_widOf, moved_get_laneOf, moved_get_freeVal, moved_get_clk, moved_get_dtb, moved_get_ctxOf,
    moved_get_waveOf, moved_thread_fflags, moved_lcOf, moved_scOf, moved_get_ccOf, moved_get_tcOf, moved_thread_tpc, hw, hs]
  rfl

section
variable {s u : State} {g : Guard} {r : Ref} {d : Reg} {n : BitVec 8}

theorem exec_srd (h : Runs s g r u) : exec (.srd g d n) s = .next (u.srd r d n) := congrArg Host.Outcome.next (h.each _)

/-- A 32-bit register other than `%clu`. -/
theorem exec_srd_word {w : Word} (h : Runs s g r u) (hn : n ≠ 0x1B ∧ n ≠ 0x0C ∧ sr64 n = false) (hv : lo32 (s.special r n.toNat) = w) :
    exec (.srd g d n) s = .next (u.put r d w) := by
  obtain ⟨h1, h2, h3⟩ := hn
  rw [exec_srd h, State.srd, if_neg (fun e => h1 e.1), h.2, moved_special]
  simp only [h2, if_false, h3, State.putW, hv, Bool.false_eq_true]

/-- A 64-bit register other than `%tpc`. -/
theorem exec_srd_pair {w : DWord} (h : Runs s g r u) (hn : n ≠ 0x1B ∧ n ≠ 0x0C ∧ sr64 n = true) (hv : s.special r n.toNat = w) :
    exec (.srd g d n) s = .next (u.put64 r d w) := by
  obtain ⟨h1, h2, h3⟩ := hn
  rw [exec_srd h, State.srd, if_neg (fun e => h1 e.1), h.2, moved_special]
  simp only [h2, if_false, h3, State.putW, hv, if_true]

end

theorem specialRegisterReads : Claim.SpecialRegisterReads := by
  intro s g r u d h
  refine ⟨?_, ?_, ?_, ?_⟩
  · rintro n rfl
    rfl
  · simp only [List.forall_mem_cons, List.not_mem_nil, false_imp_iff, implies_true, and_true]
    refine ⟨?_, ?_, ?_, ?_, ?_, ?_, ?_, ?_, ?_, ?_, ?_, ?_⟩
    case refine_7 => exact exec_srd_word h (by decide) (lo32_zext64 _)
    case refine_12 => exact exec_srd_word h (by decide) (lo32_zext64 _)
    all_goals exact exec_srd_word h (by decide) (lo32_ofNat _)
  · intro k
    fin_cases k
    all_goals exact exec_srd_pair h (by decide) rfl
  · simp only [List.forall_mem_cons, List.not_mem_nil, false_imp_iff, implies_true, and_true]
    refine ⟨?_, ?_, ?_, ?_, ?_, ?_, ?_⟩
    all_goals exact exec_srd_pair h (by decide) rfl

section
variable {s u : State} {g : Guard} {r : Ref}

theorem exec_srd_clu (h : Runs s g r u) (d : Reg) :
    exec (.srd g d 0x0C) s = .next (u.drawn.put r d (lo32 (s.special r 0x0C))) := by
  rw [exec_srd h, State.srd, if_neg (by simp), h.2, moved_special]
  rfl

theorem exec_swr (h : Runs s g r u) (n : BitVec 8) (b : Src) : exec (.swr g n b) s = .next (u.swr r n b) :=
  congrArg Host.Outcome.next (h.each _)

end

theorem handlerOnlyRegister : Claim.HandlerOnlyRegister := by
  intro s g r u d h
  have hh : (u.thread r).handler = (s.thread r).handler := by rw [h.2, moved_thread_handler]
  refine ⟨fun ht => ⟨?_, fun b => ?_⟩, fun ht => ⟨?_, fun b => ?_⟩, fun hc => ?_, fun hc => ⟨_, exec_srd_clu h d⟩⟩
  · rw [exec_srd h, State.srd, if_neg (by simp [hh, ht]), h.2, moved_special]
    rfl
  · rw [exec_swr h, State.swr, if_neg (by decide), if_neg (by decide), if_pos rfl, hh, ht, if_pos rfl, h.2, moved_src64 h.alone]
  · rw [exec_srd h, State.srd, if_pos ⟨rfl, by rw [hh, ht]⟩]
  · rw [exec_swr h, State.swr, if_neg (by decide), if_neg (by decide), if_pos rfl, hh, ht, if_neg (by decide)]
  · have hv : s.special r 0x0C = BitVec.ofNat 64 (s.coreOf r / 8) := by
      show (if isControl (s.coreOf r) = true then s.freeVal else BitVec.ofNat 64 (clusterOfCore (s.coreOf r))) = _
      rw [if_neg (by simp [hc])]
      rfl
    rw [exec_srd_clu h, hv, lo32_ofNat]

/-! ### Writing (R436) -/

/-- The read-only registers of R52: SWR looks for `%tmask`, `%fflags` and `%tpc` only. -/
theorem swr_readOnly {n : BitVec 8} (s : State) (r : Ref) (b : Src) (h : n ≠ 0x14 ∧ n ≠ 0x15 ∧ n ≠ 0x1B) : s.swr r n b = s := by
  rw [State.swr, if_neg h.1, if_neg h.2.1, if_neg h.2.2]

theorem specialRegisterWrites : Claim.SpecialRegisterWrites := by
  intro s g r u b h
  refine ⟨?_, ?_, fun n hn => ?_, fun n hn => ?_⟩
  · rw [exec_swr h, State.swr, if_pos rfl, h.2, moved_src64 h.alone]
    rfl
  · rw [exec_swr h, State.swr, if_neg (by decide), if_pos rfl, h.2, moved_src32 h.alone]
  · rw [exec_swr h, swr_readOnly]
    revert hn
    revert n
    decide
  · have ha : srAssigned n = false := by
      revert hn
      revert n
      decide
    show (srAssigned n && _) = false
    rw [ha, Bool.false_and]

/-! ### HALTQ (R441) -/

section
variable {s u : State} {g : Guard} {r : Ref}

theorem exec_haltq (h : Runs s g r u) (sel : BitVec 3) (d : Reg) :
    exec (.haltq g sel d) s = .next (u.put64 r d (s.haltq (s.partOf r) sel.toNat)) := by
  show Host.Outcome.next (s.each g _) = _
  rw [h.each, h.2]
  rfl

end

/-- A field of a word put together from four fields. -/
theorem sparesOf_toNat (s : State) (x : Nat) : ∃ lanes,
    (s.sparesOf x).toNat = (s.spares.countP (fun c => c / 64 == x && decide (c < 128))) % 16 +
      (s.spares.countP (fun c => decide (128 ≤ c) && (c - 128) / 16 == x)) % 16 * 2 ^ 4 + lanes % 4096 * 2 ^ 8 +
      s.spareWays.count x % 4096 * 2 ^ 20 := by
  refine ⟨((s.lanes.filter (fun l => l.1 / 64 == x)).map (fun l => l.2)).foldl (· + ·) 0, ?_⟩
  have hwide : ((s.spares.filter (fun c => dieOfCore c == x)).filter (fun c => !isControl c)).length =
      s.spares.countP (fun c => c / 64 == x && decide (c < 128)) := by
    rw [List.filter_filter, ← List.countP_eq_length_filter]
    refine List.countP_congr (fun c _ => ?_)
    by_cases hc : 128 ≤ c
    · simp [isControl, hc, Nat.not_lt.mpr hc]
    · simp [isControl, dieOfCore, hc, Nat.not_le.mp hc]
  have hctl : ((s.spares.filter (fun c => dieOfCore c == x)).filter isControl).length =
      s.spares.countP (fun c => decide (128 ≤ c) && (c - 128) / 16 == x) := by
    rw [List.filter_filter, ← List.countP_eq_length_filter]
    refine List.countP_congr (fun c _ => ?_)
    by_cases hc : 128 ≤ c <;> simp [isControl, dieOfCore, hc]
  unfold State.sparesOf
  simp only
  rw [hwide, hctl, BitVec.toNat_ofNat]
  omega

theorem haltQueries : Claim.HaltQueries := by
  intro s g r u d p h hp
  subst hp
  refine ⟨exec_haltq h 0 d, exec_haltq h 1 d, exec_haltq h 2 d, ⟨s.sparesOf 0, s.sparesOf 1, exec_haltq h 3 d, ?_⟩, exec_haltq h 4 d⟩
  have hbits : ∀ x, bitsOf (s.sparesOf x) 3 0 = (s.spares.countP (fun c => c / 64 == x && decide (c < 128))) % 16 ∧
      bitsOf (s.sparesOf x) 7 4 = (s.spares.countP (fun c => decide (128 ≤ c) && (c - 128) / 16 == x)) % 16 ∧
      bitsOf (s.sparesOf x) 31 20 = s.spareWays.count x % 4096 := by
    intro x
    obtain ⟨lanes, hl⟩ := sparesOf_toNat s x
    simp only [bitsOf, hl]
    omega
  simp only [List.forall_mem_cons, List.not_mem_nil, false_imp_iff, implies_true, and_true]
  exact ⟨hbits 0, hbits 1⟩

/-- Settles O18, by what SRD and SWR do for each number of R52, and HALTQ for each selector. -/
theorem specialRegisters : Obligations.SpecialRegisters :=
  ⟨specialRegisterReads, handlerOnlyRegister, specialRegisterWrites, haltQueries⟩

end Sys2Proof.Machine
end

section
/-! Cross-lane meetings: exchange, votes, matches, the election, reductions and scans (07). -/

namespace Sys2Proof.Machine

theorem crossLaneGathers : Claim.CrossLaneGathers := by
  intro s r g mode wrap x64 m d a b hm hr
  show Host.Outcome.next (s.cross m g _) = _
  rw [State.cross, hm]
  show Host.Outcome.next (s.gather m) = _
  rw [State.gather, hr]
  rfl

/-- A cross-lane instruction whose effect on each guard-true thread is a change of its record: enough that it is `f` for each thread
that has its own number. -/
theorem meetwise_of {i : Instr} {g : Guard} {m : Mask} {e : State → Ref → State → State} {c f : State → Ref → Thread → Thread}
    (hx : ∀ s, exec i s = .next (s.cross m g e)) (he : ∀ s r v, e s r v = v.upd r (c s r)) (hk : ∀ s r t, (c s r t).key = t.key)
    (h : ∀ s r t, (s.thread r).gid = r.1 → c s r t = f s r t) : Meetwise i g f := by
  intro s hm
  rw [hx, cross_meets hm (he s) (hk s)]
  congr 2
  refine List.map_congr_left (fun t ht => ?_)
  have hg : (s.thread t.key).gid = t.key.1 := by rw [thread_of_mem hm.apart ht, Thread.key]
  simp only [State.meetThread, h s t.key _ hg]

/-- The voter of a lane holds what the thread of the lane contributes. -/
theorem voterAt_map {α : Type} (s : State) (g : Guard) (l : Nat) (f : Thread → α) :
    (s.voterAt g l).map (fun q => f (s.thread q)) = (s.lane g l).map f := by
  rw [← voterAt_lane, Option.map_map]
  rfl

/-- What a vote asks of the voter of a lane. -/
def State.voteAt (s : State) (g : Guard) (l : Nat) (p : Ref → Bool) : Bool :=
  match s.voterAt g l with
  | some q => p q
  | none => false

theorem voteAt_lane (s : State) (g : Guard) (l : Nat) (p : Thread → Bool) :
    s.voteAt g l (fun q => p (s.thread q)) = ((s.lane g l).map p).getD false := by
  rw [← voterAt_map, State.voteAt]
  cases s.voterAt g l <;> rfl

/-! ### Masks of lanes -/

theorem laneBit_getLsbD (l i : Nat) (hi : i < 64) : (laneBit l).getLsbD i = decide (i = l) := by
  rw [laneBit, BitVec.getLsbD_ofNat, Nat.testBit_two_pow]
  simp [hi, eq_comm]

/-- The bits of a mask built lane by lane. -/
theorem foldl_laneBit_getLsbD (p : Nat → Bool) (n i : Nat) (hi : i < 64) :
    ((List.range n).foldl (fun m l => if p l then m ||| laneBit l else m) (0 : DWord)).getLsbD i = (decide (i < n) && p i) := by
  induction n with
  | zero => simp
  | succ n ih =>
    rw [List.range_succ, List.foldl_append, List.foldl_cons, List.foldl_nil]
    by_cases hp : p n = true
    · rw [if_pos hp, BitVec.getLsbD_or, ih, laneBit_getLsbD n i hi]
      by_cases hin : i = n
      · subst hin
        simp [hp]
      · have : (i < n + 1) = (i < n) := by
          rw [eq_iff_iff]
          omega
        simp [hin, this]
    · rw [if_neg hp, ih]
      by_cases hin : i = n
      · subst hin
        simp [hp]
      · have : (i < n + 1) = (i < n) := by
          rw [eq_iff_iff]
          omega
        simp [this]

theorem lanesWhere_eq (p : Nat → Bool) : lanesWhere p = maskOf p := by
  apply BitVec.eq_of_getLsbD_eq
  intro i hi
  rw [lanesWhere, foldl_laneBit_getLsbD p 64 i hi, maskOf, BitVec.getLsbD_ofFnLE]
  simp [hi]

/-! ### Exchange and votes -/

/-- What a reader takes from the lane that it reads, or 0. -/
def State.taken {n : Nat} (s : State) (g : Guard) (f : Thread → BitVec n) (j : Option Nat) : BitVec n :=
  match j with
  | some j => ((s.lane g j).map f).getD 0
  | none => 0

/-- The value that LXCH takes at either width. -/
def State.xchGot (s : State) (g : Guard) (x64 : Bool) (a : Reg) (j : Option Nat) : DWord :=
  match j with
  | some j => ((s.voterAt g j).map (fun q => s.rdW q x64 a)).getD 0
  | none => 0

theorem xchGot_eq (s : State) (g : Guard) (x64 : Bool) (a : Reg) (j : Option Nat) :
    s.xchGot g x64 a j = if x64 then s.taken g (fun q => q.pair a) j else zext64 (s.taken g (fun q => q.reg a) j) := by
  cases j with
  | none => cases x64 <;> rfl
  | some j =>
    simp only [State.xchGot, State.taken, ← voterAt_map]
    cases s.voterAt g j <;> cases x64 <;> rfl

theorem src32_own {s : State} {r : Ref} (h : (s.thread r).gid = r.1) (b : Src) : s.src32 r b = s.val32 (s.thread r) b := by
  cases b <;> simp [State.src32, State.val32, State.rd, h]

theorem laneExchange : Claim.LaneExchange := by
  refine ⟨fun g mode wrap m d a b => ?_, fun g mode wrap m d a b => ?_⟩
  · refine meetwise_of (c := fun s r t =>
      t.setReg d (s.taken g (fun q => q.reg a) (xchLane mode wrap (s.waveW r.1) (s.laneOf r) (s.src32 r b).toNat)))
      (fun _ => rfl) (fun s r v => ?_) (fun _ _ _ => rfl) (fun s r t h => ?_)
    · show v.putW r false d (s.xchGot g false a _) = _
      rw [xchGot_eq]
      simp only [State.putW, Bool.false_eq_true, if_false, lo32_zext64, State.put_eq]
    · rw [src32_own h]
      rfl
  · refine meetwise_of (c := fun s r t =>
      t.setPair d (s.taken g (fun q => q.pair a) (xchLane mode wrap (s.waveW r.1) (s.laneOf r) (s.src32 r b).toNat)))
      (fun _ => rfl) (fun s r v => ?_) (fun _ _ _ => rfl) (fun s r t h => ?_)
    · show v.putW r true d (s.xchGot g true a _) = _
      rw [xchGot_eq]
      simp only [State.putW, if_true, State.put64_eq]
    · rw [src32_own h]
      rfl

theorem any_voters (s : State) (g : Guard) (p : Thread → Bool) :
    (s.voters g).any (fun q => p (s.thread q)) = s.bnd.refs.any (fun q => guardHolds g (s.thread q) && p (s.thread q)) := by
  rw [State.voters, List.any_filter]

theorem all_voters (s : State) (g : Guard) (p : Ref → Bool) :
    (s.voters g).all p = s.bnd.refs.all (fun q => !guardHolds g (s.thread q) || p q) := by
  rw [State.voters, List.all_filter]

theorem laneVotes : Claim.LaneVotes := by
  refine ⟨fun g m pd pa => ?_, fun g m pd pa => ?_, fun g m d pa => ?_, fun g m d a => ?_, fun g m d a => ?_, fun g m pd => ?_⟩
  · refine meetwise_of (c := fun s _ t => t.setPred pd ((s.voters g).any (fun q => (s.thread q).pred pa)))
      (fun _ => rfl) (fun _ _ _ => rfl) (fun _ _ _ => rfl) (fun s r t _ => ?_)
    rw [any_voters s g (fun t => t.pred pa)]
  · refine meetwise_of (c := fun s _ t => t.setPred pd ((List.range 64).all (fun l =>
      !s.metMask.getLsbD l || s.voteAt g l (fun q => (s.thread q).pred pa))))
      (fun _ => rfl) (fun _ _ _ => rfl) (fun _ _ _ => rfl) (fun s r t _ => ?_)
    simp only [voteAt_lane s g _ (fun t => t.pred pa)]
  · refine meetwise_of (c := fun s _ t => t.setPair d (lanesWhere (fun l =>
      s.voteAt g l (fun q => (s.thread q).pred pa))))
      (fun _ => rfl) (fun _ _ _ => rfl) (fun _ _ _ => rfl) (fun s r t _ => ?_)
    simp only [voteAt_lane s g _ (fun t => t.pred pa), lanesWhere_eq]
  · refine meetwise_of (c := fun s r t => t.setPair d (lanesWhere (fun l =>
      s.voteAt g l (fun q => s.rdW q false a == s.rdW r false a))))
      (fun _ => rfl) (fun _ _ _ => rfl) (fun _ _ _ => rfl) (fun s r t _ => ?_)
    have hz : ∀ x y : Word, (zext64 x == zext64 y) = (x == y) := fun x y => by
      rw [Bool.eq_iff_iff, beq_iff_eq, beq_iff_eq]
      exact ⟨fun e => by rw [← lo32_zext64 x, e, lo32_zext64], fun e => by rw [e]⟩
    simp only [rdW_32, hz, State.rd, voteAt_lane s g _ (fun t => t.reg a == (s.thread r).reg a), lanesWhere_eq]
  · refine meetwise_of (c := fun s r t => t.setPair d (lanesWhere (fun l =>
      s.voteAt g l (fun q => (s.thread q).pair a == (s.thread r).pair a))))
      (fun _ => rfl) (fun _ _ _ => rfl) (fun _ _ _ => rfl) (fun s r t _ => ?_)
    simp only [voteAt_lane s g _ (fun t => t.pair a == (s.thread r).pair a), lanesWhere_eq]
  · refine meetwise_of (c := fun s r t => t.setPred pd ((s.voters g).all (fun q => decide (s.laneOf r ≤ s.laneOf q))))
      (fun _ => rfl) (fun _ _ _ => rfl) (fun _ _ _ => rfl) (fun s r t _ => ?_)
    rw [all_voters]

/-- Settles O14, by the change that each meeting makes to its threads' records. -/
theorem crossLaneMeetings : Obligations.CrossLaneMeetings := ⟨crossLaneGathers, laneExchange, laneVotes⟩

/-! ### Reductions and scans (R165 to R167) -/

theorem leafOfLane_eq (s : State) (g : Guard) (a : Reg) : s.leafOfLane g a = fun l => (s.lane g l).map (fun q => q.reg a) := by
  funext l
  exact voterAt_map s g l (fun q => q.reg a)

/-- An integer combine raises no flag. -/
theorem redOp_flags {ty : RTy} (hty : ty ≠ .f32) (op : ROp) (x y : Word) : (redOp op ty x y).2 = 0 := by
  cases ty with
  | f32 => exact absurd rfl hty
  | _ => cases op <;> rfl

/-- A value of the tree without flags, or EMPTY. -/
def Quiet (x : Option (Word × Fl)) : Prop := ∀ p, x = some p → p.2 = 0

theorem redJoin_quiet {ty : RTy} (hty : ty ≠ .f32) (op : ROp) {x y : Option (Word × Fl)} (hx : Quiet x) (hy : Quiet y) :
    Quiet (redJoin op ty x y) := by
  cases x with
  | none => exact hy
  | some p =>
    cases y with
    | none => exact hx
    | some q =>
      rintro z ⟨⟩
      show p.2 ||| q.2 ||| (redOp op ty p.1 q.1).2 = 0
      rw [hx p rfl, hy q rfl, redOp_flags hty]
      rfl

theorem redTree_quiet {ty : RTy} (hty : ty ≠ .f32) (op : ROp) (leaf : Nat → Option Word) (k lo : Nat) : Quiet (redTree op ty leaf k lo) := by
  induction k generalizing lo with
  | zero =>
    rintro p hp
    obtain ⟨w, _, rfl⟩ := Option.map_eq_some_iff.mp hp
    rfl
  | succ k ih => exact redJoin_quiet hty op (ih lo) (ih (lo + 2 ^ k))

theorem scanFold_quiet {ty : RTy} (hty : ty ≠ .f32) (op : ROp) (leaf : Nat → Option Word) (n k lo : Nat) (acc : Option (Word × Fl))
    (ha : Quiet acc) : Quiet (scanFold op ty leaf n k lo acc) := by
  induction k generalizing lo acc with
  | zero => exact ha
  | succ k ih =>
    unfold scanFold
    split
    · exact ih _ _ (redJoin_quiet hty op ha (redTree_quiet hty op leaf k lo))
    · exact ih _ _ ha

theorem getD_quiet {x : Option (Word × Fl)} (h : Quiet x) (w : Word) : (x.getD (w, 0)).2 = 0 := by
  cases x with
  | none => rfl
  | some p => exact h p rfl

/-- A float result without flags is a register write. -/
theorem putF_quiet {x : Word × Fl} (s : State) (r : Ref) (d : Reg) (h : x.2 = 0) : s.putF r d x = s.upd r (fun t => t.setReg d x.1) := by
  have h0 : flagCauses 0 = 0 := by decide
  rw [State.putF, h, addFlags_eq, h0, State.put_eq, State.orCause, updWave_same _ _ _ _ (fun w => by simp)]
  rw [upd_upd s r (fun t => t.setReg d x.1) _ (fun _ => rfl)]
  congr 1
  funext t
  simp [Thread.flags]

theorem laneReductions_claim : Claim.LaneReductions := by
  refine ⟨fun g op ty m d a hty => ?_, fun g op ty exc m d a hty => ?_⟩
  · refine meetwise_of (c := fun s _ t => t.setReg d ((redTree op ty (s.leafOfLane g a) 6 0).getD (redIdent op ty, 0)).1)
      (fun _ => rfl) (fun s r v => ?_) (fun _ _ _ => rfl) (fun s r t _ => ?_)
    · exact putF_quiet v r d (getD_quiet (redTree_quiet hty op _ _ _) _)
    · rw [leafOfLane_eq]
  · refine meetwise_of (c := fun s r t =>
      t.setReg d ((scanFold op ty (s.leafOfLane g a) (s.laneOf r + (if exc then 0 else 1)) 6 0 none).getD (redIdent op ty, 0)).1)
      (fun _ => rfl) (fun s r v => ?_) (fun _ _ _ => rfl) (fun s r t _ => ?_)
    · exact putF_quiet v r d (getD_quiet (scanFold_quiet hty op _ _ _ _ none (fun _ h => by cases h)) _)
    · rw [leafOfLane_eq]

/-! ### FP32 reductions: the record of one thread of the meeting -/

/-- The record of a thread whose list was changed record by record. -/
theorem thread_map {s v : State} {h : Thread → Thread} {r : Ref} (hv : v.threads = s.threads.map h) (hh : ∀ t, (h t).key = t.key)
    (hr : s.hasThread r = true) : v.thread r = h (s.thread r) := by
  have his : (fun t : Thread => t.is r) ∘ h = fun t => t.is r := by
    funext t
    rw [Function.comp, Bool.eq_iff_iff, Thread.is_iff_key, Thread.is_iff_key, hh]
  obtain ⟨t, ht, htr⟩ := List.any_eq_true.mp hr
  have hs : (s.threads.find? (fun t => t.is r)).isSome = true := List.find?_isSome.mpr ⟨t, ht, htr⟩
  obtain ⟨x, hx⟩ := Option.isSome_iff_exists.mp hs
  rw [State.thread, State.thread, hv, List.find?_map, his, hx]
  rfl

section
variable {old : State} {g : Guard} {d : Reg} {x : Ref → Word × Fl}

/-- The record of a thread that attended a meeting with a float result. -/
def Thread.attended (old : State) (g : Guard) (d : Reg) (x : Ref → Word × Fl) (r : Ref) (t : Thread) : Thread :=
  if guardHolds g (old.thread r) = true then
    (({ t with pc := old.bnd.npc, meet := Option.none, formed := Option.none } : Thread).setReg d (x r).1).flags (x r).2
  else { t with pc := old.bnd.npc, meet := Option.none, formed := Option.none }

theorem Thread.key_attended (r : Ref) (t : Thread) : (t.attended old g d x r).key = t.key := by
  unfold Thread.attended
  split <;> rfl

/-- Attending with a float result changes the thread's record and its wave. -/
theorem attend_putF (u : State) (r : Ref) (hb : u.bundle = old.bundle) :
    (State.attend old g (fun _ r s => s.putF r d (x r)) u r).mem = u.mem ∧
    (State.attend old g (fun _ r s => s.putF r d (x r)) u r).groups = u.groups ∧
    (State.attend old g (fun _ r s => s.putF r d (x r)) u r).bundle = u.bundle ∧
    (State.attend old g (fun _ r s => s.putF r d (x r)) u r).threads = (u.upd r (Thread.attended old g d x r)).threads := by
  have hbn : u.bnd = old.bnd := by simp only [State.bnd, hb]
  unfold State.attend
  by_cases h : guardHolds g (old.thread r) = true
  · have he : Thread.attended old g d x r = fun t =>
        (({ t with pc := u.bnd.npc, meet := Option.none, formed := Option.none } : Thread).setReg d (x r).1).flags (x r).2 := by
      funext t
      rw [Thread.attended, if_pos h, hbn]
    simp only [if_pos h, State.putF, addFlags_eq, State.put_eq, he]
    refine ⟨rfl, rfl, rfl, ?_⟩
    rw [upd_upd, upd_upd]
    · rfl
    all_goals exact fun _ => rfl
  · have he : Thread.attended old g d x r = fun t => { t with pc := u.bnd.npc, meet := Option.none, formed := Option.none } := by
      funext t
      rw [Thread.attended, if_neg h, hbn]
    simp only [if_neg h, he]
    exact ⟨rfl, rfl, rfl, trivial⟩

/-- What a meeting with float results leaves: the memory and the groups, and each thread's record as it attended. -/
theorem foldl_attend_putF (l : List Ref) (hn : l.Nodup) (u : State) (hb : u.bundle = old.bundle) :
    (l.foldl (State.attend old g (fun _ r s => s.putF r d (x r))) u).mem = u.mem ∧
    (l.foldl (State.attend old g (fun _ r s => s.putF r d (x r))) u).groups = u.groups ∧
    (l.foldl (State.attend old g (fun _ r s => s.putF r d (x r))) u).threads =
      u.threads.map (fun t => if t.key ∈ l then t.attended old g d x t.key else t) := by
  have main : ∀ (l : List Ref) (u v : State), u.bundle = old.bundle → u.threads = v.threads →
      (l.foldl (State.attend old g (fun _ r s => s.putF r d (x r))) u).mem = u.mem ∧
      (l.foldl (State.attend old g (fun _ r s => s.putF r d (x r))) u).groups = u.groups ∧
      (l.foldl (State.attend old g (fun _ r s => s.putF r d (x r))) u).threads =
        (l.foldl (fun v r => v.upd r (Thread.attended old g d x r)) v).threads := by
    intro l
    induction l with
    | nil => exact fun u v _ ht => ⟨rfl, rfl, ht⟩
    | cons r rs ih =>
      intro u v hb ht
      obtain ⟨hm, hgr, hbu, htu⟩ := attend_putF (g := g) (d := d) (x := x) u r hb
      have hv : (u.upd r (Thread.attended old g d x r)).threads = (v.upd r (Thread.attended old g d x r)).threads := by
        simp only [State.upd, ht]
      obtain ⟨hm', hgr', ht'⟩ := ih _ (v.upd r (Thread.attended old g d x r)) (hbu.trans hb) (htu.trans hv)
      exact ⟨hm'.trans hm, hgr'.trans hgr, ht'⟩
  obtain ⟨hm, hgr, ht⟩ := main l u u hb rfl
  refine ⟨hm, hgr, ht.trans ?_⟩
  rw [foldl_upd (fun r => Thread.attended old g d x r) (fun r t => t.key_attended r) l hn u]

/-- A formed meeting with float results: the memory and the groups stay, and each thread leaves as it attended. -/
theorem cross_attended {s : State} {m : Mask} {e : State → Ref → Word × Fl} (hm : Meeting s) :
    (s.cross m g (fun old r s => s.putF r d (e old r))).mem = s.mem ∧
    (s.cross m g (fun old r s => s.putF r d (e old r))).groups = s.groups ∧
    ∀ r ∈ s.bnd.refs, (s.cross m g (fun old r s => s.putF r d (e old r))).thread r = (s.thread r).attended s g d (e s) r := by
  have hf : (fun r v => (fun (old : State) r (s : State) => s.putF r d (e old r)) s r v) = fun r (v : State) => v.putF r d (e s r) := rfl
  have hc : s.cross m g (fun old r s => s.putF r d (e old r)) =
      s.bnd.refs.foldl (State.attend s g (fun _ r v => v.putF r d (e s r))) s := by
    rw [State.cross, hm.formed]
    rfl
  obtain ⟨hmem, hgr, hth⟩ := foldl_attend_putF (old := s) (g := g) (d := d) (x := e s) s.bnd.refs hm.nodup s rfl
  rw [hc]
  refine ⟨hmem, hgr, fun r hr => ?_⟩
  rw [thread_map hth (fun t => ?_) (hm.here r hr)]
  · have hk : (s.thread r).key = r := by
      obtain ⟨t, ht, htr⟩ := List.any_eq_true.mp (hm.here r hr)
      rw [thread_listed hm.apart ht htr, Thread.is_iff_key.mp htr]
    rw [hk, if_pos hr]
  · split
    · exact t.key_attended _
    · rfl

/-- A guard-true thread leaves it with its own result. -/
theorem cross_putF {s : State} {m : Mask} {e : State → Ref → Word × Fl} {r : Ref} (hm : Meeting s) (hr : r ∈ s.bnd.refs)
    (hg : guardHolds g (s.thread r) = true) :
    (s.cross m g (fun old r s => s.putF r d (e old r))).mem = s.mem ∧
    (s.cross m g (fun old r s => s.putF r d (e old r))).thread r =
      (({ s.thread r with pc := s.bnd.npc, meet := Option.none, formed := Option.none } : Thread).setReg d (e s r).1).flags (e s r).2 := by
  obtain ⟨hmem, -, hth⟩ := cross_attended (g := g) (d := d) (m := m) (e := e) hm
  exact ⟨hmem, by rw [hth r hr, Thread.attended, if_pos hg]⟩

end

theorem laneFloatReductions : Claim.LaneFloatReductions := by
  intro s g op exc m d a r hm hr hg
  refine ⟨⟨_, rfl, ?_⟩, ⟨_, rfl, ?_⟩⟩
  · rw [← leafOfLane_eq]
    exact cross_putF (e := fun old _ => (redTree op .f32 (old.leafOfLane g a) 6 0).getD (redIdent op .f32, 0)) hm hr hg
  · rw [← leafOfLane_eq]
    exact cross_putF (e := fun old r => (scanFold op .f32 (old.leafOfLane g a) (old.laneOf r + (if exc then 0 else 1)) 6 0 none).getD
      (redIdent op .f32, 0)) hm hr hg

/-- Settles O15: an integer combine raises no flag, so those meetings only write registers; the FP32 ones OR their flags in. -/
theorem laneReductions : Obligations.LaneReductions := ⟨laneReductions_claim, laneFloatReductions⟩

end Sys2Proof.Machine
end

section
/-! Loads and stores that pass their checks, and the elements of a tensor record (08). -/

namespace Sys2Proof.Machine

@[simp] theorem moved_requestAt (s : State) (r q : Ref) (w : Where) : (s.moved r).requestAt q w = s.requestAt q w := rfl
@[simp] theorem moved_repairsAt (s : State) (r : Ref) (w : Where) : (s.moved r).repairsAt w = s.repairsAt w := rfl
@[simp] theorem moved_l2May (s : State) (r : Ref) (q : Nat) (x : Option (Nat × Nat)) : (s.moved r).l2May q x = s.l2May q x := rfl
@[simp] theorem moved_lowerWrites (s : State) (r q : Ref) (bun loc n : Nat) : (s.moved r).lowerWrites bun q loc n = s.lowerWrites bun q loc n := by
  unfold State.lowerWrites
  rw [moved_eq, List.any_map]
  congr 1
  funext t
  simp only [Function.comp]
  split <;> rfl

theorem readAt_length (s : State) (core : Nat) (w : Where) (n : Nat) : (s.readAt core w n).length = n := by
  cases w <;> simp [State.readAt, Memory.readN]

/-! ### What a check answers (R175) -/

/-- An access meets a lock entry (R176). -/
def State.meetsLock (v : State) (r : Ref) (sp : Space) (ea n : Nat) (st : Bool) : Bool :=
  match v.rngOf r sp ea n with
  | some x => v.lockHit (v.dieOf r) (v.partOf r) x st
  | none => false

section
variable {v : State} {r : Ref} {sp : Space} {ea n al : Nat} {st : Bool}

theorem check_xlate (hc : canonical ea = false) : v.check r .glob ea n al st false = .error causeXlate := by
  simp [State.check, hc]

theorem check_align (hc : sp = .glob → canonical ea = true) (ha : ea % al ≠ 0) : v.check r sp ea n al st false = .error causeAlign := by
  have hx : ¬(sp = .glob ∧ (!canonical ea) = true) := fun h => by simp [hc h.1] at h
  simp only [State.check, if_neg hx, if_pos ha]

theorem check_lane_bound (ha : ea % al = 0) (h : hdrLane (v.group r.1).hdr < ea + n) :
    v.check r .lane ea n al st false = .error causeAccess := by
  simp [State.check, ha, h]

/-- An aligned access to core memory: its bound and then its lock. -/
theorem check_core (ha : ea % al = 0) : v.check r .core ea n al st false =
    if hdrScratch (v.group r.1).hdr < ea + n then .error causeAccess
    else if v.meetsLock r .core ea n st then .error causeLockhit else .ok (.own (locScratch r.1 ea), v) := by
  simp only [State.check]
  rw [if_neg (by simp), if_neg (not_not.mpr ha)]
  rfl

theorem check_cmem (ha : ea % al = 0) : v.check r .cmem ea n al st false =
    if v.cmemSize r.1 < ea + n then .error causeAccess
    else if v.meetsLock r .cmem ea n st then .error causeLockhit else .ok (.own (locCmem ((v.group r.1).cset.getD 0) ea), v) := by
  simp only [State.check]
  rw [if_neg (by simp), if_neg (not_not.mpr ha)]
  rfl

/-- An aligned access to chip memory: the aperture and the partition's window, and then its lock. -/
theorem check_chip (ha : ea % al = 0) : v.check r .chip ea n al st false =
    if 2 ^ 25 ≤ ea ∨ ((v.part (v.partOf r)).window.getD (chipDie ea) (0, 0)).2 < ea % 2 ^ 24 + n then .error causeAccess
    else if v.meetsLock r .chip ea n st then .error causeLockhit
    else .ok (.own (locChip (chipDie ea) (((v.part (v.partOf r)).window.getD (chipDie ea) (0, 0)).1 + ea % 2 ^ 24)), v) := by
  simp only [State.check]
  rw [if_neg (by simp), if_neg (not_not.mpr ha)]
  rfl

theorem check_page_error {c : Nat} (hc : canonical ea = true) (ha : ea % al = 0)
    (hp : v.page (v.partOf r) (v.coreOf r) ea n (if st then .write else .read) = .error c) :
    v.check r .glob ea n al st false = .error c := by
  have hp' : v.page (v.group r.1).part (v.group r.1).core ea n (if st then .write else .read) = .error c := hp
  simp [State.check, hc, ha, hp']

theorem check_page_locked {p : Leaf × Nat} (hc : canonical ea = true) (ha : ea % al = 0)
    (hp : v.page (v.partOf r) (v.coreOf r) ea n (if st then .write else .read) = .ok p) (hl : v.meetsLock r .glob ea n st = true) :
    v.check r .glob ea n al st false = .error causeLockhit := by
  have hp' : v.page (v.group r.1).part (v.group r.1).core ea n (if st then .write else .read) = .ok p := hp
  simp only [State.check]
  rw [if_neg (by simp [hc]), if_neg (not_not.mpr ha), hp']
  exact if_pos hl

end

/-! ### An access that passes its checks -/

section
variable {s v : State} {r : Ref} {sp : Space} {ea n : Nat} {w : Where}

/-- A load is counted with its words, or to be read later (R180; log entry 5). -/
theorem load_passes (h : s.check r sp ea n n false false = .ok (w, v)) (o : Order) (d : Reg) (f : LoadAs) :
    s.load r sp o ea n d f =
      if (s.trails r w.loc n || s.repairsAt w || !s.l2May (s.partOf r) (s.requestAt r w)) = true then
        v.pushLoad r (.late (s.requestAt r w) d o w.loc n f)
      else (v.acquireAt r o w).pushLoad r (w.loaded d (f.words ((v.acquireAt r o w).readAt (s.coreOf r) w n))) := by
  have hc : (v.acquireAt r o w).coreOf r = s.coreOf r := ((check_side h).1.trans (acquireAt_side v r o w)).coreOf r
  simp only [State.load, h, hc]

/-- A store is made and counted, or counted to be made later (R180, R182; log entry 5). -/
theorem store_passes {bs : List Byte} (h : s.check r sp ea bs.length bs.length true false = .ok (w, v)) (bun : Nat) (o : Order) :
    s.store bun r sp o ea bs =
      if ((o != .plain && s.owes r) || s.trails r w.loc bs.length || s.lowerWrites bun r w.loc bs.length) = true then
        v.pushStore r (.write bun (Order.storeScope o) (o != .plain) w.loc bs)
      else (if (o != .plain) = true then (((v.release r (Order.storeScope o)).writeAt (s.partOf r) (s.coreOf r) (Order.storeScope o) w bs).lay r
            w).ownLine (s.coreOf r) (Order.storeScope o) w
          else (v.writeAt (s.partOf r) (s.coreOf r) (Order.storeScope o) w bs).lay r w).pushStore r (.store (Order.storeScope o) w.pa) := by
  simp only [State.store, h, storeNow_open (check_open h), (check_side h).1.coreOf, (check_side h).1.partOf]

theorem store_passes_plain {bs : List Byte} (h : s.check r sp ea bs.length bs.length true false = .ok (w, v)) (bun : Nat) :
    s.store bun r sp .plain ea bs =
      if (s.trails r w.loc bs.length || s.lowerWrites bun r w.loc bs.length) = true then
        v.pushStore r (.write bun .cor false w.loc bs)
      else ((v.writeAt (s.partOf r) (s.coreOf r) .cor w bs).lay r w).pushStore r (.store .cor w.pa) := by
  rw [store_passes h]
  rfl

theorem store_passes_sync {bs : List Byte} (h : s.check r sp ea bs.length bs.length true false = .ok (w, v)) (bun : Nat) (sc : Scope) :
    s.store bun r sp (.sync sc) ea bs =
      if (s.owes r || (s.trails r w.loc bs.length || s.lowerWrites bun r w.loc bs.length)) = true then
        v.pushStore r (.write bun sc true w.loc bs)
      else ((((v.release r sc).writeAt (s.partOf r) (s.coreOf r) sc w bs).lay r w).ownLine (s.coreOf r) sc w).pushStore r (.store sc w.pa) := by
  rw [store_passes h, ← Bool.or_assoc]
  rfl

end

/-- A load of 32 bits makes one word of its four bytes. -/
theorem words_b32 (s : State) (core : Nat) (w : Where) :
    LoadAs.words (.size .b32) (s.readAt core w 4) = [BitVec.ofNat 32 (ofBytes (s.readAt core w 4))] := by
  simp [LoadAs.words, loadWords, readAt_length, loadWords.toWordsLE]

theorem exec_ld {s u : State} {g : Guard} {r : Ref} (h : Runs s g r u) (sp : Space) (sz : Size) (ux : Bool) (o : Order) (d a : Reg)
    (b : Src) : exec (.ld g sp sz ux o d a b) s = .next (u.load r sp o (u.ea r sp a (Size.bytes sz) ux b) (Size.bytes sz) d (.size sz)) :=
  congrArg Host.Outcome.next (h.each _)

/-- The word that the compact load reads. -/
theorem exec_ldCompact {s u : State} {r : Ref} (h : Runs s .always r u) (d a : Reg) (b : BitVec 8) : exec (.ldCompact d a b) s =
    .next (u.load r .core .plain ((s.thread r).reg a + 4 * b.setWidth 32).toNat 4 d (.size .b32)) := by
  have ha : u.ea r .core a 4 true (.imm b) = ((s.thread r).reg a + 4 * b.setWidth 32).toNat := by
    rw [h.2]
    show ((s.moved r).rd r a + BitVec.ofNat 32 4 * b.setWidth 32).toNat = _
    rw [moved_rd]
    rfl
  rw [← ha]
  exact congrArg Host.Outcome.next (h.each _)

/-- Settles O19, by what a load that passes its check is. -/
theorem loadsRead : Obligations.LoadsRead := by
  intro s g r u v w h
  refine ⟨fun sp sz ux o d a b late hc hl => ?_, fun d a b late hg hc hl => ?_⟩
  · rw [exec_ld h, load_passes hc, h.2]
    simp only [moved_trails, moved_repairsAt, moved_l2May, moved_get_partOf, moved_get_coreOf, moved_requestAt, ← hl]
    exact ⟨fun h0 => by rw [if_neg (by simp [h0])]; rfl, fun h1 => by rw [if_pos h1]⟩
  · subst hg
    rw [exec_ldCompact h, load_passes hc, h.2]
    simp only [moved_trails, moved_repairsAt, moved_l2May, moved_get_partOf, moved_get_coreOf, moved_requestAt, ← hl, words_b32]
    exact ⟨fun h0 => by rw [if_neg (by simp [h0])]; rfl, fun h1 => by rw [if_pos h1]⟩

theorem bytesOfWord_length (w : Word) : (bytesOfWord w).length = 4 := rfl

/-- ST makes the store of its register's bytes. -/
theorem exec_st {s u : State} {g : Guard} {r : Ref} (h : Runs s.bump g r u) (sp : Space) (sz : Size) (ux : Bool) (o : Order) (d a : Reg)
    (b : Src) : exec (.st g sp sz ux o d a b) s =
      .next (u.store s.serial r sp o (u.ea r sp a (Size.bytes sz) ux b) (storeBytes sz ((s.thread r).block d sz.regs))) := by
  show Host.Outcome.next (s.bump.each g _) = _
  have hbl : (u.thread r).block d sz.regs = (s.thread r).block d sz.regs := by
    rw [h.2, moved_thread_block]
    rfl
  rw [h.each, hbl]

/-- The word that the compact store writes, and where. -/
theorem exec_stCompact {s u : State} {r : Ref} (h : Runs s.bump .always r u) (d a : Reg) (b : BitVec 8) : exec (.stCompact d a b) s =
    .next (u.store s.serial r .core .plain ((s.thread r).reg a + 4 * b.setWidth 32).toNat (bytesOfWord ((s.thread r).reg d))) := by
  have ha : u.ea r .core a 4 true (.imm b) = ((s.thread r).reg a + 4 * b.setWidth 32).toNat := by
    rw [h.2]
    show ((s.bump.moved r).rd r a + BitVec.ofNat 32 4 * b.setWidth 32).toNat = _
    rw [moved_rd]
    rfl
  have hd : u.rd r d = (s.thread r).reg d := by
    rw [h.2, moved_rd]
    rfl
  rw [← ha, ← hd]
  exact congrArg Host.Outcome.next (h.each _)

/-- Settles O20, by what a store that passes its check is. -/
theorem storesWrite : Obligations.StoresWrite := by
  intro s g r u v w h
  have ht : u.trails r = s.trails r := by
    funext loc n
    rw [h.2, moved_trails]
    rfl
  have hlw : u.lowerWrites s.serial r = s.lowerWrites s.serial r := by
    funext loc n
    rw [h.2, moved_lowerWrites]
    rfl
  have ho : u.owes r = s.owes r := by
    rw [h.2, moved_owes]
    rfl
  have hp : u.partOf r = s.partOf r ∧ u.coreOf r = s.coreOf r := by
    rw [h.2]
    exact ⟨rfl, rfl⟩
  refine ⟨fun sp sz ux d a b bs late hc hb hn hl => ?_, fun d a b late hg hc hl => ?_⟩
  · have e : ∀ o, exec (.st g sp sz ux o d a b) s = .next (u.store s.serial r sp o (u.ea r sp a (Size.bytes sz) ux b) bs) := by
      intro o
      rw [exec_st h, hb]
    rw [← hn] at hc hl e
    rw [e, store_passes_plain hc, ht, hlw, hp.1, hp.2, ← hl]
    refine ⟨fun h0 => by rw [if_neg (by simp [h0])], fun h1 => by rw [if_pos h1], fun sc h0 h1 => ?_, fun sc h1 => ?_⟩
    · rw [e, store_passes_sync hc, ht, hlw, ho, hp.1, hp.2, ← hl, h0, h1]
      rfl
    · rw [e, store_passes_sync hc, ht, hlw, ho, hp.1, hp.2, ← hl, if_pos (by simpa using h1)]
  · subst hg
    rw [← bytesOfWord_length ((s.thread r).reg d)] at hc hl
    rw [exec_stCompact h, store_passes_plain hc, ht, hlw, hp.1, hp.2, ← hl]
    exact ⟨fun h0 => by rw [if_neg (by simp [h0])], fun h1 => by rw [if_pos h1]⟩

/-! ### Tensor elements (R183 to R185) -/

theorem recordOwed_eq {s : State} {r : Ref} (h : Alone s r) (b : Src) (n : Nat) :
    s.recordOwed b n r = s.trails r (locScratch r.1 (s.val32 (s.thread r) b).toNat) n := by
  rw [State.recordOwed, src32_own h.gid]

section
variable {s u v : State} {r : Ref} {d a : Reg} {b : Src} {rcd : List Word} {f : EFmt} {sp : Space}
  {k : List Word → EFmt → Space → Option Nat → State → State}

theorem element_refused {c : Nat} (h : s.tensor u r b = .error c) : s.element u r d a b k = u.fail r c := by
  simp [State.element, h]

/-- What LDT and STT go on with, where the record is valid and the register pair exists. -/
theorem element_valid (h : s.tensor u r b = .ok (rcd, v)) (hv : tenValid rcd a (hdrRegs (u.group r.1).hdr) = some (f, sp))
    (hd : ¬(EFmt.width f = 64 ∧ (d.toNat % 2 = 1 ∨ hdrRegs (u.group r.1).hdr ≤ d.toNat + 1))) :
    s.element u r d a b k = k rcd f sp (if tenInside rcd (u.tenX r rcd a) then some (tenEa rcd sp (u.tenX r rcd a)) else none) v := by
  simp only [State.element, h, hv, hd, if_false]

end

theorem tensorLoads : Claim.TensorLoads := by
  intro s g r u v o d a b rcd f sp h
  have e : exec (.ldt g o d a b) s = .next (if s.recordOwed b 128 r then u.heldBack r else s.ldt u r o d a b) :=
    congrArg Host.Outcome.next (h.after _ _)
  have hg : u.group r.1 = s.group r.1 := by rw [h.2, moved_get_group]
  rw [e, recordOwed_eq h.alone]
  refine ⟨fun ht => by rw [if_pos ht], fun ht => ?_⟩
  rw [if_neg (by simp [ht]), State.ldt]
  refine ⟨fun c hc => by rw [element_refused hc], fun hc hv hd => ?_⟩
  rw [← hg] at hv hd
  rw [element_valid hc hv hd]
  exact ⟨fun hi => by rw [if_pos hi], fun hi => by rw [if_neg (by simp [hi])]⟩

theorem tensorStores : Claim.TensorStores := by
  intro s g r u v o d a b rcd f sp h
  have e : exec (.stt g o d a b) s = .next (if s.bump.recordOwed b 128 r then u.heldBack r else s.stt u s.serial r o d a b) :=
    congrArg Host.Outcome.next (h.after _ _)
  have hg : u.group r.1 = s.group r.1 := by
    rw [h.2, moved_get_group]
    rfl
  have hb : s.bump.val32 (s.bump.thread r) b = s.val32 (s.thread r) b := by cases b <;> rfl
  rw [e, recordOwed_eq h.alone, hb]
  refine ⟨fun ht => by rw [if_pos (show s.bump.trails r _ _ = true from ht)], fun ht => ?_⟩
  rw [if_neg (by simp [show s.bump.trails r _ _ = false from ht]), State.stt]
  refine ⟨fun c hc => by rw [element_refused hc], fun hc hv hd => ?_⟩
  rw [← hg] at hv hd
  rw [element_valid hc hv hd]
  exact ⟨fun hi => by rw [if_pos hi], fun hi => by rw [if_neg (by simp [hi])]⟩

theorem elementAccesses : Claim.ElementAccesses := by
  intro v x r sp o ea n d f bs w bun
  refine ⟨fun hc late hl => ?_, fun hc hl => ?_⟩
  · rw [load_passes hc, ← hl]
    exact ⟨fun h0 => by rw [if_neg (by simp [h0])]; rfl, fun h1 => by rw [if_pos h1]⟩
  · rw [store_passes_plain hc, if_neg (by simp [hl])]

/-- Settles O21: an element is the record's check and then the load or the store at its address. -/
theorem tensorElements : Obligations.TensorElements := ⟨tensorLoads, tensorStores, elementAccesses⟩

end Sys2Proof.Machine
end

section
/-! Full/empty words (08): a request on a word for which none waits is served at once, or its thread waits. -/

namespace Sys2Proof.Machine

/-! ### The requests of a word (R187) -/

/-- Without a request for the word nothing is served. -/
theorem serveWord_idle {s : State} {loc : Nat} (h : ∀ q ∈ s.feQueue, q.loc ≠ loc) (fuel : Nat) : s.serveWord loc fuel = s := by
  cases fuel with
  | zero => rfl
  | succ fuel =>
    have hn : s.feQueue.find? (fun q => q.loc == loc && q.ste.isNone == s.isFull loc) = none := by
      rw [List.find?_eq_none]
      intro q hq
      simp [h q hq]
    rw [State.serveWord, hn]

/-- What the service of a request does to its thread and its word: STE writes it and leaves it full; LDF of it reads, and takes. -/
def State.served (s : State) (r : Ref) (loc : Nat) (take : Bool) (ste : Option Word) (d : Reg) : State :=
  match ste with
  | some w => ({ s with mem := s.mem.writeN loc (bytesOfWord w) } : State).setFull loc true
  | none =>
    let v := s.upd r (fun t => t.setReg d (BitVec.ofNat 32 (ofBytes (s.mem.readN loc 4))))
    if take then v.setFull loc false else v

theorem served_feQueue (s : State) (r : Ref) (loc : Nat) (take : Bool) (ste : Option Word) (d : Reg) :
    (s.served r loc take ste d).feQueue = s.feQueue := by
  cases ste with
  | some w => rfl
  | none => cases take <;> rfl

section
variable {s : State} {r : Ref} {loc : Nat} {take : Bool} {ste : Option Word} {d : Reg}

/-- The last request of the queue, and the only one for its word, is found where the word stands as it needs. -/
theorem find?_request (h : ∀ q ∈ s.feQueue, q.loc ≠ loc) (q : FeReq) (hq : q.loc = loc) (f : Bool) :
    (s.feQueue ++ [q]).find? (fun q => q.loc == loc && q.ste.isNone == f) = if q.ste.isNone = f then some q else none := by
  have hn : s.feQueue.find? (fun q => q.loc == loc && q.ste.isNone == f) = none := by
    rw [List.find?_eq_none]
    intro q hq
    simp [h q hq]
  rw [List.find?_append, hn, Option.none_or]
  by_cases hs : q.ste.isNone = f <;> simp [hq, hs]

theorem feJoin_waits (h : ∀ q ∈ s.feQueue, q.loc ≠ loc) (hs : ste.isNone ≠ s.isFull loc) :
    s.feJoin r loc take ste d = { s with feQueue := s.feQueue ++ [{ gid := r.1, tid := r.2, loc := loc, take := take, ste := ste, d := d }] } := by
  have hf := find?_request h { gid := r.1, tid := r.2, loc := loc, take := take, ste := ste, d := d } rfl (s.isFull loc)
  rw [if_neg hs] at hf
  simp only [State.feJoin, List.length_append, List.length_singleton, State.serveWord]
  split
  · rfl
  · rename_i q hq
    exact absurd (hq.symm.trans hf) (by simp)

theorem feJoin_served (h : ∀ q ∈ s.feQueue, q.loc ≠ loc) (hs : ste.isNone = s.isFull loc) :
    s.feJoin r loc take ste d = (s.served r loc take ste d).upd r (fun t => { t with park := .ready }) := by
  have hf := find?_request h { gid := r.1, tid := r.2, loc := loc, take := take, ste := ste, d := d } rfl (s.isFull loc)
  rw [if_pos hs] at hf
  have hmem : ({ gid := r.1, tid := r.2, loc := loc, take := take, ste := ste, d := d } : FeReq) ∉ s.feQueue := fun hq => h _ hq rfl
  have he : (s.feQueue ++ [({ gid := r.1, tid := r.2, loc := loc, take := take, ste := ste, d := d } : FeReq)]).erase
      { gid := r.1, tid := r.2, loc := loc, take := take, ste := ste, d := d } = s.feQueue := by
    rw [List.erase_append_right _ hmem]
    simp
  have hidle : ∀ q ∈ ((s.served r loc take ste d).upd r (fun t => { t with park := .ready })).feQueue, q.loc ≠ loc := by
    rw [State.upd_feQueue, served_feQueue]
    exact h
  rw [← serveWord_idle hidle s.feQueue.length]
  simp only [State.feJoin, List.length_append, List.length_singleton, State.serveWord]
  split
  · rename_i hq
    exact absurd (hf.symm.trans hq) (by simp)
  · rename_i q hq
    have hqe := Option.some.inj (hq.symm.trans hf)
    subst hqe
    simp only [he]
    have hfull : ∀ fq, ({ s with feQueue := fq } : State).isFull loc = s.isFull loc := fun _ => rfl
    simp only [hfull, ← hs]
    cases ste with
    | some w => rfl
    | none => cases take <;> rfl

end

/-! ### Full and empty -/

theorem insertNat_mem (x y : Nat) (l : List Nat) : y ∈ insertNat x l ↔ y = x ∨ y ∈ l := by
  induction l with
  | nil => simp [insertNat]
  | cons z l ih =>
    unfold insertNat
    split
    · simp
    · split
      · rename_i h
        subst h
        simp
      · simp only [List.mem_cons, ih]
        exact or_left_comm

theorem setFull_isFull (s : State) (loc : Nat) (b : Bool) (x : Nat) : (s.setFull loc b).isFull x = if x = loc then b else s.isFull x := by
  rw [Bool.eq_iff_iff]
  cases b with
  | true =>
    simp only [State.isFull, State.setFull, if_true, List.contains_iff_mem, insertNat_mem]
    by_cases hx : x = loc <;> simp [hx]
  | false =>
    simp only [State.isFull, State.setFull, Bool.false_eq_true, if_false, List.contains_iff_mem, List.mem_filter, bne_iff_ne]
    by_cases hx : x = loc <;> simp [hx]

theorem isFull_of_full {s v : State} (h : v.full = s.full) (x : Nat) : v.isFull x = s.isFull x := by
  rw [State.isFull, State.isFull, h]

/-- R189: the bits of the words of a range, and none beyond it. -/
theorem fullBits_getLsbD (s : State) (loc n k : Nat) (hk : k < 32) :
    (s.fullBits loc n).getLsbD k = (decide (4 * k < n) && s.isFull (loc + 4 * k)) := by
  have main : ∀ m, ((List.range m).foldl (fun (v : Word) i =>
      if 4 * i < n && s.isFull (loc + 4 * i) then v ||| (1#32 <<< i) else v) 0).getLsbD k =
      (decide (k < m) && (decide (4 * k < n) && s.isFull (loc + 4 * k))) := by
    intro m
    induction m with
    | zero => simp
    | succ m ih =>
      rw [List.range_succ, List.foldl_append, List.foldl_cons, List.foldl_nil]
      by_cases hkm : k = m
      · subst hkm
        split
        · rename_i hp
          simp [hk, hp]
        · rename_i hp
          rw [ih]
          simp [Bool.not_eq_true _ ▸ hp]
      · have hlt : decide (k < m + 1) = decide (k < m) := decide_eq_decide.mpr (by omega)
        have hb : (1#32 <<< m).getLsbD k = false := by
          rw [BitVec.getLsbD_shiftLeft]
          by_cases h : k < m
          · simp [h]
          · simp [h, BitVec.getLsbD_one, show k - m ≠ 0 by omega]
        split
        · rw [BitVec.getLsbD_or, ih, hb, Bool.or_false, hlt]
        · rw [ih, hlt]
  rw [State.fullBits, main 32]
  simp [hk]

/-! ### The checks of a full/empty word -/

section
variable {s v : State} {r : Ref} {cm : Bool} {ea n al loc : Nat} {store : Bool}

/-- The location of a word of a scratchpad or of cluster memory (R186). -/
theorem check_feSpace (h : s.check r (feSpace cm) ea n al store false = .ok (.own loc, v)) :
    loc = (if cm then locCmem ((s.group r.1).cset.getD 0) ea else locScratch r.1 ea) ∧ v = s := by
  have hv := (check_side h).2 loc rfl
  have hal : ea % al = 0 := by
    by_contra ha
    rw [check_align (fun hg => by cases cm <;> cases hg) ha] at h
    cases h
  refine ⟨?_, hv⟩
  cases cm
  · rw [show feSpace false = .core from rfl, check_core hal] at h
    split_ifs at h
    cases h
    rfl
  · rw [show feSpace true = .cmem from rfl, check_cmem hal] at h
    split_ifs at h
    cases h
    rfl

end

/-! ### The instructions -/

@[simp] theorem moved_ea (s : State) (r q : Ref) (sp : Space) (a : Reg) (k : Nat) (ux : Bool) (b : Src) :
    (s.moved r).ea q sp a k ux b = s.ea q sp a k ux b := by
  have ho : (s.moved r).offset q k ux b = s.offset q k ux b := by
    cases b <;> simp [State.offset, State.src32, State.rd]
  cases sp <;> simp [State.ea, ho, State.rd, State.rd64]

@[simp] theorem moved_feLoc (s : State) (r q : Ref) (cm ux : Bool) (a : Reg) (b : Src) : (s.moved r).feLoc q cm ux a b = s.feLoc q cm ux a b := by
  simp only [State.feLoc, moved_ea, moved_get_group]

theorem setReg_reg (t : Thread) (d : Reg) (w : Word) (h : d.toNat < t.regs.length) : (t.setReg d w).reg d = w := by
  simp [Thread.reg, Thread.setReg, h]

section
variable {s u : State} {g : Guard} {r : Ref} {cm ux : Bool} {d a : Reg} {b : Src} {loc : Nat}

/-- The state of a request that is served at once, and of one that waits (R187). -/
theorem exec_ldf (h : Runs s g r u) (hq : ∀ q ∈ s.feQueue, q.loc ≠ loc)
    (hc : u.check r (feSpace cm) (u.ea r (feSpace cm) a 4 ux b) 4 4 false false = .ok (.own loc, u)) (take : Bool) :
    exec (.ldf g cm take ux d a b) s = .next (if (s.thread r).feBehind loc false then u.heldBack r
      else if s.isFull loc then ((u.parkAs r .word).served r loc take none d).upd r (fun t => { t with park := .ready })
      else { u.parkAs r .word with
        feQueue := s.feQueue ++ [{ gid := r.1, tid := r.2, loc := loc, take := take, ste := none, d := d }] }) := by
  have hl : s.feLoc r cm ux a b = loc := by
    rw [(check_feSpace hc).1, h.2, moved_ea, moved_get_group]
    rfl
  have e : exec (.ldf g cm take ux d a b) s =
      .next (if (s.thread r).feBehind (s.feLoc r cm ux a b) false then u.heldBack r else u.ldf r cm take ux d a b) :=
    congrArg Host.Outcome.next (h.after _ _)
  have hj : u.ldf r cm take ux d a b = (u.parkAs r .word).feJoin r loc take none d := by
    simp only [State.ldf, hc]
    rfl
  have hu : (u.parkAs r .word).feQueue = s.feQueue ∧ (u.parkAs r .word).isFull loc = s.isFull loc := by
    rw [h.2]
    exact ⟨rfl, rfl⟩
  have hq' : ∀ q ∈ (u.parkAs r .word).feQueue, q.loc ≠ loc := by rwa [hu.1]
  rw [e, hl, hj]
  by_cases hf : s.isFull loc = true
  · rw [if_pos hf, feJoin_served hq' (by rw [hu.2, hf]; rfl)]
  · rw [if_neg hf, feJoin_waits hq' (by rw [hu.2]; simpa using hf), hu.1]

theorem exec_ste (h : Runs s g r u) (hq : ∀ q ∈ s.feQueue, q.loc ≠ loc)
    (hc : u.check r (feSpace cm) (u.ea r (feSpace cm) a 4 ux b) 4 4 true false = .ok (.own loc, u)) :
    ∃ v, MemorySide u v ∧ exec (.ste g cm ux d a b) s = .next (if (s.thread r).unperformed then u.heldBack r
      else if s.isFull loc then { v.parkAs r .word with
        feQueue := s.feQueue ++ [{ gid := r.1, tid := r.2, loc := loc, take := false, ste := some ((s.thread r).reg d), d := d }] }
      else ((v.parkAs r .word).served r loc false (some ((s.thread r).reg d)) d).upd r (fun t => { t with park := .ready })) := by
  have hv := release_side u r (if cm then .clu else .cor)
  refine ⟨_, hv, ?_⟩
  have e : exec (.ste g cm ux d a b) s =
      .next (if (s.thread r).feBehind (s.feLoc r cm ux a b) true then u.heldBack r else u.ste r cm ux d a b) :=
    congrArg Host.Outcome.next (h.after _ _)
  have hd : u.rd r d = (s.thread r).reg d := by rw [h.2, moved_rd]
  have hj : u.ste r cm ux d a b =
      ((u.release r (if cm then .clu else .cor)).parkAs r .word).feJoin r loc false (some ((s.thread r).reg d)) d := by
    simp only [State.ste, hc, hd]
    rfl
  rw [e, hj, show (s.thread r).feBehind (s.feLoc r cm ux a b) true = (s.thread r).unperformed from rfl]
  generalize u.release r (if cm then .clu else .cor) = v at hv
  have hu : (v.parkAs r .word).feQueue = s.feQueue ∧ (v.parkAs r .word).isFull loc = s.isFull loc := by
    rw [hv, h.2]
    exact ⟨rfl, rfl⟩
  have hq' : ∀ q ∈ (v.parkAs r .word).feQueue, q.loc ≠ loc := by rwa [hu.1]
  by_cases hf : s.isFull loc = true
  · rw [if_pos hf, feJoin_waits hq' (by rw [hu.2, hf]; exact Bool.noConfusion), hu.1]
  · rw [if_neg hf, feJoin_served hq' (by rw [hu.2]; simpa using (Bool.eq_false_iff.mpr hf).symm)]

end

section
variable {s v : State} {r : Ref} {loc : Nat} {take : Bool} {d : Reg}

theorem parkAs_thread (h : s.hasThread r = true) (p : Park) :
    (s.parkAs r p).thread r = { s.thread r with park := p, parkPc := s.bnd.pc, since := s.rawClk (s.coreOf r), counted := false } :=
  upd_listed h

theorem parkAs_hasThread (s : State) (r q : Ref) (p : Park) : (s.parkAs r p).hasThread q = s.hasThread q :=
  State.upd_hasThread (fun _ => rfl)

/-- The thread of a load that was served holds the word. -/
theorem served_load_thread (h : s.hasThread r = true) :
    ((s.served r loc take none d).upd r (fun t => { t with park := .ready })).thread r =
      { (s.thread r).setReg d (BitVec.ofNat 32 (ofBytes (s.mem.readN loc 4))) with park := .ready } := by
  have ht : (s.served r loc take none d).thread r = (s.thread r).setReg d (BitVec.ofNat 32 (ofBytes (s.mem.readN loc 4))) := by
    cases take <;> exact upd_listed h
  have hh : (s.served r loc take none d).hasThread r = true := by
    rw [← h]
    cases take <;> exact State.upd_hasThread (fun _ => rfl)
  rw [upd_listed hh, ht]

theorem served_load_isFull (hf : s.isFull loc = true) (x : Nat) :
    (s.served r loc take none d).isFull x = if x = loc then !take else s.isFull x := by
  cases take with
  | true => exact setFull_isFull _ loc false x
  | false =>
    split
    · rename_i hx
      rw [hx]
      exact hf
    · rfl

end

theorem any_tags_false {l : List StoreOp} : (l.any (fun o => o matches .tags _ _ _)) = false ↔ ∀ o ∈ l, ∀ a n f, o ≠ .tags a n f := by
  rw [List.any_eq_false]
  refine forall₂_congr (fun o _ => ?_)
  cases o <;> simp

theorem any_tags_true {l : List StoreOp} : (l.any (fun o => o matches .tags _ _ _)) = true ↔ ∃ a n f, .tags a n f ∈ l := by
  rw [List.any_eq_true]
  constructor
  · rintro ⟨o, ho, hm⟩
    cases o with
    | tags a n f => exact ⟨a, n, f, ho⟩
    | _ => cases hm
  · rintro ⟨a, n, f, h⟩
    exact ⟨_, h, rfl⟩

section
variable {s u : State} {g : Guard} {r : Ref} {cm ux : Bool} {d a : Reg} {b : Src} {ea at_ : Nat}

/-- R189: TAGQ of an aligned address without a lock in the way. -/
theorem exec_tagq (h : Runs s g r u) (hea : ea = u.ea r (feSpace cm) a 4 ux b) (hal : ea % 128 = 0) (hlk : s.locks = [])
    (hat : at_ = if cm then locCmem ((s.group r.1).cset.getD 0) ea else locScratch r.1 ea) :
    exec (.tagq g cm ux d a b) s = .next (
      if ((s.thread r).stores.any (fun o => o matches .tags _ _ _) || (s.thread r).loads.any LoadOp.acquires) = true then
        u.pushLoad r (.tagq d at_ (Nat.min 128 (u.feSize r cm - ea)))
      else u.pushLoad r (.value d [u.fullBits at_ (Nat.min 128 (u.feSize r cm - ea))])) := by
  have hl : u.feLoc r cm ux a b = at_ := by
    rw [hat, hea, h.2, moved_feLoc, moved_ea]
    rfl
  have hlock : u.locks = [] := by rw [h.2, moved_locks, hlk]
  have hst : (u.thread r).stores = (s.thread r).stores ∧ (u.thread r).loads = (s.thread r).loads := by
    rw [h.2]
    simp
  have hit : ∀ o : Option Rng, (match o with | some x => u.lockHit (u.dieOf r) (u.partOf r) x false | none => false) = false := by
    intro o
    cases o <;> simp [State.lockHit, hlock]
  show Host.Outcome.next (s.each g _) = _
  rw [h.each, State.tagq]
  simp only [← hea, hl, hst.1, hst.2]
  rw [if_neg (by simp [hal])]
  exact congrArg Host.Outcome.next (if_neg (Bool.eq_false_iff.mp (hit _)))

end

/-- Settles O22, by the service of a word for which no request waits. -/
theorem fullEmptyWords : Obligations.FullEmptyWords := by
  intro s g r u cm ux d a b loc h hd hall
  have hq : ∀ q ∈ s.feQueue, q.loc ≠ loc := by simpa using hall
  have hr := h.hasThread
  have hregs : (u.thread r).regs = (s.thread r).regs := by rw [h.2, moved_thread_regs]
  refine ⟨fun hc => ⟨fun hb hf take => ?_, fun hb hf take => ?_, fun hb take => ?_⟩, fun hc => ?_, fun full cnt hc => ?_,
    fun ea at_ hea hal hlk hat => ?_⟩
  · refine ⟨_, (exec_ldf h hq hc take).trans (by rw [if_neg (by simp [hb]), if_pos hf]), ?_⟩
    have hp : (u.parkAs r .word).hasThread r = true := by rw [parkAs_hasThread, hr]
    have hm : (u.parkAs r .word).mem = s.mem := by rw [h.2]; rfl
    refine ⟨?_, ?_, ?_, ?_, fun x hx => ?_⟩
    · rw [← hm]
      cases take <;> rfl
    · rw [served_load_thread hp]
    · rw [served_load_thread hp, hm]
      refine setReg_reg ((u.parkAs r .word).thread r) d _ ?_
      rw [parkAs_thread hr]
      rwa [← hregs] at hd
    · have := served_load_isFull (s := u.parkAs r .word) (r := r) (take := take) (d := d) (loc := loc) (by rw [h.2]; exact hf) loc
      rw [if_pos rfl] at this
      exact this
    · have := served_load_isFull (s := u.parkAs r .word) (r := r) (take := take) (d := d) (loc := loc) (by rw [h.2]; exact hf) x
      rw [if_neg hx] at this
      refine this.trans ?_
      rw [h.2]
      rfl
  · refine ⟨_, (exec_ldf h hq hc take).trans (by rw [if_neg (by simp [hb]), if_neg (by simp [hf])]), ?_, ?_, rfl⟩
    · rw [h.2]
      rfl
    · exact congrArg Thread.park (parkAs_thread hr .word)
  · rw [exec_ldf h hq hc take, if_pos hb]
  · obtain ⟨v, hv, e⟩ := exec_ste (d := d) h hq hc
    have hvr : v.hasThread r = true := by rw [hasThread_of_threads hv.threads, hr]
    refine ⟨fun hb hf => ?_, fun hb hf => ?_, fun hb => ?_⟩
    · refine ⟨_, e.trans (by rw [if_neg (by simp [hb]), if_neg (by simp [hf])]), ?_, ?_, ?_⟩
      · have hp : ((v.parkAs r .word).served r loc false (some ((s.thread r).reg d)) d).hasThread r = true :=
          (parkAs_hasThread v r r .word).trans hvr
        rw [upd_listed hp]
      · exact (setFull_isFull _ loc true loc).trans (if_pos rfl)
      · exact writeN_readN (bytesOfWord ((s.thread r).reg d)) _ loc
    · refine ⟨_, e.trans (by rw [if_neg (by simp [hb]), if_pos hf]), ?_⟩
      exact congrArg Thread.park (parkAs_thread hvr .word)
    · rw [e, if_pos hb]
  · show Host.Outcome.next (s.each g _) = _
    rw [h.each, State.tags, hc]
    rfl
  · rw [exec_tagq h hea hal hlk hat]
    refine ⟨fun hs hl => ⟨u.fullBits at_ (Nat.min 128 (u.feSize r cm - ea)), ?_, fun k => ?_⟩, fun hs => ?_⟩
    · rw [if_neg (by simp [any_tags_false.mpr hs, hl])]
    · have hfull : u.isFull = s.isFull := by rw [h.2]; rfl
      rw [fullBits_getLsbD u at_ _ k.val k.isLt, hfull]
      congr 1
      refine decide_eq_decide.mpr ?_
      have := k.isLt
      show 4 * k.val < min 128 _ ↔ _
      omega
    · rw [if_pos]
      rw [Bool.or_eq_true]
      exact hs.imp any_tags_true.mpr id

end Sys2Proof.Machine
end

section
/-! Prefetches, cache maintenance, changes of domains and divisions (08, 09); what the page queries wake. -/

namespace Sys2Proof.Machine

/-! ### Range operations (R205, R206) -/

section
variable {s u v : State} {g : Guard} {r : Ref} {acc : Acc} {fetch : Bool} {ea len lo hi : Nat} {f : State → Nat → Nat → Nat → State}

theorem rangeOp_empty (s : State) (r : Ref) (acc : Acc) (fetch : Bool) (ea : Nat) (f : State → Nat → Nat → Nat → State) :
    s.rangeOp r acc fetch ea 0 f = s.pushStore r (.maint fetch) := rfl

/-- The counted completion, or the cause of the page that failed. -/
theorem rangeOp_pages {c : Option Nat} (hlen : len ≠ 0) (hlo : lo = ea / 64 * 64) (hhi : hi = (ea + len + 63) / 64 * 64)
    (h : State.pages (s.partOf r) (s.coreOf r) acc f ((hi - lo) / 4096 + 2) s lo hi = (v, c)) :
    s.rangeOp r acc fetch ea len f = c.elim (v.pushStore r (.maint fetch)) (v.fail r) := by
  subst hlo hhi
  simp only [State.rangeOp, if_neg hlen, h]
  cases c <;> rfl

/-- What holds a range operation at its instruction is not performed. -/
theorem owes_of_rangeHeld (h : s.rangeHeld r = true) : s.owes r = true := by
  have hload : ∀ o : LoadOp, o.acquires = true ∨ (o matches .atomic _ _) = true → o.unperformed = true := by
    intro o
    cases o <;> simp [LoadOp.acquires, LoadOp.unperformed]
  have hstore : ∀ o : StoreOp, o.span.isSome = true → o.unperformed = true := by
    intro o
    cases o <;> simp [StoreOp.span, StoreOp.unperformed]
  simp only [State.rangeHeld, State.acquires, Bool.or_eq_true, List.any_eq_true] at h
  simp only [State.owes, Thread.unperformed, Bool.or_eq_true, List.any_eq_true]
  rcases h with (⟨o, ho, h⟩ | ⟨o, ho, h⟩) | ⟨o, ho, h⟩
  · exact .inl ⟨o, ho, hload o (.inl h)⟩
  · exact .inl ⟨o, ho, hload o (.inr h)⟩
  · exact .inr ⟨o, ho, hstore o h⟩

/-- The form of the four range instructions, held at the instruction or run. -/
theorem exec_range {i : Instr} (h : Runs s g r u) {a : Reg} {b : Src} {f : State → Ref → State → Nat → Nat → Nat → State}
    (hi : exec i s = .next (s.eachAfter g State.rangeHeld (fun x r =>
      x.rangeOp r acc fetch (x.rd64 r a).toNat (x.src32 r b).toNat (f x r)))) :
    exec i s = .next (if s.rangeHeld r then u.heldBack r else
      u.rangeOp r acc fetch ((s.thread r).pair a).toNat (s.val32 (s.thread r) b).toNat (f u r)) := by
  rw [hi, h.after]
  have hr : u.rd64 r a = (s.thread r).pair a := by rw [h.2, moved_rd64]
  have hb : u.src32 r b = s.val32 (s.thread r) b := by rw [h.2, moved_src32 h.alone]
  rw [hr, hb]

end

theorem rangeMaintenance : Claim.RangeMaintenance := by
  intro s g r u v pt sc a b ea len lo hi q core h hea hlen hlo hhi hq hcore
  have hq' : u.partOf r = q := by rw [h.2, hq, moved_get_partOf]
  have hcore' : u.coreOf r = core := by rw [h.2, hcore, moved_get_coreOf]
  have hcwb : exec (.cwb g pt a b) s = _ := exec_range h (f := fun _ r x _ pa n => x.pushRange (x.partOf r) (x.coreOf r) pt pa n) rfl
  have hcwbi : exec (.cwbi g pt a b) s = _ := exec_range h (f := fun _ r x _ pa n => x.cwbiPiece r pt pa n) rfl
  have hiinv : exec (.iinv g sc a b) s = _ := exec_range h (f := fun _ r x _ pa n => x.dropCode (x.partOf r) (x.coreOf r) sc pa n) rfl
  have hcinv : exec (.cinv g pt a b) s = _ :=
    exec_range h (f := fun y r x va pa n => x.cinvPiece r pt (y.rd64 r a).toNat (y.src32 r b).toNat va pa n) rfl
  have hrd : (u.rd64 r a).toNat = ea := by rw [h.2, moved_rd64, hea]
  have hsrc : (u.src32 r b).toNat = len := by rw [h.2, moved_src32 h.alone, hlen]
  simp only [hrd, hsrc, ← hea, ← hlen] at hcwb hcwbi hiinv hcinv
  refine ⟨fun ho => ?_, fun hheld => ?_, fun hheld h0 => ?_, fun hheld h0 c => ?_⟩
  · exact Bool.eq_false_iff.mpr (fun hheld => by simp [owes_of_rangeHeld hheld] at ho)
  · simp only [hheld, if_true] at hcwb hcwbi hiinv hcinv
    exact ⟨hcwb, hcinv, hcwbi, hiinv⟩
  · simp only [hheld, h0, Bool.false_eq_true, if_false] at hcwb hcwbi hiinv hcinv
    exact ⟨hcwb, hcinv, hcwbi, hiinv⟩
  · simp only [hheld, Bool.false_eq_true, if_false] at hcwb hcwbi hiinv hcinv
    rw [hcwb, hcwbi, hiinv, hcinv, ← hq', ← hcore']
    refine ⟨fun hp => ?_, fun hp => ?_, fun hp => ?_, fun hp => ?_⟩ <;>
    · rw [rangeOp_pages h0 hlo hhi hp]
      cases c <;> rfl

/-! ### FBAR and TLBINV -/

theorem iinvLeft_iff (t : Thread) : t.iinvLeft = true ↔ .maint true ∈ t.stores := by
  rw [Thread.iinvLeft, List.any_eq_true]
  constructor
  · rintro ⟨o, ho, hm⟩
    cases o with
    | maint x => cases x with
      | true => exact ho
      | false => cases hm
    | _ => cases hm
  · exact fun h => ⟨_, h, rfl⟩

theorem fetchBarrierAndTlb : Claim.FetchBarrierAndTlb := by
  intro s g r u q h hq
  have hq' : u.partOf r = q := by rw [h.2, hq, moved_get_partOf]
  have hst : (u.thread r).stores = (s.thread r).stores := by rw [h.2, moved_thread_stores]
  have hpair : ∀ a, u.rd64 r a = (s.thread r).pair a := fun a => by rw [h.2, moved_rd64]
  have hfbar : exec (.fbar g) s = .next (if (u.thread r).iinvLeft then u.parkAs r .fbar else u.fbarDone r) :=
    congrArg Host.Outcome.next (h.each _)
  have htlbinv : ∀ a, exec (.tlbinv g a) s = .next (if !canonical (u.rd64 r a).toNat then u.fail r causeXlate else
      u.tlbinv r (u.rd64 r a).toNat) := fun a => congrArg Host.Outcome.next (h.each _)
  have hall : exec (.tlbinvAll g) s = .next (u.tlbinvAll r) := congrArg Host.Outcome.next (h.each _)
  refine ⟨fun hn => ?_, fun hm => ?_, fun a va hva hc => ?_, fun a hc => ?_, ?_⟩
  · rw [hfbar, if_neg]
    · rfl
    · rw [iinvLeft_iff, hst]
      exact fun hm => hn _ hm rfl
  · rw [hfbar, if_pos ((iinvLeft_iff _).mpr (hst ▸ hm))]
  · rw [htlbinv, hpair, ← hva, hc]
    show Host.Outcome.next (u.tlbinv r va) = _
    rw [State.tlbinv, hq']
    rw [h.2]
    rfl
  · rw [htlbinv, hpair, hc]
    rfl
  · rw [hall, State.tlbinvAll, hq']
    rw [h.2]
    rfl

/-- Settles O24, by the pages of a range in ascending address, and the leaves that a TLBINV removes. -/
theorem cacheMaintenance : Obligations.CacheMaintenance := ⟨rangeMaintenance, fetchBarrierAndTlb⟩

/-! ### Changes of domains and divisions (R207 to R210) -/

section
variable {s u : State} {g : Guard} {r : Ref} {d a : Reg}

theorem exec_domset (h : Runs s g r u) (d a : Reg) :
    exec (.domset g d a) s = .next (if s.trails r (locScratch r.1 ((s.thread r).reg a).toNat) 256 then u.heldBack r else u.domset r d a) :=
  congrArg Host.Outcome.next (h.after _ _)

/-- A record that passes its check is taken by its status. -/
theorem domset_passes {w : Where} {rcd : List Word} (h : u.check r .core (u.rd r a).toNat 256 256 false false = .ok (w, u))
    (hr : rcd = wordsOfBytes (u.readAt (u.coreOf r) w 256)) :
    u.domset r d a = if u.domStatus rcd = 0 then (({ u with
      domNew := u.domNew ++ [(r.1, r.2, ((List.range 4).filter (domChg rcd)).map (fun q => (q, u.domAfter rcd q)))] } : State).parkAs r (.domset d))
    else u.put r d (BitVec.ofNat 32 (u.domStatus rcd)) := by
  subst hr
  rw [State.domset, h]

theorem exec_laydivw (h : Runs s g r u) (d a : Reg) :
    exec (.laydivw g d a) s = .next (u.laydivw r d a) := congrArg Host.Outcome.next (h.each _)

end

/-- Settles O25, by the status of the change that is asked for. -/
theorem partitionChanges : Obligations.PartitionChanges := by
  intro s g r u w d a h
  have hreg : u.rd r a = (s.thread r).reg a := by rw [h.2, moved_rd]
  have hrest : u.domNew = s.domNew ∧ (∀ c w n, u.readAt c w n = s.readAt c w n) ∧ u.coreOf r = s.coreOf r ∧ u.partOf r = s.partOf r ∧
      (∀ l, u.domStatus l = s.domStatus l) ∧ (∀ l q, u.domAfter l q = s.domAfter l q) ∧ ∀ q l, u.layStatus q l = s.layStatus q l := by
    rw [h.2]
    exact ⟨rfl, fun _ _ _ => rfl, rfl, rfl, fun _ => rfl, fun _ _ => rfl, fun _ _ => rfl⟩
  obtain ⟨hnew, hread, hcore, hpart, hst, hafter, hlay⟩ := hrest
  refine ⟨fun ht => ?_, fun rcd ht hc hrcd => ?_, fun h0 => ?_, fun h0 => ?_⟩
  · rw [exec_domset h, if_pos ht]
  · rw [exec_domset h, if_neg (Bool.eq_false_iff.mp ht), domset_passes (rcd := rcd) (by rw [hreg, hc]) (by rw [hread, hcore, hrcd])]
    simp only [hst, hafter, hnew]
    exact ⟨fun h0 => by rw [if_pos h0], fun h0 => by rw [if_neg h0]⟩
  · rw [exec_laydivw h, State.laydivw, hpart, hreg, hlay, if_pos h0]
  · rw [exec_laydivw h, State.laydivw, hpart, hreg, hlay, if_neg h0]

/-! ### What the page queries wake (R214, R403) -/

/-- The tables of partition 0 lie in column 0, which is gated. -/
def gatedTables : State := { Tests.wide.updPart 0 (fun p => { p with root := 0x1000000000000 }) with gated := [.column 0] }

/-- A query of an address that the TLBs do not hold walks the tables, which wakes what holds them (R199, R403); the claim leaves it gated. -/
theorem not_pageQueries : ¬ Claim.PageQueries := by
  intro h
  obtain ⟨hq, -, -⟩ := h gatedTables .always Tests.r0 _ 4 2 (Tests.runs0_spec _ _ (by decide +kernel))
  obtain ⟨hpte, -⟩ := hq (by decide +kernel)
  have hgated := congrArg (fun o => (Tests.after gatedTables o).gated) hpte
  exact absurd hgated (by decide +kernel)

/-- Refutes O26: a page query of an address that no TLB holds wakes the engine that holds the tables it walks, which the statement leaves gated. -/
theorem not_pages : ¬ Obligations.Pages := fun h => not_pageQueries h.2.2

/-! ### Prefetches (R190) -/

/-- Only the lines, the leaves and the gating of the memory side differ. -/
def OnlyMoves (s t : State) : Prop := ∃ ls bs gs, t = { s with lines := ls, tlbs := bs, gated := gs }

namespace OnlyMoves

variable {s t v : State}

theorem refl (s : State) : OnlyMoves s s := ⟨s.lines, s.tlbs, s.gated, rfl⟩

theorem trans (h : OnlyMoves s t) (k : OnlyMoves t v) : OnlyMoves s v := by
  obtain ⟨_, _, _, rfl⟩ := h
  obtain ⟨ls, bs, gs, rfl⟩ := k
  exact ⟨ls, bs, gs, rfl⟩

theorem eq (h : OnlyMoves s t) : t = { s with lines := t.lines, tlbs := t.tlbs, gated := t.gated } := by
  obtain ⟨_, _, _, rfl⟩ := h
  rfl

theorem foldl {α : Type} {f : State → α → State} (h : ∀ v a, OnlyMoves v (f v a)) (l : List α) (s : State) : OnlyMoves s (l.foldl f s) := by
  induction l generalizing s with
  | nil => exact refl s
  | cons a l ih => exact (h s a).trans (ih _)

theorem wakeAt (s : State) (pa : Nat) : OnlyMoves s (s.wakeAt pa) := by
  unfold State.wakeAt
  split
  · exact ⟨s.lines, s.tlbs, _, rfl⟩
  · exact refl s

theorem wakeEngine (s : State) (e : Engine) : OnlyMoves s (s.wakeEngine e) := ⟨s.lines, s.tlbs, _, rfl⟩

theorem useLine (s : State) (lv : Level) (home part line : Nat) : OnlyMoves s (s.useLine lv home part line) := ⟨_, s.tlbs, s.gated, rfl⟩

theorem addTlb (s : State) (part : Nat) (l : Leaf) (home : Nat) : OnlyMoves s (s.addTlb part l home) := by
  unfold State.addTlb
  split
  · exact refl s
  · exact ⟨s.lines, _, s.gated, rfl⟩

theorem touchWay (s : State) (part pa : Nat) : OnlyMoves s (s.touchWay part pa) := by
  unfold State.touchWay
  dsimp only
  split
  · exact (wakeEngine s _).trans (useLine _ _ _ _ _)
  · exact refl s

theorem touchBelow (s : State) (part pa : Nat) : OnlyMoves s (s.touchBelow part pa) := by
  unfold State.touchBelow
  split
  · dsimp only
    split
    · refine OnlyMoves.trans ?_ ((wakeEngine _ _).trans (useLine _ _ _ _ _))
      split
      · exact refl s
      · exact touchWay s part pa
    · exact touchWay s part pa
  · exact refl s

theorem touch (s : State) (part core pa : Nat) : OnlyMoves s (s.touch part core pa) := by
  unfold State.touch
  refine (wakeAt s pa).trans (OnlyMoves.trans ?_ (useLine _ _ _ _ _))
  split
  · exact refl _
  · exact touchBelow _ part pa

theorem lookUp (s : State) (part core va : Nat) : OnlyMoves s (s.lookUp part core va) := by
  unfold State.lookUp
  split
  · exact refl s
  · exact foldl wakeAt _ s

theorem keepLeaf (s : State) (part core va : Nat) (l : Leaf) : OnlyMoves s (s.keepLeaf part core va l) :=
  (lookUp s part core va).trans (foldl (fun v h => addTlb v part l h) _ _)

theorem bring (s : State) (part core pa : Nat) (lv : PLevel) : OnlyMoves s (s.bring part core pa lv) := by
  cases lv with
  | dc => exact touch s part core pa
  | l2 => exact touchBelow s part pa
  | lay =>
    show OnlyMoves s (if isLpddr pa then s.touchWay part pa else s)
    split
    · exact touchWay s part pa
    · exact refl s

theorem prefLine (s : State) (r : Ref) (lv : PLevel) (va : Nat) : OnlyMoves s (s.prefLine r lv va) := by
  unfold State.prefLine
  dsimp only
  split
  · exact refl s
  · split
    · exact refl s
    · exact (keepLeaf s _ _ va _).trans (bring _ _ _ _ lv)

end OnlyMoves

section
variable {s u : State} {g : Guard} {r : Ref} {lv : PLevel} {ux : Bool} {a : Reg} {b : Src} {va : Nat}

theorem exec_pref (h : Runs s g r u) (cnt : BitVec 8) : exec (.pref g lv ux a b cnt) s =
    .next ((prefLines (u.ea r .glob a 64 ux b) (cnt.toNat + 1)).foldl (fun s va => s.prefLine r lv va) u) :=
  congrArg Host.Outcome.next (h.each _)

/-- A request of one line asks for the line of its address. -/
theorem prefLines_one (ea : Nat) : prefLines ea 1 = [ea / 64 * 64] := by
  have hpage : ea / 64 * 64 / 4096 = ea / 4096 := by omega
  simp [prefLines, hpage]

theorem exec_pref_one (h : Runs s g r u) (hva : va = u.ea r .glob a 64 ux b / 64 * 64) :
    exec (.pref g lv ux a b 0) s = .next (u.prefLine r lv va) := by
  rw [exec_pref h]
  show Host.Outcome.next ((prefLines _ 1).foldl _ u) = _
  rw [prefLines_one, ← hva]
  rfl

theorem prefLine_error {c : Nat} (h : s.page (s.partOf r) (s.coreOf r) va 64 .read = .error c) : s.prefLine r lv va = s := by
  simp only [State.prefLine, h]

theorem prefLine_ok {l : Leaf} {pa : Nat} (h : s.page (s.partOf r) (s.coreOf r) va 64 .read = .ok (l, pa)) :
    s.prefLine r lv va =
      if s.lockHit (s.dieOf r) (s.partOf r) { sp := .glob, owner := 0, lo := va, len := 64 } false || s.pathHeld (s.partOf r) pa then s
      else (s.keepLeaf (s.partOf r) (s.coreOf r) va l).bring (s.partOf r) (s.coreOf r) pa lv := by
  simp only [State.prefLine, h]

end

/-- Settles O23, by what the use of a line at a level changes. -/
theorem prefetchOnlyMovesLines : Obligations.PrefetchOnlyMovesLines := by
  intro s g r u lv ux a b h
  refine ⟨fun cnt => ⟨_, exec_pref h cnt, ?_⟩, fun va hva => ?_⟩
  · exact (OnlyMoves.foldl (fun v va => OnlyMoves.prefLine v r lv va) _ u).eq
  have hpage : ∀ q c n, s.page q c va n .read = u.page q c va n .read := fun _ _ _ => by
    rw [h.2]
    rfl
  rw [exec_pref_one h hva]
  refine ⟨fun c hc => ?_, fun l pa drop hp hdrop => ?_⟩
  · rw [prefLine_error (by rw [← hpage, h.2]; exact hc)]
  · have hline := prefLine_ok (s := u) (r := r) (lv := lv) (va := va) (l := l) (pa := pa) (by rw [← hpage, h.2]; exact hp)
    have hd : (u.lockHit (u.dieOf r) (u.partOf r) { sp := .glob, owner := 0, lo := va, len := 64 } false || u.pathHeld (u.partOf r) pa) = drop := by
      rw [hdrop, h.2]
      rfl
    have hq : u.partOf r = s.partOf r ∧ u.coreOf r = s.coreOf r := by rw [h.2]; exact ⟨rfl, rfl⟩
    rw [hd, hq.1, hq.2] at hline
    refine ⟨fun hx => ?_, fun hx hlv => ?_, fun hx hlv => ?_, fun hx hlv hpa => ?_⟩ <;> subst hx
    · rw [hline, if_pos rfl]
    · subst hlv
      exact congrArg Host.Outcome.next hline
    · subst hlv
      exact congrArg Host.Outcome.next hline
    · subst hlv
      rw [hline, if_neg Bool.false_ne_true, State.bring, if_pos hpa]

end Sys2Proof.Machine
end

section
/-! Operand-buffer ranges (06). -/

namespace Sys2Proof.Machine

/-! ### Reservations (R139 to R141, R151, R152) -/

section
variable {s u v : State} {g : Guard} {r : Ref}

theorem exec_obres (h : Runs s g r u) (d a : Reg) (n : BitVec 5) : exec (.obres g d a n) s =
    .next (if s.trails r (locScratch r.1 ((s.thread r).reg a).toNat) 32 then u.heldBack r else u.obres r d a n.toNat) :=
  congrArg Host.Outcome.next (h.after _ _)

/-- A record that passes its check is taken by its status. -/
theorem obres_passes {w : Where} {d a : Reg} {n : Nat} {rcd : List Word} (h : u.check r .core (u.rd r a).toNat 32 32 false false = .ok (w, u))
    (hr : rcd = wordsOfBytes (u.readAt (u.coreOf r) w 32)) (hv : v = u.pushLoad r (.value d [BitVec.ofNat 32 ((u.ctxOf r).obresStatus n rcd)])) :
    u.obres r d a n = if (u.ctxOf r).obresStatus n rcd = 0 then
      { v.updCtxOf r (fun c => { c with ranges := c.ranges ++ [{ n := n, owner := r.1, rcd := rcd }] }) with
        mem := u.mem.clear (locObuf (u.coreOf r) (u.partOf r) (recBase rcd)) (recSize rcd) }
    else v := by
  subst hr hv
  rw [State.obres, h]
  rfl

theorem exec_obrel (h : Runs s g r u) (d : Reg) (n : BitVec 5) : exec (.obrel g d n) s = .next (u.obrel r d n.toNat) :=
  congrArg Host.Outcome.next (h.each _)

theorem obrel_none {d : Reg} {n : Nat} (h : (u.ctxOf r).range n = none) : u.obrel r d n = u.put r d 6 := by
  rw [State.obrel, h]

theorem obrel_free {d : Reg} {n : Nat} {q : ObRange} (h : (u.ctxOf r).range n = some q) (ho : q.owner = r.1) (hh : u.heldRange r.1 n false = false) :
    u.obrel r d n = (u.obFree r n).put r d 0 := by
  rw [State.obrel, h]
  show (if q.owner ≠ r.1 then _ else if u.heldRange r.1 n false then _ else _) = _
  rw [if_neg (not_not.mpr ho), if_neg (Bool.eq_false_iff.mp hh)]

end

theorem rangeReservation : Claim.RangeReservation := by
  intro s g r u v w d a n rcd h
  have hreg : u.rd r a = (s.thread r).reg a := by rw [h.2, moved_rd]
  refine ⟨fun ht => ?_, fun ht hc hrcd hv => ?_, fun q hq ho hh => ?_, fun hq => ?_⟩
  · rw [exec_obres h, if_pos ht]
  · have hst : u.ctxOf r = s.ctxOf r := by rw [h.2, moved_get_ctxOf]
    rw [exec_obres h, if_neg (Bool.eq_false_iff.mp ht), obres_passes (v := v) (rcd := rcd) (hreg ▸ hc) (by rw [h.2]; exact hrcd) (hst ▸ hv), hst]
    refine ⟨fun h0 => by rw [if_neg h0], fun h0 => ?_⟩
    rw [if_pos h0, h.2]
    rfl
  · rw [exec_obrel h, obrel_free (q := q) (by rw [h.2]; exact hq) ho (by rw [h.2]; exact hh)]
    rfl
  · rw [exec_obrel h, obrel_none (by rw [h.2]; exact hq)]

/-! ### Words of a range (R153) -/

section
variable {s u : State} {g : Guard} {r : Ref}

/-- An aligned word of a range of the group that no command holds and no lock covers. -/
theorem obWord_ok {q : ObRange} {n off : Nat} {store : Bool} (hal : off % 4 = 0) (hq : (u.ctxOf r).range n = some q) (ho : q.owner = r.1)
    (hoff : off < recSize q.rcd) (hl : u.locks = []) (hh : u.heldRange r.1 n (!store) = false) :
    u.obWord r n off store = .ok (locObuf (u.coreOf r) (u.partOf r) (recBase q.rcd + off)) := by
  have hlock : ∀ z, u.lockHit (u.dieOf r) (u.partOf r) z store = false := fun z => by simp [State.lockHit, hl]
  rw [State.obWord, if_neg (not_not.mpr hal), hq]
  show (if q.owner ≠ r.1 ∨ recSize q.rcd ≤ off then _ else if u.heldRange r.1 n (!store) then _ else _) = _
  rw [if_neg (by simp [ho, hoff]), if_neg (Bool.eq_false_iff.mp hh), if_neg (Bool.eq_false_iff.mp (hlock _))]

theorem exec_obwr (h : Runs s g r u) (a : Reg) (b : Src) (n : BitVec 5) {loc : Nat}
    (hw : u.obWord r n.toNat (u.src32 r b).toNat true = .ok loc) : exec (.obwr g a b n) s =
      .next (({ u with mem := u.mem.writeN loc (bytesOfWord (u.rd r a)) } : State).pushStore r (.store .cor none)) := by
  show Host.Outcome.next (s.each g _) = _
  rw [h.each, hw]

theorem exec_obrd (h : Runs s g r u) (d : Reg) (b : Src) (n : BitVec 5) {loc : Nat}
    (hw : u.obWord r n.toNat (u.src32 r b).toNat false = .ok loc) : exec (.obrd g d b n) s =
      .next (u.pushLoad r (.value d [BitVec.ofNat 32 (ofBytes (u.mem.readN loc 4))])) := by
  show Host.Outcome.next (s.each g _) = _
  rw [h.each, hw]

end

theorem rangeWords : Claim.RangeWords := by
  intro s g r u b n q off h hoff hal hq ho hlt hl
  have hsrc : (u.src32 r b).toNat = off := by rw [h.2, moved_src32 h.alone, hoff]
  have hq' : (u.ctxOf r).range n.toNat = some q := by rw [h.2]; exact hq
  have hl' : u.locks = [] := by rw [h.2]; exact hl
  have hword : ∀ store, s.heldRange r.1 n.toNat (!store) = false → u.obWord r n.toNat (u.src32 r b).toNat store =
      .ok (locObuf (s.coreOf r) (s.partOf r) (recBase q.rcd + off)) := fun store hh => by
    rw [hsrc, obWord_ok hal hq' ho hlt hl' (by rw [h.2]; exact hh), h.2]
    rfl
  refine ⟨fun a hh => ?_, fun d hh => ?_⟩
  · rw [exec_obwr h a b n (hword true hh), show u.rd r a = (s.thread r).reg a by rw [h.2, moved_rd], show u.mem = s.mem by rw [h.2, moved_mem]]
  · rw [exec_obrd h d b n (hword false hh), show u.mem = s.mem by rw [h.2, moved_mem]]

/-- Settles O27, by the status of a reservation and the checks on one word of a range. -/
theorem operandBufferRanges : Obligations.OperandBufferRanges := ⟨rangeReservation, rangeWords⟩

end Sys2Proof.Machine
end

section
/-! Copies, stream engines, tags and locks (10). -/

namespace Sys2Proof.Machine

/-! ### Copies (R216, R220, R222, R234, R235) -/

section
variable {s u : State} {g : Guard} {r : Ref} {sc : Scope} {tag : Nat} {kind : OpKind} {src dst : List Rng} {len : Nat} {op : LockOp}

@[simp] theorem engRng_len (s : State) (g : Nat) (sp : ESpace) (lo n : Nat) : (s.engRng g sp lo n).len = n := by cases sp <;> rfl

theorem exec_cpy (h : Runs s g r u) (dsp ssp : ESpace) (sc : Scope) (tag : BitVec 6) (a : Reg) (b : Src) :
    exec (.cpy g dsp ssp sc tag a b) s = .next (if s.owes r then u.heldBack r else u.cpy r dsp ssp sc tag.toNat a b) :=
  congrArg Host.Outcome.next (h.after _ _)

theorem exec_cpyt (h : Runs s g r u) (sc : Scope) (tag : BitVec 6) (a : Reg) (b : Src) :
    exec (.cpyt g sc tag a b) s = .next (if s.owes r then u.heldBack r else s.cpyt u r sc tag.toNat a b) :=
  congrArg Host.Outcome.next (h.after _ _)

/-- Between two ranges of the group, a copy completes at once where it moves nothing, and asks for its entry where they are apart. -/
theorem copyIssue_ranges {x y : Rng} (hx : rngCanonical x = true) (hy : rngCanonical y = true) (bx : u.rngBound r.1 x = true)
    (b_y : u.rngBound r.1 y = true) (h : 0 < x.len → 0 < y.len → x.overlaps y = false) :
    u.copyIssue r tag sc kind [x] [y] len = if len = 0 then u.updCtxOf r (fun c => (c.issueTag tag).completeTag tag)
      else u.lockAsk false (u.newOp r tag sc kind [x] [y] len) (fun s _ => s) := by
  have hov : (decide (0 < x.len) && decide (0 < y.len) && x.overlaps y) = false := by
    by_cases h1 : 0 < x.len
    · by_cases h2 : 0 < y.len
      · simp [h h1 h2]
      · simp [h2]
    · simp [h1]
  simp only [State.copyIssue, List.singleton_append, List.any_cons, List.any_nil, hx, hy, bx, b_y, hov, Bool.not_true, Bool.or_self,
    Bool.false_eq_true, if_false]

/-- A copy's registration: its entry and its tag's issue, or the queue. -/
theorem lockAsk_copy (hk : op.kind = .copy) (hop : op = { op with id := u.serial }) (done : State → LockOp → State) :
    u.lockAsk false op done = if u.bump.lockReady u.regQueue op then
        done ((u.bump.lockAdd op).updCtx op.core op.part (fun c => c.issueTag op.tag)) op
      else ({ u.bump with regQueue := u.regQueue ++ [op] } : State).parkAs (op.gid, op.tid) (.lockReg false) := by
  rw [State.lockAsk, ← hop]
  have hi : u.bump.lockIssue op = (u.bump.lockAdd op).updCtx op.core op.part (fun c => c.issueTag op.tag) := by
    rw [State.lockIssue, hk]
  rw [hi]
  rfl

end

theorem copiesRegister : Claim.CopiesRegister := by
  intro s g r u v dsp ssp sc tag a b src dst op len h
  refine ⟨fun ho => ?_, fun ho hlen hdst hsrc csrc cdst bsrc bdst => ?_, fun wd ws dr sr fd fs ho hwd hws hdr hsr hfd hfs hag hv => ?_⟩
  · rw [exec_cpy h, exec_cpyt h, if_pos ho, if_pos ho]
    exact ⟨rfl, rfl⟩
  · have hcpy : u.cpy r dsp ssp sc tag.toNat a b = u.copyIssue r tag.toNat sc .copy [src] [dst] len := by
      have hb : (u.src32 r b).toNat = len := by rw [h.2, moved_src32 h.alone, hlen]
      have hp : ∀ x, u.rd64 r x = (s.thread r).pair x := fun x => by rw [h.2, moved_rd64]
      simp only [State.cpy, hb, hp]
      rw [hdst, hsrc, h.2]
      rfl
    have hbnd : ∀ x, s.rngBound r.1 x = true → u.rngBound r.1 x = true := fun x hx => by rw [h.2]; exact hx
    have hlens : src.len = len ∧ dst.len = len := by rw [hsrc, hdst]; exact ⟨engRng_len _ _ _ _ _, engRng_len _ _ _ _ _⟩
    rw [exec_cpy h, if_neg (Bool.eq_false_iff.mp ho), hcpy]
    refine ⟨fun h0 => ?_, fun h0 hov hop => ?_⟩
    · rw [copyIssue_ranges csrc cdst (hbnd _ bsrc) (hbnd _ bdst) (fun h1 => by omega), if_pos h0]
    · have hser : u.serial = s.serial ∧ u.regQueue = s.regQueue := by rw [h.2]; exact ⟨rfl, rfl⟩
      have hask : u.lockAsk false (u.newOp r tag.toNat sc .copy [src] [dst] len) (fun s _ => s) = u.lockAsk false op (fun s _ => s) := by
        rw [hop, ← hser.1]
        rfl
      rw [copyIssue_ranges csrc cdst (hbnd _ bsrc) (hbnd _ bdst) (fun _ _ => hov), if_neg h0, hask,
        lockAsk_copy (by rw [hop]; rfl) (by rw [hop, hser.1]), hser.2]
      refine ⟨fun hr => ?_, fun hr => ?_⟩
      · rw [if_pos hr]
        rw [show op.tag = tag.toNat by rw [hop]; rfl]
      · rw [if_neg (Bool.eq_false_iff.mp hr)]
        rw [show (op.gid, op.tid) = r by rw [hop]; rfl]
  · have hb : u.src32 r b = s.val32 (s.thread r) b := by rw [h.2, moved_src32 h.alone]
    have hp : u.rd r a = (s.thread r).reg a := by rw [h.2, moved_rd]
    have hcore : u.coreOf r = s.coreOf r := by rw [h.2, moved_get_coreOf]
    rw [exec_cpyt h, if_neg (Bool.eq_false_iff.mp ho), hv, State.cpyt, hp, hb, hwd, hws]
    dsimp only
    rw [hcore, ← hdr, ← hsr, hfd, hfs]
    dsimp only
    rw [hag, show s.engRng = u.engRng by rw [h.2]; rfl]
    rfl

/-! ### Tags and locks (R237) -/

section
variable {s u : State} {g : Guard} {r : Ref}

theorem lowestBit_lt {x : DWord} (h : x ≠ 0) : lowestBit x < 64 := by
  have hsome : ((List.range 64).find? (fun k => x.getLsbD k)).isSome := by
    by_contra hn
    rw [List.find?_isSome, not_exists] at hn
    refine h (BitVec.eq_of_getLsbD_eq (fun i hi => ?_))
    refine Eq.trans ?_ BitVec.getLsbD_zero.symm
    exact Bool.eq_false_iff.mpr (fun hb => hn i ⟨List.mem_range.mpr hi, hb⟩)
  obtain ⟨k, hk⟩ := Option.isSome_iff_exists.mp hsome
  rw [lowestBit, hk]
  exact List.mem_range.mp (List.mem_of_find?_eq_some hk)

theorem exec_tagwait (h : Runs s g r u) (all : Bool) (d : Reg) (b : Src) : exec (.tagwait g all d b) s =
    .next (if tagMet all (s.ctxOf r).ctag (s.val64 (s.thread r) b) then u.put64 r d ((s.ctxOf r).ctag &&& s.val64 (s.thread r) b)
      else u.parkAs r (.tag all (s.val64 (s.thread r) b) d)) := by
  have hb : u.src64 r b = s.val64 (s.thread r) b := by rw [h.2, moved_src64 h.alone]
  have hc : u.ctxOf r = s.ctxOf r := by rw [h.2, moved_get_ctxOf]
  show Host.Outcome.next (s.each g _) = _
  rw [h.each, hb, State.tagwait, hc]

theorem exec_tagff (h : Runs s g r u) (clr : Bool) (d : Reg) (b : Src) : exec (.tagff g clr d b) s =
    .next (u.tagff r clr d (s.val64 (s.thread r) b)) := by
  show Host.Outcome.next (s.each g _) = _
  rw [h.each, show u.src64 r b = s.val64 (s.thread r) b by rw [h.2, moved_src64 h.alone]]

theorem lockqAddr_unlocked (hl : u.locks = []) (sp : Space) (ea : Nat) : u.lockqAddr r sp ea = 0 := by
  rw [State.lockqAddr]
  cases u.rngOf r sp ea 1 with
  | none => rfl
  | some x =>
    show boolW (List.any (u.locks.filter _) _) ||| boolW (List.any (u.locks.filter _) _) <<< 1 = 0
    rw [hl]
    simp [boolW]

end

theorem tagsAndLockQueries : Claim.TagsAndLockQueries := by
  intro s g r u d b tags m h htags hm
  have hc : u.ctxOf r = s.ctxOf r := by rw [h.2, moved_get_ctxOf]
  have hb : u.src64 r b = s.val64 (s.thread r) b := by rw [h.2, moved_src64 h.alone]
  have htag : ∀ clr, u.tagff r clr d m = if (clr && lowestBit (tags &&& m) < 64) = true then
      (u.put r d (BitVec.ofNat 32 (lowestBit (tags &&& m)))).updCtxOf r
        (fun c => { c with ctag := c.ctag &&& ~~~(BitVec.ofNat 64 (2 ^ lowestBit (tags &&& m))) })
      else u.put r d (BitVec.ofNat 32 (lowestBit (tags &&& m))) := fun clr => by rw [State.tagff, hc, ← htags]
  refine ⟨fun he => ?_, fun he => ?_, fun he => ?_, fun he => ?_, ?_, fun he => ?_, ?_, ?_, ?_, fun sp a hl => ?_⟩
  · rw [exec_tagwait h, ← htags, ← hm, if_pos (by simpa [tagMet] using he), he]
  · rw [exec_tagwait h, ← htags, ← hm, if_neg (by simpa [tagMet] using he)]
  · rw [exec_tagwait h, ← htags, ← hm, if_pos (by simpa [tagMet] using he)]
  · rw [exec_tagwait h, ← htags, ← hm, if_neg (by simpa [tagMet] using he)]
  · rw [exec_tagff h, ← hm, htag, if_neg (by simp)]
  · rw [exec_tagff h, ← hm, htag, if_pos (by simpa using lowestBit_lt he)]
  · show Host.Outcome.next (s.each g _) = _
    rw [h.each, hb, ← hm]
  · show Host.Outcome.next (s.each g _) = _
    rw [h.each]
    rw [h.2]
    rfl
  · show Host.Outcome.next (s.each g _) = _
    rw [h.each]
    dsimp only
    rw [hb, ← hm, hc]
  · show Host.Outcome.next (s.each g _) = _
    rw [h.each, lockqAddr_unlocked (by rw [h.2]; exact hl)]

/-- Settles O29, by the registration of a copy between ranges that are apart. -/
theorem copiesTagsAndLocks : Obligations.CopiesTagsAndLocks := ⟨copiesRegister, tagsAndLockQueries⟩

/-! ### Stream engines (R225, R228, R231, R236) -/

section
variable {s u : State} {g : Guard} {r : Ref} {e : Bool} {d a : Reg} {b : Src}

theorem exec_sebind (h : Runs s g r u) (drain : Bool) (sc : Scope) (tag : BitVec 6) :
    exec (.sebind g drain sc e tag d a b) s = .next (if s.owes r then u.heldBack r else u.sebind r drain sc e tag.toNat d a b) :=
  congrArg Host.Outcome.next (h.after _ _)

/-- The binding that two records that pass their checks ask for, by its status and the tag's count. -/
theorem sebind_passes {drain : Bool} {sc : Scope} {tag : Nat} {wr wt : Where} {ring ten : List Word} {x : SeBind}
    (hr : u.check r .core (u.rd r a).toNat 32 32 false false = .ok (wr, u))
    (ht : u.check r .core (u.src32 r b).toNat 128 128 false false = .ok (wt, u))
    (hring : ring = wordsOfBytes (u.readAt (u.coreOf r) wr 32)) (hten : ten = wordsOfBytes (u.readAt (u.coreOf r) wt 128))
    (hx : x = { gid := r.1, tid := r.2, drain := drain, scope := sc, tag := tag, ring := ring, tensor := ten,
                total := ringBoxes ring (tenNdim ten), next := 0, finished := 0, freeing := false }) :
    u.sebind r drain sc e tag d a b =
      if u.bindStatus r e ring ten ≠ 0 then u.put r d (BitVec.ofNat 32 (u.bindStatus r e ring ten))
      else if 65535 ≤ (u.ctxOf r).tagCnt.getD tag 0 then u.parkAs r (.tagFull tag)
      else (((List.range (ringNslot ring)).foldl (fun y k => y.setHead x k (BitVec.ofNat 32 k) false) u).updCtxOf r
        (fun c => (c.setEng e (some x)).issueTag tag)).put r d 0 := by
  subst hring hten hx
  rw [State.sebind, hr, ht]

theorem exec_sefree (h : Runs s g r u) : exec (.sefree g e d) s = .next (u.sefree r e d) := congrArg Host.Outcome.next (h.each _)

/-- An engine with no registration in the queue. -/
theorem sefree_owned {x : SeBind} (h : u.myEng r e = some x) (hq : u.regQueue = []) :
    u.sefree r e d = if u.boxesOut (u.coreOf r) (u.partOf r) e = 0 then u.sefreeDone r e d
      else (u.updCtxOf r (fun c => c.setEng e (some { x with freeing := true }))).parkAs r (.sefree e d) := by
  have hu : { u with regQueue := u.regQueue.filter (fun l => !(isBoxOf (u.coreOf r) (u.partOf r) e l)) } = u := by
    rw [hq, List.filter_nil, ← hq]
  rw [State.sefree, h]
  dsimp only
  rw [hu]

theorem sefreeDone_owned {x : SeBind} (h : u.myEng r e = some x) :
    u.sefreeDone r e d = (u.unbind (u.coreOf r) (u.partOf r) e).put r d (BitVec.ofNat 32 x.finished) := by
  have hx : (u.ctxOf r).eng e = some x := (Option.filter_eq_some_iff.mp h).1
  rw [State.sefreeDone, hx]

end

theorem engineBinding : Claim.EngineBinding := by
  intro s g r u sc e d h
  have hmy : u.myEng r e = s.myEng r e := by rw [h.2]; rfl
  have hq : u.regQueue = s.regQueue ∧ u.coreOf r = s.coreOf r ∧ u.partOf r = s.partOf r ∧
      u.boxesOut (s.coreOf r) (s.partOf r) e = s.boxesOut (s.coreOf r) (s.partOf r) e := by rw [h.2]; exact ⟨rfl, rfl, rfl, rfl⟩
  obtain ⟨hqueue, hcore, hpart, hbox⟩ := hq
  refine ⟨fun drain tag a b ho => ?_, fun drain tag a b wr wt ring ten x ho hwr hwt hring hten hx => ?_, fun x hx h0 hr => ?_, fun x hx h0 hr => ?_,
    fun hn => ?_⟩
  · rw [exec_sebind h, if_pos ho]
  · have hb : u.src32 r b = s.val32 (s.thread r) b := by rw [h.2, moved_src32 h.alone]
    have hp : u.rd r a = (s.thread r).reg a := by rw [h.2, moved_rd]
    have hread : ∀ w n, u.readAt (u.coreOf r) w n = s.readAt (s.coreOf r) w n := fun w n => by rw [h.2]; rfl
    have hctx : u.ctxOf r = s.ctxOf r := by rw [h.2, moved_get_ctxOf]
    rw [exec_sebind h, if_neg (Bool.eq_false_iff.mp ho),
      sebind_passes (x := x) (hp ▸ hwr) (hb ▸ hwt) (by rw [hread]; exact hring) (by rw [hread]; exact hten) hx, hctx]
    refine ⟨fun h0 => by rw [if_pos h0], fun h0 ht => ?_, fun h0 ht => ?_⟩
    · rw [if_neg (not_not.mpr h0), if_neg (Nat.not_le.mpr ht)]
    · rw [if_neg (not_not.mpr h0), if_pos ht]
  · rw [exec_sefree h, sefree_owned (hmy ▸ hx) (hqueue ▸ hr), hcore, hpart, hbox, if_pos h0, sefreeDone_owned (hmy ▸ hx), hcore, hpart]
  · rw [exec_sefree h, sefree_owned (hmy ▸ hx) (hqueue ▸ hr), hcore, hpart, hbox, if_neg h0]
  · rw [exec_sefree h, State.sefree, hmy, hn]

/-! ### Slots -/

section
variable {s u : State} {g : Guard} {r : Ref} {e : Bool} {d : Reg} {b : Src} {j : Nat} {x : SeBind}

theorem exec_slotw (h : Runs s g r u) (hj : j = (s.val32 (s.thread r) b).toNat) (hx : s.myEng r e = some x) (hlt : j < x.boxes) :
    exec (.slotw g e d b) s = .next (if s.slotMine x j then u.put r d (slotAddr x j) else u.parkAs r (.slotw e j d)) := by
  have hb : (u.src32 r b).toNat = j := by rw [h.2, moved_src32 h.alone, hj]
  have hmy : u.myEng r e = some x := by rw [h.2]; exact hx
  have hm : u.slotMine x j = s.slotMine x j := by rw [h.2]; rfl
  show Host.Outcome.next (s.each g _) = _
  rw [h.each, hb, State.slotw, hmy]
  dsimp only
  rw [if_neg (Nat.not_le.mpr hlt), hm]

theorem exec_slotrel (h : Runs s g r u) (hj : j = (s.val32 (s.thread r) b).toNat) :
    exec (.slotrel g e b) s = .next (if s.owes r then u.heldBack r else s.slotrel u r e j) := by
  have hb : (u.src32 r b).toNat = j := by rw [h.2, moved_src32 h.alone, hj]
  show Host.Outcome.next (s.eachAfter g _ _) = _
  rw [h.after, hb]

theorem slotrel_lost (hx : u.myEng r e = some x) (hm : s.slotMine x j = false) : s.slotrel u r e j = u.fail r causeAccess := by
  rw [State.slotrel, hx]
  dsimp only
  rw [if_pos (by simp [hm])]

theorem slotrel_mine (hx : u.myEng r e = some x) (hm : s.slotMine x j = true) (hm' : u.slotMine x j = true) :
    s.slotrel u r e j = if x.drain then (u.release r (if ringCm x.ring then .clu else .cor)).setHead x (j % ringNslot x.ring) (BitVec.ofNat 32 j) true
      else (u.release r (if ringCm x.ring then .clu else .cor)).setHead x (j % ringNslot x.ring) (BitVec.ofNat 32 (j + ringNslot x.ring)) false := by
  rw [State.slotrel, hx]
  dsimp only
  rw [if_neg (by simp [hm]), if_neg (by simp [hm'])]

end

theorem engineSlots : Claim.EngineSlots := by
  intro s g r u e b x j h hj hx hlt
  have hmy : u.myEng r e = some x := by rw [h.2]; exact hx
  have hm : u.slotMine x j = s.slotMine x j := by rw [h.2]; rfl
  refine ⟨fun d => ⟨fun hs => ?_, fun hs => ?_⟩, fun v hs ho hv => ?_, fun ho => ?_, fun hs ho => ?_⟩
  · rw [exec_slotw h hj hx hlt, if_pos hs]
    rfl
  · rw [exec_slotw h hj hx hlt, if_neg (Bool.eq_false_iff.mp hs)]
  · rw [exec_slotrel h hj, if_neg (Bool.eq_false_iff.mp ho), slotrel_mine hmy hs (hm.trans hs), hv]
  · rw [exec_slotrel h hj, if_pos ho]
  · rw [exec_slotrel h hj, if_neg (Bool.eq_false_iff.mp ho), slotrel_lost hmy hs]

/-- Settles O28, by the status of a binding and the owner of a slot's box. -/
theorem streamEngines : Obligations.StreamEngines := ⟨engineBinding, engineSlots⟩

end Sys2Proof.Machine
end

section
/-! Atomics, barriers and fences (11, 12). -/

namespace Sys2Proof.Machine

/-! ### The issue of an atomic (R239, R244) -/

theorem atomAsk_passes {s v : State} {r : Ref} {sp : Space} {n : Nat} {a : Reg} {w : Where}
    (h : s.check r sp (s.atomEa r sp a) n n true false = .ok (w, v)) (k : State → Nat → State) : s.atomAsk r sp n a k = k v w.loc := by
  rw [State.atomAsk, h]

/-- Settles O30, by the checks that every atomic form makes at issue. -/
theorem atomicsIssue : Obligations.AtomicsIssue := by
  intro s g r u v w sp o a b h hc
  have hask : ∀ k : State → Nat → State, u.atomAsk r sp (if o.x64 then 8 else 4) a k = k v w.loc := atomAsk_passes hc
  refine ⟨fun op d => ?_, fun d => ?_, fun op d => ?_, fun op => ?_⟩ <;>
  · show Host.Outcome.next (s.bump.each g _) = _
    rw [h.each]
    exact congrArg Host.Outcome.next (hask _)

/-! ### What an integer atomic leaves (R248, R249) -/

section
variable {a : AtomReq} {old : Nat}

theorem after_cas (h : a.cas = true) : a.after old = if old = a.opnd.toNat then some a.new.toNat else none := by
  rw [AtomReq.after, if_pos h]

theorem after_int {op : AOp} (h : a.cas = false) (hop : a.op = .int op) : a.after old = some (intAtom op a.n old a.opnd.toNat) := by
  rw [AtomReq.after, if_neg (Bool.eq_false_iff.mp h), hop]

theorem setWidth_toNat {x : DWord} (h : x.toNat < 2 ^ 32) : (x.setWidth 32).toNat = x.toNat := by
  rw [BitVec.toNat_setWidth, Nat.mod_eq_of_lt h]

/-- The number that stands for the signed one of a value below m, as R248 compares it. -/
def signedOf (m x : Nat) : Int := if m / 2 ≤ x then (x : Int) - m else x

theorem signedOf_toNat {w : Nat} (hw : 0 < w) (x : BitVec w) : signedOf (2 ^ w) x.toNat = x.toInt := by
  have hm : 2 ^ w = 2 * 2 ^ (w - 1) := by rw [← Nat.pow_succ', Nat.succ_eq_add_one, Nat.sub_add_cancel hw]
  rw [signedOf, BitVec.toInt_eq_toNat_cond, hm]
  split <;> split <;> omega

theorem intAtom_minI (n old b : Nat) :
    intAtom .minI n old b = if signedOf (2 ^ (8 * n)) old ≤ signedOf (2 ^ (8 * n)) b then old else b := rfl

theorem intAtom_maxI (n old b : Nat) :
    intAtom .maxI n old b = if signedOf (2 ^ (8 * n)) old ≤ signedOf (2 ^ (8 * n)) b then b else old := rfl

/-- Two values of four bytes compare as signed numbers of 32 bits. -/
theorem signed_word {x : Nat} {y : DWord} (hx : x < 2 ^ 32) (hy : y.toNat < 2 ^ 32) :
    signedOf (2 ^ 32) x = (BitVec.ofNat 32 x).toInt ∧ signedOf (2 ^ 32) y.toNat = (y.setWidth 32).toInt := by
  rw [← signedOf_toNat (by omega), ← signedOf_toNat (by omega), BitVec.toNat_ofNat, Nat.mod_eq_of_lt hx, setWidth_toNat hy]
  exact ⟨rfl, rfl⟩

theorem signed_dword {x : Nat} (hx : x < 2 ^ 64) (y : DWord) :
    signedOf (2 ^ 64) x = (BitVec.ofNat 64 x).toInt ∧ signedOf (2 ^ 64) y.toNat = y.toInt := by
  rw [← signedOf_toNat (by omega), ← signedOf_toNat (by omega), BitVec.toNat_ofNat, Nat.mod_eq_of_lt hx]
  exact ⟨rfl, rfl⟩

theorem intAtom_lt {op : AOp} {n b : Nat} (ho : old < 2 ^ (8 * n)) (hb : b < 2 ^ (8 * n)) : intAtom op n old b < 2 ^ (8 * n) := by
  cases op with
  | add => exact Nat.mod_lt _ (Nat.two_pow_pos _)
  | minI => rw [intAtom_minI]; split <;> assumption
  | maxI => rw [intAtom_maxI]; split <;> assumption
  | minN => exact Nat.lt_of_le_of_lt (Nat.min_le_left _ _) ho
  | maxN => exact Nat.max_lt.mpr ⟨ho, hb⟩
  | and => exact Nat.and_lt_two_pow _ hb
  | or => exact Nat.or_lt_two_pow ho hb
  | xor => exact Nat.xor_lt_two_pow ho hb
  | exch => exact hb
  | incw => simp only [intAtom]; split <;> omega

end

/-- Settles O31, by the value that each integer operation computes. -/
theorem atomicOperations : Obligations.AtomicOperations := by
  intro a old hn ho hb hnew
  refine ⟨fun hc => ?_, fun hc => ?_, fun x hx hf => ?_⟩
  · rw [after_cas hc]
    exact ⟨fun h => if_pos h, fun h => if_neg h⟩
  · refine ⟨fun h => after_int hc h, fun h => after_int hc h, fun h => after_int hc h, fun h => after_int hc h, fun h => after_int hc h,
      fun h => after_int hc h, fun h => after_int hc h, fun h => ⟨fun h4 => ?_, fun h8 => ?_⟩, fun h => ⟨fun h4 => ?_, fun h8 => ?_⟩,
      fun h => after_int hc h⟩
    · rw [h4] at ho hb
      obtain ⟨hx, hy⟩ := signed_word ho hb
      rw [after_int hc h, h4, intAtom_minI, ← hx, ← hy]
    · rw [h8] at ho
      obtain ⟨hx, hy⟩ := signed_dword ho a.opnd
      rw [after_int hc h, h8, intAtom_minI, ← hx, ← hy]
    · rw [h4] at ho hb
      obtain ⟨hx, hy⟩ := signed_word ho hb
      rw [after_int hc h, h4, intAtom_maxI, ← hx, ← hy]
    · rw [h8] at ho
      obtain ⟨hx, hy⟩ := signed_dword ho a.opnd
      rw [after_int hc h, h8, intAtom_maxI, ← hx, ← hy]
  · cases hc : a.cas with
    | true =>
      rw [after_cas hc] at hx
      split at hx <;> cases hx
      exact hnew
    | false =>
      cases hop : a.op with
      | int op =>
        rw [after_int hc hop] at hx
        cases hx
        exact intAtom_lt ho hb
      | flt f =>
        rw [hf f hop] at hc
        cases hc

/-! ### Barriers (R252 to R260) -/

section
variable {s u : State} {g : Guard} {r : Ref} {clu : Bool} {n : Nat}

/-- A change of a thread that leaves its wait leaves the waiters of a barrier. -/
theorem any_isWaiter_upd (s : State) (q : Ref) {f : Thread → Thread} (hf : ∀ t, (f t).park = t.park ∧ (f t).live = t.live ∧ (f t).gid = t.gid) :
    (s.upd q f).threads.any ((s.upd q f).isWaiter r clu n) = s.threads.any (s.isWaiter r clu n) := by
  have hw : (fun t => (s.upd q f).isWaiter r clu n (if t.is q then f t else t)) = s.isWaiter r clu n := by
    funext t
    obtain ⟨hp, hl, hg⟩ := hf t
    split
    · show ((f t).park == .bar clu n && (f t).live && s.party (f t).gid clu == s.party r.1 clu) = _
      rw [hp, hl, hg]
      rfl
    · rfl
  show (s.threads.map _).any _ = _
  rw [List.any_map]
  exact congrArg s.threads.any hw

theorem binitStatus_upd (s : State) (q : Ref) {f : Thread → Thread} (e : Nat)
    (hf : ∀ t, (f t).park = t.park ∧ (f t).live = t.live ∧ (f t).gid = t.gid) :
    (s.upd q f).binitStatus r clu n e = s.binitStatus r clu n e := by
  have hw := any_isWaiter_upd (r := r) (clu := clu) (n := n) s q hf
  unfold State.binitStatus
  rw [hw]
  rfl

theorem binitStatus_moved (s : State) (r q : Ref) (clu : Bool) (n e : Nat) : (s.moved q).binitStatus r clu n e = s.binitStatus r clu n e :=
  binitStatus_upd s q e (fun _ => ⟨rfl, rfl, rfl⟩)

theorem binitStatus_pushLoad (s : State) (r q : Ref) (l : LoadOp) (clu : Bool) (n e : Nat) :
    (s.pushLoad q l).binitStatus r clu n e = s.binitStatus r clu n e := binitStatus_upd s q e (fun _ => ⟨rfl, rfl, rfl⟩)

@[simp] theorem moved_barLeft (s : State) (r q : Ref) (clu : Bool) (n : Nat) : ((s.moved r).thread q).barLeft clu n = (s.thread q).barLeft clu n := by
  rw [Thread.barLeft, Thread.barLeft, moved_thread_stores, moved_thread_loads]

theorem exec_binit (h : Runs s g r u) (n : BitVec 6) (d : Reg) (b : Src) {e : Nat} (he : e = (s.val32 (s.thread r) b).toNat) :
    exec (.binit g clu n d b) s = .next (if (s.thread r).barLeft clu n.toNat then u.pushLoad r (.binit d clu n.toNat e) else
      (u.pushLoad r (.value d [BitVec.ofNat 32 (s.binitStatus r clu n.toNat e)])).binitDo r clu n.toNat e) := by
  have hb : (u.src32 r b).toNat = e := by rw [h.2, moved_src32 h.alone, he]
  have hl : (u.thread r).barLeft clu n.toNat = (s.thread r).barLeft clu n.toNat := by rw [h.2, moved_barLeft]
  have hs : u.binitStatus r clu n.toNat e = s.binitStatus r clu n.toNat e := by rw [h.2, binitStatus_moved]
  show Host.Outcome.next (s.each g _) = _
  rw [h.each, hb, State.binit, hl, hs]

theorem binitDo_refused {e : Nat} (h : s.binitStatus r clu n e ≠ 0) : s.binitDo r clu n e = s := by
  rw [State.binitDo, if_pos h]

theorem binitDo_free {e : Nat} (h : s.binitStatus r clu n e = 0) (hb : s.barOf r clu n = none) :
    s.binitDo r clu n e = s.addBar r clu { n := n, owner := (s.party r.1 clu).getD 0, exp := e, cnt := 0, ph := false } := by
  rw [State.binitDo, if_neg (not_not.mpr h), hb]

theorem binitDo_owned {e : Nat} {x : Bar} (h : s.binitStatus r clu n e = 0) (hb : s.barOf r clu n = some x) :
    s.binitDo r clu n e = s.setBar r clu { x with exp := e } := by
  rw [State.binitDo, if_neg (not_not.mpr h), hb]

theorem exec_bqry (h : Runs s g r u) (n : BitVec 6) (d : Reg) :
    exec (.bqry g clu n d) s = .next (if (s.thread r).barLeft clu n.toNat then u.pushLoad r (.bqry d clu n.toNat) else
      (if s.bqryFree r clu n.toNat then u.drawn else u).pushLoad r (.value d [s.bqryVal r clu n.toNat])) := by
  have hl : (u.thread r).barLeft clu n.toNat = (s.thread r).barLeft clu n.toNat := by rw [h.2, moved_barLeft]
  have hv : u.bqryFree r clu n.toNat = s.bqryFree r clu n.toNat ∧ u.bqryVal r clu n.toNat = s.bqryVal r clu n.toNat := by rw [h.2]; exact ⟨rfl, rfl⟩
  show Host.Outcome.next (s.each g _) = _
  rw [h.each, State.bqry, hl, hv.1, hv.2]

/-- A free barrier reads with no owner and no counts: the phase alone is free. -/
theorem phase_only (b : Bool) : (boolW b <<< 31) &&& 0x7FFFFFFF = 0 := by cases b <;> decide

end

theorem barrierSetup : Claim.BarrierSetup := by
  intro s g r u clu n d b e h he
  refine ⟨fun hl => ?_, fun hl => ?_⟩
  · have hno := Bool.eq_false_iff.mp hl
    have hst : ∀ l, (u.pushLoad r l).binitStatus r clu n.toNat e = s.binitStatus r clu n.toNat e := fun l => by
      rw [binitStatus_pushLoad, h.2, binitStatus_moved]
    have hbar : ∀ l, (u.pushLoad r l).barOf r clu n.toNat = s.barOf r clu n.toNat := fun l => by rw [h.2]; rfl
    have hparty : ∀ l, (u.pushLoad r l).party r.1 clu = s.party r.1 clu := fun l => by rw [h.2]; rfl
    refine ⟨fun h0 => ?_, fun h0 hx => ?_, fun x h0 hx => ?_, fun x hp hx => ?_, fun hp hx => ?_, fun hp => ?_⟩
    · rw [exec_binit h n d b he, if_neg hno, binitDo_refused ((hst _).symm ▸ h0)]
    · rw [exec_binit h n d b he, if_neg hno, binitDo_free ((hst _).trans h0) ((hbar _).trans hx), hparty, h0]
      rfl
    · rw [exec_binit h n d b he, if_neg hno, binitDo_owned ((hst _).trans h0) ((hbar _).trans hx), h0]
      rfl
    · rw [exec_bqry h, if_neg hno, if_neg (by simp [State.bqryFree, hp, hx]), State.bqryVal, hp, hx]
      rfl
    · refine ⟨boolW (s.freeVal.getLsbD 0) <<< 31, ?_, phase_only _⟩
      rw [exec_bqry h, if_neg hno, if_pos (by simp [State.bqryFree, hx]), State.bqryVal, hp, hx]
      rfl
    · exact ⟨_, by rw [exec_bqry h, if_neg hno, if_pos (by simp [State.bqryFree, hp])]⟩
  · rw [exec_binit h n d b he, exec_bqry h, if_pos hl, if_pos hl]
    exact ⟨rfl, rfl⟩

section
variable {s u : State} {g : Guard} {r : Ref} {clu : Bool}

theorem exec_barv (h : Runs s.bump g r u) (n : BitVec 6) (d : Reg) :
    exec (.barv g clu n d) s = .next (u.barv s.serial r clu n.toNat false (some d)) := by
  show Host.Outcome.next (s.bump.each g _) = _
  rw [h.each]

theorem exec_bsync (h : Runs s.bump g r u) (n : BitVec 6) :
    exec (.bsync g clu n) s = .next (u.barv s.serial r clu n.toNat true none) := by
  show Host.Outcome.next (s.bump.each g _) = _
  rw [h.each]

theorem exec_bwait (h : Runs s g r u) (n : BitVec 6) (a : Reg) : exec (.bwait g clu n a) s = .next (u.bwait r clu n.toNat a) :=
  congrArg Host.Outcome.next (h.each _)

end

theorem barrierArrivals : Claim.BarrierArrivals := by
  refine ⟨fun s g r u clu n h => ⟨fun x hx => ?_, fun hx => ?_⟩, fun s g r u clu n a tok h htok => ?_⟩
  · have hmy : u.myBar r clu n.toNat = some x := by rw [h.2]; exact hx
    refine ⟨fun d => ?_, ?_⟩
    · rw [exec_barv h, State.barv, hmy]
      rfl
    · rw [exec_bsync h, State.barv, hmy]
      rfl
  · have hmy : u.myBar r clu n.toNat = none := by rw [h.2]; exact hx
    refine ⟨fun d => ?_, ?_⟩
    · rw [exec_barv h, State.barv, hmy]
    · rw [exec_bsync h, State.barv, hmy]
  · have hmy : u.myBar r clu n.toNat = s.myBar r clu n.toNat := by rw [h.2, moved_get_myBar]
    have hl : (u.thread r).barLeft clu n.toNat = (s.thread r).barLeft clu n.toNat := by rw [h.2, moved_barLeft]
    have hrd : (u.rd r a).getLsbD 0 = tok := by rw [h.2, moved_rd, htok]
    rw [exec_bwait h, State.bwait, hmy]
    refine ⟨fun x hx => ?_, fun hx => by rw [hx]⟩
    rw [hx]
    dsimp only
    rw [hl, hrd]
    refine ⟨fun hb hp => ?_, fun hb hp => ?_, fun hb => ?_⟩
    · rw [if_neg (Bool.eq_false_iff.mp hb), if_neg hp]
    · rw [if_neg (Bool.eq_false_iff.mp hb), if_pos hp]
    · rw [if_pos hb]

/-- Settles O32, by the status of BINIT and the owner of a barrier. -/
theorem barriers : Obligations.Barriers := ⟨barrierSetup, barrierArrivals⟩

/-! ### Fences (R282 to R286) -/

section
variable {s u v : State} {g : Guard} {r : Ref} {sc : Scope}

theorem MemorySide.repair (h : MemorySide s v) : v.repair = s.repair := by rw [h]

/-- Without a repair no write waits for one. -/
theorem repairDue_none (h : s.repair = []) : s.repairDue = false := by
  simp [State.repairDue, State.bufRepair, h]

theorem settled_iff (t : Thread) : t.settled = true ↔ t.loads = [] ∧ t.stores = [] := by
  simp [Thread.settled]

theorem exec_fence (h : Runs s g r u) (k : FKind) : exec (.fence g k sc) s =
    .next (if (u.release r sc).fenceMet r k sc then u.release r sc else (u.release r sc).parkAs r (.fence k sc)) :=
  congrArg Host.Outcome.next (h.each _)

/-- What a release makes visible leaves the thread as it was. -/
theorem released_ops (h : Runs s g r u) (sc : Scope) :
    ((u.release r sc).thread r).loads = (s.thread r).loads ∧ ((u.release r sc).thread r).stores = (s.thread r).stores := by
  rw [(release_side u r sc).thread, h.2, moved_thread_loads, moved_thread_stores]
  exact ⟨rfl, rfl⟩

/-- A fence of cluster scope or wider waits for a repair. -/
theorem released_due (h : Runs s g r u) (hr : sc.num < 4 ∨ s.repair = []) : (decide (4 ≤ sc.num) && (u.release r sc).repairDue) = false := by
  rcases hr with hn | hr
  · simp [Nat.not_le.mpr hn]
  · rw [repairDue_none (by rw [(release_side u r sc).repair, h.2]; exact hr), Bool.and_false]

theorem fenceMet_acq (h : Runs s g r u) :
    (u.release r sc).fenceMet r .acq sc = !(s.thread r).loads.any LoadOp.unperformed := by
  show (!((u.release r sc).thread r).loads.any LoadOp.unperformed) = _
  rw [(released_ops h sc).1]

theorem fenceMet_other (h : Runs s g r u) {k : FKind} (hk : k ≠ .acq) : (u.release r sc).fenceMet r k sc =
    (((s.thread r).loads.isEmpty && (s.thread r).stores.isEmpty) && !(decide (4 ≤ sc.num) && (u.release r sc).repairDue)) := by
  obtain ⟨hl, hs⟩ := released_ops h sc
  rw [← hl, ← hs]
  cases k with
  | acq => exact absurd rfl hk
  | rel | ar | sc => rfl

theorem exec_lfence (h : Runs s g r u) {v : State} (hv : v = u.writeBack (s.partOf r) (s.coreOf r) 0x1000000000000 0x1000100000000) :
    exec (.lfence g) s = .next (if (!((s.thread r).stores.any StoreOp.toLayer) && !((s.thread r).loads.any LoadOp.toLayer) && !(v.repairOwn r)) = true
      then v else v.parkAs r .lfence) := by
  have hf : u.layerFlush r = v := by rw [hv, State.layerFlush, h.2]; rfl
  have ht : v.thread r = u.thread r := by rw [hv, (writeBack_side _ _ _ _ _).thread]
  have hops : (v.thread r).loads = (s.thread r).loads ∧ (v.thread r).stores = (s.thread r).stores := by
    rw [ht, h.2, moved_thread_loads, moved_thread_stores]
    exact ⟨rfl, rfl⟩
  show Host.Outcome.next (s.each g _) = _
  rw [h.each, State.lfence, hf, State.lfenceMet, hops.1, hops.2]

theorem repairOwn_none (h : s.repair = []) : s.repairOwn r = false := by
  simp [State.repairOwn, State.bufRepair, h]

theorem exec_lfenceArray (h : Runs s g r u) {b : Src} {n : Nat} (mask : BitVec 5) (hn : n = (s.val32 (s.thread r) b).toNat) (hlt : n < 128)
    (hc : (s.part (s.partOf r)).clusters.getLsbD (n / 8) = true) {bufs : List Nat}
    (hb : bufs = (arrayBufs n mask).filter (fun x => !(s.gated.contains (bufEngine x)) && (s.buffered.contains x || s.bufRepair x))) :
    exec (.lfenceArray g b mask) s = .next (if bufs.isEmpty then u else u.parkAs r (.lfenceArray bufs)) := by
  have hs : (u.src32 r b).toNat = n := by rw [h.2, moved_src32 h.alone, hn]
  have hu : (u.part (u.partOf r)).clusters.getLsbD (clusterOfCore n) = true := by rw [h.2]; exact hc
  have hbu : (arrayBufs n mask).filter (fun x => !(u.gated.contains (bufEngine x)) && (u.buffered.contains x || u.bufRepair x)) = bufs := by
    rw [hb, h.2]
    rfl
  show Host.Outcome.next (s.each g _) = _
  rw [h.each, hs, State.lfenceArray, if_neg (by simp [hu, hlt]), hbu]

theorem exec_efence (h : Runs s g r u) (mx : Bool) : exec (.efence g mx sc) s =
    .next (if (u.efenceMet r mx && !(decide (4 ≤ sc.num) && (u.release r sc).repairDue)) = true then u.release r sc else u.parkAs r (.efence mx sc)) := by
  show Host.Outcome.next (s.each g _) = _
  rw [h.each, State.efence, State.efenceDone]
  show Host.Outcome.next (Option.getD (if (u.efenceMet r mx && !(decide (4 ≤ sc.num) && (u.release r sc).repairDue)) = true then some (u.release r sc)
    else none) _) = _
  split <;> rfl

theorem efenceMet_iff (h : Runs s g r u) (mx : Bool) : u.efenceMet r mx = true ↔
    s.ccOf r = 0 ∧ (mx = true → s.tcOf r.1 = 0) ∧ (s.thread r).loads = [] ∧ (s.thread r).stores = [] := by
  have hcc : u.ccOf r = s.ccOf r ∧ u.tcOf r.1 = s.tcOf r.1 := by rw [h.2]; exact ⟨moved_get_ccOf _ _ _, moved_get_tcOf _ _ _⟩
  have ht : (u.thread r).settled = true ↔ (s.thread r).loads = [] ∧ (s.thread r).stores = [] := by
    rw [settled_iff, h.2, moved_thread_loads, moved_thread_stores]
  rw [State.efenceMet, hcc.1, hcc.2, Bool.and_eq_true, ht, Bool.and_eq_true, decide_eq_true_iff, and_assoc]
  cases mx <;> simp

end

/-- Settles O33, by what each kind of fence waits for. -/
theorem fences : Obligations.Fences := by
  intro s g r u sc h
  refine ⟨fun hl => ?_, fun hl => ?_, fun k hl hs hr => ?_, fun k hk hls => ?_, fun hl hs hr => ?_, fun hls => ?_, fun b mask n hn hlt hc => ?_,
    fun hl hs hcc hr => ?_, fun mx hcc => ?_⟩
  · rw [exec_fence h, fenceMet_acq h, if_pos]
    simpa using hl
  · rw [exec_fence h, fenceMet_acq h, if_neg]
    simpa using hl
  · rw [exec_fence h]
    by_cases hk : k = .acq
    · rw [hk, fenceMet_acq h, hl]
      rfl
    · rw [fenceMet_other h hk, released_due h hr, hl, hs]
      rfl
  · rw [exec_fence h, fenceMet_other h hk, if_neg]
    simp only [Bool.and_eq_true, List.isEmpty_iff]
    rintro ⟨⟨h1, h2⟩, -⟩
    exact hls.elim (fun x => x h1) (fun x => x h2)
  · rw [exec_lfence h rfl, if_pos]
    rw [repairOwn_none (by rw [(writeBack_side _ _ _ _ _).repair, h.2]; exact hr), List.any_eq_false.mpr (fun o ho => by simp [hs o ho]),
      List.any_eq_false.mpr (fun o ho => by simp [hl o ho])]
    rfl
  · rw [exec_lfence h rfl, if_neg]
    simp only [Bool.and_eq_true, Bool.not_eq_true', List.any_eq_false]
    rintro ⟨⟨h1, h2⟩, -⟩
    rcases hls with ⟨o, ho, hx⟩ | ⟨o, ho, hx⟩
    · exact absurd hx (h2 o ho)
    · exact absurd hx (h1 o ho)
  · rw [exec_lfenceArray h mask hn hlt hc rfl]
    refine ⟨fun hb hr => ?_, fun hne => ?_⟩
    · rw [if_pos]
      simp [hb, hr, State.bufRepair]
    · rw [if_neg (by simpa using hne)]
  · have hdue := released_due h hr
    refine ⟨?_, fun htc => ?_⟩
    · rw [exec_efence h, (efenceMet_iff h false).mpr ⟨hcc, by simp, hl, hs⟩, hdue]
      rfl
    · rw [exec_efence h, (efenceMet_iff h true).mpr ⟨hcc, fun _ => htc, hl, hs⟩, hdue]
      rfl
  · rw [exec_efence h, if_neg]
    rw [Bool.and_eq_true, efenceMet_iff h]
    exact fun hx => hcc hx.1.1

end Sys2Proof.Machine
end

section
/-! Stream commands, matrix streams, the ladder and recurrences (13, 14, 15). -/

namespace Sys2Proof.Machine

/-! ### The issue of a command (R289, R295) -/

section
variable {s : State} {g idx : Nat} {m : Stream} {k : Cmd} {total : Nat} {check : State → Nat → Stream → Option Nat}
  {f : State → Nat → Stream → State}

theorem cmdAt_eq (hc : s.command = some (g, idx)) : s.cmdAt = (g, idx) := by rw [State.cmdAt, hc]; rfl

/-- A command whose check passes has its effect and enters its rows; no effect takes time. -/
theorem runCmd_passes (hc : s.command = some (g, idx)) (hm : s.streamOf g = some m) (hk : check s g m = none)
    (hnow : (f s g m).now = s.now) : s.runCmd k total check f = (f s g m).entering g idx total := by
  rw [State.runCmd, cmdAt_eq hc]
  dsimp only
  rw [hm]
  dsimp only
  rw [hk]
  dsimp only
  rw [State.entering, hnow]

/-- One whose check fails faults its stream. -/
theorem runCmd_fails {c : Nat} (hc : s.command = some (g, idx)) (hm : s.streamOf g = some m) (hk : check s g m = some c) :
    s.runCmd k total check f = s.streamFault g c k.id.toNat := by
  rw [State.runCmd, cmdAt_eq hc]
  dsimp only
  rw [hm]
  dsimp only
  rw [hk]

theorem failIf_false {b : Bool} (h : b = false) : failIf b = none := by rw [h]; rfl

end

/-! ### No effect takes time -/

theorem foldl_now {α : Type} {f : State → α → State} (hf : ∀ s a, (f s a).now = s.now) (l : List α) (s : State) : (l.foldl f s).now = s.now := by
  induction l generalizing s with
  | nil => rfl
  | cons a l ih => exact (ih _).trans (hf s a)

theorem setRows_now (s : State) (a : Allot) (row n : Nat) (f : State → Nat → Nat → Nat) : (s.setRows a row n f).now = s.now := by
  unfold State.setRows
  refine foldl_now (fun s r => ?_) _ s
  refine foldl_now (fun s c => ?_) _ s
  rfl

theorem mstrRows_now (s : State) (g : Nat) (m : Stream) (t : BitVec 7) (n row0 rows : Nat) : (s.mstrRows g m t n row0 rows).now = s.now := by
  unfold State.mstrRows
  split
  · rfl
  · exact foldl_now (fun s _ => setRows_now s _ _ _ _) _ s

theorem mepiBlock_now (s : State) (a : Allot) (rcd : List Word) (n : Nat) (vs : List Nat) : (s.mepiBlock a rcd n vs).now = s.now := by
  unfold State.mepiBlock
  dsimp only
  split <;> split <;> rfl

theorem mepi_now (s : State) (g : Nat) (m : Stream) (fn : EpiFn) (t p : BitVec 7) (n orow rows : Nat) :
    (s.mepi g m fn t p n orow rows).now = s.now := by
  unfold State.mepi
  split
  · rfl
  · exact foldl_now (fun s _ => mepiBlock_now s _ _ _ _) _ s

theorem tickBar_now (s : State) (r : Ref) (clu : Bool) (n : Nat) (b : Bar) : (s.tickBar r clu n b).now = s.now := by
  have hset : ∀ x : Bar, (s.setBar r clu x).now = s.now := fun x => by
    unfold State.setBar
    split <;> rfl
  have hflip : ∀ v : State, (v.flipStream r.1 clu n).now = v.now := fun v => by
    unfold State.flipStream
    split <;> rfl
  unfold State.tickBar
  split
  · rw [hflip]
    exact hset _
  · exact hset _

theorem mscanCol_now (a : Allot) (th ta tb c left : Nat) (s : State) (r h : Nat) : (s.mscanCol a th ta tb c left r h).2.now = s.now := by
  induction left generalizing s r h with
  | zero => rfl
  | succ left ih => exact (ih _ _ _).trans rfl

theorem mscan_now (s : State) (a : Allot) (rst : Bool) (th ta tb tc rows : Nat) : (s.mscan a rst th ta tb tc rows).now = s.now := by
  unfold State.mscan
  refine foldl_now (fun s c => ?_) _ s
  exact mscanCol_now a th ta tb c rows s 0 _

section
variable (s : State) (k : Cmd) (t : BitVec 7) (n : BitVec 5) (row0 : BitVec 16) (c : BitVec 10)

theorem exec_mstr : exec (.mstr k false t n row0 c) s = .next (s.runCmd k (c.toNat + 1)
    (fun s g x => failIf (s.mstrBad g x t n.toNat row0.toNat (c.toNat + 1)))
    (fun s g x => s.mstrRows g x t n.toNat row0.toNat (c.toNat + 1))) := rfl

theorem exec_mstr_lad : exec (.mstr k true t n row0 c) s = .next (s.runCmd k (Nat.min 16 (c.toNat + 1))
    (fun s g x => failIf (s.mstrBad g x t n.toNat row0.toNat (c.toNat + 1) || s.ladBad g x n.toNat))
    (fun s g _ => s.updStream g (fun x =>
      x.updCmd s.cmdAt.2 (fun c => { c with prog := some { tile := 0, rung := 0, topped := false } })))) := rfl

end

/-- Settles O34: a command whose check passes has its effect, none of which takes time, and enters its rows. -/
theorem streamCommands : Obligations.StreamCommands := by
  intro s g idx m k hc hm
  have hidx : s.cmdAt.2 = idx := by rw [cmdAt_eq hc]
  refine ⟨fun bank fmt sk bl off h => ?_, ?_, fun t n row0 c h => ⟨?_, fun hl => ?_⟩, fun t c h => ⟨?_, fun off hoff => ⟨?_, ?_⟩⟩,
    fun fn t p n orow c h => ?_, fun all n x hx => ⟨?_, ?_⟩, ?_, fun ts tu tc cb wr wd => ?_, fun rst th ta tb tc c h => ?_⟩
  · refine congrArg Host.Outcome.next ((runCmd_passes hc hm (failIf_false ?_) rfl).trans ?_)
    · rw [hidx, h]
      rfl
    · rw [hidx]
  · exact congrArg Host.Outcome.next (runCmd_passes hc hm rfl rfl)
  · rw [exec_mstr]
    exact congrArg Host.Outcome.next (runCmd_passes hc hm (failIf_false h) (mstrRows_now s g m t n.toNat row0.toNat (c.toNat + 1)))
  · rw [exec_mstr_lad]
    refine congrArg Host.Outcome.next ((runCmd_passes hc hm (failIf_false ?_) rfl).trans ?_)
    · rw [h, hl]
      rfl
    · rw [hidx]
  · exact congrArg Host.Outcome.next (runCmd_passes hc hm (failIf_false (by simp [Stream.rowsIn, ← Nat.add_assoc, h])) rfl)
  · exact congrArg Host.Outcome.next (runCmd_passes hc hm (failIf_false (by simp [State.accBad, Stream.rowsIn, ← Nat.add_assoc, h, hoff])) rfl)
  · exact congrArg Host.Outcome.next (runCmd_passes hc hm (failIf_false (by simp [State.accBad, Stream.rowsIn, ← Nat.add_assoc, h, hoff])) rfl)
  · exact congrArg Host.Outcome.next (runCmd_passes hc hm (failIf_false h) (mepi_now s g m fn t p n.toNat orow.toNat (c.toNat + 1)))
  · have he : s.mbarArrive g n.toNat = s.tickBar (g, 0) false n.toNat x := by rw [State.mbarArrive, hx]
    rw [← he]
    exact congrArg Host.Outcome.next (runCmd_passes hc hm (by simp [State.cmdBarCheck, hx]) (by rw [he, tickBar_now]))
  · exact congrArg Host.Outcome.next (runCmd_passes hc hm (by simp [State.cmdBarCheck, hx]) rfl)
  · exact congrArg Host.Outcome.next (runCmd_passes hc hm rfl rfl)
  · exact congrArg Host.Outcome.next (runCmd_passes hc hm rfl rfl)
  · exact congrArg Host.Outcome.next (runCmd_passes hc hm (failIf_false h)
      (mscan_now s (s.allotOf g m) rst th.toNat ta.toNat tb.toNat tc.toNat (c.toNat + 1)))

/-! ### Starting a stream, and its faults (R295, R298, R299) -/

section
variable {s u : State} {g : Guard} {r : Ref} {d a : Reg} {b : Src} {at_ : DWord} {n : Nat}

theorem exec_mxrun (h : Runs s g r u) (hat : at_ = (s.thread r).pair a) (hn : n = (s.val32 (s.thread r) b).toNat) :
    exec (.mxrun g d a b) s = .next (if s.owes r then u.heldBack r else s.mxrun u r d at_ n) := by
  have hp : u.rd64 r a = at_ := by rw [h.2, moved_rd64, hat]
  have hb : (u.src32 r b).toNat = n := by rw [h.2, moved_src32 h.alone, hn]
  show Host.Outcome.next (s.eachAfter g _ _) = _
  rw [h.after, hp, hb]

/-- The core of the one thread has as many streams as its bundle found. -/
theorem mxrun_moved (h : Runs s g r u) : s.mxrun u r d at_ n =
    if 4 ≤ (s.streamsOn (s.coreOf r) (s.partOf r)).length then u.parkAs r (.mxrun d at_ n) else u.mxrunDone r d at_ n := by
  have hu : u.mxFull r.1 = s.mxFull r.1 := by rw [h.2]; rfl
  have hs : s.mxFull r.1 = decide (4 ≤ (s.streamsOn (s.coreOf r) (s.partOf r)).length) := rfl
  rw [State.mxrun, hu, hs]
  by_cases hf : 4 ≤ (s.streamsOn (s.coreOf r) (s.partOf r)).length <;> simp [hf]

theorem mxrunDone_started {base : Nat} (h : u.mxrunStatus r.1 at_ n = (0, base)) : u.mxrunDone r d at_ n =
    { (u.put r d 0).updGroup r.1 (fun x => { x with stream := some (Stream.start r.2 at_ n base) }) with
      mem := u.mem.clear (locAcc (u.coreOf r) (u.partOf r) (base * 2048)) (n * 2048) } := by
  rw [State.mxrunDone, h]
  rfl

theorem mxrunDone_refused {st base : Nat} (hst : st ≠ 0) (h : u.mxrunStatus r.1 at_ n = (st, base)) :
    u.mxrunDone r d at_ n = u.put r d (BitVec.ofNat 32 st) := by
  rw [State.mxrunDone, h]
  dsimp only
  rw [if_pos hst]

/-- The reading of MXQ. -/
def State.mxWord (s : State) (g : Nat) : Word := ((s.streamOf g).map Stream.word).getD 0

theorem exec_mxq (h : Runs s g r u) : exec (.mxq g d) s = .next (u.put r d (s.mxWord r.1)) := by
  have hs : u.streamOf r.1 = s.streamOf r.1 := by rw [h.2, moved_get_streamOf]
  show Host.Outcome.next (s.each g _) = _
  rw [h.each, hs, State.mxWord]
  cases s.streamOf r.1 <;> rfl

end

theorem streamStart : Claim.StreamStart := by
  intro s g r u d a b at_ n h hat hn
  have hstat : u.mxrunStatus r.1 at_ n = s.mxrunStatus r.1 at_ n := by rw [h.2, moved_get_mxrunStatus]
  refine ⟨fun ho => ?_, fun ho => ?_, fun hm => ?_, fun m hm => ?_⟩
  · rw [exec_mxrun h hat hn, if_pos ho]
  · rw [exec_mxrun h hat hn, if_neg (Bool.eq_false_iff.mp ho), mxrun_moved h]
    refine ⟨fun hf => ⟨fun base hb => ?_, fun st base hst hb => ?_⟩, fun hf => ?_⟩
    · rw [if_neg (Nat.not_le.mpr hf), mxrunDone_started (hstat.trans hb), h.2]
      rfl
    · rw [if_neg (Nat.not_le.mpr hf), mxrunDone_refused hst (hstat.trans hb)]
    · rw [if_pos hf]
  · rw [exec_mxq h, State.mxWord, hm]
    rfl
  · rw [exec_mxq h, State.mxWord, hm]
    rfl

section
variable {s : State} {g : Nat} {m : Stream}

/-- A group's stream after a change of it. -/
theorem updStream_streamOf (hm : s.streamOf g = some m) (f : Stream → Stream) : (s.updStream g f).streamOf g = some (f m) := by
  obtain ⟨x, hx⟩ : ∃ x, s.groups.find? (fun x => x.gid == g) = some x := by
    cases h : s.groups.find? (fun x => x.gid == g) with
    | none => simp [State.streamOf, State.group, h, Group.none] at hm
    | some x => exact ⟨x, rfl⟩
  have hxm : x.stream = some m := by simpa [State.streamOf, State.group, hx] using hm
  have hu := find?_map_key (fun x => x.gid == g) (fun x : Group => { x with stream := x.stream.map f }) s.groups (fun _ => rfl)
  show (((s.groups.map _).find? _).getD Group.none).stream = _
  rw [hu, hx]
  simp [hxm]

theorem streamFault_streamOf (hm : s.streamOf g = some m) (c fid : Nat) : (s.streamFault g c fid).streamOf g =
    some { m with fault := some fid, window := m.window.filter (fun x => x.issued) } := by
  have hu := updStream_streamOf hm (fun m => { m with fault := some fid, window := m.window.filter (fun x => x.issued) })
  rw [← hu, State.streamFault, hm]
  dsimp only [State.streamCause]
  cases State.streamThread _ g m.owner <;> rfl

end

theorem streamFaults : Claim.StreamFaults := by
  intro s g idx m k hc hm
  refine ⟨fun t c h => ?_, fun all n hn => ?_, fun x hx => ?_⟩
  · have hrows : m.rowsIn t (c.toNat + 1) = false := by
      simp only [Stream.rowsIn, decide_eq_false_iff_not]
      omega
    exact congrArg Host.Outcome.next (runCmd_fails hc hm (by rw [hrows]; rfl))
  · exact congrArg Host.Outcome.next (runCmd_fails hc hm (by simp [State.cmdBarCheck, hn]))
  · rw [streamFault_streamOf hm] at hx
    cases hx
    exact ⟨rfl, rfl⟩

/-- Settles O35, by the status of MXRUN and the check of a command. -/
theorem matrixStreams : Obligations.MatrixStreams := ⟨streamStart, streamFaults⟩

/-! ### Counters, carries and steps (R324, R330, R332) -/

/-- Two registers written one after the other. -/
theorem put_put (s : State) (r : Ref) (d e : Reg) (x y : Word) :
    (s.put r d x).put r e y = s.upd r (fun t => (t.setReg d x).setReg e y) := by
  rw [State.put_eq, State.put_eq]
  exact upd_upd s r _ _ (fun _ => rfl)

/-- The new pair of STEPK for a thread, and its flags. -/
def stepkOf (ftz : Bool) (d a : Reg) (b : Src) (s : State) (t : Thread) : Word × Word × Fl :=
  stepkF ftz (t.reg d) (t.reg (d + 1)) (t.reg a) (s.valF t b)

theorem stepk_floatwise (g : Guard) (ftz : Bool) (d a : Reg) (b : Src) : Floatwise (.stepk g ftz d a b) g (fun s t =>
    ((t.setReg d (stepkOf ftz d a b s t).1).setReg (d + 1) (stepkOf ftz d a b s t).2.1, (stepkOf ftz d a b s t).2.2)) := by
  refine change_floatwise
    (ch := fun s r t => (t.setReg d (stepkF ftz (s.rd r d) (s.rd r (d + 1)) (s.rd r a) (s.srcF r b)).1).setReg (d + 1)
      (stepkF ftz (s.rd r d) (s.rd r (d + 1)) (s.rd r a) (s.srcF r b)).2.1)
    (fl := fun s r => (stepkF ftz (s.rd r d) (s.rd r (d + 1)) (s.rd r a) (s.srcF r b)).2.2)
    (fun s => congrArg (fun f => Host.Outcome.next (s.each g f)) ?_) (fun _ _ => rfl) (fun s t pc => ?_) (fun l => ?_)
  · funext s r
    dsimp only
    rw [put_put]
  · cases b <;> rfl
  · rw [l.rd, l.rd, l.rd, l.srcF]
    exact ⟨rfl, rfl⟩

theorem countersCarriesAndSteps : Claim.CountersCarriesAndSteps := by
  refine ⟨fun s g r u h => ⟨fun d sel => ?_, fun b => ?_, fun slot d => ?_, fun slot b => ?_⟩, fun g ftz d a b => ?_⟩
  · show Host.Outcome.next (s.each g _) = _
    rw [h.each, show u.ctxOf r = s.ctxOf r by rw [h.2, moved_get_ctxOf]]
  · show Host.Outcome.next (s.each g _) = _
    rw [h.each, show u.src32 r b = s.val32 (s.thread r) b by rw [h.2, moved_src32 h.alone]]
  · show Host.Outcome.next (s.each g _) = _
    rw [h.each, show u.waveOf r = s.waveOf r by rw [h.2, moved_get_waveOf]]
  · show Host.Outcome.next (s.each g _) = _
    rw [h.each, show u.src32 r b = s.val32 (s.thread r) b by rw [h.2, moved_src32 h.alone]]
    rfl
  · exact stepk_floatwise g ftz d a b

/-! ### The scan of a wave (R328) -/

/-- The record of a wave whose slot was set. -/
theorem setCarry_waves {s : State} {r : Ref} {slot : Nat} {x : Word} {w : Wave} (hw : w ∈ (s.setCarry r slot x).waves) (hg : w.gid = r.1)
    (hi : w.wid = s.widOf r) (hs : slot < w.carry.length) : w.carry.getD slot 0 = x := by
  obtain ⟨y, -, rfl⟩ := List.mem_map.mp hw
  by_cases hy : (y.gid == r.1 && y.wid == s.widOf r) = true
  · rw [if_pos hy] at hs ⊢
    have hlt : slot < y.carry.length := by simpa using hs
    simp [hlt]
  · rw [if_neg hy] at hg hi
    exact absurd (by simp [hg, hi]) hy

theorem scanMeets : Claim.ScanMeets := by
  intro s g ftz rst slot d a b l hm hl
  obtain ⟨hmem, hgr, hth⟩ := cross_attended (g := g) (d := d) (m := .full) (e := fun old r => old.scanOf g ftz rst slot.toNat a b r) hm
  refine ⟨(s.cross .full g (fun old r s => s.putF r d (old.scanOf g ftz rst slot.toNat a b r))).drawn.setCarry l slot.toNat
    (s.scanOf g ftz rst slot.toNat a b l).1, ?_, hmem, fun r hr hg => ?_, fun r hr hg => ?_, fun w hw hg hi hs => ?_⟩
  · show Host.Outcome.next (if s.bnd.meeting.isSome then _ else _) = _
    rw [hm.formed, hl]
    rfl
  · exact (hth r hr).trans (if_pos hg)
  · exact (hth r hr).trans (if_neg (Bool.eq_false_iff.mp hg))
  · refine setCarry_waves hw hg (hi.trans ?_) hs
    have hgrp : ∀ v : State, v.groups = s.groups → v.widOf l = s.widOf l := fun v hv => by
      unfold State.widOf State.waveW State.group
      rw [hv]
    exact (hgrp _ hgr).symm

/-- Settles O36, by what a formed meeting with float results leaves, and the slot of the highest lane. -/
theorem ladderAndRecurrence : Obligations.LadderAndRecurrence := ⟨countersCarriesAndSteps, scanMeets⟩

end Sys2Proof.Machine
end

section
/-! Sampling: the Separator, the Vat and the row engine (16). -/

namespace Sys2Proof.Machine

/-! ### The units that serve a thread (R335) -/

section
variable {s u : State} {g : Guard} {r : Ref} {x : Display}

theorem onDisp_some (h : s.dispOf r = some x) (f : Display → State) : s.onDisp r f = f x := by rw [State.onDisp, h]

theorem onDisp_none (h : s.dispOf r = none) (f : Display → State) : s.onDisp r f = s.fail r causeAccess := by rw [State.onDisp, h]

theorem Runs.dispOf (h : Runs s g r u) : u.dispOf r = s.dispOf r := by rw [h.2, moved_get_dispOf]

/-- A number given to the bundle does not change what the thread is. -/
theorem Runs.bump (h : Runs s g r u) : Runs s.bump g r u.bump := by
  obtain ⟨ha, rfl⟩ := h
  exact ⟨⟨⟨ha.refs, ha.here, ha.live⟩, ha.holds⟩, rfl⟩

theorem sepOwed_iff : s.sepOwed r = true ↔ (s.thread r).loads.any LoadOp.acquires = true ∨ (s.thread r).stores.any StoreOp.toSep = true :=
  (Bool.or_eq_true _ _).to_iff

/-! ### PRIOW, PRIOR and SEPQ (R348, R353, R354) -/

theorem exec_priow (h : Runs s g r u) (m : SMap) (a : Reg) (b : Src) : exec (.priow g m a b) s = .next (u.bump.priow s.serial r m a b) := by
  show Host.Outcome.next (s.bump.each g _) = _
  rw [h.bump.each]

theorem exec_priowWt (h : Runs s g r u) (b : Src) : exec (.priowWt g b) s =
    .next (u.bump.onDisp r (fun _ => u.bump.pushStore r (.priowWt s.serial (s.val64 (s.thread r) b)))) := by
  have hb : u.bump.src64 r b = s.val64 (s.thread r) b := by rw [h.2]; exact moved_src64 h.alone b
  show Host.Outcome.next (s.bump.each g _) = _
  rw [h.bump.each, hb]

theorem exec_prior (h : Runs s g r u) (sel : PSel) (d a : Reg) :
    exec (.prior g sel d a) s = .next (if s.sepOwed r then u.heldBack r else u.prior r sel d a) := congrArg Host.Outcome.next (h.after _ _)

theorem exec_sepq (h : Runs s g r u) (sel : BitVec 3) (d : Reg) : exec (.sepq g sel d) s =
    .next (if s.sepOwed r then u.heldBack r else u.onDisp r (fun x => u.pushPair r d (x.query sel.toNat))) :=
  congrArg Host.Outcome.next (h.after _ _)

theorem priow_tile {w : State} {n i : Nat} {m : SMap} {a : Reg} {b : Src} (hx : w.dispOf r = some x) (ht : tileOf x.cfg (w.rd r a) = some i) :
    w.priow n r m a b = w.pushStore r (.priow n m (w.rd r a) ((w.src32 r b).setWidth 16)) := by
  rw [State.priow, onDisp_some hx, ht]

theorem priow_outside {w : State} {n : Nat} {m : SMap} {a : Reg} {b : Src} (hx : w.dispOf r = some x) (ht : tileOf x.cfg (w.rd r a) = none) :
    w.priow n r m a b = w.fail r causeAccess := by
  rw [State.priow, onDisp_some hx, ht]

/-- What PRIOR reads of a tile. -/
def Display.entry (x : Display) (sel : PSel) (i : Nat) : Nat :=
  match sel with
  | .gaze => tileGet x.gaze i
  | .mot => tileGet x.mot i
  | .err => tileGet x.err i
  | .pri => x.prio i
  | .acc => tileGet x.acc i

theorem prior_tile {i : Nat} {sel : PSel} {d a : Reg} (hx : u.dispOf r = some x) (ht : tileOf x.cfg (u.rd r a) = some i) :
    u.prior r sel d a = u.pushLoad r (.value d [BitVec.ofNat 32 (x.entry sel i)]) := by
  rw [State.prior, onDisp_some hx, ht]
  cases sel <;> rfl

theorem prior_outside {sel : PSel} {d a : Reg} (hx : u.dispOf r = some x) (ht : tileOf x.cfg (u.rd r a) = none) :
    u.prior r sel d a = u.fail r causeAccess := by
  rw [State.prior, onDisp_some hx, ht]

end

theorem separatorInstructions : Claim.SeparatorInstructions := by
  intro s g r u x d a b h hx
  have hxu : u.dispOf r = some x := h.dispOf.trans hx
  have hxb : u.bump.dispOf r = some x := hxu
  have hrd : u.rd r a = (s.thread r).reg a := by rw [h.2, moved_rd]
  have hrdb : u.bump.rd r a = (s.thread r).reg a := hrd
  have hbb : u.bump.src32 r b = s.val32 (s.thread r) b := by rw [h.2]; exact moved_src32 h.alone b
  refine ⟨fun i hi => ⟨fun m => ?_, fun ho => ?_⟩, ?_, fun ho sel => ?_, fun ho => ?_, fun hn => ⟨fun m => ?_, fun ho sel => ?_⟩⟩
  · rw [exec_priow h, priow_tile hxb (hrdb ▸ hi), hrdb, hbb]
  · have hp : ∀ sel, exec (.prior g sel d a) s = .next (u.pushLoad r (.value d [BitVec.ofNat 32 (x.entry sel i)])) := fun sel => by
      rw [exec_prior h, if_neg (Bool.eq_false_iff.mp ho), prior_tile hxu (hrd ▸ hi)]
    exact ⟨hp .gaze, hp .mot, hp .err, hp .pri, hp .acc⟩
  · rw [exec_priowWt h, onDisp_some hxb]
  · rw [exec_sepq h, if_neg (Bool.eq_false_iff.mp ho), onDisp_some hxu]
    rfl
  · have hw := sepOwed_iff.mpr ho
    exact ⟨fun sel => by rw [exec_sepq h, if_pos hw], fun sel => by rw [exec_prior h, if_pos hw]⟩
  · rw [exec_priow h, priow_outside hxb (hrdb ▸ hn)]
  · rw [exec_prior h, if_neg (Bool.eq_false_iff.mp ho), prior_outside hxu (hrd ▸ hn)]

/-! ### Positions, records of a tile, and times (R355, R358, R359) -/

section
variable {s u : State} {g : Guard} {r : Ref} {x : Display} {d a : Reg} {b : Src}

theorem exec_vqry (h : Runs s g r u) : exec (.vqry g d a) s = .next (if s.vatOwed r then u.heldBack r else u.vqry r d a) :=
  congrArg Host.Outcome.next (h.after _ _)

theorem exec_sposPos (h : Runs s g r u) : exec (.sposPos g d) s =
    .next (u.onDisp r (fun _ => if u.onWave r then u.put64 r d (s.thread r).spos else u.fail r causeAccess)) := by
  have ht : (u.thread r).spos = (s.thread r).spos := by rw [h.2, moved_thread_spos]
  show Host.Outcome.next (s.each g _) = _
  rw [h.each, ht]

theorem exec_sposRow (h : Runs s g r u) : exec (.sposRow g d) s =
    .next (u.onDisp r (fun _ => if u.onWave r then u.put r d (s.thread r).srow else u.fail r causeAccess)) := by
  have ht : (u.thread r).srow = (s.thread r).srow := by rw [h.2, moved_thread_srow]
  show Host.Outcome.next (s.each g _) = _
  rw [h.each, ht]

theorem onWave_iff (h : Runs s g r u) : u.onWave r = true ↔ (s.group r.1).node = some 1022 := by
  rw [h.2]
  exact beq_iff_eq

theorem exec_vqryCfg (h : Runs s g r u) : exec (.vqryCfg g d) s = .next (u.onDisp r (fun x =>
    u.pushLoad r (.value d [BitVec.ofNat 32 (DispCfg.th x.cfg * 65536 + DispCfg.tw x.cfg), BitVec.ofNat 32 x.cfg.vd]))) :=
  congrArg Host.Outcome.next (h.each _)

theorem exec_rowdlRow (h : Runs s g r u) : exec (.rowdlRow g d b) s =
    .next (u.onDisp r (fun x => u.put r d (BitVec.ofNat 32 x.nl + s.val32 (s.thread r) b))) := by
  show Host.Outcome.next (s.each g _) = _
  rw [h.each, show u.src32 r b = s.val32 (s.thread r) b by rw [h.2, moved_src32 h.alone]]

theorem exec_rowdlTime (h : Runs s g r u) : exec (.rowdlTime g d b) s =
    .next (u.onDisp r (fun x => u.put64 r d (BitVec.ofInt 64 (x.light (x.unwrap (s.val32 (s.thread r) b)))))) := by
  show Host.Outcome.next (s.each g _) = _
  rw [h.each, show u.src32 r b = s.val32 (s.thread r) b by rw [h.2, moved_src32 h.alone]]

end

theorem sampleQueries : Claim.SampleQueries := by
  intro s g r u x d a b h hx
  have hxu : u.dispOf r = some x := h.dispOf.trans hx
  refine ⟨fun ho => ?_, fun i hi ho => ?_, fun hn => ⟨?_, ?_⟩, fun hn => ⟨?_, ?_⟩, ?_, ?_, ?_⟩
  · rw [exec_vqry h, if_pos ho]
  · have hrd : u.rd r a = (s.thread r).reg a := by rw [h.2, moved_rd]
    have hrec : u.dieOf r = s.dieOf r ∧ ∀ die vd i, u.vatRecs die vd i = s.vatRecs die vd i := by
      rw [h.2]
      exact ⟨rfl, fun _ _ _ => rfl⟩
    rw [exec_vqry h, if_neg (Bool.eq_false_iff.mp ho), State.vqry, onDisp_some hxu, hrd, hi]
    dsimp only
    rw [hrec.1, hrec.2]
  · rw [exec_sposPos h, onDisp_some hxu, if_pos ((onWave_iff h).mpr hn)]
  · rw [exec_sposRow h, onDisp_some hxu, if_pos ((onWave_iff h).mpr hn)]
  · rw [exec_sposPos h, onDisp_some hxu, if_neg (fun hw => hn ((onWave_iff h).mp hw))]
  · rw [exec_sposRow h, onDisp_some hxu, if_neg (fun hw => hn ((onWave_iff h).mp hw))]
  · rw [exec_vqryCfg h, onDisp_some hxu]
    rfl
  · rw [exec_rowdlRow h, onDisp_some hxu]
  · rw [exec_rowdlTime h, onDisp_some hxu]

/-- Settles O37, by what each query reads of the units that serve its thread. -/
theorem samplingQueries : Obligations.SamplingQueries := ⟨separatorInstructions, sampleQueries⟩

/-! ### VPUT and VGET (R356, R357) -/

section
variable {s u : State} {g : Guard} {r : Ref} {x : Display} {a : Reg} {b : Src}

theorem exec_vput (h : Runs s g r u) : exec (.vput g a) s = .next (u.vput r a false) := congrArg Host.Outcome.next (h.each _)
theorem exec_vputOvl (h : Runs s g r u) : exec (.vputOvl g a) s = .next (u.vput r a true) := congrArg Host.Outcome.next (h.each _)
theorem exec_vget (h : Runs s g r u) (n : BitVec 5) :
    exec (.vget g n a b) s = .next (if s.vatOwed r then u.heldBack r else u.vget r n.toNat a b) := congrArg Host.Outcome.next (h.after _ _)

theorem vput_inside {i : Nat} {blk : List Word} (hx : u.dispOf r = some x) (hb : blk = (u.thread r).block a 8)
    (hi : sampleTile x.cfg (hdrW blk 0) = some i) (ovl : Bool) :
    u.vput r a ovl = u.bump.pushStore r (.vput u.serial (blk.set 7 (vputFlags (u.dieOf r) (hdrW blk 7))) ovl false) := by
  rw [State.vput, onDisp_some hx, ← hb]
  dsimp only
  rw [hi]

theorem vput_outside {blk : List Word} (hx : u.dispOf r = some x) (hb : blk = (u.thread r).block a 8)
    (hi : sampleTile x.cfg (hdrW blk 0) = none) (ovl : Bool) : u.vput r a ovl = u.fail r causeAccess := by
  rw [State.vput, onDisp_some hx, ← hb]
  dsimp only
  rw [hi]

end

section
variable {s u : State} {g : Guard} {r : Ref} {x : Display} {a : Reg} {b : Src}

/-- The row of features of a slot that may be empty. -/
theorem features_getD (v : Option (List Word)) (f : List Word → Nat → Nat) :
    (List.range 16).map (fun k => (v.map (fun w => f w k)).getD 0) = v.elim (List.replicate 16 0) (fun w => (List.range 16).map (f w)) := by
  cases v with
  | none => rfl
  | some w => rfl

/-- VGET of a tile inside the grid, with a range that passes its checks. -/
theorem vget_passes {n k orow i : Nat} {w t1 : Word} {dst : EFmt} {rcd : List Word} {hits : List (List Word)} {rows : List (List Nat)}
    (hx : u.dispOf r = some x) (hk : k = (u.src32 r b).toNat) (ho : orow = (u.rd r (a + 3)).toNat) (hk1 : 1 ≤ k) (hk64 : k ≤ 64)
    (hw : w = u.rd r a) (ht : t1 = u.rd r (a + 1)) (hi : tileOf x.cfg w = some i) (hr : u.vgetRange r n k orow = .ok (dst, rcd))
    (hhits : hits = sortBy (vatAge t1) ((u.vatRecs (u.dieOf r) x.cfg.vd i).filter
      (fun v => vatValid v && decide (vatAge t1 v ≤ (u.rd r (a + 2)).toNat))))
    (hrows : rows = (List.range k).map (fun j => (hits[j]?).elim (List.replicate 16 0) (fun v => (List.range 16).map
      (vatFeature dst (if dst = .bf16 then fmtBf16 else fmtF16) (bitsOf w 15 0) (bitsOf w 31 16) t1 v)))) :
    u.vget r n a b = ({ u.wakeEngine (.bank (vatBank (u.dieOf r) i)) with
      mem := u.mem.writeN (locObuf (u.coreOf r) (u.partOf r) (recBase rcd + orow * 32)) ((rows.flatten.map (toBytes 2)).flatten) } : State).pushLoad r
        (.value 0 []) := by
  rw [State.vget, onDisp_some hx, ← hk, ← ho, ← hw, ← ht]
  dsimp only
  rw [hi]
  dsimp only
  rw [if_neg (by omega), hr, hrows]
  dsimp only
  rw [← hhits]
  have hrow : ∀ v : Option (List Word), v.elim (List.replicate 16 0) (fun v => (List.range 16).map
      (vatFeature dst (if dst = .bf16 then fmtBf16 else fmtF16) (bitsOf w 15 0) (bitsOf w 31 16) t1 v)) = (match v with
        | some v => (List.range 16).map (fun f => vatFeature dst (if dst = .bf16 then fmtBf16 else fmtF16) (bitsOf w 15 0) (bitsOf w 31 16) t1 v f)
        | none => List.replicate 16 0) := fun v => by cases v <;> rfl
  simp only [hrow]
  rfl

end

theorem vatTransfers : Claim.VatTransfers := by
  intro s g r u x a b blk i h hx
  have hxu : u.dispOf r = some x := h.dispOf.trans hx
  refine ⟨fun hblk => ⟨fun hi => ?_, fun hi => ?_⟩, fun n ho => ?_, fun n dst rcd k orow w t1 hits rows hk ho1 hk1 hk64 hw ht1 hi hrng howed hhits hrows => ?_⟩
  · have hb : blk = (u.thread r).block a 8 := by rw [h.2, moved_thread_block, hblk]
    rw [exec_vput h, exec_vputOvl h, vput_inside hxu hb hi, vput_inside hxu hb hi, h.2]
    exact ⟨rfl, rfl⟩
  · have hb : blk = (u.thread r).block a 8 := by rw [h.2, moved_thread_block, hblk]
    rw [exec_vput h, exec_vputOvl h, vput_outside hxu hb hi, vput_outside hxu hb hi]
    exact ⟨rfl, rfl⟩
  · rw [exec_vget h, if_pos ho]
  · have hp : u.dieOf r = s.dieOf r ∧ u.coreOf r = s.coreOf r ∧ u.partOf r = s.partOf r ∧ u.mem = s.mem ∧
        (∀ die vd i, u.vatRecs die vd i = s.vatRecs die vd i) ∧ ∀ q, u.rd r q = (s.thread r).reg q := by
      rw [h.2]
      exact ⟨rfl, rfl, rfl, rfl, fun _ _ _ => rfl, fun q => moved_rd _ _ _ q⟩
    obtain ⟨hdie, hcore, hpart, hmem, hrec, hrd⟩ := hp
    have hrg : u.vgetRange r n.toNat k orow = .ok (dst, rcd) := by rw [h.2]; exact hrng
    rw [exec_vget h, if_neg (Bool.eq_false_iff.mp howed), vget_passes hxu (by rw [h.2, moved_src32 h.alone, hk]) (by rw [hrd, ho1]) hk1 hk64
      (by rw [hrd, hw]) (by rw [hrd, ht1]) hi hrg (by rw [hdie, hrec, hrd, hhits])
      (hrows.trans (List.map_congr_left (fun j _ => features_getD (hits[j]?) _))), hdie, hcore, hpart, hmem]

/-! ### ROWPUT (R350, R359) -/

section
variable {s u : State} {g : Guard} {r : Ref} {x : Display} {sp : RSpace} {d a : Reg} {b : Src}

/-- A registration that goes ahead at once, of an operation without a tag. -/
theorem lockAsk_ready {op op0 : LockOp} {parked : Bool} (hop : op = { op0 with id := u.serial }) (hi : u.bump.lockIssue op = u.bump.lockAdd op)
    (hr : u.bump.lockReady u.regQueue op = true) (done : State → LockOp → State) : u.lockAsk parked op0 done = done (u.bump.lockAdd op) op := by
  rw [State.lockAsk, ← hop, ← hi]
  exact if_pos hr

theorem exec_rowput (h : Runs s g r u) : exec (.rowput g sp d a b) s = .next (if s.owes r then u.heldBack r else u.rowput r sp d a b) :=
  congrArg Host.Outcome.next (h.after _ _)

/-- A segment inside the panel, whose words may be read, asks for its entry. -/
theorem rowput_passes {w : Word} {x0 cnt : Nat} {row : Int} {rng : Rng} (hx : u.dispOf r = some x) (hw : w = u.src32 r b)
    (hx0 : x0 = w.toNat % 2 ^ 16) (hcnt : cnt = w.toNat / 2 ^ 16 + 1) (hlt : w.toNat < 2 ^ 24) (hcol : x0 + cnt ≤ x.cfg.ncol)
    (hrow : row = x.unwrap (u.rd r d)) (hrng : rng = u.engRng r.1 (RSpace.eng sp) (spAddr (RSpace.eng sp) (u.rdW r (sp == .glob) a)) (4 * cnt))
    (hbad : u.rowputBad r.1 rng = none) :
    u.rowput r sp d a b = u.lockAsk false (u.newOp r 0 .dsp (.rowput row x0) [rng] [] (4 * cnt)) (fun s op => s.rowputGo op row x0) := by
  have h0 : bitsOf w 15 0 = x0 := by simp only [bitsOf]; omega
  have h1 : bitsOf w 23 16 + 1 = cnt := by simp only [bitsOf]; omega
  have h2 : bitsOf w 31 24 = 0 := by simp only [bitsOf]; omega
  rw [State.rowput, onDisp_some hx, ← hw]
  dsimp only
  rw [h0, h1, h2, if_neg (by omega), ← hrng, hbad, ← hrow]

/-- The display of a thread's die. -/
theorem display_of_dispOf (h : s.dispOf r = some x) : (s.die (s.dieOf r)).display = some x := by
  rw [State.dispOf] at h
  split at h
  · exact h
  · cases h

end

theorem pixelTransfers : Claim.PixelTransfers := by
  intro s g r u v x sp d a b w x0 cnt row rng op h hx hw hx0 hcnt hlt hcol hrow hrng hbad
  refine ⟨fun ho => by rw [exec_rowput h, if_pos ho], fun ho hop hready hv => ?_⟩
  have hu : u.serial = s.serial ∧ u.regQueue = s.regQueue ∧ u.dies = s.dies ∧ u.rd r d = (s.thread r).reg d ∧ u.dieOf r = s.dieOf r := by
    rw [h.2]
    exact ⟨rfl, rfl, rfl, moved_rd _ _ _ d, rfl⟩
  obtain ⟨hser, hqueue, hdies, hrd, hdie⟩ := hu
  have hput : u.rowput r sp d a b = (u.bump.lockAdd op).rowputGo op row x0 := by
    rw [rowput_passes (h.dispOf.trans hx) (by rw [h.2, moved_src32 h.alone, hw]) hx0 hcnt hlt hcol (row := row) (by rw [hrd, hrow])
      (hrng.trans (by rw [h.2]; rfl)) (by rw [h.2]; exact hbad)]
    exact lockAsk_ready (hser.symm ▸ hop) (by rw [hop]; rfl) (hqueue.symm ▸ hready) _
  have hnl : ((v.die op.die).display.map (fun x => (x.nl : Int))).getD 0 = x.nl := by
    have hvd : v.dies = s.dies := by rw [hv, (release_side _ _ _).dies, ← hdies]; rfl
    have hod : op.die = s.dieOf r := by rw [hop]; exact hdie
    have hdisp : (v.die op.die).display = some x := by
      rw [hod, ← display_of_dispOf hx, State.die, State.die, hvd]
    rw [hdisp]
    rfl
  have hgo : (u.bump.lockAdd op).rowputGo op row x0 = if 256 ≤ row - x.nl then v.upd r (fun t => { t with park := .rowdist op.id row x0 })
      else (v.wake r).pushStore r (.rowput op.id row x0) := by
    have hor : (op.gid, op.tid) = r := by rw [hop]; rfl
    rw [State.rowputGo, hor]
    rw [← hv, hnl]
  rw [exec_rowput h, if_neg (Bool.eq_false_iff.mp ho), hput, hgo]
  exact ⟨fun hn => by rw [if_neg (by omega)], fun hn => by rw [if_pos hn]⟩

/-! ### Without the units (R335) -/

theorem unitsAbsent : Claim.UnitsAbsent := by
  intro s g r u d a b t h hx ht
  have hxu : u.dispOf r = none := h.dispOf.trans hx
  have hxb : u.bump.dispOf r = none := hxu
  refine ⟨?_, ?_, fun m => ?_, ?_, ?_, ?_, ?_, ?_, ?_, fun ho => ⟨fun n => ?_, ?_⟩, fun ho sp => ?_, fun ho => ⟨fun sel => ?_, fun sel => ?_⟩⟩
  · rw [exec_vput h, State.vput, onDisp_none hxu, ht]
  · rw [exec_vputOvl h, State.vput, onDisp_none hxu, ht]
  · rw [exec_priow h, State.priow, onDisp_none hxb]
  · rw [exec_sposPos h, onDisp_none hxu, ht]
  · rw [exec_sposRow h, onDisp_none hxu, ht]
  · rw [exec_vqryCfg h, onDisp_none hxu, ht]
  · rw [exec_rowdlRow h, onDisp_none hxu, ht]
  · rw [exec_rowdlTime h, onDisp_none hxu, ht]
  · rw [exec_priowWt h, onDisp_none hxb]
  · rw [exec_vget h, if_neg (Bool.eq_false_iff.mp ho), State.vget, onDisp_none hxu, ht]
  · rw [exec_vqry h, if_neg (Bool.eq_false_iff.mp ho), State.vqry, onDisp_none hxu, ht]
  · rw [exec_rowput h, if_neg (Bool.eq_false_iff.mp ho), State.rowput, onDisp_none hxu, ht]
  · rw [exec_prior h, if_neg (Bool.eq_false_iff.mp ho), State.prior, onDisp_none hxu, ht]
  · rw [exec_sepq h, if_neg (Bool.eq_false_iff.mp ho), onDisp_none hxu, ht]

/-- Settles O38, by the checks of each transfer on the units that serve its thread. -/
theorem samplingTransfers : Obligations.SamplingTransfers := ⟨vatTransfers, pixelTransfers, unitsAbsent⟩

end Sys2Proof.Machine
end

section
/-! Draws, paths and rays (17). -/

namespace Sys2Proof.Machine

/-! ### Draw slots (R361, R365, R366, R370 to R372) -/

section
variable {s u : State} {g : Guard} {r : Ref} {d a : Reg} {n : Nat} {w : DrawSlot}

theorem exec_probeOpen (h : Runs s g r u) (n : BitVec 2) : exec (.probeOpen g n d a) s =
    .next (if s.trails r (locScratch r.1 ((s.thread r).reg a).toNat) 64 then u.heldBack r else u.probeOpen r n.toNat d a) :=
  congrArg Host.Outcome.next (h.after _ _)

theorem exec_probeTri (h : Runs s g r u) (n : BitVec 2) : exec (.probeTri g n a) s = .next (u.probeTri r n.toNat a) :=
  congrArg Host.Outcome.next (h.each _)

theorem exec_probeEnd (h : Runs s g r u) (n : BitVec 2) : exec (.probeEnd g n d) s = .next (u.probeEnd r n.toNat d) :=
  congrArg Host.Outcome.next (h.each _)

theorem exec_probeSmp (h : Runs s g r u) (n : BitVec 2) :
    exec (.probeSmp g n d a) s = .next (if s.acquires r then u.heldBack r else u.probeSmp r n.toNat d a) :=
  congrArg Host.Outcome.next (h.after _ _)

/-- A descriptor that passes its check, for a slot that the partition may open, is taken by its status. -/
theorem probeOpen_passes {x : Where} {desc : List Word} (ht : u.drawTaken r n = false)
    (hc : u.check r .core (u.rd r a).toNat 64 64 false false = .ok (x, u)) (hd : desc = wordsOfBytes (u.readAt (u.coreOf r) x 64)) :
    u.probeOpen r n d a = if u.drawStatus (u.dieOf r) (u.partOf r) n desc ≠ 0 then
        u.put r d (BitVec.ofNat 32 (u.drawStatus (u.dieOf r) (u.partOf r) n desc))
      else u.lockAsk true { u.newOp r 0 .dev (.draw n d) [] [{ sp := .glob, owner := 0, lo := drawBase desc, len := drawSize desc }] 0 with
        desc := desc } (fun s op => s.drawOpen op n d) := by
  subst hd
  rw [State.probeOpen, if_neg (Bool.eq_false_iff.mp ht), hc]

/-- The slot of the thread's own partition. -/
theorem drawForeign_own (hw : (u.die (u.dieOf r)).draw n = some w) (hp : w.part = u.partOf r) : u.drawForeign r n = false := by
  simp [State.drawForeign, hw, hp]

theorem probeTri_open (hw : (u.die (u.dieOf r)).draw n = some w) (hp : w.part = u.partOf r) (ho : w.st = .opened) (he : w.ending = false)
    (hc : (u.rd r (a + 7)).toNat ≤ 2) : u.probeTri r n a =
      (u.updDraw (u.dieOf r) w.lock (fun w => { w with seq := (w.seq + 1) % 2 ^ 32 })).pushStore r (.tri w.lock w.seq ((u.thread r).block a 8)) := by
  have h7 : hdrW ((u.thread r).block a 8) 7 = u.rd r (a + 7) := rfl
  rw [State.probeTri, hw]
  dsimp only
  rw [h7, if_neg]
  rintro (h | h | h | h)
  · exact h hp
  · exact h ho
  · exact absurd h (by simp [he])
  · exact absurd hc (Nat.not_le.mpr h)

/-- PROBE.end of a slot of the thread's partition, by its state. -/
theorem probeEnd_own (hw : (u.die (u.dieOf r)).draw n = some w) (hp : w.part = u.partOf r) :
    (w.st = .closed ∨ w.st = .free → u.probeEnd r n d = u.put r d 6) ∧ (w.st = .broken → u.probeEnd r n d = u.drawBroken r w d) ∧
    (w.st = .opened → u.probeEnd r n d = (u.updDraw (u.dieOf r) w.lock (fun w => { w with ending := true })).parkAs r (.draw w.lock d)) := by
  have hf := Bool.eq_false_iff.mp (drawForeign_own hw hp)
  rw [State.probeEnd, if_neg hf, hw]
  dsimp only
  refine ⟨fun h => ?_, fun h => by rw [h], fun h => by rw [h]⟩
  rcases h with h | h <;> rw [h]

theorem probeSmp_closed (hw : (u.die (u.dieOf r)).draw n = some w) (hp : w.part = u.partOf r) (hc : w.st = .closed) :
    u.probeSmp r n d a = u.pushLoad r (.value d (w.sample (u.rd r a))) := by
  rw [State.probeSmp, hw]
  dsimp only
  rw [if_neg (by simp [hp, hc])]

end

theorem drawInstructions : Claim.DrawInstructions := by
  intro s g r u d a h
  have hu : u.serial = s.serial ∧ u.regQueue = s.regQueue ∧ u.dieOf r = s.dieOf r ∧ u.partOf r = s.partOf r ∧
      (∀ q, u.rd r q = (s.thread r).reg q) ∧ ∀ k, u.die k = s.die k := by
    rw [h.2]
    exact ⟨rfl, rfl, rfl, rfl, fun q => moved_rd _ _ _ q, fun _ => rfl⟩
  obtain ⟨hser, hqueue, hdie, hpart, hrd, hdies⟩ := hu
  refine ⟨fun n ht => ?_, fun n ht hx => ?_, fun n w desc op ht hx hc hdesc => ?_, fun n hf => ?_, fun n w hw hp => ?_⟩
  · rw [exec_probeOpen h, if_pos ht]
  · rw [exec_probeOpen h, if_neg (Bool.eq_false_iff.mp ht), State.probeOpen, if_pos]
    rw [h.2]
    exact hx
  · have hstat : u.drawStatus (u.dieOf r) (u.partOf r) n.toNat desc = s.drawStatus (s.dieOf r) (s.partOf r) n.toNat desc := by
      rw [h.2]
      rfl
    rw [exec_probeOpen h, if_neg (Bool.eq_false_iff.mp ht), probeOpen_passes (x := w) (desc := desc) (by rw [h.2]; exact hx) (hrd a ▸ hc)
      (by rw [h.2]; exact hdesc), hstat]
    refine ⟨fun h0 => by rw [if_pos h0], fun h0 hop hready => ?_⟩
    rw [if_neg (not_not.mpr h0)]
    exact congrArg Host.Outcome.next (lockAsk_ready (hser.symm ▸ hop) (by rw [hop]; rfl) (hqueue.symm ▸ hready) _)
  · rw [exec_probeEnd h, State.probeEnd, if_pos]
    rw [h.2]
    exact hf
  · have hw' : (u.die (u.dieOf r)).draw n.toNat = some w := by rw [hdies, hdie, hw]
    have hp' : w.part = u.partOf r := hp.trans hpart.symm
    obtain ⟨hclosed, hbroken, hopen⟩ := probeEnd_own (d := d) hw' hp'
    refine ⟨fun ho he => ⟨fun hc => ?_, ?_⟩, fun hs => ?_, fun hs => ⟨fun hn => ?_, fun c hc => ?_⟩, fun hacq => ?_, fun hc hacq => ?_⟩
    · rw [exec_probeTri h, probeTri_open hw' hp' ho he ((hrd _).symm ▸ hc), hdie, h.2, moved_thread_block]
    · rw [exec_probeEnd h, hopen ho, hdie]
    · rw [exec_probeEnd h, hclosed hs]
    · rw [exec_probeEnd h, hbroken hs, State.drawBroken, hn]
    · rw [exec_probeEnd h, hbroken hs, State.drawBroken, hc]
    · rw [exec_probeSmp h, if_pos hacq]
    · rw [exec_probeSmp h, if_neg (Bool.eq_false_iff.mp hacq), probeSmp_closed hw' hp' hc, hrd]

/-! ### Path slots (R361, R375, R376, R380, R381) -/

section
variable {s u : State} {g : Guard} {r : Ref} {d a : Reg} {n : Nat} {w : PathSlot}

theorem exec_pathendOpen (h : Runs s g r u) (n : BitVec 4) : exec (.pathendOpen g n d a) s =
    .next (if s.trails r (locScratch r.1 ((s.thread r).reg a).toNat) 32 then u.heldBack r else u.pathendOpen r n.toNat d a) :=
  congrArg Host.Outcome.next (h.after _ _)

theorem exec_curve (h : Runs s g r u) (kind : CKind) (n : BitVec 4) : exec (.curve g kind n a) s = .next (u.curve r kind n.toNat a) :=
  congrArg Host.Outcome.next (h.each _)

theorem exec_pathendNz (h : Runs s g r u) (n : BitVec 4) : exec (.pathendNz g n d) s = .next (u.pathEnd r n.toNat false d) :=
  congrArg Host.Outcome.next (h.each _)

theorem exec_pathendEo (h : Runs s g r u) (n : BitVec 4) : exec (.pathendEo g n d) s = .next (u.pathEnd r n.toNat true d) :=
  congrArg Host.Outcome.next (h.each _)

theorem exec_cvg (h : Runs s g r u) (raw : Bool) (n : BitVec 4) :
    exec (.cvg g raw n d a) s = .next (if s.acquires r then u.heldBack r else u.cvg r n.toNat raw d a) :=
  congrArg Host.Outcome.next (h.after _ _)

theorem pathEnd_foreign {eo : Bool} (h : u.pathForeign r n = true) : u.pathEnd r n eo d = u.fail r causeAccess := by
  rw [State.pathEnd, if_pos h]

/-- PATHEND.nz or .eo of a slot of the thread's partition, by its state. -/
theorem pathEnd_own (eo : Bool) (hw : (u.die (u.dieOf r)).path n = some w) (hp : w.part = u.partOf r) :
    (w.st = .closed ∨ w.st = .free → u.pathEnd r n eo d = u.put r d 6) ∧ (w.st = .broken → u.pathEnd r n eo d = u.put r d 5) ∧
    (w.st = .opened → w.rule = none →
      u.pathEnd r n eo d = (u.updPath (u.dieOf r) w.lock (fun w => { w with rule := some eo })).parkAs r (.path w.lock d)) := by
  have hf : ¬u.pathForeign r n = true := by simp [State.pathForeign, hw, hp]
  rw [State.pathEnd, if_neg hf, hw]
  dsimp only
  refine ⟨fun h => ?_, fun h => by rw [h], fun h hr => ?_⟩
  · rcases h with h | h <;> rw [h]
  · rw [h, hr]
    rfl

theorem curve_open {kind : CKind} (hw : (u.die (u.dieOf r)).path n = some w) (hp : w.part = u.partOf r) (ho : w.st = .opened)
    (hr : w.rule = none) (hc : (((u.thread r).block a 8).take (CKind.words kind)).all coordOk = true) :
    u.curve r kind n a = u.pushStore r (.curve w.lock kind (((u.thread r).block a 8).take (CKind.words kind))) := by
  rw [State.curve, hw]
  dsimp only
  rw [if_neg (by simp [hp, ho, hr, hc])]

/-- The reading of a cell: its area, or the coverage that its second word counts in units of 2^-16. -/
def cellVal (raw : Bool) (bs : List Byte) : Nat :=
  if raw then ofBytes (bs.take 4) else (packMag fmtF32 .rne false false false (ofBytes (bs.drop 4)) (-16) false).1

theorem cvg_closed {raw : Bool} {i j : Nat} (hw : (u.die (u.dieOf r)).path n = some w) (hp : w.part = u.partOf r) (hc : w.st = .closed)
    (hi : i = (u.rd r a).toNat % 2 ^ 16) (hj : j = (u.rd r a).toNat / 2 ^ 16) (hiw : i < pathW w.desc) (hjh : j < pathH w.desc) :
    u.cvg r n raw d a = u.pushLoad r (.value d
      [BitVec.ofNat 32 (cellVal raw (u.mem.readN (u.cellLoc (u.dieOf r) w.part w.desc i j) 8))]) := by
  have hlt : (u.rd r a).toNat < 2 ^ 32 := (u.rd r a).isLt
  have h0 : bitsOf (u.rd r a) 15 0 = i := by simp only [bitsOf]; omega
  have h1 : bitsOf (u.rd r a) 31 16 = j := by simp only [bitsOf]; omega
  rw [State.cvg, h0, h1, hw]
  dsimp only
  rw [if_neg (by simp [hp, hc, hiw, hjh])]
  rfl

/-- A record that passes its check, for a slot that the partition may open, is taken by its status. -/
theorem pathendOpen_passes {x : Where} {desc : List Word} (ht : u.pathTaken r n = false)
    (hc : u.check r .core (u.rd r a).toNat 32 32 false false = .ok (x, u)) (hd : desc = wordsOfBytes (u.readAt (u.coreOf r) x 32)) :
    u.pathendOpen r n d a = if u.pathStatus (u.dieOf r) (u.partOf r) n desc ≠ 0 then
        u.put r d (BitVec.ofNat 32 (u.pathStatus (u.dieOf r) (u.partOf r) n desc))
      else u.lockAsk true { u.newOp r 0 .die (.path n d) []
        [{ sp := .chip, owner := 0, lo := u.dieOf r * 2 ^ 24 + pathCbase desc, len := pathBytes desc }] 0 with desc := desc }
        (fun s op => s.pathOpen op n d) := by
  subst hd
  rw [State.pathendOpen, if_neg (Bool.eq_false_iff.mp ht), hc]

end

theorem pathInstructions : Claim.PathInstructions := by
  intro s g r u d a h
  have hu : u.dieOf r = s.dieOf r ∧ u.partOf r = s.partOf r ∧ u.rd r a = (s.thread r).reg a ∧ (∀ k, u.die k = s.die k) ∧ u.mem = s.mem ∧
      (∀ die q w i j, u.cellLoc die q w i j = s.cellLoc die q w i j) ∧ (u.thread r).block a 8 = (s.thread r).block a 8 := by
    rw [h.2]
    exact ⟨rfl, rfl, moved_rd _ _ _ a, fun _ => rfl, rfl, fun _ _ _ _ _ => rfl, moved_thread_block _ _ _ a 8⟩
  obtain ⟨hdie, hpart, hrd, hdies, hmem, hcell, hblk⟩ := hu
  refine ⟨fun n hf => ?_, fun n w hw hp => ?_⟩
  · have hf' : u.pathForeign r n.toNat = true := by rw [h.2]; exact hf
    rw [exec_pathendNz h, exec_pathendEo h, pathEnd_foreign hf', pathEnd_foreign hf']
    exact ⟨rfl, rfl⟩
  · have hw' : (u.die (u.dieOf r)).path n.toNat = some w := by rw [hdies, hdie, hw]
    have hp' : w.part = u.partOf r := hp.trans hpart.symm
    obtain ⟨hclosed, hbroken, hopen⟩ := pathEnd_own (d := d) false hw' hp'
    obtain ⟨hclosed', hbroken', hopen'⟩ := pathEnd_own (d := d) true hw' hp'
    rw [exec_pathendNz h, exec_pathendEo h]
    refine ⟨fun ho hr => ⟨fun kind hk => ?_, ?_, ?_⟩, fun hs => ?_, fun hs => ?_, fun raw hacq => ?_, fun i j hc hacq hi hj hiw hjh => ?_⟩
    · rw [exec_curve h, curve_open hw' hp' ho hr (hblk.symm ▸ hk), hblk]
    · rw [hopen ho hr, hdie]
    · rw [hopen' ho hr, hdie]
    · rw [hclosed hs, hclosed' hs]
      exact ⟨rfl, rfl⟩
    · rw [hbroken hs, hbroken' hs]
      exact ⟨rfl, rfl⟩
    · rw [exec_cvg h, if_pos hacq]
    · have hcvg : ∀ raw, exec (.cvg g raw n d a) s = .next (u.pushLoad r (.value d
          [BitVec.ofNat 32 (cellVal raw (s.mem.readN (s.cellLoc (s.dieOf r) w.part w.desc i j) 8))])) := fun raw => by
        rw [exec_cvg h, if_neg (Bool.eq_false_iff.mp hacq), cvg_closed hw' hp' hc (hrd ▸ hi) (hrd ▸ hj) hiw hjh, hmem, hcell, hdie]
      exact ⟨hcvg true, hcvg false⟩

theorem pathOpen : Claim.PathOpen := by
  intro s g r u n d a w desc op h
  have hu : u.serial = s.serial ∧ u.regQueue = s.regQueue ∧ u.rd r a = (s.thread r).reg a := by
    rw [h.2]
    exact ⟨rfl, rfl, moved_rd _ _ _ a⟩
  obtain ⟨hser, hqueue, hrd⟩ := hu
  refine ⟨fun ht => ?_, fun ht hx => ?_, fun ht hx hc hdesc => ?_⟩
  · rw [exec_pathendOpen h, if_pos ht]
  · rw [exec_pathendOpen h, if_neg (Bool.eq_false_iff.mp ht), State.pathendOpen, if_pos]
    rw [h.2]
    exact hx
  · have hstat : u.pathStatus (u.dieOf r) (u.partOf r) n.toNat desc = s.pathStatus (s.dieOf r) (s.partOf r) n.toNat desc := by
      rw [h.2]
      rfl
    rw [exec_pathendOpen h, if_neg (Bool.eq_false_iff.mp ht), pathendOpen_passes (x := w) (desc := desc) (by rw [h.2]; exact hx) (hrd ▸ hc)
      (by rw [h.2]; exact hdesc), hstat]
    refine ⟨fun h0 => by rw [if_pos h0], fun h0 hop hready => ?_⟩
    rw [if_neg (not_not.mpr h0)]
    refine congrArg Host.Outcome.next (lockAsk_ready (hser.symm ▸ ?_) (by rw [hop]; rfl) (hqueue.symm ▸ hready) _)
    rw [hop, h.2]
    rfl

/-- Settles O39, by the state of the slot that each instruction names. -/
theorem drawsAndPaths : Obligations.DrawsAndPaths := ⟨drawInstructions, pathInstructions, pathOpen⟩

/-! ### Rays (R383, R384) -/

section
variable {s u : State} {g : Guard} {r : Ref} {d a : Reg} {b : Src} {any cullb : Bool}

theorem tracing_iff (t : Thread) : t.tracing = true ↔ ∃ ray root x y, LoadOp.trace ray root x y ∈ t.loads := by
  rw [Thread.tracing, List.any_eq_true]
  constructor
  · rintro ⟨o, ho, hm⟩
    cases o with
    | trace ray root x y => exact ⟨ray, root, x, y, ho⟩
    | _ => cases hm
  · rintro ⟨ray, root, x, y, h⟩
    exact ⟨_, h, rfl⟩

theorem exec_trace (h : Runs s g r u) : exec (.trace g any cullb a b) s =
    .next (if (s.thread r).tracing then u.heldBack r else u.trace r any cullb a b) := congrArg Host.Outcome.next (h.after _ _)

theorem exec_hitr (h : Runs s g r u) : exec (.hitr g d) s =
    .next (if (s.thread r).tracing then u.parkAs r (.hitr false d) else u.putBlock r d (s.thread r).hit) := by
  have ht : (u.thread r).tracing = (s.thread r).tracing ∧ (u.thread r).hit = (s.thread r).hit := by
    rw [h.2]
    exact ⟨moved_thread_tracing _ _ _, moved_thread_hit _ _ _⟩
  rw [← ht.1, ← ht.2]
  exact congrArg Host.Outcome.next (h.each _)

theorem exec_hitrSt (h : Runs s g r u) : exec (.hitrSt g d) s =
    .next (if (s.thread r).tracing then u.parkAs r (.hitr true d) else u.put r d (s.thread r).hitSt) := by
  have ht : (u.thread r).tracing = (s.thread r).tracing ∧ (u.thread r).hitSt = (s.thread r).hitSt := by
    rw [h.2]
    exact ⟨moved_thread_tracing _ _ _, moved_thread_hitSt _ _ _⟩
  rw [← ht.1, ← ht.2]
  exact congrArg Host.Outcome.next (h.each _)

theorem trace_good {ray : List Word} (hb : ray = (u.thread r).block a 8) (hr : rayBad ray = false) :
    u.trace r any cullb a b = u.pushLoad r (.trace ray (u.src64 r b) any cullb) := by
  rw [State.trace, ← hb]
  exact if_neg (Bool.eq_false_iff.mp hr)

theorem trace_bad {ray : List Word} (hb : ray = (u.thread r).block a 8) (hr : rayBad ray = true) :
    u.trace r any cullb a b = u.upd r (fun t => { t with hit := hitMiss, hitSt := 16 }) := by
  rw [State.trace, ← hb]
  exact if_pos hr

end

/-- Settles O40, by whether a trace of the thread is outstanding and whether its ray is in order. -/
theorem rayInstructions : Obligations.RayInstructions := by
  intro s g r u h
  have hblk : ∀ a, (s.thread r).block a 8 = (u.thread r).block a 8 := fun a => by rw [h.2, moved_thread_block]
  refine ⟨fun hn => ?_, fun ht => ?_⟩
  · have hno : ¬(s.thread r).tracing = true := by
      rw [tracing_iff]
      rintro ⟨ray, root, x, y, hm⟩
      exact hn _ hm _ _ _ _ rfl
    refine ⟨fun any cullb a b hg => ?_, fun any cullb a b hb => ?_, fun d => ?_, fun d => ?_⟩
    · rw [exec_trace h, if_neg hno, trace_good (hblk a) hg, show u.src64 r b = s.val64 (s.thread r) b by rw [h.2, moved_src64 h.alone]]
    · rw [exec_trace h, if_neg hno, trace_bad (hblk a) hb]
      rfl
    · rw [exec_hitr h, if_neg hno]
    · rw [exec_hitrSt h, if_neg hno]
  · have hyes := (tracing_iff _).mpr ht
    exact ⟨fun any cullb a b => by rw [exec_trace h, if_pos hyes], fun d => by rw [exec_hitr h, if_pos hyes],
      fun d => by rw [exec_hitrSt h, if_pos hyes]⟩

end Sys2Proof.Machine
end

section
/-! Mailboxes, the journal, launches and nodes (18). -/

namespace Sys2Proof.Machine

/-! ### Mailboxes and the journal (R386, R408 to R410) -/

section
variable {s u v : State} {g : Guard} {r : Ref} {d a : Reg} {b : Src}

theorem exec_mbwait (h : Runs s g r u) (poll : Bool) (bank : BitVec 2) :
    exec (.mbwait g poll bank d b) s = .next (u.mbwait r poll bank.toNat d (s.val64 (s.thread r) b)) := by
  show Host.Outcome.next (s.each g _) = _
  rw [h.each, h.2, moved_src64 h.alone]

theorem exec_mbtake (h : Runs s g r u) : exec (.mbtake g d a b) s =
    .next (if s.trails r (locScratch r.1 (s.val32 (s.thread r) b).toNat) 64 then u.heldBack r
      else u.mbtake r ((s.thread r).reg a).toNat (s.val32 (s.thread r) b).toNat d) := by
  show Host.Outcome.next (s.eachAfter g _ _) = _
  rw [h.after, h.2, moved_src32 h.alone, moved_rd, src32_own h.alone.gid]

theorem exec_mbpost (h : Runs s g r u) (nosig : Bool) : exec (.mbpost g nosig d a b) s =
    .next (if s.owes r then u.heldBack r else u.mbpost r nosig d a (s.val32 (s.thread r) b).toNat) := by
  show Host.Outcome.next (s.eachAfter g _ _) = _
  rw [h.after, h.2, moved_src32 h.alone]

theorem exec_jnlFail (h : Runs s g r u) :
    exec (.jnlFail g d a b) s = .next (u.jnlFail r d ((s.thread r).reg a).toNat (s.val32 (s.thread r) b)) := by
  show Host.Outcome.next (s.each g _) = _
  rw [h.each, h.2, moved_src32 h.alone, moved_rd]

theorem mailForeign_iff (s : State) (part n : Nat) : s.mailForeign part n = true ↔ 255 < n ∨ (s.mailbox n).part ≠ part := by
  simp [State.mailForeign]

/-- MBTAKE whose message passes its check, of a mailbox of the thread's partition. -/
theorem mbtake_passes {n ea : Nat} {w : Where} (hf : u.mailForeign (u.partOf r) n = false)
    (hc : u.check r .core ea 64 64 true false = .ok (w, v)) : u.mbtake r n ea d =
      if (v.mailbox n).full && !(v.mailWaits n) then v.mailTake r n w d
      else ({ v with mailQueue := v.mailQueue ++ [r] } : State).parkAs r (.mailTake n ea d) := by
  rw [State.mbtake, if_neg (Bool.eq_false_iff.mp hf), hc]

end

theorem mailboxes : Claim.Mailboxes := by
  intro s g r u d a b h
  have hu : u.mailFull = s.mailFull ∧ u.mailForeign = s.mailForeign ∧ u.partOf r = s.partOf r := by
    rw [h.2]
    exact ⟨rfl, rfl, rfl⟩
  obtain ⟨hfull, hforeign, hpart⟩ := hu
  refine ⟨fun poll bank => ⟨fun n hn => ?_, fun hn => ⟨?_, ?_⟩⟩, fun n ea v w hn hea => ?_⟩
  · rw [exec_mbwait h, State.mbwait, hfull, hpart, hn]
  · rw [exec_mbwait h, State.mbwait, hfull, hpart, hn]
    rfl
  · rw [exec_mbwait h, State.mbwait, hfull, hpart, hn]
    rfl
  · rw [exec_mbtake h, ← hn, ← hea]
    refine ⟨fun ht => by rw [if_pos ht], fun ht hf => ?_, fun ht hlt hp hc => ?_⟩ <;> rw [if_neg (Bool.eq_false_iff.mp ht)]
    · rw [State.mbtake, if_pos]
      rw [hforeign, hpart]
      exact (mailForeign_iff s _ n).mpr hf
    · have hown : u.mailForeign (u.partOf r) n = false := by
        rw [hforeign, hpart]
        exact Bool.eq_false_iff.mpr (fun hf => ((mailForeign_iff s _ n).mp hf).elim (fun k => absurd hlt (Nat.not_le.mpr k)) (fun k => k hp))
      rw [mbtake_passes hown hc]
      refine ⟨fun hm hw => ?_, fun hm => ?_⟩
      · rw [hm, hw]
        rfl
      · rw [if_neg]
        rcases hm with hm | hm <;> simp [hm]

section
variable {s v : State}

theorem MemorySide.hostBox (h : MemorySide s v) (n : Nat) : v.hostBox n = s.hostBox n := by rw [h]; rfl

end

theorem postsAndJournal : Claim.PostsAndJournal := by
  intro s g r u d a b h
  have hu : u.hostBox = s.hostBox ∧ u.postRoom = s.postRoom ∧ u.partOf r = s.partOf r ∧ u.mailForeign = s.mailForeign := by
    rw [h.2]
    exact ⟨rfl, rfl, rfl, rfl⟩
  obtain ⟨hbox, hroom, hpart, hforeign⟩ := hu
  refine ⟨fun nosig n x cons hn hx hcons => ?_, ?_, fun hf => ?_, fun hf => ?_⟩
  · have hpost (nosig : Bool) := exec_mbpost (d := d) (a := a) (b := b) h nosig
    rw [← hn] at hpost
    refine ⟨fun ho => by rw [hpost, if_pos ho], fun ho hbad => ?_, fun ho hlt hon hp => ?_⟩
    · rw [hpost, if_neg (Bool.eq_false_iff.mp ho), State.mbpost, if_pos]
      rw [hbox, hpart, ← hx]
      exact hbad
    · have hgood : ¬(63 < n ∨ (u.hostBox n).on = false ∨ (u.hostBox n).part ≠ u.partOf r) := by
        rw [hbox, hpart, ← hx]
        rintro (k | k | k)
        · exact absurd hlt (Nat.not_le.mpr k)
        · exact absurd (hon.symm.trans k) (by decide)
        · exact k hp
      have hspace : s.postRoom x = decide ((x.prod + 2 ^ 64 - cons) % 2 ^ 64 < x.size) := by rw [hcons]; rfl
      refine ⟨fun hfull => ?_, fun hfree v hv => ?_⟩
      · rw [hpost, if_neg (Bool.eq_false_iff.mp ho), State.mbpost, if_neg hgood, hbox, ← hx, hroom, hspace,
          decide_eq_false (Nat.not_lt.mpr hfull)]
        rfl
      · have hb : (u.release r .sys).hostBox n = x := by rw [(release_side u r .sys).hostBox, hbox, hx]
        have hthread : (u.thread r).block a 16 = (s.thread r).block a 16 := by rw [h.2, moved_thread_block]
        have hwrote (nosig : Bool) : u.mbpost r nosig d a n = (if nosig then v else v.raiseVector n).put r d 0 := by
          rw [State.mbpost, if_neg hgood, hbox, ← hx, hroom, hspace, decide_eq_true hfree, hthread, hv]
          show ((u.release r .sys).post n nosig _).put r d 0 = _
          rw [State.post, hb]
        refine ⟨?_, ?_⟩ <;> rw [hpost, if_neg (Bool.eq_false_iff.mp ho), hwrote] <;> rfl
  · show Host.Outcome.next (s.each g _) = _
    rw [h.each, h.2]
    rfl
  · rw [exec_jnlFail h, State.jnlFail, hforeign, hpart, if_pos hf]
  · rw [exec_jnlFail h, State.jnlFail, hforeign, hpart, if_neg (Bool.eq_false_iff.mp hf)]

/-- Settles O41, by the state in which the thread has moved on: its mailboxes and rings are those before, and a release is of the memory side. -/
theorem mailboxesAndJournal : Obligations.MailboxesAndJournal := ⟨mailboxes, postsAndJournal⟩

/-! ### Launches and slices (R411, R412) -/

section
variable {s u v : State} {g : Guard} {r : Ref} {d a : Reg} {b : Src}

theorem exec_launch (h : Runs s g r u) : exec (.launch g d a b) s =
    .next (if s.owes r || s.launchHeld r ((s.thread r).pair a).toNat then u.heldBack r
      else u.launch r d ((s.thread r).pair a) (s.val32 (s.thread r) b)) := by
  show Host.Outcome.next (s.eachAfter g _ _) = _
  rw [h.after, h.2, moved_src32 h.alone, moved_rd64]
  rfl

theorem exec_sliceDl (h : Runs s g r u) :
    exec (.sliceDl g d a b) s = .next (u.sliceDl r d ((s.thread r).reg a) (s.val64 (s.thread r) b)) := by
  show Host.Outcome.next (s.each g _) = _
  rw [h.each, h.2, moved_src64 h.alone, moved_rd]

theorem exec_sliceKill (h : Runs s g r u) : exec (.sliceKill g d a) s = .next (u.sliceKill r d ((s.thread r).reg a)) := by
  show Host.Outcome.next (s.each g _) = _
  rw [h.each, h.2, moved_rd]

/-- Nothing that a launch reads waits while no column is under repair and no change of domains is under way. -/
theorem launchHeld_none (va : Nat) (hr : s.repair = []) (hd : s.domNew = []) : s.launchHeld r va = false := by
  simp [State.launchHeld, hr, hd]

theorem writeSys_side (s : State) (pa : Nat) (bs : List Byte) : MemorySide s (s.writeSys pa bs) := by
  unfold State.writeSys
  refine (foldl_side (fun (s : State) k => s.settle (pa + k)) (fun s k => settle_side s (pa + k)) (List.range bs.length) s).trans ?_
  rfl

theorem journal_groups (s : State) (part state mbox lref hash hdrPa why try_ : Nat) :
    (s.journal part state mbox lref hash hdrPa why try_).groups = s.groups := by
  simp only [State.journal, State.updPart_groups]
  exact (writeSys_side _ _ _).groups

theorem dropUnplaced_groups (s : State) (id : Nat) : (s.dropUnplaced id).groups = s.groups := rfl

end

/-- Settles O42, by what the thread finds in memory or by what its reference names: a release is of the memory side, and a journal entry
leaves the groups. -/
theorem launchesAndSlices : Obligations.LaunchesAndSlices := by
  intro s g r u d a b va lref q h hva hlref hq
  have hpart : u.partOf r = q := by rw [hq, h.2]; rfl
  have hbears : u.bears = s.bears := by rw [h.2]; rfl
  have hgroups : u.groups = s.groups := by rw [h.2]; rfl
  subst hva hlref
  refine ⟨fun hw => ?_, fun hr hd => launchHeld_none _ hr hd, fun st ho hl hst => ?_, fun hd gi v ho hl hok => ?_, fun st hst => ⟨?_, ?_⟩,
    fun l hl => ⟨?_, ?_⟩⟩
  · rw [exec_launch h, if_pos (Bool.or_eq_true_iff.mpr hw)]
  · rw [exec_launch h, if_neg (by simp [ho, hl]), State.launch, hst, hpart]
  · rw [exec_launch h, if_neg (by simp [ho, hl]), State.launch, hok, hpart]
  · rw [exec_sliceDl h, State.sliceDl, hpart, hbears, hst]
  · rw [exec_sliceKill h, State.sliceKill, hpart, hbears, hst]
  · rw [exec_sliceDl h, State.sliceDl, hpart, hbears, hl, ← hgroups]
    rfl
  · rw [exec_sliceKill h, State.sliceKill, hpart, hbears, hl]
    dsimp only
    rw [dropUnplaced_groups, journal_groups, hgroups]

/-! ### Nodes (R404, R405, R413) -/

section
variable {s u v : State} {g : Guard} {r : Ref} {d a : Reg} {b : Src} {id die q ea : Nat}

theorem exec_nodegoCfg (h : Runs s g r u) : exec (.nodegoCfg g d a b) s =
    .next (if s.owes r || s.tmplHeld r (s.val32 (s.thread r) b).toNat then u.heldBack r
      else u.nodegoCfg r d ((s.thread r).reg a).toNat (s.val32 (s.thread r) b).toNat) := by
  show Host.Outcome.next (s.eachAfter g _ _) = _
  rw [h.after, h.2, moved_src32 h.alone, moved_rd, src32_own h.alone.gid]

theorem exec_nodegoFlush (h : Runs s g r u) : exec (.nodegoFlush g d a) s = .next (u.nodegoFlush r d ((s.thread r).reg a).toNat) := by
  show Host.Outcome.next (s.each g _) = _
  rw [h.each, h.2, moved_rd]

theorem exec_nodegoQ (h : Runs s g r u) : exec (.nodegoQ g d a) s = .next (u.nodegoQ r d ((s.thread r).reg a).toNat) := by
  show Host.Outcome.next (s.each g _) = _
  rw [h.each, h.2, moved_rd]

theorem exec_nodegoOff (h : Runs s g r u) : exec (.nodegoOff g d a) s = .next (u.nodegoOff r d ((s.thread r).reg a).toNat) := by
  show Host.Outcome.next (s.each g _) = _
  rw [h.each, h.2, moved_rd]

/-- NODEGO.cfg of a node that is not bound, whose descriptor passes its check. -/
theorem nodegoCfg_passes {w : Where} (hid : id < 1024) (hn : u.node (u.dieOf r) (u.partOf r) id = none) (hal : ea % 32 = 0)
    (hc : u.check r .core ea 32 32 false false = .ok (w, v)) :
    u.nodegoCfg r d id ea = v.nodeCfg r d id (wordsOfBytes (v.readAt (v.coreOf r) w 32)) := by
  rw [State.nodegoCfg, if_neg (Nat.not_le.mpr hid), hn, if_neg (by simp), if_neg (not_not.mpr hal), hc]

theorem nodeCfg_refused {rcd : List Word} (hb : v.descOk (v.partOf r) (v.dieOf r) id rcd = false ∨ v.tmplRead r rcd = none) :
    v.nodeCfg r d id rcd = v.put r d 2 := by
  rw [State.nodeCfg]
  rcases hb with hb | hb
  · rw [hb]
    rfl
  · rw [hb]
    exact ite_self _

/-- NODEGO.cfg with a descriptor in range whose template can be read. -/
theorem nodeCfg_read {rcd hw : List Word} {es : List (Nat × Nat)} {gi : List DWord} {t : State}
    (hd : v.descOk (v.partOf r) (v.dieOf r) id rcd = true) (ht : v.tmplRead r rcd = some (hw, es, gi, t)) : v.nodeCfg r d id rcd =
      if !(t.tmplOk (v.partOf r) (v.dieOf r) id rcd hw es) then v.put r d 2
      else if 1023 ≤ id then v.put r d 4
      else (t.release r .dev).lockAsk true { (t.release r .dev).newOp r 0 .dev (.ring id d) [] [ringRng (v.dieOf r) id rcd] 0 with
        desc := rcd ++ hw ++ (gi.map splitD).flatten } (fun s op => s.ringOpen op id d) := by
  rw [State.nodeCfg, hd, ht]
  rfl

end

theorem nodeBound : Claim.NodeBound := by
  intro s g r u d a b id die q ea h hid hdie hq hea
  have hu : u.node = s.node ∧ u.dieOf r = die ∧ u.partOf r = q := by
    rw [h.2, hdie, hq]
    exact ⟨rfl, rfl, rfl⟩
  obtain ⟨hnode, hdieu, hpart⟩ := hu
  refine ⟨fun hw => ?_, fun hr hd => launchHeld_none _ hr hd, fun ho hl => ?_⟩
  · rw [exec_nodegoCfg h, ← hea, if_pos (Bool.or_eq_true_iff.mpr hw)]
  have hcfg : exec (.nodegoCfg g d a b) s = .next (u.nodegoCfg r d id ea) := by
    rw [exec_nodegoCfg h, ← hea, ← hid, if_neg (by simp [ho, hl])]
  rw [hcfg]
  refine ⟨fun hk => ?_, fun hk hn => ?_, fun hk hn hal => ?_, fun w x rcd hw es gi v op hk hn hal hc hrcd => ?_⟩
  · rw [State.nodegoCfg, if_pos hk]
  · rw [State.nodegoCfg, if_neg (Nat.not_le.mpr hk), hnode, hdieu, hpart, if_pos hn]
  · rw [State.nodegoCfg, if_neg (Nat.not_le.mpr hk), hnode, hdieu, hpart, hn, if_neg (by simp), if_pos hal]
  · have hx := (check_side hc).1
    have hxp : x.partOf r = q := (hx.partOf r).trans hpart
    have hxd : x.dieOf r = die := by rw [State.dieOf, hx.coreOf]; exact hdieu
    have hxc : x.coreOf r = s.coreOf r := by rw [hx.coreOf, h.2]; rfl
    have hxdesc : x.descOk = s.descOk := by rw [hx, h.2]; rfl
    rw [nodegoCfg_passes hk (by rw [hnode, hdieu, hpart, hn]) hal hc, hxc, ← hrcd]
    refine ⟨fun hbad => ?_, fun hdesc hread => ?_⟩
    · rw [nodeCfg_refused]
      rw [hxp, hxd, hxdesc]
      exact hbad.imp_right And.right
    · rw [nodeCfg_read (by rw [hxp, hxd, hxdesc, hdesc]) hread, hxp, hxd]
      refine ⟨fun ht => by rw [ht]; rfl, fun ht h3 => ?_, fun ht h3 hop hready => ?_⟩
      · rw [ht, if_pos (Nat.le_of_eq h3.symm)]
        rfl
      · have hlt : ¬1023 ≤ id := fun hge => h3 (Nat.le_antisymm (Nat.le_of_lt_succ hk) hge)
        rw [ht, if_neg (by simp), if_neg hlt]
        exact congrArg Host.Outcome.next (lockAsk_ready hop (by rw [hop]; rfl) hready _)

theorem nodeCommands : Claim.NodeCommands := by
  intro s g r u d a id die q h hid hdie hq
  have hu : u.node = s.node ∧ u.dieOf r = die ∧ u.partOf r = q := by
    rw [h.2, hdie, hq]
    exact ⟨rfl, rfl, rfl⟩
  obtain ⟨hnode, hdieu, hpart⟩ := hu
  rw [exec_nodegoFlush h, exec_nodegoQ h, exec_nodegoOff h, ← hid, State.nodegoFlush, State.nodegoQ, State.nodegoOff, hnode, hdieu, hpart]
  refine ⟨fun hk => ?_, fun hn hk => ?_, fun n hn hk => ?_⟩
  · rw [if_pos hk, if_pos hk, if_pos hk]
    exact ⟨rfl, rfl, rfl⟩
  · rw [if_neg (Nat.not_le.mpr hk), if_neg (Nat.not_le.mpr hk), if_neg (Nat.not_le.mpr hk), hn]
    exact ⟨rfl, rfl, rfl⟩
  · rw [if_neg (Nat.not_le.mpr hk), if_neg (Nat.not_le.mpr hk), if_neg (Nat.not_le.mpr hk), hn]
    dsimp only
    refine ⟨fun hp => ?_, fun hp => ?_, rfl, fun hp => ?_, fun hp hr v w hv hw => ⟨fun h2 => ?_, fun h2 => ?_⟩⟩
    · rw [if_neg (by simpa using hp)]
    · rw [hp]
      rfl
    · rw [if_pos (by simpa using hp)]
    · rw [if_neg (by simp [hp, hr]), if_neg h2, hw, hv]
      generalize u.journal q 2 noMbox (n.lref % 2 ^ 32) 0 0 0 0 = j
      rfl
    · rw [if_neg (by simp [hp, hr]), if_pos h2, hw, hv]
      generalize u.journal q 2 noMbox (n.lref % 2 ^ 32) 0 0 0 0 = j
      rfl

/-- Settles O43, by the order of the statuses: the state after a check or a read differs from the thread's only on the memory side. -/
theorem nodeBinding : Obligations.NodeBinding := ⟨nodeBound, nodeCommands⟩

end Sys2Proof.Machine
end

section
/-! Admission queries and records (18), and context moves (19). -/

namespace Sys2Proof.Machine

/-! ### Admission queries (R398, R401, R414) -/

section
variable {s u : State} {g : Guard} {r : Ref} {d a : Reg} {n : Nat}

theorem exec_admitqEnergy (h : Runs s g r u) :
    exec (.admitqEnergy g d a) s = .next (u.putTwo r d (s.admitEnergy ((s.thread r).reg a).toNat)) := by
  show Host.Outcome.next (s.each g _) = _
  rw [h.each, h.2, moved_rd]
  rfl

theorem exec_admitqTherm (h : Runs s g r u) :
    exec (.admitqTherm g d a) s = .next (u.putTwo r d (s.admitTherm (s.dieOf r) ((s.thread r).reg a).toNat)) := by
  show Host.Outcome.next (s.each g _) = _
  rw [h.each, h.2, moved_rd]
  rfl

theorem exec_admitqAct (h : Runs s g r u) : exec (.admitqAct g d a) s = .next (u.putTwo r d (s.admitAct ((s.thread r).reg a).toNat)) := by
  show Host.Outcome.next (s.each g _) = _
  rw [h.each, h.2, moved_rd]
  rfl

theorem exec_admitqGate (h : Runs s g r u) :
    exec (.admitqGate g d a) s = .next (u.put64 r d (s.admitGate (s.dieOf r) ((s.thread r).reg a).toNat)) := by
  show Host.Outcome.next (s.each g _) = _
  rw [h.each, h.2, moved_rd]
  rfl

theorem exec_admitqQueue (h : Runs s g r u) :
    exec (.admitqQueue g d a) s = .next (u.putTwo r d (s.admitQueue (s.partOf r) ((s.thread r).reg a).toNat)) := by
  show Host.Outcome.next (s.each g _) = _
  rw [h.each, h.2, moved_rd]
  rfl

/-- The activity of a core that one partition holds is that of its context. -/
theorem actOf_held {q : Nat} (hq : ∀ p, p < 4 → (s.holds n p = true ↔ p = q)) (hlt : q < 4) : s.actOf n = (s.ctx n q).actWord := by
  have hf : (List.range 4).find? (fun p => s.holds n p) = some q := by
    have hp (p : Nat) (h : p < 4) : s.holds n p = decide (p = q) := Bool.eq_iff_iff.mpr (by rw [hq p h, decide_eq_true_iff])
    show [0, 1, 2, 3].find? (fun p => s.holds n p) = some q
    simp only [List.find?_cons, hp 0 (by omega), hp 1 (by omega), hp 2 (by omega), hp 3 (by omega), List.find?_nil]
    interval_cases q <;> rfl
  rw [State.actOf, hf]
  rfl

theorem sum_rangeFour (h : Nat → Nat) : ((List.range 4).map h).foldl (· + ·) 0 = h 0 + h 1 + h 2 + h 3 := by
  simp [List.range_succ]

/-- Four bytes of a word as a sum. -/
theorem sum_fourBytes (f : Nat → Nat) : ((List.range 4).map (fun k => f (k + 1) % 256 * 2 ^ (8 * k))).foldl (· + ·) 0 =
    f 1 % 256 + f 2 % 256 * 2 ^ 8 + f 3 % 256 * 2 ^ 16 + f 4 % 256 * 2 ^ 24 := by
  rw [sum_rangeFour, Nat.mul_zero, Nat.pow_zero, Nat.mul_one]

theorem ceilLogic_eq : ceilLogic = 26880 ∧ ceilLogic.toInt = 26880 := by decide

theorem ceilDram_eq : ceilDram = 24320 ∧ ceilDram.toInt = 24320 := by decide

/-- The margins of a cell in signed arithmetic (R398). -/
theorem binding_eq (c : Word × Word) :
    binding c = if 26880 - c.1.toInt ≤ 24320 - c.2.toInt then (c.1, 26880) else (c.2, 24320) := by
  have hb : binding c = if ceilLogic.toInt - c.1.toInt ≤ ceilDram.toInt - c.2.toInt then (c.1, ceilLogic) else (c.2, ceilDram) := rfl
  rw [hb, ceilLogic_eq.2, ceilDram_eq.2, ceilLogic_eq.1, ceilDram_eq.1]

end

theorem admissionQueries : Claim.AdmissionQueries := by
  intro s g r u d a n h hn
  rw [exec_admitqEnergy h, exec_admitqAct h, exec_admitqTherm h, exec_admitqGate h, exec_admitqQueue h, ← hn]
  refine ⟨fun hk => ⟨?_, fun q w hq hlt hw => ?_⟩, fun hk => ⟨?_, ?_⟩, fun c hk hc => ?_, fun hk => ?_, fun hk => ?_,
    fun f => ⟨fun h0 hf => ?_, fun h1 hf => ?_⟩, fun h2 => ?_, fun hk => ?_, fun hk => ?_⟩
  · rw [State.admitEnergy, coreExists, decide_eq_true hk]
    rfl
  · rw [State.admitAct, coreExists, decide_eq_true hk, if_pos rfl, actOf_held hq hlt, hw, sum_fourBytes]
    rfl
  · rw [State.admitEnergy, coreExists, decide_eq_false (Nat.not_lt.mpr hk)]
    rfl
  · rw [State.admitAct, coreExists, decide_eq_false (Nat.not_lt.mpr hk)]
    rfl
  · rw [State.admitTherm, if_pos hk, List.getD_eq_getElem?_getD, hc, Option.getD_some, binding_eq]
    refine ⟨fun hm => ?_, fun hm => ?_⟩
    · rw [if_pos hm]
      rfl
    · rw [if_neg (Int.not_le.mpr hm)]
      rfl
  · rw [State.admitTherm, if_neg (Nat.not_lt.mpr hk)]
    rfl
  · obtain ⟨m, rfl⟩ : ∃ m, n = m + 3 := ⟨n - 3, (Nat.sub_add_cancel hk).symm⟩
    rfl
  · rw [h0, show f = fun k => Engine.core (64 * s.dieOf r + k) from funext hf]
    rfl
  · rw [h1, show f = fun k => Engine.slice k from funext hf]
    rfl
  · rw [h2]
  · rw [State.admitQueue, if_pos hk]
    rfl
  · rw [State.admitQueue, if_neg (Nat.not_lt.mpr hk)]
    rfl

/-! ### Records (R372 to R374, R415 to R417) -/

/-- A record that is listed is changed as it stands. -/
theorem upsert_congr {α : Type} {p : α → Bool} {x : α} {f f' : α → α} :
    ∀ {l : List α}, f ((l.find? p).getD x) = f' ((l.find? p).getD x) → upsert p x f l = upsert p x f' l
  | [], h => by rw [upsert, upsert]; exact congrArg (fun y => [y]) h
  | y :: l, h => by
    rw [upsert, upsert]
    rw [List.find?_cons] at h
    cases hy : p y with
    | true =>
      rw [hy] at h
      exact congrArg (fun z => z :: l) h
    | false =>
      rw [hy] at h
      exact congrArg (fun z => y :: z) (upsert_congr h)

section
variable {s u v : State} {g : Guard} {r : Ref} {d a : Reg} {b : Src} {n : Node} {node slot cnt k : Nat}

theorem updDie_congr {die : Nat} {f f' : Die → Die} (h : f (s.die die) = f' (s.die die)) : s.updDie die f = s.updDie die f' := by
  rw [State.updDie, State.updDie, upsert_congr h]

theorem exec_recalloc (h : Runs s g r u) : exec (.recalloc g d a) s = .next (u.recalloc r d ((s.thread r).reg a).toNat) := by
  show Host.Outcome.next (s.each g _) = _
  rw [h.each, h.2, moved_rd]

/-- RECALLOC in a ring of the thread's partition. -/
theorem recalloc_ring (hn : u.node (u.dieOf r) (u.partOf r) node = some n) (hlt : node < 1022) : u.recalloc r d node =
    (u.recTake r node d).getD (u.parkAs r (.record node d)) := by
  rw [State.recalloc, if_neg]
  · cases u.recTake r node d <;> rfl
  · rintro (h | h | ⟨-, h⟩)
    · omega
    · omega
    · rw [hn] at h
      exact absurd h (by simp)

theorem recalloc_blend : u.recalloc r d 1023 = (u.recTake r 1023 d).getD (u.parkAs r (.record 1023 d)) := by
  rw [State.recalloc, if_neg (by omega)]
  cases u.recTake r 1023 d <;> rfl

end

theorem recordSlots : Claim.RecordSlots := by
  intro s g r u d a n die q id h hdie hq hid
  have hu : u.node = s.node ∧ u.dieOf r = die ∧ u.partOf r = q ∧ u.die = s.die ∧ u.serial = s.serial := by
    rw [h.2, hdie, hq]
    exact ⟨rfl, rfl, rfl, rfl, rfl⟩
  obtain ⟨hnode, hdieu, hpart, hdies, hser⟩ := hu
  rw [exec_recalloc h, ← hid]
  refine ⟨fun hn hlt => ?_, fun hb => ?_, fun hbad => ?_⟩
  · rw [recalloc_ring (by rw [hnode, hdieu, hpart, hn]) hlt, State.recTake, if_neg (by omega), hnode, hdieu, hpart, hn]
    dsimp only
    refine ⟨fun k c hk hc => ?_, fun hk => ?_⟩
    · rw [hk, hc]
      rfl
    · rw [hk]
      rfl
  · subst hb
    rw [recalloc_blend, State.recTake, if_pos rfl, hdieu, hdies, hser]
    refine ⟨fun hfull => ?_, fun hfree => ?_⟩
    · rw [if_pos hfull]
      rfl
    · rw [if_neg (Bool.eq_false_iff.mp hfree)]
      refine congrArg (fun v => Host.Outcome.next (State.put v r d (recHandle (s.die die).blendHead 1023 (s.serial % 1024)))) ?_
      refine updDie_congr ?_
      have hbump : u.bump.die die = s.die die := by rw [← hdies]; rfl
      rw [hbump]
  · rw [State.recalloc, if_pos]
    rw [hdieu, hpart, hnode]
    rcases hbad with h2 | h4 | ⟨hlt, hno⟩
    · exact .inl h2
    · exact .inr (.inl h4)
    · exact .inr (.inr ⟨by omega, by rw [hno]; rfl⟩)

section
variable {s u v : State} {g : Guard} {r : Ref} {d a : Reg} {b : Src} {n : Node} {node slot cnt : Nat}

theorem exec_recemit (h : Runs s g r u) : exec (.recemit g a b) s =
    .next (if s.owes r then u.heldBack r else u.recemit r ((s.thread r).reg a) (s.val32 (s.thread r) b).toNat) := by
  show Host.Outcome.next (s.eachAfter g _ _) = _
  rw [h.after, h.2, moved_src32 h.alone, moved_rd]

/-- The fields of a handle (R415). -/
theorem recHandle_fields (hs : slot < 4096) (hn : node < 1024) (hc : cnt < 1024) : bitsOf (recHandle slot node cnt) 31 20 = slot ∧
    bitsOf (recHandle slot node cnt) 19 10 = node ∧ bitsOf (recHandle slot node cnt) 9 0 = cnt := by
  simp only [bitsOf, recHandle, BitVec.toNat_ofNat]
  omega

/-- A handle is held where the thread's list has it, of the node's present binding. -/
theorem holds_any (l : List RecHold) (n : Node) (node slot cnt : Nat) :
    l.any (fun x => x.node == node && some x.lock == some n.lock && x.slot == slot && x.count == cnt) = true ↔
      (⟨node, n.lock, slot, cnt⟩ : RecHold) ∈ l := by
  simp only [List.any_eq_true, Bool.and_eq_true, beq_iff_eq, Option.some.injEq]
  constructor
  · rintro ⟨x, hx, ⟨⟨rfl, hl⟩, rfl⟩, rfl⟩
    rw [← hl]
    exact hx
  · exact fun hx => ⟨_, hx, ⟨⟨rfl, rfl⟩, rfl⟩, rfl⟩

/-- RECEMIT of a shader node's handle by whether the thread holds it. -/
theorem recemit_ring {ea : Nat} (hs : slot < 4096) (hc : cnt < 1024) (hlt : node < 1023)
    (hn : u.node (u.dieOf r) (u.partOf r) node = some n) : 
    ((∀ x ∈ (u.thread r).holds, x ≠ ⟨node, n.lock, slot, cnt⟩) → u.recemit r (recHandle slot node cnt) ea = u.fail r causeAccess) ∧
    (∀ w v, (⟨node, n.lock, slot, cnt⟩ : RecHold) ∈ (u.thread r).holds → u.check r .core ea (nodeRec n.desc) 16 false false = .ok (w, v) →
      u.recemit r (recHandle slot node cnt) ea = v.recPublish r node slot w n) := by
  obtain ⟨hslot, hnode, hcnt⟩ := recHandle_fields hs (Nat.lt_succ_of_lt hlt) hc
  have hne : ¬node = 1023 := Nat.ne_of_lt hlt
  rw [State.recemit, hslot, hnode, hcnt, hn]
  simp only [if_neg hne]
  refine ⟨fun hno => if_pos ?_, fun w v hin hck => ?_⟩
  · have hany : ¬_ := mt (holds_any (u.thread r).holds n node slot cnt).mp (fun hin => hno _ hin rfl)
    simpa using Bool.eq_false_iff.mpr hany
  · have hany := (holds_any (u.thread r).holds n node slot cnt).mpr hin
    rw [Option.map_some, hany, if_neg (by simp), Option.map_some, Option.getD_some, hck]

/-- RECEMIT of a blend handle by whether the thread holds it. -/
theorem recemit_blend {ea : Nat} (hs : slot < 4096) (hc : cnt < 1024) (hn : u.node (u.dieOf r) (u.partOf r) 1023 = none) :
    ((u.die (u.dieOf r)).blendRes.any (fun x => x.slot == slot && x.gid == r.1 && x.tid == r.2 && x.count == cnt) = false →
      u.recemit r (recHandle slot 1023 cnt) ea = u.fail r causeAccess) ∧
    (∀ w v, (u.die (u.dieOf r)).blendRes.any (fun x => x.slot == slot && x.gid == r.1 && x.tid == r.2 && x.count == cnt) = true →
      u.check r .core ea 32 16 false false = .ok (w, v) → u.recemit r (recHandle slot 1023 cnt) ea = v.recBlend r slot w) := by
  obtain ⟨hslot, hnode, hcnt⟩ := recHandle_fields (node := 1023) hs (by omega) hc
  rw [State.recemit, hslot, hnode, hcnt, hn]
  refine ⟨fun hno => if_pos (by simp [hno]), fun w v hin hck => ?_⟩
  rw [if_pos rfl, hin, if_neg (by simp), if_pos rfl]
  dsimp only
  rw [hck]

end

theorem recordsPublished : Claim.RecordsPublished := by
  intro s g r u v a b die q slot node cnt w h hdie hq hs hlt hc hreg
  have hu : u.node = s.node ∧ u.dieOf r = die ∧ u.partOf r = q ∧ u.die = s.die ∧ u.coreOf r = s.coreOf r ∧
      (u.thread r).holds = (s.thread r).holds := by
    rw [h.2, hdie, hq]
    exact ⟨rfl, rfl, rfl, rfl, rfl, moved_thread_holds s r r⟩
  obtain ⟨hnode, hdieu, hpart, hdies, hcore, hholds⟩ := hu
  rw [exec_recemit h, hreg]
  refine ⟨fun ho => by rw [if_pos ho], fun n ho h3 hn => ⟨fun hin hck x hx => ?_, fun hno => ?_⟩, fun ho h3 hn => ?_,
    fun held ho hheld h3 hn => ⟨fun hin hck => ?_, fun hno => ?_⟩⟩ <;> rw [if_neg (Bool.eq_false_iff.mp ho)]
  · rw [(recemit_ring hs hc h3 (by rw [hnode, hdieu, hpart, hn])).2 w v (hholds ▸ hin) hck, State.recPublish, (check_side hck).1.coreOf, hcore, ← hx]
  · rw [(recemit_ring hs hc h3 (by rw [hnode, hdieu, hpart, hn])).1 (hholds ▸ hno)]
  · obtain ⟨hslot, hnd, hcnt⟩ := recHandle_fields hs hlt hc
    rw [State.recemit, hnd, hnode, hdieu, hpart, hn, if_pos]
    simp [Nat.ne_of_lt h3]
  · subst h3
    have hside := (check_side hck).1
    rw [(recemit_blend hs hc (by rw [hnode, hdieu, hpart, hn])).2 w v (by rw [hdies, hdieu, ← hheld, hin]) hck, State.recBlend,
      hside.coreOf, hcore]
    have hp : (v.release r .die).partOf r = q := by rw [(release_side v r .die).partOf, hside.partOf, hpart]
    have hd : v.dieOf r = die := by rw [State.dieOf, hside.coreOf]; exact hdieu
    rw [hp, hd]
  · subst h3
    rw [(recemit_blend hs hc (by rw [hnode, hdieu, hpart, hn])).1 (by rw [hdies, hdieu, ← hheld, hno])]

section
variable {s u : State} {g : Guard} {r : Ref} {d : Reg} {b : Src} {n : Node} {node slot k : Nat}

theorem exec_recrd (h : Runs s g r u) : exec (.recrd g d b) s =
    .next (if s.acquires r then u.heldBack r else u.recrd r d (s.val32 (s.thread r) b).toNat) := by
  show Host.Outcome.next (s.eachAfter g _ _) = _
  rw [h.after, h.2, moved_src32 h.alone]

theorem exec_recfin (h : Runs s g r u) : exec (.recfin g) s = .next (u.dropRecord r) := congrArg Host.Outcome.next (h.each _)

/-- RECRD of a word of the thread's record. -/
theorem recrd_word (ht : (u.thread r).record = some (node, slot)) (hn : u.node (u.dieOf r) (u.partOf r) node = some n) : u.recrd r d k =
    if (u.thread r).recDone = true ∨ nodeRec n.desc / 4 ≤ k then u.fail r causeAccess
    else u.pushLoad r (.record d (BitVec.ofNat 32 (ofBytes (u.mem.readN (u.slotLoc n slot + 4 * k) 4)))) := by
  rw [State.recrd, ht]
  dsimp only
  rw [hn]

theorem dropRecord_done (hd : (u.thread r).recDone = true) : u.dropRecord r = u := by
  rw [State.dropRecord, hd]
  cases (u.thread r).record <;> rfl

theorem dropRecord_none (ht : (u.thread r).record = none) : u.dropRecord r = u := by rw [State.dropRecord, ht]

/-- RECFIN of the thread's record: its slot is empty at once where none of its words is on its way. -/
theorem dropRecord_held {v : State} (hl : u.hasThread r = true) (ht : (u.thread r).record = some (node, slot))
    (hd : (u.thread r).recDone = false)
    (hv : v = (u.answerSlot (u.dieOf r) (u.partOf r) node slot).upd r (fun t => { t with recDone := true })) :
    u.dropRecord r = if (u.thread r).reading then v else v.emptySlot (u.dieOf r) (u.partOf r) node slot := by
  have hthread : v.thread r = { u.thread r with recDone := true } := by
    rw [hv]
    exact State.upd_thread (s := u.answerSlot (u.dieOf r) (u.partOf r) node slot) (fun _ => rfl) hl
  have hplace : v.dieOf r = u.dieOf r ∧ v.partOf r = u.partOf r := by
    rw [hv]
    exact ⟨rfl, rfl⟩
  have hrecord : (v.thread r).record = some (node, slot) := by rw [hthread]; exact ht
  have hgone : ((v.thread r).recDone && !(v.thread r).reading) = !(u.thread r).reading := by rw [hthread]; rfl
  rw [State.dropRecord, ht, hd]
  show ((u.answerSlot (u.dieOf r) (u.partOf r) node slot).upd r _).emptyRecord r = _
  rw [← hv, State.emptyRecord, hrecord, hplace.1, hplace.2]
  dsimp only
  rw [hgone]
  cases (u.thread r).reading <;> rfl

end

theorem recordsRead : Claim.RecordsRead := by
  intro s g r u d b die q h hdie hq
  have hu : u.node = s.node ∧ u.dieOf r = die ∧ u.partOf r = q ∧ u.mem = s.mem ∧ u.slotLoc = s.slotLoc ∧
      (u.thread r).record = (s.thread r).record ∧ (u.thread r).recDone = (s.thread r).recDone ∧
      (u.thread r).reading = (s.thread r).reading := by
    rw [hdie, hq, h.thread, h.2]
    exact ⟨rfl, rfl, rfl, rfl, rfl, rfl, rfl, rfl⟩
  obtain ⟨hnode, hdieu, hpart, hmem, hslot, hrecord, hdone, hreading⟩ := hu
  rw [exec_recrd h, exec_recfin h]
  refine ⟨fun ha => by rw [if_pos ha], fun node slot n k hr hn hk => ⟨fun hd hlt ha => ?_, fun ha hbad => ?_, fun hd v hv => ⟨fun hw => ?_, fun hw => ?_⟩⟩,
    fun hr => ⟨fun ha => ?_, ?_⟩, fun hd => ?_⟩
  · rw [if_neg (Bool.eq_false_iff.mp ha), ← hk, recrd_word (hrecord.trans hr) (by rw [hnode, hdieu, hpart, hn]), if_neg, hmem, hslot]
    rw [hdone, hd]
    rintro (h0 | h0)
    · exact absurd h0 (by decide)
    · exact absurd hlt (Nat.not_lt.mpr h0)
  · rw [if_neg (Bool.eq_false_iff.mp ha), ← hk, recrd_word (hrecord.trans hr) (by rw [hnode, hdieu, hpart, hn]), if_pos (hdone.symm ▸ hbad)]
  · rw [dropRecord_held h.hasThread (hrecord.trans hr) (hdone.trans hd) (hdieu.symm ▸ hpart.symm ▸ hv), hreading, hw, if_pos rfl]
  · rw [dropRecord_held h.hasThread (hrecord.trans hr) (hdone.trans hd) (hdieu.symm ▸ hpart.symm ▸ hv), hreading, hw, hdieu, hpart, if_neg (by decide)]
  · rw [if_neg (Bool.eq_false_iff.mp ha), State.recrd, hrecord, hr]
  · rw [dropRecord_none (hrecord.trans hr)]
  · rw [dropRecord_done (hdone.trans hd)]

/-- Settles O44, by what each query reads of the state, and by the slot that a handle names or a thread took. -/
theorem admissionAndRecords : Obligations.AdmissionAndRecords := ⟨admissionQueries, recordSlots, recordsPublished, recordsRead⟩

/-! ### Context moves (R22, R426, R440) -/

section
variable {s u v : State} {g : Guard} {r : Ref} {d a : Reg} {b : Src} {q m : Word} {op h : Nat}

theorem exec_ctxMove (hr : Runs s g r u) {i : Instr} (hi : (i, op) ∈ [(Instr.preempt g d a b, 0), (.ctxsv g d a b, 1), (.ctxld g d a b, 2)]) :
    exec i s = .next (u.ctxMove r op d a b) := by
  simp only [List.mem_cons, Prod.mk.injEq, List.not_mem_nil, or_false] at hi
  obtain ⟨rfl, rfl⟩ | ⟨rfl, rfl⟩ | ⟨rfl, rfl⟩ := hi <;> exact congrArg Host.Outcome.next (hr.each _)

theorem ctxMove_eq (hr : Runs s g r u) (hq : q = (s.thread r).reg a) (hm : m = s.val32 (s.thread r) b) : u.ctxMove r op d a b =
    ((u.parkAs r (.ctx op d q m)).ctxTry r op d q m).getD (u.parkAs r (.ctx op d q m)) := by
  have hrd : u.rd r a = q := by rw [hr.2, moved_rd, hq]
  have hsrc : u.src32 r b = m := by rw [hr.2, moved_src32 hr.alone, hm]
  rw [State.ctxMove, hrd, hsrc]
  cases (u.parkAs r (.ctx op d q m)).ctxTry r op d q m <;> rfl

theorem ctxTry_halted (hh : u.ctxHalted (u.partOf r) op q m = true) : u.ctxTry r op d q m = none := by
  unfold State.ctxTry
  exact if_pos hh

theorem ctxTry_refused (hh : u.ctxHalted (u.partOf r) op q m = false) (hst : u.ctxStatus (u.partOf r) op q m ≠ 0) :
    u.ctxTry r op d q m = some ((u.wake r).put r d (BitVec.ofNat 32 (u.ctxStatus (u.partOf r) op q m))) := by
  unfold State.ctxTry
  dsimp only
  rw [if_neg (Bool.eq_false_iff.mp hh), if_pos hst]

/-- A move that may be made, by its kind. -/
theorem ctxTry_made (hh : u.ctxHalted (u.partOf r) op q m = false) (hst : u.ctxStatus (u.partOf r) op q m = 0) :
    (op = 2 → u.ctxTry r op d q m = some (((u.wake r).put r d 0).restore q.toNat (m &&& 0xFFFF))) ∧
    (u.commonHolder (m &&& 0xFFFF) = some h →
      (op = 0 → u.atRest h (m &&& 0xFFFF) = true → u.ctxTry r op d q m =
        some ((((u.wake r).put r d 0).save h q.toNat true (m &&& 0xFFFF)).restore q.toNat (m &&& 0xFFFF))) ∧
      (op = 1 → u.atRest h (m &&& 0xFFFF) = true → u.ctxTry r op d q m = some (((u.wake r).put r d 0).save h q.toNat false (m &&& 0xFFFF))) ∧
      (op = 0 ∨ op = 1 → u.atRest h (m &&& 0xFFFF) = false → u.ctxTry r op d q m = none)) := by
  unfold State.ctxTry
  dsimp only
  rw [if_neg (Bool.eq_false_iff.mp hh), if_neg (not_not.mpr hst)]
  refine ⟨fun ho => by subst ho; rfl, fun hc => ?_⟩
  rw [hc]
  refine ⟨fun ho hw => ?_, fun ho hw => ?_, fun ho hw => ?_⟩
  · subst ho
    exact if_pos hw
  · subst ho
    exact if_pos hw
  · rcases ho with rfl | rfl <;> exact if_neg (Bool.eq_false_iff.mp hw)

/-- A context one of whose threads has an access outstanding is not at rest. -/
theorem atRest_outstanding {t : Thread} (ht : t ∈ u.threads) (hw : (u.group t.gid).within h m = true) (ho : t.loads ≠ [] ∨ t.stores ≠ []) :
    u.atRest h m = false := by
  refine Bool.eq_false_iff.mpr (fun hrest => ?_)
  rw [State.atRest, Bool.and_eq_true, List.all_eq_true, List.all_eq_true] at hrest
  have hthread := hrest.2 t ht
  rw [hw] at hthread
  simp only [Bool.not_true, Bool.false_or, Bool.and_eq_true, List.isEmpty_iff] at hthread
  exact ho.elim (fun k => k hthread.1.1) (fun k => k hthread.1.2)

/-- A change of one thread keeps that a context has an access outstanding, if it keeps the thread's accesses. -/
theorem outstanding_upd {f : Thread → Thread} {p : Thread → Prop} (hf : ∀ t, p t → p (f t)) (ht : ∃ t ∈ s.threads, p t) :
    ∃ t ∈ (s.upd r f).threads, p t := by
  obtain ⟨t, hin, hp⟩ := ht
  refine ⟨if t.is r then f t else t, List.mem_map_of_mem hin, ?_⟩
  split
  · exact hf t hp
  · exact hp

end

/-- Settles O45, by the cases of a context move: halted, refused, made, or waiting for outstanding accesses. -/
theorem contextMoves : Obligations.ContextMoves := by
  intro s g r u d a b q m c h hq hm hc i op v hi hv
  subst hc hv
  generalize hw : u.parkAs r (.ctx op d q m) = w
  have hsame : w.ctxHalted = s.ctxHalted ∧ w.ctxStatus = s.ctxStatus ∧ w.partOf r = s.partOf r ∧ w.commonHolder = s.commonHolder := by
    rw [← hw, h.2]
    exact ⟨rfl, rfl, rfl, rfl⟩
  obtain ⟨hhalted, hstatus, hpart, hholder⟩ := hsame
  have hexec : exec i s = .next ((w.ctxTry r op d q m).getD w) := by rw [exec_ctxMove h hi, ctxMove_eq h hq hm, hw]
  rw [hexec]
  refine ⟨fun hh => ?_, fun hh => ⟨fun hst => ?_, fun hst => ?_⟩⟩
  · rw [ctxTry_halted (by rw [hhalted, hpart, hh])]
    rfl
  · rw [ctxTry_refused (by rw [hhalted, hpart, hh]) (by rw [hstatus, hpart]; exact hst), hstatus, hpart]
    rfl
  · have hmade (k : Nat) := ctxTry_made (d := d) (h := k) (by rw [hhalted, hpart, hh]) (by rw [hstatus, hpart]; exact hst)
    refine ⟨fun h2 => by rw [(hmade 0).1 h2]; rfl, fun k hk => ?_⟩
    obtain ⟨hpre, hsave, hwait⟩ := (hmade k).2 (by rw [hholder, hk])
    refine ⟨fun h0 hr => by rw [hpre h0 hr]; rfl, fun h1 hr => by rw [hsave h1 hr]; rfl, fun h2 ht => ?_⟩
    have hop : op = 0 ∨ op = 1 := by
      simp only [List.mem_cons, Prod.mk.injEq, List.not_mem_nil, or_false] at hi
      omega
    have hout : ∃ t ∈ w.threads, (s.group t.gid).within k (m &&& 0xFFFF) = true ∧ (t.loads ≠ [] ∨ t.stores ≠ []) := by
      rw [← hw, h.2]
      exact outstanding_upd (fun _ hp => hp) (outstanding_upd (fun _ hp => hp) ht)
    obtain ⟨t, hin, hwithin, hacc⟩ := hout
    rw [hwait hop (atRest_outstanding hin (by rw [show w.group t.gid = s.group t.gid by rw [← hw, h.2]; rfl, hwithin]) hacc)]
    rfl

end Sys2Proof.Machine
end

section
/-! The events of picking, meeting, fetching, waking and entering the handler. -/

namespace Sys2Proof.Machine

/-! ### Picking and meeting (R61, R63, R64, R156, R396, R399) -/

section
variable {s : State} {core k : Nat}

theorem exec_pick (hb : s.bundle = none) : exec .pick s = .next (s.pick s.arg.a s.arg.b) := by
  show Host.Outcome.next (if s.bundle.isSome then s else s.pick s.arg.a s.arg.b) = _
  rw [hb]
  rfl

theorem exec_meetingForm (hb : s.bundle = none) : exec .meetingForm s = .next (s.meetingForm s.arg.a s.arg.b) := by
  show Host.Outcome.next (if s.bundle.isSome then s else s.meetingForm s.arg.a s.arg.b) = _
  rw [hb]
  rfl

/-- Handler-mode threads issue first. -/
theorem pick_handlers {t : Thread} (hs : (s.rdy core).filter (fun t => t.handler) ≠ [])
    (ht : s.pickFirst core ((s.rdy core).filter (fun t => t.handler)) false = some t) : s.pick core k =
      (s.watch core (s.rdy core) (s.gatherAt core ((s.rdy core).filter (fun t => t.handler)) t.gid t.pc t.lineAt)).latch core t
        (s.gatherAt core ((s.rdy core).filter (fun t => t.handler)) t.gid t.pc t.lineAt) none := by
  unfold State.pick
  dsimp only
  rw [if_pos (by simpa using hs), ht]

theorem pick_ordinary (hs : (s.rdy core).filter (fun t => t.handler) = []) :
    (∀ q, s.blockedFor core (s.rdy core) = some q → s.pick core k = (s.watch core (s.rdy core) []).countBlocked core q k) ∧
    (∀ t, s.blockedFor core (s.rdy core) = none → s.pickFirst core (s.rdy core) true = some t → s.pick core k =
      ((s.watch core (s.rdy core) (s.gatherAt core (s.rdy core) t.gid t.pc t.lineAt)).pickerCycle core (s.rdy core)
        (s.gatherAt core (s.rdy core) t.gid t.pc t.lineAt)).latch core t (s.gatherAt core (s.rdy core) t.gid t.pc t.lineAt) none) := by
  unfold State.pick
  dsimp only
  rw [hs, if_neg (by decide)]
  refine ⟨fun q hq => by rw [hq], fun t hq ht => ?_⟩
  rw [hq]
  dsimp only
  rw [ht]

/-- A formed meeting issues in handler mode, or where neither handler-mode threads nor the activity hold it back. -/
theorem meetingForm_next {v : State} {t : Thread} (hv : v = s.stampMeetings core k) (ht : v.meetNext core = some t) :
    (t.handler = true → s.meetingForm core k =
      (v.watch core (v.rdy core) (v.presentAt t)).latch core t (v.presentAt t) (some (v.meetPart t))) ∧
    (t.handler = false → (v.rdy core).any (fun q => q.handler) = false →
      (v.actFull core (v.group t.gid).part = true → s.meetingForm core k = v.countBlocked core (v.group t.gid).part k) ∧
      (v.actFull core (v.group t.gid).part = false → s.meetingForm core k =
        ((v.watch core (v.rdy core) (v.presentAt t)).pickerCycle core (v.rdy core) (v.presentAt t)).latch core t (v.presentAt t)
          (some (v.meetPart t)))) := by
  unfold State.meetingForm
  dsimp only
  rw [← hv, ht]
  dsimp only
  refine ⟨fun h => if_pos h, fun h hn => ⟨fun hf => ?_, fun hf => ?_⟩⟩
  · rw [if_neg (Bool.eq_false_iff.mp h), if_neg (Bool.eq_false_iff.mp hn), if_pos hf]
  · rw [if_neg (Bool.eq_false_iff.mp h), if_neg (Bool.eq_false_iff.mp hn), if_neg (Bool.eq_false_iff.mp hf)]

end

theorem pickerEvents : Claim.PickerEvents := by
  intro s v core k ts hs ha hb hbundle
  rw [exec_pick hbundle, exec_meetingForm hbundle, ha, hb]
  refine ⟨fun hts hhs => ?_, fun hv hts => ⟨fun hn => ?_, fun t refs ht hrefs => ?_⟩⟩
  · subst hhs hts
    refine ⟨fun t refs h0 ht hrefs => ?_, fun q h0 hq => ?_, fun t refs h0 hq ht hrefs => ?_⟩
    · rw [pick_handlers h0 ht, hrefs]
    · rw [(pick_ordinary h0).1 q hq]
    · rw [(pick_ordinary h0).2 t hq ht, hrefs]
  · unfold State.meetingForm
    dsimp only
    rw [← hv, hn]
  · obtain ⟨hhandler, hordinary⟩ := meetingForm_next hv ht
    subst hrefs hts
    exact ⟨fun h => congrArg Host.Outcome.next (hhandler h), fun h hq =>
      ⟨fun hf => congrArg Host.Outcome.next ((hordinary h hq).1 hf), fun hf => congrArg Host.Outcome.next ((hordinary h hq).2 hf)⟩⟩

/-! ### Lines, waking and the handler (R36, R72, R84, R85, R422, R473) -/

section
variable {s : State} {r : Ref}

/-- An event that names a thread names it by its numbers. -/
theorem named_eq (ha : s.arg.a = r.1) (hb : s.arg.b = r.2) : (s.arg.a, s.arg.b) = r := Prod.ext ha hb

theorem exec_lineFetch (hr : (s.arg.a, s.arg.b) = r) :
    exec .lineFetch s = .next (if s.needsLine (s.thread r) && !(s.lineHeld r) then s.lineFetch r else s) := by
  subst hr
  rfl

theorem exec_lineRefetch {x : UsedLine} (hr : (s.arg.a, s.arg.b) = r) (hx : (s.thread r).lineAt = some x) (hbad : x.bad = true) :
    exec .lineRefetch s = .next (s.lineRefetch r x) := by
  subst hr
  show execLineRefetch s = _
  unfold execLineRefetch
  dsimp only
  rw [hx]
  exact congrArg Host.Outcome.next (if_pos hbad)

theorem exec_threadUnpark (hr : (s.arg.a, s.arg.b) = r) :
    exec .threadUnpark s = .next (if s.mayWake (s.thread r) then (s.unpark r).getD s else s) := by
  subst hr
  rfl

theorem exec_sleepWake {at_ : Nat} (hr : (s.arg.a, s.arg.b) = r) (hp : (s.thread r).park = .sleep at_) :
    exec .sleepWake s = .next (if at_ ≤ s.dtb then s.wake r else s) := by
  subst hr
  show execSleepWake s = _
  unfold execSleepWake
  dsimp only
  rw [hp]

theorem exec_handlerEntry (hr : (s.arg.a, s.arg.b) = r) : exec .handlerEntry s =
    .next (if s.trapped (s.thread r) && s.atBoundary (s.thread r) then s.enterHandler r else s) := by
  subst hr
  rfl

theorem unpark_wait {l sc c m : Nat} (hp : (s.thread r).park = .wait l sc c m) (hm : s.waitMet r l sc c m = true) :
    s.unpark r = some (s.wake r) := by
  unfold State.unpark
  dsimp only
  rw [hp]
  exact if_pos hm

/-- A thread that is held at its instruction goes on with its bundle, once that is free. -/
theorem unpark_settle {b : Bundle} (hp : (s.thread r).park = .settle) (hb : s.waiting.find? (fun x => x.refs.contains r) = some b) :
    s.unpark r = if s.bundleFree b then
      some { b.refs.foldl State.wake s with bundle := some b, waiting := s.waiting.filter (fun x => x != b) } else none := by
  unfold State.unpark
  dsimp only
  rw [hp]
  show s.bundleGo r = _
  rw [State.bundleGo, hb]

theorem unpark_hitr {st : Bool} {d : Reg} (hp : (s.thread r).park = .hitr st d) (ht : (s.thread r).tracing = false) :
    s.unpark r = some ((s.wake r).hitrGo r st d) := by
  unfold State.unpark
  dsimp only
  rw [hp]
  exact if_neg (Bool.eq_false_iff.mp ht)

theorem bundleFree_iff (b : Bundle) : s.bundleFree b = true ↔
    (∀ q ∈ b.refs, (s.thread q).live = true → (s.thread q).unperformed = false) ∧
      (b.ins.any fetches = false ∨ (s.repair = [] ∧ s.domNew = [])) := by
  have hq (q : Ref) : (!((s.thread q).live && s.owes q)) = true ↔ ((s.thread q).live = true → (s.thread q).unperformed = false) := by
    show (!((s.thread q).live && (s.thread q).unperformed)) = true ↔ _
    cases (s.thread q).live <;> simp
  simp only [State.bundleFree, Bool.and_eq_true, List.all_eq_true, hq, Bool.or_eq_true, Bool.not_eq_true', List.isEmpty_iff]

/-- A woken thread's hit registers are as they were. -/
theorem wake_hit (s : State) (r : Ref) : ((s.wake r).thread r).hit = (s.thread r).hit ∧ ((s.wake r).thread r).hitSt = (s.thread r).hitSt := by
  by_cases h : s.hasThread r = true
  · have hw : (s.wake r).thread r = { s.thread r with park := .ready } := State.upd_thread (fun _ => rfl) h
    rw [hw]
    exact ⟨rfl, rfl⟩
  · have hw : (s.wake r).hasThread r = s.hasThread r := State.upd_hasThread (fun _ => rfl)
    rw [thread_unlisted h, thread_unlisted (hw.symm ▸ h)]
    exact ⟨rfl, rfl⟩

end

theorem threadProgress : Claim.ThreadProgress := by
  intro s r ha hb
  have hr := named_eq ha hb
  refine ⟨fun n ws v hneed hheld hf => ?_, fun hno => ?_, fun x ws v hx hbad hre => ?_, fun hm => ?_, fun hm => ?_, fun at_ hp => ?_,
    fun ht hat => ?_, fun hno => ?_⟩
  · rw [exec_lineFetch hr, hneed, hheld, State.lineFetch, hf]
    rfl
  · rw [exec_lineFetch hr, if_neg]
    rcases hno with hno | hno <;> simp [hno]
  · rw [exec_lineRefetch hr hx hbad, State.lineRefetch, hre]
    refine ⟨fun hp => ?_, fun hp => ?_⟩
    · exact congrArg Host.Outcome.next (if_pos hp)
    · exact congrArg Host.Outcome.next (if_neg (Bool.eq_false_iff.mp hp))
  · rw [exec_threadUnpark hr, if_neg (Bool.eq_false_iff.mp hm)]
  · rw [exec_threadUnpark hr, if_pos hm]
    refine ⟨fun hn => by rw [hn]; rfl, fun v hv => by rw [hv]; rfl, fun l sc c m hp hmet => by rw [unpark_wait hp hmet]; rfl, fun b hp hw => ?_,
      fun d ht => ?_⟩
    · rw [unpark_settle hp hw]
      refine ⟨fun hwaits => ?_, fun hdone hfetch => ?_⟩
      · rw [if_neg]
        · rfl
        · rintro hfree
          obtain ⟨q, hq, hlive, hun⟩ := hwaits
          exact absurd hun (Bool.eq_false_iff.mp (((bundleFree_iff b).mp hfree).1 q hq hlive))
      · rw [if_pos ((bundleFree_iff b).mpr ⟨hdone, hfetch⟩)]
        rfl
    · have hno : (s.thread r).tracing = false := Bool.eq_false_iff.mpr (fun h => by
        obtain ⟨ray, root, x, y, hin⟩ := (tracing_iff _).mp h
        exact ht _ hin ray root x y rfl)
      refine ⟨fun hp => ?_, fun hp => ?_⟩
      · rw [unpark_hitr hp hno, State.hitrGo, (wake_hit s r).1]
        rfl
      · rw [unpark_hitr hp hno, State.hitrGo, (wake_hit s r).2]
        rfl
  · rw [exec_sleepWake hr hp]
    exact ⟨fun h => by rw [if_pos h], fun h => by rw [if_neg (Nat.not_le.mpr h)]⟩
  · rw [exec_handlerEntry hr, ht, hat]
    rfl
  · rw [exec_handlerEntry hr, if_neg]
    rcases hno with hno | hno <;> simp [hno]

/-! ### Fences and timeouts (R188, R282, R283, R415, R423) -/

section
variable {s : State} {r : Ref}

theorem exec_fenceComplete (hr : (s.arg.a, s.arg.b) = r) {v : State} (hd : s.fenceDone r = some v) : exec .fenceComplete s = .next (v.wake r) := by
  subst hr
  show execFenceComplete s = _
  unfold execFenceComplete
  dsimp only
  rw [hd]

theorem fenceDone_fence {k : FKind} {sc : Scope} (hp : (s.thread r).park = .fence k sc) (hl : (s.thread r).loads = [])
    (hs : (s.thread r).stores = []) (hrep : sc.num < 4 ∨ s.repair = []) : s.fenceDone r = some (s.release r sc) := by
  have hdue : (decide (4 ≤ sc.num) && s.repairDue) = false := by
    rcases hrep with h | h
    · simp [Nat.not_le.mpr h]
    · rw [repairDue_none h, Bool.and_false]
  have hmet : s.fenceMet r k sc = true := by
    have hset := (settled_iff (s.thread r)).mpr ⟨hl, hs⟩
    cases k with
    | acq => simp [State.fenceMet, hl]
    | rel | ar | sc => rw [State.fenceMet, hset, hdue]; rfl
  rw [State.fenceDone, hp]
  exact if_pos hmet

theorem fenceDone_efence {sc : Scope} (hp : (s.thread r).park = .efence false sc) (hl : (s.thread r).loads = [])
    (hs : (s.thread r).stores = []) (hc : s.ccOf r = 0) (hrep : sc.num < 4 ∨ s.repair = []) : s.fenceDone r = some (s.fenceFlush r sc) := by
  have hdue : (decide (4 ≤ sc.num) && (s.fenceFlush r sc).repairDue) = false := by
    rcases hrep with h | h
    · simp [Nat.not_le.mpr h]
    · rw [repairDue_none (by rw [State.fenceFlush, (release_side s r sc).repair, h]), Bool.and_false]
  have hmet : s.efenceMet r false = true := by
    rw [State.efenceMet, hc, (settled_iff (s.thread r)).mpr ⟨hl, hs⟩]
    rfl
  rw [State.fenceDone, hp]
  show s.efenceDone r false sc = _
  unfold State.efenceDone
  dsimp only
  rw [hmet, hdue]
  rfl

theorem fenceDone_lfenceArray (hp : (s.thread r).park = .lfenceArray []) : s.fenceDone r = some s := by
  rw [State.fenceDone, hp]
  rfl

/-- A wait on a word or for a slot that has not been counted sets its cause after 2^24 cycles. -/
theorem exec_fewaitTimeout {e : Bool} {j : Nat} {d : Reg} {v : State} (hr : (s.arg.a, s.arg.b) = r)
    (hp : (s.thread r).park = .word ∨ (s.thread r).park = .slotw e j d) (hc : (s.thread r).counted = false)
    (hv : v = (s.setCause r causeFewait).upd r (fun t => { t with counted := true })) : exec .fewaitTimeout s =
      .next (if s.rawClk (s.coreOf r) - (s.thread r).since ≤ 2 ^ 24 then s
        else if v.enters r causeFewait then
          ({ v with feQueue := v.feQueue.filter (fun q => !(q.gid == r.1 && q.tid == r.2)) } : State).again r
        else v) := by
  subst hr
  show execFewaitTimeout s = _
  unfold execFewaitTimeout
  dsimp only
  rw [← hv, hc]
  rcases hp with hp | hp <;> rw [hp] <;> simp only [Bool.not_true, Bool.false_or, decide_eq_true_eq]

/-- A wait for a record's slot that has not been counted sets its cause after 2^24 cycles. -/
theorem exec_recfullTimeout {node : Nat} {d : Reg} {v : State} (hr : (s.arg.a, s.arg.b) = r) (hp : (s.thread r).park = .record node d)
    (hc : (s.thread r).counted = false) (hl : 2 ^ 24 < s.rawClk (s.coreOf r) - (s.thread r).since)
    (hv : v = (s.setCause r causeRecfull).upd r (fun t => { t with counted := true })) : exec .recfullTimeout s =
      .next (if v.enters r causeRecfull then v.upd r (fun t => { t with park := .ready, pc := t.parkPc }) else v) := by
  subst hr
  show execRecfullTimeout s = _
  unfold execRecfullTimeout
  dsimp only
  rw [← hv, hc, hp, decide_eq_false (Nat.not_le.mpr hl)]
  rfl

end

theorem fenceAndTimeouts : Claim.FenceAndTimeouts := by
  intro s r ha hb
  have hr := named_eq ha hb
  refine ⟨fun k sc hp hl hs hrep => ?_, fun hp => ?_, fun sc hp hl hs hc hrep => ?_, fun e j d hp hc => ⟨fun hle => ?_, fun v hlt hv => ?_⟩,
    fun node d v hp hc hlt hv => ?_⟩
  · rw [exec_fenceComplete hr (fenceDone_fence hp hl hs hrep)]
  · rw [exec_fenceComplete hr (fenceDone_lfenceArray hp)]
  · rw [exec_fenceComplete hr (fenceDone_efence hp hl hs hc hrep)]
  · rw [exec_fewaitTimeout hr hp hc rfl, if_pos hle]
  · rw [exec_fewaitTimeout hr hp hc hv, if_neg (Nat.not_le.mpr hlt)]
    exact ⟨fun he => by rw [if_neg (Bool.eq_false_iff.mp he)], fun he => by rw [if_pos he]⟩
  · rw [exec_recfullTimeout hr hp hc hlt hv]
    exact ⟨fun he => by rw [if_neg (Bool.eq_false_iff.mp he)], fun he => by rw [if_pos he]⟩

/-- Settles O46, by the branches of each event: what the core picks, what the thread that it names waits for, and when a wait has lasted too
long. -/
theorem threadEvents : Obligations.ThreadEvents := ⟨pickerEvents, threadProgress, fenceAndTimeouts⟩

end Sys2Proof.Machine
end

section
/-! The events of outstanding accesses, pages, caches and barriers. -/

namespace Sys2Proof.Machine

/-! ### Loads and stores that complete (R68, R70, R180, R243) -/

section
variable {s : State} {r : Ref}

theorem exec_loadComplete (s : State) : exec .loadComplete s = execLoadComplete s := rfl
theorem exec_storePerformed (s : State) : exec .storePerformed s = execStorePerformed s := rfl
theorem exec_atomicPerformed (s : State) : exec .atomicPerformed s = execAtomicPerformed s := rfl

/-- The name of a thread as an event carries it. -/
theorem eq_named (ha : s.arg.a = r.1) (hb : s.arg.b = r.2) : r = (s.arg.a, s.arg.b) := (named_eq ha hb).symm

end

theorem loadEvents : Claim.LoadEvents := by
  intro s r rest ha hb _
  obtain rfl := eq_named ha hb
  refine ⟨fun d ws hl => ?_, fun d w hl => ?_, fun pa d ws hl => ?_, fun req d o loc n f held w v hl hw hheld => ?_, fun d loc n hl ht hacq => ?_,
    fun d clu n hl hbar hfree => ?_, fun d clu n e hl hbar => ?_, fun d a hl hmay hopen => ?_⟩
  · rw [exec_loadComplete, execLoadComplete]
    dsimp only
    rw [hl]
    rfl
  · rw [exec_loadComplete, execLoadComplete]
    dsimp only
    rw [hl]
    rfl
  · rw [exec_loadComplete, execLoadComplete]
    dsimp only
    rw [hl]
    exact ⟨fun hr => congrArg Host.Outcome.next (if_pos hr), fun hr => congrArg Host.Outcome.next (if_neg (Bool.eq_false_iff.mp hr))⟩
  · subst hw
    rw [exec_loadComplete, execLoadComplete]
    dsimp only
    rw [hl]
    dsimp only
    rw [← hheld]
    refine ⟨fun hh => by rw [if_pos hh], fun hh hc => ?_, fun hh hc hv => ?_⟩ <;> rw [if_neg (Bool.eq_false_iff.mp hh)]
    · rw [if_pos hc]
      rfl
    · rw [if_neg (Bool.eq_false_iff.mp hc), hv]
      rfl
  · rw [exec_loadComplete, execLoadComplete]
    dsimp only
    rw [hl]
    dsimp only
    rw [ht, hacq]
    rfl
  · rw [exec_loadComplete, execLoadComplete]
    dsimp only
    rw [hl]
    dsimp only
    rw [hbar, hfree]
    rfl
  · rw [exec_loadComplete, execLoadComplete]
    dsimp only
    rw [hl]
    dsimp only
    rw [hbar]
    rfl
  · rw [exec_atomicPerformed, execAtomicPerformed]
    dsimp only
    rw [hl]
    dsimp only
    rw [hmay, hopen]
    rfl

section
variable {s : State} {r : Ref}

/-- TAGS of one word, performed after a release at the word's scope. -/
theorem tagsDone_one (loc : Nat) (full : Bool) : s.tagsDone r loc 1 full =
    ((s.release r (feScope loc)).setFull loc full).serveWord loc s.feQueue.length := by
  have hq : (s.release r (feScope loc)).feQueue = s.feQueue := by rw [release_side s r (feScope loc)]
  rw [State.tagsDone, ← hq]
  rfl

/-- A counted maintenance operation of a thread that is complete leaves its list. -/
def Thread.maintained (s : State) (t : Thread) : Thread :=
  match t.stores with
  | .maint _ :: rest => { t with stores := rest }
  | .tlbinv ws :: rest => if s.flown ws then { t with stores := rest } else t
  | _ => t

theorem maintained_is (s : State) (t : Thread) (q : Ref) : (Thread.maintained s t).is q = t.is q := by
  unfold Thread.maintained
  split
  · rfl
  · split <;> rfl
  · rfl

theorem exec_cacheMaintenanceComplete (hr : (s.arg.a, s.arg.b) = r) :
    exec .cacheMaintenanceComplete s = .next (s.upd r (Thread.maintained s)) := by
  subst hr
  rfl

/-- What the event leaves of the thread that it names, of the others, and of memory. -/
theorem maintained_after (hr : (s.arg.a, s.arg.b) = r) (hh : s.hasThread r = true) : ∃ v, exec .cacheMaintenanceComplete s = .next v ∧
    v.thread r = Thread.maintained s (s.thread r) ∧ (∀ q, q ≠ r → v.thread q = s.thread q) ∧ v.mem = s.mem :=
  ⟨_, exec_cacheMaintenanceComplete hr, State.upd_thread (fun t => maintained_is s t r) hh,
    fun _ hq => State.upd_thread_other hq (fun t => maintained_is s t _), rfl⟩

end

theorem storeEvents : Claim.StoreEvents := by
  intro s r rest k ha hb hk
  have hr := named_eq ha hb
  obtain rfl := eq_named ha hb
  refine ⟨fun sc pa hs => ?_, fun bun sc rel loc bs held hs hheld => ?_, fun loc full hs => ?_, fun a hl hs => ?_, fun i hs hh => ?_,
    fun ws hs hh => ?_⟩
  · rw [exec_storePerformed, execStorePerformed]
    dsimp only
    rw [hs]
    exact ⟨fun h => congrArg Host.Outcome.next (if_neg (Bool.eq_false_iff.mp h)), fun h => congrArg Host.Outcome.next (if_pos h)⟩
  · rw [exec_storePerformed, execStorePerformed]
    dsimp only
    rw [hs]
    dsimp only
    rw [← hk, ← hheld]
    exact ⟨fun h => congrArg Host.Outcome.next (if_pos h), fun h => congrArg Host.Outcome.next (if_neg (Bool.eq_false_iff.mp h))⟩
  · rw [exec_storePerformed, execStorePerformed]
    dsimp only
    rw [hs]
    dsimp only
    rw [← hk, tagsDone_one]
    exact ⟨fun h => congrArg Host.Outcome.next (if_pos h), fun h => congrArg Host.Outcome.next (if_neg (Bool.eq_false_iff.mp h))⟩
  · rw [exec_atomicPerformed, execAtomicPerformed]
    dsimp only
    rw [hl, hs]
    dsimp only
    rw [← hk]
    refine ⟨fun hm hc => ?_, fun hm hc => ?_, fun hm => ?_⟩
    · rw [hm, hc]
      rfl
    · rw [hm, hc]
      rfl
    · rw [hm]
      rfl
  · obtain ⟨v, hv, hthread, hother⟩ := maintained_after hr hh
    exact ⟨v, hv, hthread.trans (by rw [Thread.maintained, hs]), hother⟩
  · obtain ⟨v, hv, hthread, hother⟩ := maintained_after hr hh
    refine ⟨v, hv, hthread.trans ?_, hother⟩
    rw [Thread.maintained, hs]
    dsimp only
    split
    · rfl
    · rw [← hs]

/-! ### Caches and pages (R191, R195, R199, R208, R210, R212, R276, R455) -/

section
variable {s : State} {r : Ref}

theorem wbL2_side (s : State) (part lo n : Nat) : MemorySide s (s.wbL2 part lo n) := by
  unfold State.wbL2
  dsimp only
  refine MemorySide.trans ?_ (foldl_side _ (fun s c => ?_) _ _)
  · rfl
  · split
    · refine (touchWay_side s (s.part (s.linePart .l2 (c.1 / 64) part)).part c.1).trans ?_
      rfl
    · rfl

theorem wbWays_side (s : State) (lo n : Nat) : MemorySide s (s.wbWays lo n) := by
  unfold State.wbWays
  dsimp only
  refine MemorySide.trans ?_ (foldl_side _ (fun s c => ?_) _ _) <;> rfl

theorem evictLine_side (s : State) (x : CacheLine) : MemorySide s (s.evictLine x) := by
  unfold State.evictLine
  dsimp only
  split
  · exact (writeBack_side s x.part x.home (x.line * 64) 64).trans rfl
  · exact (wbL2_side s x.part (x.line * 64) 64).trans rfl
  · exact (wbWays_side s (x.line * 64) 64).trans rfl

theorem rezone_side (s : State) (base : Nat) (old new : Word) : MemorySide s (s.rezone base old new) :=
  (endZero_side s _).trans (endZero_side _ _)

theorem recall_side (s : State) (q pa : Nat) : MemorySide s (s.recall q pa) := by
  unfold State.recall
  dsimp only
  refine MemorySide.trans ?_ (foldl_side _ (fun (s : State) (c : Host.Cell) => putBelow_side s q _ c.2) _ _)
  rfl

/-- A returned request chooses its slice again where its GEN is an old one, and stands where it is current. -/
theorem l2Again_eq (part pa : Nat) (q : Nat × Nat) {dom : Domain} (hd : dom = (s.part part).domain) :
    (q.1 = dom.gen → dom.slices.getLsbD q.2 = true → s.l2Again part pa (some q) = some q) ∧
    (q.1 ≠ dom.gen → s.l2Again part pa (some q) = if dom.slices = 0 then none else some (dom.gen, sliceOf dom pa)) := by
  subst hd
  refine ⟨fun hg hs => ?_, fun hg => ?_⟩
  · have hne : (s.part part).domain.slices ≠ 0 := fun h => by
      rw [h] at hs
      exact absurd hs (by simp)
    unfold State.l2Again
    dsimp only [Option.bind_some]
    rw [if_neg hne, if_neg]
    rintro (h | h)
    · exact h hg
    · rw [hs] at h
      exact absurd h (by decide)
  · have hne : q.1 ≠ (s.part part).domain.gen ∨ (s.part part).domain.slices.getLsbD q.2 = false := .inl hg
    unfold State.l2Again
    dsimp only [Option.bind_some]
    rw [if_pos hne]

/-- A thread that has something in a list is listed. -/
theorem hasThread_of_loads {o : LoadOp} {rest : List LoadOp} (hl : (s.thread r).loads = o :: rest) : s.hasThread r = true := by
  by_contra h
  rw [thread_unlisted h] at hl
  exact absurd hl (by simp [Thread.none])

/-- The oldest load of a thread, returned. -/
def Thread.returned (s : State) (part : Nat) (t : Thread) : Thread :=
  match t.loads with
  | .late req d o loc n f :: rest => { t with loads := .late (s.l2Again part loc req) d o loc n f :: rest }
  | _ => t

theorem returned_is (s : State) (part : Nat) (t : Thread) (q : Ref) : (Thread.returned s part t).is q = t.is q := by
  unfold Thread.returned
  split <;> rfl

theorem exec_l2RequestReplay (hr : (s.arg.a, s.arg.b) = r) :
    exec .l2RequestReplay s = .next (s.upd r (Thread.returned s (s.partOf r))) := by
  subst hr
  rfl

end

theorem requestReturned {s : State} {r : Ref} {q : Nat × Nat} {dom : Domain} {d : Reg} {o : Order} {loc n : Nat} {f : LoadAs}
    {rest : List LoadOp} (hr : (s.arg.a, s.arg.b) = r) (hl : (s.thread r).loads = .late (some q) d o loc n f :: rest)
    (hd : dom = (s.part (s.partOf r)).domain) : ∃ v, exec .l2RequestReplay s = .next v ∧ v.mem = s.mem ∧ (∀ x, x ≠ r → v.thread x = s.thread x) ∧
      (q.1 = dom.gen → dom.slices.getLsbD q.2 = true → v.thread r = s.thread r) ∧
      (q.1 ≠ dom.gen → v.thread r = { s.thread r with
        loads := .late (if dom.slices = 0 then none else some (dom.gen, sliceOf dom loc)) d o loc n f :: rest }) := by
  have hthread : (s.upd r (Thread.returned s (s.partOf r))).thread r =
      { s.thread r with loads := .late (s.l2Again (s.partOf r) loc (some q)) d o loc n f :: rest } := by
    rw [State.upd_thread (fun t => returned_is s _ t r) (hasThread_of_loads hl), Thread.returned, hl]
  obtain ⟨hcurrent, hold⟩ := l2Again_eq (s.partOf r) loc q hd
  refine ⟨_, exec_l2RequestReplay hr, rfl, fun x hx => State.upd_thread_other hx (fun t => returned_is s _ t x), fun hg hs => ?_, fun hg => ?_⟩
  · rw [hthread, hcurrent hg hs, ← hl]
  · rw [hthread, hold hg]

/-! ### Changes of domains and divisions (R208, R210) -/

section
variable {s : State}

theorem MemorySide.part {s v : State} (h : MemorySide s v) (q : Nat) : v.part q = s.part q := by rw [h]; rfl

/-- A record that is changed or added is found as it then is. -/
theorem upsert_find {α : Type} {p : α → Bool} {x : α} {f : α → α} (hf : ∀ y, p y = true → p (f y) = true) (hx : p (f x) = true) :
    ∀ l : List α, (upsert p x f l).find? p = some (f ((l.find? p).getD x))
  | [] => by rw [upsert, List.find?_cons_of_pos hx]; rfl
  | y :: l => by
    rw [upsert]
    cases hy : p y with
    | true =>
      rw [if_pos rfl, List.find?_cons_of_pos (hf y hy), List.find?_cons_of_pos hy]
      rfl
    | false => rw [if_neg (by decide), List.find?_cons_of_neg (Bool.eq_false_iff.mp hy), List.find?_cons_of_neg (Bool.eq_false_iff.mp hy),
        upsert_find hf hx l]

/-- A record of a partition that is changed is read back. -/
theorem updPart_part (s : State) (q : Nat) {f : Part → Part} (hf : ∀ p, (f p).part = p.part) : (s.updPart q f).part q = f (s.part q) := by
  have hk (y : Part) : ((f y).part == q) = (y.part == q) := by rw [hf]
  rw [State.part, State.updPart, upsert_find (fun y h => (hk y).trans h) (by rw [hk]; exact beq_self_eq_true q)]
  rfl

/-- The change of a division that is accepted first is made, and leaves the list of those that wait. -/
theorem laydivMade {q g t : Nat} {new : Word} {rest : List (Nat × Nat × Word)} (ha : s.arg.a = q)
    (hn : (s.part q).laydivNew = (g, t, new) :: rest) :
    ∃ v, exec .laydivChangeComplete s = .next v ∧ (v.part q).laydiv = new ∧ (v.part q).laydivNew = rest := by
  subst ha
  have hexec : exec .laydivChangeComplete s = execLaydivChangeComplete s := rfl
  rw [hexec, execLaydivChangeComplete]
  dsimp only
  rw [hn]
  dsimp only
  generalize hw : s.updPart s.arg.a (fun p => { p with laydiv := new, laydivNew := rest }) = w
  have hpart : w.part s.arg.a = { s.part s.arg.a with laydiv := new, laydivNew := rest } := by
    rw [← hw]
    exact updPart_part s s.arg.a (fun _ => rfl)
  have hside := (foldl_side State.evictLine evictLine_side (w.overflow.filter (fun x => x.level == .way && x.part == s.arg.a)) w).trans
    (foldl_side (fun (v : State) n => v.rezone (0x2000000000000 + n * 0x2000000) (s.part s.arg.a).laydiv new)
      (fun v n => rezone_side v _ _ _) ((List.range 128).filter (fun n =>
        (((w.overflow.filter (fun x => x.level == .way && x.part == s.arg.a)).foldl State.evictLine w).part s.arg.a).clusters.getLsbD (n / 8))) _)
  refine ⟨_, rfl, ?_, ?_⟩
  · exact (congrArg Part.laydiv ((hside.part s.arg.a).trans hpart))
  · exact (congrArg Part.laydivNew ((hside.part s.arg.a).trans hpart))

/-- The change of domains that is accepted first leaves the list of those that wait. -/
theorem domainsMade {g t : Nat} {es : List (Nat × Domain)} {rest : List (Nat × Nat × List (Nat × Domain))}
    (hn : s.domNew = (g, t, es) :: rest) : ∃ v, exec .domainChangeComplete s = .next v ∧ v.domNew = rest := by
  have hexec : exec .domainChangeComplete s = execDomainChangeComplete s := rfl
  rw [hexec, execDomainChangeComplete, hn]
  exact ⟨_, rfl, rfl⟩

end

theorem memoryEvents : Claim.MemoryEvents := by
  intro s
  refine ⟨fun r q dom d o loc n f rest ha hb hl hd => requestReturned (named_eq ha hb) hl hd, fun hc => ⟨fun l hl => ?_, fun hl => ?_⟩, rfl,
    fun hb => ⟨_, congrArg Host.Outcome.next (if_neg (Bool.eq_false_iff.mp hb)), rfl, rfl⟩, fun g t es rest hn => domainsMade hn,
    fun g t new rest hn => laydivMade rfl hn, fun hh => congrArg Host.Outcome.next (if_pos hh),
    fun hh => congrArg Host.Outcome.next (if_neg (Bool.eq_false_iff.mp hh))⟩
  · have hexec : exec .pageWalk s = execPageWalk s := rfl
    rw [hexec, execPageWalk, hc, hl]
    rfl
  · have hexec : exec .pageWalk s = execPageWalk s := rfl
    rw [hexec, execPageWalk, hc, hl]
    rfl

/-! ### Barriers (R253, R254, R259) -/

theorem barrierEvents : Claim.BarrierEvents := by
  intro s
  have harrive : exec .barrierArrivalCounted s = execBarrierArrivalCounted s := rfl
  have hdetect : exec .barrierDeadlockDetect s = .next (if s.barDead s.arg.a (!(s.barDead s.arg.a false)) then
      (s.liveParty s.arg.a (!(s.barDead s.arg.a false))).foldl State.barWithdraw s else s) := rfl
  refine ⟨fun r bun clu n sync d rest ha hb hs => ?_, fun hd => ?_, fun hd => ⟨fun hc => ?_, fun hc => ?_⟩⟩
  · obtain rfl := eq_named ha hb
    rw [harrive, execBarrierArrivalCounted, hs]
    exact ⟨fun h => congrArg Host.Outcome.next (if_pos h), fun h => congrArg Host.Outcome.next (if_neg (Bool.eq_false_iff.mp h))⟩
  · rw [hdetect, hd]
    exact congrArg Host.Outcome.next (if_pos hd)
  · rw [hdetect, hd]
    exact congrArg Host.Outcome.next (if_pos hc)
  · rw [hdetect, hd]
    exact congrArg Host.Outcome.next (if_neg (Bool.eq_false_iff.mp hc))

/-- Settles O47, by the oldest operation of the thread that an event names, and by what writing lines back leaves: the memory side alone. -/
theorem accessEvents : Obligations.AccessEvents := ⟨loadEvents, storeEvents, memoryEvents, barrierEvents⟩

end Sys2Proof.Machine
end

section
/-! The events of locks, copies, boxes and matrix streams. -/

namespace Sys2Proof.Machine

/-! ### Locks, copies and boxes (R218, R219, R221, R225, R231) -/

section
variable {s v : State} {op : LockOp}

theorem exec_lockEntryRegister (hf : s.regFirst s.arg.a = some op)
    (hv : v = ({ s with regQueue := s.regQueue.filter (fun l => l.id != op.id) } : State)) :
    exec .lockEntryRegister s = .next (if op.again then v.lockAdd op else v.registered op) := by
  have hexec : exec .lockEntryRegister s = execLockEntryRegister s := rfl
  rw [hexec, execLockEntryRegister, hf, hv]

theorem lockEntryRegister_none (hf : s.regFirst s.arg.a = none) : exec .lockEntryRegister s = .next s := by
  have hexec : exec .lockEntryRegister s = execLockEntryRegister s := rfl
  rw [hexec, execLockEntryRegister, hf]

theorem exec_lockMirrorAck (hl : s.lockById s.arg.a = some op) : exec .lockMirrorAck s = .next (if op.acked then s
    else ({ s with locks := s.locks.map (fun l => if l.id = s.arg.a then { l with acked := true } else l) } : State).ackDo op) := by
  have hexec : exec .lockMirrorAck s = execLockMirrorAck s := rfl
  rw [hexec, execLockMirrorAck, hl]

theorem lockMirrorAck_none (hl : s.lockById s.arg.a = none) : exec .lockMirrorAck s = .next s := by
  have hexec : exec .lockMirrorAck s = execLockMirrorAck s := rfl
  rw [hexec, execLockMirrorAck, hl]

/-- A copy, between ranges or of a tensor. -/
def OpKind.copies : OpKind → Bool
  | .copy | .copyT _ _ => true
  | _ => false

theorem exec_copyComplete (hl : s.lockById s.arg.a = some op) :
    exec .copyComplete s = .next (if s.opMay op && s.copyInUnit op && op.kind.copies then s.copyDone op else s) := by
  have hexec : exec .copyComplete s = execCopyComplete s := rfl
  rw [hexec, execCopyComplete, hl]
  rfl

theorem exec_boxComplete (hl : s.lockById s.arg.a = some op) :
    (∀ e j, op.kind = .box e j → exec .boxComplete s = .next (if s.opMay op then s.boxDone op e j else s)) ∧
    (s.opMay op = false → exec .boxComplete s = .next s) := by
  have hexec : exec .boxComplete s = execBoxComplete s := rfl
  rw [hexec, execBoxComplete, hl]
  dsimp only
  refine ⟨fun e j hk => by rw [hk], fun hm => ?_⟩
  rw [hm]
  cases op.kind <;> rfl

theorem exec_boxStart {e : Bool} {b : SeBind} (he : e = (s.arg.c == 1)) (hm : s.boxMay s.arg.a s.arg.b e = true)
    (hb : (s.ctx s.arg.a s.arg.b).eng e = some b) (ho : s.boxOp s.arg.a s.arg.b e b b.next = some op)
    (hv : v = s.bump.updCtx s.arg.a s.arg.b (fun c => c.setEng e (some { b with next := b.next + 1 }))) :
    exec .boxStart s = .next (if v.lockReady v.regQueue op then v.lockAdd op else { v with regQueue := v.regQueue ++ [op] }) := by
  subst he hv
  have hexec : exec .boxStart s = execBoxStart s := rfl
  rw [hexec, execBoxStart]
  dsimp only
  rw [hm, hb]
  dsimp only
  rw [ho]
  rfl

end

theorem lockEvents : Claim.LockEvents := by
  intro s
  refine ⟨fun op v hf hv => ⟨fun ha => ?_, fun ha => ?_⟩, lockEntryRegister_none, fun op hl => ⟨fun ha => ?_, fun ha => ?_⟩, lockMirrorAck_none,
    fun op hl => ⟨fun hm => ⟨fun hk hc => ?_, fun x y hk hc => ?_, fun e j hk => ?_⟩, fun hm => ⟨?_, ?_⟩, fun hc => ?_⟩,
    fun e b op v he hm hb ho hv => ⟨fun hr => ?_, fun hr => ?_⟩, fun e he hm => ?_⟩
  · rw [exec_lockEntryRegister hf hv, if_neg (Bool.eq_false_iff.mp ha)]
  · rw [exec_lockEntryRegister hf hv, if_pos ha]
  · rw [exec_lockMirrorAck hl, if_neg (Bool.eq_false_iff.mp ha)]
  · rw [exec_lockMirrorAck hl, if_pos ha]
  · rw [exec_copyComplete hl, hm, hc, hk]
    rfl
  · rw [exec_copyComplete hl, hm, hc, hk]
    rfl
  · rw [(exec_boxComplete hl).1 e j hk, if_pos hm]
  · rw [exec_copyComplete hl, hm]
    rfl
  · exact (exec_boxComplete hl).2 hm
  · rw [exec_copyComplete hl, hc, Bool.and_false]
    rfl
  · rw [exec_boxStart he hm hb ho hv, if_pos hr]
  · rw [exec_boxStart he hm hb ho hv, if_neg (Bool.eq_false_iff.mp hr)]
  · subst he
    exact congrArg Host.Outcome.next (if_pos (by rw [hm]; rfl))

/-! ### The sequencer (R289, R291, R295) -/

section
variable {s v : State} {m : Stream}

/-- A line that a stream with room takes, of good parity and well formed. -/
theorem exec_streamLineFetch (hm : (s.group s.arg.a).stream = some m) (he : m.ended = false) (hf : m.fault = none)
    (hw : m.window.length < 16) :
    (s.fetchHeld (s.group s.arg.a).part (s.group s.arg.a).core m.fetch.toNat = true ∨ s.issuesNow s.arg.a = true →
      exec .streamLineFetch s = .next s) ∧
    (∀ n ws, s.fetchHeld (s.group s.arg.a).part (s.group s.arg.a).core m.fetch.toNat = false → s.issuesNow s.arg.a = false →
      s.fetch (s.group s.arg.a).part (s.group s.arg.a).core m.fetch.toNat = (.line n ws, v) → parityGood ws = true →
      (lineStarts ws).isSome = true → exec .streamLineFetch s = .next (State.acceptLine s.arg.a ws 5 v)) := by
  have hexec : exec .streamLineFetch s = execStreamLineFetch s := rfl
  rw [hexec, execStreamLineFetch]
  dsimp only
  rw [hm]
  dsimp only
  rw [he, hf, decide_eq_false (Nat.not_le.mpr hw)]
  refine ⟨fun h => congrArg Host.Outcome.next (if_pos ?_), fun n ws hh hi hl hp hs => ?_⟩
  · rcases h with h | h <;> simp [h]
  · rw [hh, hi, if_neg (by decide), hl]
    dsimp only
    rw [if_pos hp]
    dsimp only
    have hsome : (lineStarts ws).isNone = false := by
      rw [← Option.not_isSome, hs]
      rfl
    rw [hp, hsome]
    rfl

theorem exec_streamCommandIssue (s : State) : exec .streamCommandIssue s = execStreamCommandIssue s := rfl
theorem exec_streamCommandRetire (s : State) : exec .streamCommandRetire s = execStreamCommandRetire s := rfl

/-- The count of a stream that waits for arrivals: it ends, begins, or faults the stream's earliest command (R295). -/
theorem exec_mwaitbDeadlockDetect (hm : s.streamOf s.arg.a = some m)
    (ho : s.coreOpen (s.group s.arg.a).core (s.group s.arg.a).part = true) :
    (s.mwaitbDead s.arg.a m = false → exec .mwaitbDeadlockDetect s = .next (s.updStream s.arg.a (fun x => { x with stood := none }))) ∧
    (s.mwaitbDead s.arg.a m = true → m.stood = none →
      exec .mwaitbDeadlockDetect s = .next (s.updStream s.arg.a (fun x => { x with stood := some (s.rawClk (s.group s.arg.a).core) }))) ∧
    (∀ c rest b, s.mwaitbDead s.arg.a m = true → m.stood = some b → 4096 ≤ s.rawClk (s.group s.arg.a).core - b → m.window = c :: rest →
      m.fault = none → exec .mwaitbDeadlockDetect s = .next ((s.updStream s.arg.a (fun x => { x with window := [], stood := none })).streamFault
        s.arg.a causeBarerr ((cmdKey c.ins).elim 0 (fun k => k.id.toNat)))) := by
  have hexec : exec .mwaitbDeadlockDetect s = execMwaitbDeadlockDetect s := rfl
  rw [hexec, execMwaitbDeadlockDetect]
  dsimp only
  rw [hm]
  dsimp only
  rw [ho]
  refine ⟨fun hd => by rw [hd]; rfl, fun hd hs => by rw [hd, hs]; rfl, fun c rest b hd hs hle hw hf => ?_⟩
  rw [hd, hs, if_neg (by decide), if_neg (by decide)]
  dsimp only
  rw [if_neg (Nat.not_lt.mpr hle), hf, hw]
  rfl

end

theorem sequencerEvents : Claim.SequencerEvents := by
  intro s
  refine ⟨fun m n ws v hm he hf hw => ⟨fun h => ?_, fun hh hi hl hp hs => ?_⟩, fun cyc hc => ⟨fun g k hn => ?_, fun hn => ?_⟩, fun m c hm hw => ?_,
    fun m hm ho => exec_mwaitbDeadlockDetect hm ho⟩
  · exact (exec_streamLineFetch (v := v) hm he hf hw).1 h
  · exact (exec_streamLineFetch hm he hf hw).2 n ws hh hi hl hp hs
  · rw [exec_streamCommandIssue, execStreamCommandIssue]
    dsimp only
    rw [← hc, hn]
  · rw [exec_streamCommandIssue, execStreamCommandIssue]
    dsimp only
    rw [← hc, hn]
  · rw [exec_streamCommandRetire, execStreamCommandRetire, hm]
    dsimp only
    rw [hw]

/-! ### Rows and staging tiles (R291, R297, R312, R316, R399, R401, R402) -/

section
variable {s v : State} {m : Stream}

theorem rowGoesOn_arg (s : State) (core clk : Nat) : (s.rowGoesOn core clk).arg = s.arg := by
  unfold State.rowGoesOn
  dsimp only
  split
  · rw [State.updCore_arg, State.spend]
    split <;> rfl
  · rfl

/-- Which row enters, once the one before it has gone on. -/
theorem exec_matrixRowEntry {core clk : Nat} {array : Bool} (hcore : core = s.arg.a) (harray : array = (s.arg.b == 0))
    (hclk : clk = s.clk core + s.arg.c) (hv : v = if array then s.rowGoesOn core clk else s) :
    (array = true → v.arrayHeld core clk = true → exec .matrixRowEntry s = .next v) ∧
    (array = false ∨ v.arrayHeld core clk = false →
      (v.rowNext core array = none → exec .matrixRowEntry s = .next v) ∧
      (∀ g k, v.rowNext core array = some (g, k) →
        (v.actFull core g.part = true → exec .matrixRowEntry s = .next (v.countBlocked core g.part s.arg.c)) ∧
        (∀ m c, v.actFull core g.part = false → g.stream = some m → m.window[k]? = some c →
          exec .matrixRowEntry s = .next (v.rowEnter g m k c clk)))) := by
  have hexec : exec .matrixRowEntry s = execMatrixRowEntry s := rfl
  have harg : v.arg = s.arg := by
    rw [hv]
    split
    · exact rowGoesOn_arg s core clk
    · rfl
  rw [hexec, execMatrixRowEntry]
  dsimp only
  rw [← hcore, ← harray, ← hclk, ← hv, harg]
  refine ⟨fun ha hh => ?_, fun hn => ?_⟩
  · rw [ha, hh]
    rfl
  · have hfree : (array && v.arrayHeld core clk) = false := by rcases hn with hn | hn <;> simp [hn]
    rw [hfree, if_neg (by decide)]
    refine ⟨fun hr => by rw [hr], fun g k hr => ?_⟩
    rw [hr]
    dsimp only
    refine ⟨fun hf => by rw [if_pos hf], fun m c hf hg hk => ?_⟩
    rw [if_neg (Bool.eq_false_iff.mp hf), hg]
    dsimp only
    rw [hk]

theorem exec_mldwFetchStart (s : State) : exec .mldwFetchStart s = execMldwFetchStart s := rfl

end

theorem rowEvents : Claim.RowEvents := by
  intro s
  refine ⟨fun core array clk v hcore harray hclk hv => exec_matrixRowEntry hcore harray hclk hv, fun x k hf => ⟨fun hx => ?_, fun hx => ?_⟩,
    fun hf => ?_, fun m k c i lad t n row0 rows p hm hr hk hc hi hp => ?_⟩
  · rw [exec_mldwFetchStart, execMldwFetchStart]
    dsimp only
    rw [hf]
    exact congrArg Host.Outcome.next (if_pos hx)
  · rw [exec_mldwFetchStart, execMldwFetchStart]
    dsimp only
    rw [hf]
    exact congrArg Host.Outcome.next (if_neg hx)
  · rw [exec_mldwFetchStart, execMldwFetchStart]
    dsimp only
    rw [hf]
  · have hexec : exec .ladderPassDecide s = execLadderPassDecide s := rfl
    rw [hexec, execLadderPassDecide]
    dsimp only
    rw [hm]
    dsimp only
    rw [hr, if_neg (by decide), hk]
    dsimp only
    rw [hc]
    dsimp only
    rw [hi, hp]

/-- Settles O48, by the branches of each event; the row that goes on leaves what the event names. -/
theorem engineEvents : Obligations.EngineEvents := ⟨lockEvents, sequencerEvents, rowEvents⟩

end Sys2Proof.Machine
end

section
/-! The events of the Separator, the Vat, the row engine and the fixed-function nodes. -/

namespace Sys2Proof.Machine

/-! ### PRIOWs, placements and pixel segments (R345, R347 to R349, R359) -/

section
variable {s : State} {r : Ref}

theorem exec_separatorApply (s : State) : exec .separatorApply s = execSeparatorApply s := rfl

theorem separatorApply_one {k : Nat} (hr : (s.arg.a, s.arg.b) = r) (hp : s.priows r = [k]) : exec .separatorApply s = .next (s.sepTake r k) := by
  subst hr
  rw [exec_separatorApply, execSeparatorApply]
  dsimp only
  rw [hp]

/-- Of several PRIOWs a free choice takes one. -/
theorem separatorApply_several (hr : (s.arg.a, s.arg.b) = r) (hp : 2 ≤ (s.priows r).length) :
    ∃ k ∈ s.priows r, exec .separatorApply s = .next ((s.sepTake r k).drawn) := by
  subst hr
  rw [exec_separatorApply, execSeparatorApply]
  dsimp only
  match hl : s.priows (s.arg.a, s.arg.b), hp with
  | k :: j :: rest, _ =>
    have hlt : Config.choice s.draws s.serial % (k :: j :: rest).length < (k :: j :: rest).length := Nat.mod_lt _ (Nat.succ_pos _)
    refine ⟨(k :: j :: rest).getD (Config.choice s.draws s.serial % (k :: j :: rest).length) 0, ?_, rfl⟩
    rw [List.getD_eq_getElem _ _ hlt]
    exact List.getElem_mem hlt

/-- What a PRIOW at a place does to the Separator. -/
theorem sepTake_store {k : Nat} {o : StoreOp} (ho : (s.thread r).stores[k]? = some o) :
    s.sepTake r k = (s.updDisp (s.dieOf r) (fun y => o.sepApply y)).upd r (fun t => t.performed k) := by
  rw [State.sepTake, ho]
  rfl

/-- The entry that a store at a place of a thread writes is that of the operation listed there. -/
theorem storeOps_entry {t : Thread} {k : Nat} {p : StoreOp × Nat} {o : StoreOp} (hp : t.storeOps[k]? = some p) (ho : t.stores[k]? = some o) :
    p.1 = o := by
  rw [Thread.storeOps, List.getElem?_zip_eq_some] at hp
  exact Option.some.inj (hp.1.symm.trans ho)

/-- A PRIOW behind a lower thread's of its bundle on the same entry is not yet applied. -/
theorem priowMay_behind {k n : Nat} {m : SMap} {w : Word} {v : BitVec 16} (ho : (s.thread r).stores[k]? = some (.priow n m w v))
    (hq : ∃ q ∈ s.threads, q.tid < (s.thread r).tid ∧ ∃ y, StoreOp.priow n m w y ∈ q.stores) : s.priowMay r k = false := by
  obtain ⟨q, hq, hlt, y, hy⟩ := hq
  unfold State.priowMay
  dsimp only
  split
  · rfl
  next p hp =>
    have hpo := storeOps_entry hp ho
    rw [hpo]
    have hany : s.threads.any (fun u => decide (u.tid < (s.thread r).tid) &&
        u.stores.any (fun o => o.sepEntry == some (n, some (m, w)))) = true := by
      simp only [List.any_eq_true, Bool.and_eq_true, decide_eq_true_eq, beq_iff_eq]
      exact ⟨q, hq, hlt, _, hy, rfl⟩
    show (_ && !s.threads.any (fun u => decide (u.tid < (s.thread r).tid) && u.stores.any (fun o => o.sepEntry == some (n, some (m, w))))) = false
    rw [hany, Bool.not_true, Bool.and_false]

theorem exec_vatPlacement (s : State) : exec .vatPlacement s = execVatPlacement s := rfl

/-- A placement in its turn over the die. -/
theorem vatPlacement_own {n i : Nat} {blk : List Word} {rest : List StoreOp} {x : Display} (hr : (s.arg.a, s.arg.b) = r)
    (hs : (s.thread r).stores = .vput n blk false false :: rest) :
    (s.firstOrdered r n = true → (s.die (s.dieOf r)).display = some x → sampleTile x.cfg (hdrW blk 0) = some i →
      exec .vatPlacement s = .next ((s.place (s.dieOf r) x.cfg.vd i blk).upd r (fun t => { t with stores := rest }))) ∧
    (s.firstOrdered r n = false → exec .vatPlacement s = .next s) := by
  subst hr
  rw [exec_vatPlacement, execVatPlacement]
  dsimp only
  rw [hs]
  dsimp only
  refine ⟨fun hf hx hi => ?_, fun hf => ?_⟩
  · rw [hf, hx]
    dsimp only
    rw [hi]
    rfl
  · rw [hf]
    rfl

theorem exec_overlapIngest (s : State) : exec .overlapIngest s = execOverlapIngest s := rfl

theorem place_groups (s : State) (die vd i : Nat) (blk : List Word) : (s.place die vd i blk).groups = s.groups := rfl

/-- The oldest record of the ingest unit is taken off its queue; no group changes. -/
theorem overlapIngest_groups {o : OvlRec} {rest : List OvlRec} (ho : (s.die s.arg.a).overlap = o :: rest) :
    ∃ t, exec .overlapIngest s = .next t ∧ t.groups = s.groups := by
  rw [exec_overlapIngest, execOverlapIngest]
  dsimp only
  rw [ho]
  refine ⟨_, rfl, ?_⟩
  dsimp only
  rw [State.upd_groups]
  split
  · rfl
  · split <;> rfl

theorem exec_rowputCopy (s : State) : exec .rowputCopy s = execRowputCopy s := rfl

/-- A segment before its turn, late for its row, or delivered. -/
theorem rowputCopy_own {k x0 : Nat} {row : Int} {rest : List StoreOp} {op : LockOp} {x : Display} (hr : (s.arg.a, s.arg.b) = r)
    (hs : (s.thread r).stores = .rowput k row x0 :: rest) (hl : s.lockById k = some op) :
    (s.rowputBefore op row = true ∨ op.acked = false ∨ s.opRepairs op = true → exec .rowputCopy s = .next s) ∧
    (s.rowputBefore op row = false → op.acked = true → s.opRepairs op = false → (s.die op.die).display = some x →
      (s.rowLocked x row = true → exec .rowputCopy s =
        .next (((s.updDisp op.die (fun y => y.count 4 1)).lockDrop k).upd r (fun t => { t with stores := rest }))) ∧
      (∀ z bs, s.rowLocked x row = false → op.src = [z] → s.engRead op.gid z.sp z.lo z.len = .ok bs → exec .rowputCopy s =
        .next ((((s.engTouch op.gid z.sp z.lo z.len).updDisp op.die (fun y => y.deliver row x0 (wordsOfBytes bs))).lockDrop k).upd r
          (fun t => { t with stores := rest })))) := by
  subst hr
  rw [exec_rowputCopy, execRowputCopy]
  dsimp only
  rw [hs]
  dsimp only
  rw [hl]
  dsimp only
  refine ⟨fun h => congrArg Host.Outcome.next (if_pos ?_), fun hb ha hc hx => ?_⟩
  · rcases h with h | h | h <;> simp [h]
  · rw [hb, ha, hc, hx, if_neg (by decide)]
    refine ⟨fun hk => ?_, fun z bs hk hz hread => ?_⟩
    · rw [Option.map_some, hk]
      rfl
    · rw [Option.map_some, hk, hz]
      dsimp only
      rw [hread]
      rfl

end

theorem sampleStoreEvents : Claim.SampleStoreEvents := by
  intro s r x ha hb
  have hr := named_eq ha hb
  refine ⟨fun hp => ?_, fun k n m w v hp ho => ?_, fun k n w hp ho => ?_, fun hp => separatorApply_several hr hp, fun k n m w v ho hq => ?_,
    fun n blk rest i hs => vatPlacement_own hr hs, fun o rest ho => overlapIngest_groups ho,
    fun k row x0 rest op hs hl => rowputCopy_own hr hs hl⟩
  · subst hr
    rw [exec_separatorApply, execSeparatorApply]
    dsimp only
    rw [hp]
  · rw [separatorApply_one hr hp, sepTake_store ho]
    rfl
  · rw [separatorApply_one hr hp, sepTake_store ho]
    rfl
  · intro hk
    have hmay := (List.mem_filter.mp hk).2
    rw [priowMay_behind ho hq] at hmay
    exact absurd hmay (by decide)

/-! ### The Separator and the row engine (R336, R338 to R341, R344, R346, R461, R463) -/

section
variable {s : State} {die : Nat}

/-- A record of a die that is changed is read back. -/
theorem updDie_die (s : State) (d : Nat) {f : Die → Die} (hf : ∀ x, (f x).die = x.die) : (s.updDie d f).die d = f (s.die d) := by
  have hk (y : Die) : ((f y).die == d) = (y.die == d) := by rw [hf]
  rw [State.die, State.updDie, upsert_find (fun y h => (hk y).trans h) (by rw [hk]; exact beq_self_eq_true d)]
  rfl

theorem updDisp_display (s : State) (d : Nat) (f : Display → Display) : ((s.updDisp d f).die d).display = (s.die d).display.map f := by
  exact congrArg Die.display (updDie_die s d (f := fun x => { x with display := x.display.map f }) (fun _ => rfl))

theorem exec_separatorVisit (s : State) : exec .separatorVisit s = execSeparatorVisit s := rfl
theorem exec_positionIssue (s : State) : exec .positionIssue s = execPositionIssue s := rfl
theorem exec_rowLock (s : State) : exec .rowLock s = execRowLock s := rfl
theorem exec_rowEngineEnable (s : State) : exec .rowEngineEnable s = execRowEngineEnable s := rfl

theorem separatorVisit_due {x : Display} (hx : (s.die s.arg.a).display = some x) (hd : x.visitAt x.visit ≤ (s.dtb : Int)) :
    ∃ t, exec .separatorVisit s = .next t ∧ t.mem = s.mem ∧
      ((t.die s.arg.a).display).map (fun y => y.visit) = some (DispCfg.nextVisit x.cfg x.visit) := by
  rw [exec_separatorVisit, execSeparatorVisit]
  refine ⟨_, rfl, rfl, ?_⟩
  rw [updDisp_display, hx, Option.map_some, Option.map_some, if_neg (Int.not_lt.mpr hd)]

/-- The position at the head of the queue of a die with its sample node. -/
theorem positionIssue_head {x : Display} {p : Nat × Nat × Nat} {rest : List (Nat × Nat × Nat)} {n : Node}
    (hx : (s.die s.arg.a).display = some x) (hq : x.queue = p :: rest) (hn : s.sampleNode s.arg.a = some n) :
    (x.deadline p.2.2 ≤ (s.dtb : Int) → exec .positionIssue s = .next (s.dropPos s.arg.a x (some n) rest)) ∧
    ((s.dtb : Int) < x.deadline p.2.2 → x.waiting = false →
      (∀ k, n.firstEmpty = some k → exec .positionIssue s = .next (s.issuePos s.arg.a x n p rest)) ∧
      (n.firstEmpty = none → exec .positionIssue s = .next (s.updDisp s.arg.a (fun y => { y with waiting := true })))) ∧
    ((s.dtb : Int) < x.deadline p.2.2 → x.waiting = true → exec .positionIssue s = .next s) := by
  rw [exec_positionIssue, execPositionIssue]
  dsimp only
  rw [hx]
  dsimp only
  rw [hq]
  dsimp only
  rw [hn]
  dsimp only
  refine ⟨fun hd => by rw [if_pos hd], fun hd hw => ⟨fun k hk => ?_, fun hk => ?_⟩, fun hd hw => ?_⟩ <;> rw [if_neg (Int.not_le.mpr hd), hw]
  · rw [hk]
    rfl
  · rw [hk]
    rfl
  · rfl

theorem rowLock_due {x : Display} (hx : (s.die s.arg.a).display = some x) :
    ((s.dtb : Int) < x.light x.nl - 4096 → exec .rowLock s = .next s) ∧
    (x.light x.nl - 4096 ≤ (s.dtb : Int) → ∃ t, exec .rowLock s = .next t ∧ t.threads = s.threads ∧
      (t.die s.arg.a).display = some { x with lines := x.lines.filter (fun p => p.1 != x.nl), nl := x.nl + 1 }) := by
  rw [exec_rowLock, execRowLock]
  dsimp only
  rw [hx]
  dsimp only
  refine ⟨fun hd => by rw [if_pos hd], fun hd => ?_⟩
  rw [if_neg (Int.not_lt.mpr hd)]
  refine ⟨_, rfl, rfl, ?_⟩
  rw [updDisp_display]
  exact congrArg (Option.map _) hx

theorem clearVat_side (s : State) (die vat : Nat) : MemorySide s (s.clearVat die vat) := by
  unfold State.clearVat
  refine foldl_side _ (fun _ _ => ?_) _ _
  rfl

theorem MemorySide.dtb {s v : State} (h : MemorySide s v) : v.dtb = s.dtb := by rw [h]; rfl

/-- The state in which a die's row engine starts, its Vat and its held image cleared (v is the state with the Vat cleared). -/
def State.engineOn (v : State) (die : Nat) (c : DispCfg) (vat : Nat) : State :=
  ({ v with mem := v.mem.clear c.held (c.nrow * c.ncol * 4) } : State).updDie die
    (fun d => { d with display := some (Display.start c vat ((v.dtb + 1023) / 1024 * 1024)), vatHeads := [] })

theorem engineOn_die (v : State) (die : Nat) (c : DispCfg) (vat : Nat) : (v.engineOn die c vat).die die =
    { v.die die with display := some (Display.start c vat ((v.dtb + 1023) / 1024 * 1024)), vatHeads := [] } := by
  rw [State.engineOn]
  exact updDie_die ({ v with mem := v.mem.clear c.held (c.nrow * c.ncol * 4) } : State) die
    (f := fun d => { d with display := some (Display.start c vat ((v.dtb + 1023) / 1024 * 1024)), vatHeads := [] }) (fun _ => rfl)

/-- A row engine that may be enabled starts with the registers of the block and of firmware's settings. -/
theorem rowEngineEnable_valid {e : DispSet} {c : DispCfg} {p : Part} {vat : Nat} (he : s.arg.disp = some e) (hp : s.outputOf s.arg.a = some p)
    (hd : s.arg.a < 2) (hn : (s.die s.arg.a).display = none) (hv : vat = layVat p.laydiv) (hc : c = s.dispCfg s.arg.a s.arg.data e)
    (hb : blkValid s.arg.data s.arg.a = true) (hok : dispValid c s.arg.a vat ((s.arg.data.getD 18 0).getLsbD 0) = true)
    (hall : s.parts.all (fun q => !(q.onDie s.arg.a) || q.vatIs vat) = true) :
    exec .rowEngineEnable s = .next ((s.clearVat s.arg.a vat).engineOn s.arg.a c vat) := by
  subst hv hc
  rw [exec_rowEngineEnable, execRowEngineEnable]
  dsimp only
  rw [he, hp]
  exact congrArg Host.Outcome.next (if_pos ⟨hd, hn, hb, hok, hall⟩)

/-- Enabling touches the memory side and the die's own record alone. -/
theorem engineOn_after {v : State} (hside : MemorySide s v) (die : Nat) (c : DispCfg) (vat : Nat) :
    (v.engineOn die c vat).threads = s.threads ∧ (v.engineOn die c vat).groups = s.groups ∧
    ((v.engineOn die c vat).die die).display = some (Display.start c vat ((s.dtb + 1023) / 1024 * 1024)) ∧
    ((v.engineOn die c vat).die die).vatHeads = [] := by
  rw [engineOn_die, hside.dtb]
  exact ⟨hside.threads, hside.groups, rfl, rfl⟩

theorem rowEngineEnable_invalid {e : DispSet} (he : s.arg.disp = some e) (hb : blkValid s.arg.data s.arg.a = false) :
    exec .rowEngineEnable s = .next s := by
  rw [exec_rowEngineEnable, execRowEngineEnable]
  dsimp only
  rw [he]
  cases s.outputOf s.arg.a with
  | none => rfl
  | some p =>
    dsimp only
    rw [if_neg]
    rintro ⟨-, -, h, -⟩
    exact absurd (hb.symm.trans h) (by decide)

end

theorem displayEvents : Claim.DisplayEvents := by
  rintro s x die rfl
  refine ⟨fun hx => ⟨separatorVisit_due hx, fun p rest n hq hn => positionIssue_head hx hq hn, rowLock_due hx⟩, rfl,
    fun e c p vat he hp hd hn hv hc hb hok hall =>
      ⟨_, rowEngineEnable_valid he hp hd hn hv hc hb hok hall, engineOn_after (clearVat_side s s.arg.a vat) s.arg.a c vat⟩,
    fun e he hb => rowEngineEnable_invalid he hb, rfl⟩

/-! ### Fixed-function nodes (R366 to R385) -/

section
variable {s v : State} {r : Ref}

theorem exec_triangleBin (s : State) : exec .triangleBin s = execTriangleBin s := rfl
theorem exec_binRasterise (s : State) : exec .binRasterise s = execBinRasterise s := rfl
theorem exec_blendRecord (s : State) : exec .blendRecord s = execBlendRecord s := rfl
theorem exec_curveSegmentAdd (s : State) : exec .curveSegmentAdd s = execCurveSegmentAdd s := rfl
theorem exec_pathClose (s : State) : exec .pathClose s = execPathClose s := rfl
theorem exec_traceComplete (s : State) : exec .traceComplete s = execTraceComplete s := rfl

theorem addCell_side (s : State) (die : Nat) (w : PathSlot) (c : Nat × Nat × Int × Int) : MemorySide s (s.addCell die w c) := rfl

theorem addSegment_side (s : State) (die : Nat) (w : PathSlot) (kind : CKind) (blk : List Word) : MemorySide s (s.addSegment die w kind blk) := by
  unfold State.addSegment
  dsimp only
  split
  · rfl
  · exact foldl_side _ (fun s c => addCell_side s die w c) _ _

theorem closeRow_side (die : Nat) (w : PathSlot) (eo : Bool) (j left : Nat) :
    ∀ (s : State) (i : Nat) (run : BitVec 32), MemorySide s (State.closeRow s die w eo j left i run) := by
  induction left with
  | zero => exact fun s i run => .refl s
  | succ left ih =>
    intro s i run
    rw [State.closeRow]
    refine MemorySide.trans ?_ (ih _ _ _)
    rfl

/-- A path whose segments are added is closed: its entry is gone, and no group changes. -/
theorem pathClose_ready {w : PathSlot} {eo : Bool} (hw : (s.die s.arg.a).path s.arg.b = some w) (he : w.rule = some eo) (ho : w.st = .opened)
    (hl : s.curvesLeft w.lock = false) (hu : s.unacked w.lock = false) (hc : (s.closers w.lock).any s.owes = false) :
    ∃ t, exec .pathClose s = .next t ∧ t.groups = s.groups ∧ (∀ l ∈ t.locks, l.id ≠ w.lock) := by
  rw [exec_pathClose, execPathClose]
  dsimp only
  rw [hw]
  dsimp only
  rw [he]
  dsimp only
  rw [if_neg (by simp [ho, hl, hu, hc])]
  refine ⟨_, rfl, ?_, fun l hl => ?_⟩
  · have hadded := foldl_side (fun v (c : CKind × List Word) => v.addSegment s.arg.a w c.1 c.2)
      (fun v c => addSegment_side v s.arg.a w c.1 c.2) w.pending s
    have hrows := hadded.trans (foldl_side (fun v j => State.closeRow v s.arg.a w eo j (pathW w.desc) 0 0)
      (fun v j => closeRow_side s.arg.a w eo j (pathW w.desc) v 0 0) (List.range (pathH w.desc)) _)
    have hreleased := hrows.trans (foldl_side (fun v q => v.release q .die) (fun v q => release_side v q .die) (s.closers w.lock) _)
    exact hreleased.groups
  · have hin := List.mem_filter.mp hl
    simpa using hin.2

/-- The fragment of a die that is resolved next. -/
theorem blendRecord_ready {w : DrawSlot} {f : Frag} {c : Option Nat}
    (hf : (s.die s.arg.a).draws.findSome? (fun w => (firstReady [] w.frags).map (fun f => (w, f))) = some (w, f)) (hr : s.repair = [])
    (hb : s.blendApply s.arg.a w f (f.ans.getD blendNone) = (v, c)) :
    exec .blendRecord s = .next (v.updDraw s.arg.a w.lock (fun y => { y with frags := y.frags.erase f, fail := y.fail.or c })) := by
  rw [exec_blendRecord, execBlendRecord]
  dsimp only
  rw [hf]
  dsimp only
  rw [hr, hb]
  rfl

end

theorem fixedNodeEvents : Claim.FixedNodeEvents := by
  intro s r ha hb
  obtain rfl := eq_named ha hb
  refine ⟨fun draw seq blk rest w v hs hf hu hr hv hw ho => ?_, fun w hw => ⟨fun f rest he => ?_, fun he ho hend hras ht => ?_⟩,
    fun w f v c hf hr hbl => blendRecord_ready hf hr hbl, fun path kind blk rest w v hs hu hv hw ho => ?_,
    fun w eo hw he ho hl hu hc => pathClose_ready hw he ho hl hu hc, fun ray root any cullb rest y hl hd hr hy hfault => ?_⟩
  · rw [exec_triangleBin, execTriangleBin]
    dsimp only
    rw [hs]
    dsimp only
    rw [hf, hu, hr, ← hv, if_neg (by decide), hw]
    exact congrArg Host.Outcome.next (if_pos ho)
  · rw [exec_binRasterise, execBinRasterise]
    dsimp only
    rw [hw]
    dsimp only
    rw [he]
  · rw [exec_binRasterise, execBinRasterise]
    dsimp only
    rw [hw]
    dsimp only
    rw [he]
    exact congrArg Host.Outcome.next (if_pos ⟨ho, hend, hras, ht⟩)
  · rw [exec_curveSegmentAdd, execCurveSegmentAdd]
    dsimp only
    rw [hs]
    dsimp only
    rw [hu, ← hv, if_neg (by decide), hw]
    exact congrArg Host.Outcome.next (if_pos ho)
  · rw [exec_traceComplete, execTraceComplete]
    dsimp only
    rw [hl]
    dsimp only
    rw [hd, hr, if_neg (by decide), ← hy, hfault]

/-- Settles O49, by the branches of each event; the Vat's clearing, segments, rows of a close and releases are of the memory side alone. -/
theorem fixedUnitEvents : Obligations.FixedUnitEvents := ⟨sampleStoreEvents, displayEvents, fixedNodeEvents⟩

end Sys2Proof.Machine
end

section
/-! The events of the dispatcher: nodes, placement, retirement, slices and windows. -/

namespace Sys2Proof.Machine

section
variable {s : State}

theorem exec_nodeLaunch (s : State) : exec .nodeLaunch s = execNodeLaunch s := rfl
theorem exec_nodeAgeExpiry (s : State) : exec .nodeAgeExpiry s = execNodeAgeExpiry s := rfl
theorem exec_dispatchPlace (s : State) : exec .dispatchPlace s = execDispatchPlace s := rfl
theorem exec_sliceRelease (s : State) : exec .sliceRelease s = execSliceRelease s := rfl
theorem exec_budgetExhausted (s : State) : exec .budgetExhausted s = execBudgetExhausted s := rfl

/-- A shader node launches full waves, or what is pending once it has no producers, or what has waited for its age. -/
theorem nodeLaunches {n : Node} (hn : s.node s.arg.a s.arg.b s.arg.c = some n) (hid : n.id ≠ 1022) :
    (n.pending ≠ [] → nodeThr n.desc ≤ n.pending.length ∨ n.producers = 0 → exec .nodeLaunch s = .next (s.nodeGo n)) ∧
    (n.pending.length < nodeThr n.desc → n.producers ≠ 0 → exec .nodeLaunch s = .next s) ∧
    (∀ p rest, n.pending = p :: rest → nodeAge n.desc ≤ s.dieClk n.die - p.2 → exec .nodeAgeExpiry s = .next (s.nodeGo n)) := by
  rw [exec_nodeLaunch, execNodeLaunch, exec_nodeAgeExpiry, execNodeAgeExpiry, hn]
  dsimp only
  refine ⟨fun hp ht => congrArg Host.Outcome.next (if_pos ⟨hid, hp, ht⟩), fun hlt hpr => congrArg Host.Outcome.next (if_neg ?_), fun p rest hp ha => ?_⟩
  · rintro ⟨-, -, h | h⟩
    · exact absurd hlt (Nat.not_lt.mpr h)
    · exact hpr h
  · rw [hp]
    exact congrArg Host.Outcome.next (if_pos ⟨hid, ha⟩)

/-- The first launch of the scan, whose entries are awake, is tried first. -/
theorem dispatchPlace_first {l : Launch} {rest : List Launch} (hc : (s.part s.arg.b).contained = false) (hr : (s.part s.arg.b).inReset = false)
    (hl : s.scanOrder s.arg.a s.arg.b = l :: rest) :
    (∀ v, (s.wakeEntries l s.arg.a).tryPlace l s.arg.a [] = .done v → exec .dispatchPlace s = .next v) ∧
    ((s.wakeEntries l s.arg.a).tryPlace l s.arg.a [] = .bad → exec .dispatchPlace s = .next ((s.wakeEntries l s.arg.a).placeFail l)) := by
  rw [exec_dispatchPlace, execDispatchPlace, hc, hr, if_neg (by decide), hl, State.placeScan, if_neg (by simp)]
  dsimp only
  exact ⟨fun v hv => by rw [hv], fun hb => by rw [hb]⟩

/-- A slice that has ended begins again once its time has come. -/
theorem sliceRelease_ended (hc : (s.group s.arg.a).current = false) :
    exec .sliceRelease s = .next (if (s.group s.arg.a).release ≤ s.dtb then s.sliceBegin s.arg.a else s) := by
  rw [exec_sliceRelease, execSliceRelease]
  dsimp only
  rw [hc]
  simp only [Bool.false_and, if_neg Bool.false_ne_true, hc, Bool.not_false, Bool.true_and, decide_eq_true_eq]

/-- A group whose budget is used up sets BUDGET in its waves that have a live thread, and its slice ends. -/
theorem budgetExhausted_due (hc : (s.group s.arg.a).current = true) (hb : hdrBudget (s.group s.arg.a).hdr ≠ 0)
    (hl : (s.group s.arg.a).left = 0) :
    ∃ t, exec .budgetExhausted s = .next t ∧ t.mem = s.mem ∧ t.threads = s.threads ∧
      t.waves = s.waves.map (fun w =>
        if w.gid = s.arg.a ∧ s.threads.any (fun q => q.gid == s.arg.a && q.live && q.tid / hdrWave (s.group s.arg.a).hdr == w.wid) = true then
          { w with cause := w.cause ||| causeBit causeBudget } else w) ∧
      t.groups = s.groups.map (fun g => if g.gid = s.arg.a then g.sliceEnd s.dtb else g) := by
  rw [exec_budgetExhausted, execBudgetExhausted]
  dsimp only
  rw [if_neg (by simp [hc, hb, hl])]
  refine ⟨_, rfl, rfl, rfl, rfl, ?_⟩
  simp only [State.updGroup, beq_iff_eq]
  rfl

end

/-- Settles O50, by the branches of each event. -/
theorem dispatchEvents : Obligations.DispatchEvents := by
  intro s
  refine ⟨fun n hn hid => nodeLaunches hn hid, fun hc hr => ⟨fun l rest v hl => (dispatchPlace_first hc hr hl).1 v,
    fun l rest hl => (dispatchPlace_first hc hr hl).2⟩, fun hd => congrArg Host.Outcome.next (if_pos hd),
    fun hd => congrArg Host.Outcome.next (if_neg (Bool.eq_false_iff.mp hd)), fun hc hle => ?_, fun hc hlt => ?_,
    fun hc hb hl => budgetExhausted_due hc hb hl, rfl, rfl⟩
  · rw [sliceRelease_ended hc, if_pos hle]
  · rw [sliceRelease_ended hc, if_neg (Nat.not_le.mpr hlt)]

end Sys2Proof.Machine
end

section
/-! The events of the platform, of firmware and of the host. -/

namespace Sys2Proof.Machine

/-! ### Halts (R429, R430) -/

section
variable {s : State}

/-- A halt with a reason code for a partition is the rise of its line. -/
theorem halt_raises {q code : Nat} (hl : 1 ≤ code) (hu : code ≤ 5) (hq : q < 4) (core gid : Nat) : s.halt q code core gid = s.raiseHalt q code core gid :=
  if_pos ⟨hl, hu, hq⟩

theorem exec_watchdogExpiry (s : State) : exec .watchdogExpiry s = execWatchdogExpiry s := rfl

theorem watchdog_fires {t : Thread} (h : s.expired s.arg.a = some t) :
    exec .watchdogExpiry s = .next (s.halt (s.group t.gid).part 4 s.arg.a t.gid) := by
  rw [exec_watchdogExpiry, execWatchdogExpiry, h]

theorem watchdog_idle (h : s.expired s.arg.a = none) : exec .watchdogExpiry s = .next s := by
  rw [exec_watchdogExpiry, execWatchdogExpiry, h]

/-- A count of the watchdog that began at a cycle of the core has reached n. -/
def State.countPast (s : State) (core : Nat) (since : Option Nat) (n : Nat) : Bool := (since.map (fun t => decide (t + n ≤ s.rawClk core))).getD false

theorem countPast_some {core a n : Nat} : s.countPast core (some a) n = true ↔ a + n ≤ s.rawClk core := decide_eq_true_iff

theorem countPast_none (core n : Nat) : s.countPast core none n = false := rfl

/-- The watchdog of a core with one thread, which is ready. -/
theorem expired_single {core : Nat} {t : Thread} (ht : s.threads.filter (fun x => (s.group x.gid).core == core) = [t]) (hr : s.ready t = true) :
    s.expired core = if s.countPast core t.stood (2 ^ 20) || s.countPast core (s.coreSt core).stalled (2 ^ 26) then some t else none := by
  have hfold : s.expired core = match ([t].find? (fun t => s.countPast core t.stood (2 ^ 20) && s.ready t)) with
      | some t => some t
      | none => if s.countPast core (s.coreSt core).stalled (2 ^ 26) then [t].find? s.ready else none := by
    rw [← ht]
    rfl
  rw [hfold, List.find?_cons, List.find?_cons, hr, Bool.and_true]
  cases s.countPast core t.stood (2 ^ 20) <;> rfl

end

theorem haltEvents : Claim.HaltEvents := by
  intro s
  refine ⟨fun hl hu hq => congrArg Host.Outcome.next (halt_raises hl hu hq _ _), fun t b ht hr hb => ?_,
    fun hc hs => congrArg Host.Outcome.next (if_pos (by rw [hc, hs]; rfl)), fun h => congrArg Host.Outcome.next (if_neg ?_), fun hq => ⟨?_, ?_⟩, fun ha => ?_⟩
  · have hexp := expired_single ht hr
    subst hb
    refine ⟨fun a ha hle => watchdog_fires ?_, fun a ha hs => ⟨fun hle => watchdog_fires ?_, fun hlt => watchdog_idle ?_⟩,
      fun ha hs => watchdog_idle ?_⟩
    · rw [hexp, ha, countPast_some.mpr hle, Bool.true_or, if_pos rfl]
    · rw [hexp, ha, hs, countPast_some.mpr hle, Bool.or_true, if_pos rfl]
    · rw [hexp, ha, hs, countPast_none, Bool.eq_false_iff.mpr (fun h => absurd (countPast_some.mp h) (Nat.not_le.mpr hlt)), if_neg (by decide)]
    · rw [hexp, ha, hs, countPast_none, countPast_none, if_neg (by decide)]
  · rcases h with h | h <;> simp [h]
  · exact congrArg Host.Outcome.next (halt_raises (by decide) (by decide) hq _ _)
  · exact congrArg Host.Outcome.next (halt_raises (by decide) (by decide) hq _ _)
  · show Host.Outcome.next ((List.range 4).foldl (fun t q => if s.arg.a.testBit q then t.halt q 2 s.arg.b s.arg.c else t) s) = _
    rw [ha]
    rfl

/-! ### Heat, power, repair and spares (R13, R18, R20, R398, R403, R433) -/

section
variable {s : State}

theorem exec_engineGate (s : State) : exec .engineGate s = execEngineGate s := rfl
theorem exec_thermalArrayGate (s : State) : exec .thermalArrayGate s = execThermalArrayGate s := rfl
theorem exec_spareRemap (s : State) : exec .spareRemap s = execSpareRemap s := rfl
theorem exec_vbusLaneRepair (s : State) : exec .vbusLaneRepair s = execVbusLaneRepair s := rfl

/-- Every array of the die is gated; what was gated stays so. -/
theorem thermalArrayGate_gates (s : State) : ∃ t, exec .thermalArrayGate s = .next t ∧ t.threads = s.threads ∧
    (∀ k, k < 64 → Engine.array (64 * s.arg.a + k) ∈ t.gated) ∧ ∀ e ∈ s.gated, e ∈ t.gated := by
  rw [exec_thermalArrayGate, execThermalArrayGate]
  refine ⟨_, rfl, rfl, fun k hk => ?_, fun e he => List.mem_append_left _ he⟩
  show Engine.array (64 * s.arg.a + k) ∈
    s.gated ++ ((List.range 64).map (fun k => Engine.array (64 * s.arg.a + k))).filter (fun e => !(s.gated.contains e))
  by_cases hg : Engine.array (64 * s.arg.a + k) ∈ s.gated
  · exact List.mem_append_left _ hg
  · refine List.mem_append_right _ (List.mem_filter.mpr ⟨List.mem_map.mpr ⟨k, List.mem_range.mpr hk, rfl⟩, ?_⟩)
    simpa using hg

theorem engineGate_some {e : Engine} (he : s.arg.engine = some e) :
    exec .engineGate s = .next (if s.idle e && !(s.gated.contains e) then { s with gated := s.gated ++ [e] } else s) := by
  rw [exec_engineGate, execEngineGate, he]

/-- A core without groups is not busy. -/
theorem spareRemap_core {n : Nat} (hn : s.arg.a = n) (hc : s.arg.c = 0) (hlt : n < 160) (hg : ∀ g ∈ s.groups, g.core ≠ n) :
    exec .spareRemap s = .next (
      if s.arg.b ≠ 0 then ({ s with spares := s.spares.filter (fun k => k != n) } : State).updCore n (fun c => { c with remapped := false })
      else if s.spares.contains n ∨ s.spareLeft n = false then s
      else ({ s with spares := insertNat n s.spares } : State).updCore n (fun c => { c with remapped := true })) := by
  subst hn
  have hidle : s.parts.any (fun p =>
      s.holds s.arg.a p.part && !p.contained && !p.inReset && s.groups.any (fun g => g.core == s.arg.a && g.part == p.part)) = false := by
    refine List.any_eq_false.mpr (fun p _ => ?_)
    have hnone : s.groups.any (fun g => g.core == s.arg.a && g.part == p.part) = false :=
      List.any_eq_false.mpr (fun g hin => by simp [hg g hin])
    simp [hnone]
  rw [exec_spareRemap, execSpareRemap]
  dsimp only
  rw [hidle, hc, if_neg (by decide), if_neg (by simp [hlt])]

end

theorem powerEvents : Claim.PowerEvents := by
  intro s
  refine ⟨rfl, rfl, rfl, thermalArrayGate_gates s, rfl, fun e he hi hg => ?_, fun e he hi => ?_, fun ha => ?_, fun k hk ha => ⟨fun hle => ?_, fun hlt => ?_⟩,
    rfl, fun n hn hc hlt hg => ⟨fun hb hs => ⟨fun hl => ?_, fun hl => ?_⟩, fun hb => ?_⟩, fun hc hlt => ?_, rfl, rfl, rfl⟩
  · rw [engineGate_some he, if_pos]
    simpa [hi] using hg
  · rw [engineGate_some he, hi]
    rfl
  · exact congrArg Host.Outcome.next (if_pos (.inl ha))
  · subst hk
    refine congrArg Host.Outcome.next (if_neg ?_)
    rintro (h | h)
    · exact absurd ha (Nat.not_lt.mpr h)
    · exact absurd hle (Nat.not_le.mpr h)
  · subst hk
    exact congrArg Host.Outcome.next (if_pos (.inr hlt))
  · rw [spareRemap_core hn hc hlt hg, hb, if_neg (by decide), if_neg (by simp only [hs, hl]; decide)]
  · rw [spareRemap_core hn hc hlt hg, hb, if_neg (by decide), if_pos (.inr hl)]
  · rw [spareRemap_core hn hc hlt hg, if_pos hb]
  · rw [exec_spareRemap, execSpareRemap]
    dsimp only
    rw [if_pos hc, if_pos hlt]

/-! ### The host (R6, R277, R386, R456 to R469) -/

section
variable {s : State}

theorem exec_mailboxControlWrite (s : State) : exec .mailboxControlWrite s = execMailboxControlWrite s := rfl
theorem exec_hostMemoryAccess (s : State) : exec .hostMemoryAccess s = execHostMemoryAccess s := rfl
theorem exec_ptmExchange (s : State) : exec .ptmExchange s = execPtmExchange s := rfl
theorem exec_attestationReport (s : State) : exec .attestationReport s = execAttestationReport s := rfl
theorem exec_msixVectorUnmask (s : State) : exec .msixVectorUnmask s = execMsixVectorUnmask s := rfl

/-- The control word of a mailbox that takes it; a pairing message carries a transform. -/
theorem mailboxControlWrite_takes {t : State} (hd : s.mailDrops s.arg.a = false)
    (ht : t = s.updMailbox s.arg.a (fun m => { m with full := true, tag := BitVec.ofNat 16 s.arg.b })) :
    (pairing (s.arg.b % 2 ^ 16) (t.mailbox s.arg.a).bytes = none → exec .mailboxControlWrite s = .next t) ∧
    (∀ eye, pairing (s.arg.b % 2 ^ 16) (t.mailbox s.arg.a).bytes = some eye →
      exec .mailboxControlWrite s = .next { t with eyes := eye :: t.eyes.filter (fun x => x.1 != eye.1) }) := by
  rw [exec_mailboxControlWrite, execMailboxControlWrite, hd, if_neg (by decide)]
  dsimp only
  rw [← ht]
  exact ⟨fun hp => by rw [hp], fun eye hp => by rw [hp]⟩

end

theorem hostEvents : Claim.HostEvents := by
  intro s
  refine ⟨fun hd => ⟨fun t ht => mailboxControlWrite_takes hd ht, fun hl => ?_⟩, fun hd => ⟨?_, ?_⟩, fun hr => ⟨?_, fun ha => ?_, fun hc => ?_⟩,
    fun hr hc => ?_, fun pa => ⟨fun h => ?_, fun hres hfit => ?_⟩, fun hr => ⟨?_, ?_, ?_, fun off => ?_⟩, rfl, rfl, fun rate hrate hr => ?_,
    fun hr => ⟨fun hal hle hc => ?_, fun hbad => ?_⟩, fun hb => ?_, fun hb => ?_⟩
  · exact congrArg Host.Outcome.next (if_neg (by simp [hd, Nat.not_lt.mpr hl]))
  · exact congrArg Host.Outcome.next (if_pos hd)
  · exact congrArg Host.Outcome.next (if_pos (by simp [hd]))
  · exact congrArg Host.Outcome.next (if_neg (by simp [hr]))
  · exact congrArg Host.Outcome.next (if_neg (by simp [hr, Nat.not_lt.mpr ha]))
  · rw [exec_hostMemoryAccess, execHostMemoryAccess, hr, if_neg (by decide), if_neg hc]
  · rw [exec_hostMemoryAccess, execHostMemoryAccess, hr, if_neg (by decide), if_pos hc]
  · exact if_pos (by rcases h with h | h <;> simp [h])
  · exact if_neg (by simp [hres, Nat.not_le.mpr hfit])
  · rw [exec_hostMemoryAccess, execHostMemoryAccess, if_pos hr]
  · rw [exec_ptmExchange, execPtmExchange]
    dsimp only
    rw [if_pos hr]
  · rw [exec_attestationReport, execAttestationReport, if_pos hr]
  · exact if_pos hr
  · subst hrate
    rw [exec_ptmExchange, execPtmExchange]
    dsimp only
    rw [hr, if_neg (by decide)]
  · rw [exec_attestationReport, execAttestationReport, hr, if_neg (by decide), if_neg]
    rintro (h | h | h)
    · exact h hal
    · exact absurd hle (Nat.not_le.mpr h)
    · exact h hc
  · rw [exec_attestationReport, execAttestationReport, hr, if_neg (by decide), if_pos hbad]
  · rw [exec_msixVectorUnmask, execMsixVectorUnmask]
    dsimp only
    rw [if_neg (not_not.mpr hb)]
  · rw [exec_msixVectorUnmask, execMsixVectorUnmask]
    dsimp only
    rw [if_pos hb]

/-! ### Resets and releases (R14, R21 to R23, R28, R465, R466, R469, R470) -/

section
variable {s : State}

theorem exec_partitionReset (s : State) : exec .partitionReset s = execPartitionReset s := rfl
theorem exec_partitionRelease (s : State) : exec .partitionRelease s = execPartitionRelease s := rfl
theorem exec_perstDeassert (s : State) : exec .perstDeassert s = execPerstDeassert s := rfl

/-- The reset of a partition, begun or carried through. -/
theorem partitionReset_of (hr : s.inReset = false) (ha : s.arg.a < 4) :
    (∀ prog, s.arg.c = 0 → s.arg.images = [prog] →
      exec .partitionReset s = .next ((s.resetPart s.arg.a).programRuns s.arg.a s.arg.b prog)) ∧
    (s.arg.c = 0 → s.arg.images = [] → exec .partitionReset s = .next (s.resetPart s.arg.a)) ∧
    (s.arg.c ≠ 0 → exec .partitionReset s = .next ((s.clearPart s.arg.a).updPart s.arg.a (fun p => { p with inReset := true }))) := by
  have hno : ¬(s.inReset || decide (4 ≤ s.arg.a)) = true := by simp [hr, Nat.not_le.mpr ha]
  rw [exec_partitionReset, execPartitionReset, if_neg hno]
  refine ⟨fun prog hc hi => ?_, fun hc hi => ?_, fun hc => by rw [if_pos hc]⟩
  · rw [if_neg (not_not.mpr hc), hi]
  · rw [if_neg (not_not.mpr hc), hi]

/-- The release of a partition without groups: a refused image or a division that it may not have releases nothing. -/
theorem partitionRelease_of {c : PartCfg} {prog : Image} (hr : s.inReset = false) (ha : s.arg.a < 4) (hc : s.arg.part = some c)
    (hi : s.arg.images = [prog]) (hg : s.groups.any (fun g => g.part == s.arg.a) = false) :
    exec .partitionRelease s = .next (if s.mayAssign s.arg.a c = true ∧ s.verified prog = true then
      ((s.assign s.arg.a c).assignMail s.arg.a (s.arg.c % 256) (s.arg.c / 256) (s.arg.d % 64) (s.arg.d / 64)).programRuns s.arg.a s.arg.b prog
      else s) := by
  rw [exec_partitionRelease, execPartitionRelease, hc, hi]
  dsimp only
  rw [hr, decide_eq_false (Nat.not_le.mpr ha), hg]
  by_cases hm : s.mayAssign s.arg.a c = true
  · by_cases hv : s.verified prog = true
    · rw [if_neg (by simp [hm, hv]), if_pos ⟨hm, hv⟩]
    · rw [if_pos (by simp [hv]), if_neg (fun h => hv h.2)]
  · rw [if_pos (by simp [hm]), if_neg (fun h => hm h.1)]

/-- An image whose header agrees with its body is verified by its signature alone. -/
theorem verified_iff (i : Image) : s.verified i = true ↔ (s.rollback ≤ i.version ∧ i.length = i.body.length ∧ i.digest = sha3 i.body) ∧
    Config.verifies (imageHeader i) i.sign = true := by
  simp only [State.verified, Bool.and_eq_true, beq_iff_eq, decide_eq_true_eq]
  tauto

/-- A cluster that a partition holds after an assignment is one of its own, which it held or which none has saved. -/
theorem assign_held {q k : Nat} {c : PartCfg} (h : (k, q) ∈ (s.assign q c).held) : c.clusters.getLsbD k = true ∧
    ((k, q) ∈ s.held ∨ ∀ p ∈ s.parts, ∀ e ∈ p.saved, e.clusters.getLsbD k = false) := by
  rw [State.assign, State.updPart_held] at h
  rcases List.mem_append.mp h with h | h
  · obtain ⟨hin, hown⟩ := List.mem_filter.mp h
    exact ⟨by simpa using hown, .inl hin⟩
  · obtain ⟨j, hj, heq⟩ := List.mem_map.mp h
    obtain rfl : j = k := congrArg Prod.fst heq
    have hnew := (List.mem_filter.mp hj).2
    simp only [Bool.and_eq_true, List.all_eq_true, Bool.not_eq_true'] at hnew
    exact ⟨hnew.1.1, .inr hnew.2⟩

theorem updPart_laydiv {q : Nat} {f : Part → Part} {w : Word} (hw : ∀ p, (f p).laydiv = w) (hf : ∀ p, (f p).part = p.part) :
    ((s.updPart q f).part q).laydiv = w := by
  rw [updPart_part s q hf, hw]

theorem assign_laydiv (s : State) (q : Nat) (c : PartCfg) : ((s.assign q c).part q).laydiv = laydivReset := by
  rw [State.assign]
  refine updPart_laydiv (fun p => ?_) (fun p => ?_) <;> rfl

/-- The power class of the lower of two settings. -/
theorem classOf_eq {k : Nat} (hk : k < 4) : classOf k = if k = 0 then 120 else if k = 1 then 150 else if k = 2 then 220 else 300 := by
  interval_cases k <;> rfl

/-- Bring-up: both images must be verified. -/
theorem perstDeassert_of {fw prog : Image} (hi : s.arg.images = [fw, prog]) :
    exec .perstDeassert s = .next (if s.inReset = true ∧ s.verified fw = true ∧ s.verified prog = true then
      ({ s.bringUp fw with powerClass := classOf (Nat.min (s.arg.a % 4) (s.arg.c % 4)) } : State).programRuns 0 s.arg.b prog else s) := by
  rw [exec_perstDeassert, execPerstDeassert, hi]
  simp only [Bool.and_eq_true, and_assoc]

end

theorem resetEvents : Claim.ResetEvents := by
  intro s
  refine ⟨fun hr ha => ⟨fun prog v hc hi hv => ?_, (partitionReset_of hr ha).2.1, (partitionReset_of hr ha).2.2, fun c prog hc hi hg =>
      ⟨fun hm => ?_, fun hm => ?_⟩⟩, fun i hroll hlen hdig => ?_, fun i hbad => ?_, fun q c => ⟨assign_laydiv s q c, fun k h => assign_held h⟩,
    fun fw prog hi => ⟨fun k hr hk => ?_, fun hr => ?_⟩, rfl⟩
  · rw [(partitionReset_of hr ha).1 prog hc hi, ← hv]
    rfl
  · rw [partitionRelease_of hr ha hc hi hg]
    simp only [hm, true_and]
  · rw [partitionRelease_of hr ha hc hi hg, if_neg (fun h => absurd (hm.symm.trans h.1) (by decide))]
  · exact Bool.eq_iff_iff.mpr ((verified_iff i).trans (and_iff_right ⟨hroll, hlen, hdig⟩))
  · refine Bool.eq_false_iff.mpr (fun h => ?_)
    obtain ⟨⟨hroll, hlen, hdig⟩, -⟩ := (verified_iff i).mp h
    rcases hbad with hb | hb | hb
    · exact absurd hroll (Nat.not_le.mpr hb)
    · exact hb hlen
    · exact hb hdig
  · have hlt : k < 4 := by
      rw [hk]
      exact lt_of_le_of_lt (Nat.min_le_left _ _) (Nat.mod_lt _ (by decide))
    rw [perstDeassert_of hi, ← hk, classOf_eq hlt]
    simp only [hr, true_and]
  · rw [perstDeassert_of hi, if_neg (fun h => absurd (hr.symm.trans h.1) (by decide))]

/-- Settles O51, by the branches of each event, and by what an assignment and an image's header let through. -/
theorem platformEvents : Obligations.PlatformEvents := ⟨haltEvents, powerEvents, hostEvents, resetEvents⟩

end Sys2Proof.Machine
end

section
/-! What a plain store leaves unchanged, and the accesses that fail a check (08, 19). -/

namespace Sys2Proof.Machine

/-! ### A check keeps what the caches hold -/

/-- A check that passes at a global address only moves lines, leaves and gating. -/
theorem check_onlyMoves {s v : State} {r : Ref} {sp : Space} {ea n al pa : Nat} {store free : Bool}
    (h : s.check r sp ea n al store free = .ok (.phys pa, v)) : OnlyMoves s v := by
  cases sp
  case glob =>
    unfold State.check at h
    dsimp only at h
    generalize (!free && _) = locked at h
    split at h
    · cases h
    split at h
    · cases h
    split at h
    · cases h
    split at h
    · cases h
    · simp only [Except.ok.injEq, Prod.mk.injEq] at h
      obtain ⟨-, rfl⟩ := h
      exact (OnlyMoves.keepLeaf s _ _ _ _).trans (OnlyMoves.touch _ _ _ _)
  all_goals
    unfold State.check at h
    dsimp only at h
    repeat' split at h
    all_goals simp only [Except.ok.injEq, Prod.mk.injEq, reduceCtorEq, false_and] at h

/-! ### Bytes in a core's data cache -/

/-- The cached byte at a key after one was put there: no order of the list is asked. -/
theorem get_put (m : Memory) (a : Nat) (v : Byte) (x : Nat) : Cells.get (Cells.put m a v) x = if x = a then some v else Cells.get m x := by
  induction m with
  | nil =>
    by_cases h : x = a
    · simp [Cells.put, Cells.get, h]
    · simp [Cells.put, Cells.get, h, Ne.symm h]
  | cons c m ih =>
    obtain ⟨b, w⟩ := c
    simp only [Cells.get] at ih ⊢
    rw [Cells.put]
    split
    · rw [List.find?_cons]
      by_cases h : x = a
      · simp [h]
      · rw [if_neg h, show (a == x) = false from beq_false_of_ne (Ne.symm h)]
    · split
      · rename_i hab
        subst hab
        by_cases h : x = a
        · simp [h]
        · simp [h, Ne.symm h]
      · by_cases hb : b = x
        · subst hb
          have hx : ¬b = a := fun e => by omega
          simp [hx]
        · rw [List.find?_cons, List.find?_cons, show (b == x) = false from beq_false_of_ne hb]
          exact ih

/-- Keys of distinct bytes of cores are distinct, below the bound that a key leaves to an address. -/
theorem cacheKey_inj {c d x y : Nat} (hx : x < 2 ^ 56) (hy : y < 2 ^ 56) (h : cacheKey c x = cacheKey d y) : c = d ∧ x = y := by
  unfold cacheKey at h
  omega

/-- Of s, only the cached bytes of a core at pa to pa + n are others in t: there t holds what f gives. -/
structure Cached (s t : State) (core pa n : Nat) (f : Nat → Byte) : Prop where
  only : t = { s with dcache := t.dcache }
  here : ∀ k, k < n → Cells.get t.dcache (cacheKey core (pa + k)) = some (f k)
  other : ∀ x, (∀ k, k < n → x ≠ cacheKey core (pa + k)) → Cells.get t.dcache x = Cells.get s.dcache x

/-- A byte at core scope goes into the data cache, where no page is being zeroed. -/
theorem putScoped_cor {s : State} (hz : s.zeroing = []) (part core pa : Nat) (v : Byte) :
    s.putScoped part core .cor pa v = { s with dcache := Cells.put s.dcache (cacheKey core pa) v } := by
  have hs : s.settle pa = s := by simp [State.settle, hz]
  simp [State.putScoped, hs, Scope.num, State.putCache]

theorem foldl_cached {s : State} (hz : s.zeroing = []) (part core pa : Nat) (f : Nat → Byte) (n : Nat) :
    Cached s ((List.range n).foldl (fun s k => s.putScoped part core .cor (pa + k) (f k)) s) core pa n f := by
  induction n with
  | zero => exact ⟨rfl, fun k hk => absurd hk (Nat.not_lt_zero k), fun _ _ => rfl⟩
  | succ n ih =>
    rw [List.range_succ, List.foldl_append, List.foldl_cons, List.foldl_nil]
    generalize (List.range n).foldl _ s = t at ih
    obtain ⟨ho, hh, hx⟩ := ih
    have htz : t.zeroing = [] := by rw [ho]; exact hz
    rw [putScoped_cor htz]
    refine ⟨by rw [ho], fun k hk => ?_, fun x h => ?_⟩
    · rw [get_put]
      by_cases hkn : k = n
      · rw [if_pos (by rw [hkn]), hkn]
      · rw [if_neg (by unfold cacheKey; omega), hh k (by omega)]
    · rw [get_put, if_neg (h n (Nat.lt_succ_self n)), hx x (fun k hk => h k (Nat.lt_succ_of_lt hk))]

/-- A plain store of bytes to a global address while no page is being zeroed. -/
theorem writeAt_cached {s : State} (hz : s.zeroing = []) (part core pa : Nat) (bs : List Byte) :
    Cached s (s.writeAt part core .cor (.phys pa) bs) core pa bs.length (fun k => bs.getD k 0) :=
  foldl_cached hz part core pa _ bs.length

section
variable {s t : State} {core pa n : Nat} {f : Nat → Byte}

theorem Cached.below (h : Cached s t core pa n f) (x : Nat) : t.below x = s.below x := by
  rw [h.only]
  rfl

/-- The core reads at once what was stored. -/
theorem Cached.seen_here (h : Cached s t core pa n f) (hz : s.zeroing = []) {k : Nat} (hk : k < n) : t.seen core (pa + k) = f k := by
  have htz : t.zeroed (pa + k) = false := by rw [h.only]; simp [State.zeroed, hz]
  simp [State.seen, htz, h.here k hk]

/-- Every byte that the store does not name is read as before. -/
theorem Cached.seen_other (h : Cached s t core pa n f) {c x : Nat} (hx : ∀ k, k < n → cacheKey c x ≠ cacheKey core (pa + k)) :
    t.seen c x = s.seen c x := by
  have hz : t.zeroed x = s.zeroed x := by rw [h.only]; rfl
  rw [State.seen, State.seen, hz, h.other _ hx, h.below]

end

/-! ### The thread that stored (R180, R182) -/

/-- A thread's note of the write buffer that a place concerns (R276). -/
def Thread.laying (w : Where) (t : Thread) : Thread :=
  match w.pa.bind bufferOf with
  | some b => { t with laid := if t.laid.contains b then t.laid else b :: t.laid }
  | .none => t

theorem laying_key (w : Where) (t : Thread) : (t.laying w).key = t.key := by
  unfold Thread.laying
  split <;> rfl

theorem laying_is (w : Where) (t : Thread) (r : Ref) : (t.laying w).is r = t.is r := by
  unfold Thread.laying
  split <;> rfl

theorem lay_eq (s : State) (r : Ref) (w : Where) : s.lay r w = s.upd r (Thread.laying w) := by
  unfold State.lay
  cases hb : w.pa.bind bufferOf with
  | some b =>
    have hf : Thread.laying w = fun t => { t with laid := if t.laid.contains b then t.laid else b :: t.laid } := by
      funext t
      simp only [Thread.laying, hb]
    rw [hf]
  | none =>
    have hf : Thread.laying w = id := by
      funext t
      simp only [Thread.laying, hb, id]
    have hm : s.threads.map (fun t => if t.is r then t else t) = s.threads := by
      simp only [ite_self, List.map_id']
    rw [hf]
    exact (congrArg (fun l => { s with threads := l }) hm).symm

theorem lay_thread {s : State} {r : Ref} (w : Where) (h : s.hasThread r = true) : (s.lay r w).thread r = (s.thread r).laying w := by
  rw [lay_eq, State.upd_thread (fun t => laying_is w t r) h]

/-- The record of a thread after a plain store: it notes the buffer and counts the store. -/
def Thread.stored (t : Thread) (w : Where) (at_ : List (Nat × Nat)) : Thread :=
  { t.laying w with ops := t.ops + 1, stores := t.stores ++ [.store .cor w.pa], storeAt := at_ }

section
variable {s v : State} {r : Ref} (w : Where)

/-- What a store that was written leaves of the thread that made it. -/
theorem stored_thread (hv : v.hasThread r = true) : ((v.lay r w).pushStore r (.store .cor w.pa)).thread r =
    (v.thread r).stored w (((v.lay r w).pushStore r (.store .cor w.pa)).thread r).storeAt := by
  have hl : (v.lay r w).hasThread r = true := by
    rw [lay_eq, State.upd_hasThread (fun t => laying_is w t r), hv]
  rw [State.pushStore, upd_listed hl, lay_thread w hv]
  unfold Thread.stored Thread.laying
  split <;> rfl

theorem stored_other {q : Ref} (hq : q ≠ r) : ((v.lay r w).pushStore r (.store .cor w.pa)).thread q = v.thread q := by
  have hp : ((v.lay r w).pushStore r (.store .cor w.pa)).thread q = (v.lay r w).thread q := State.upd_thread_other hq (fun _ => rfl)
  rw [hp, lay_eq, State.upd_thread_other hq (fun t => laying_is w t q)]

end

/-- Counting the store changes nothing but threads. -/
theorem stored_eq (v : State) (r : Ref) (w : Where) (l : StoreOp) :
    (v.lay r w).pushStore r l = { v with threads := ((v.lay r w).pushStore r l).threads } := by
  rw [lay_eq]
  rfl

/-- A store that stands behind nothing is written and counted (R182). -/
theorem exec_st_now {s u v : State} {g : Guard} {r : Ref} {w : Where} {sp : Space} {sz : Size} {ux : Bool} {d a : Reg} {b : Src}
    {bs : List Byte} (h : Runs s.bump g r u) (hb : bs = storeBytes sz ((s.thread r).block d sz.regs)) (hn : bs.length = Size.bytes sz)
    (hc : u.check r sp (u.ea r sp a (Size.bytes sz) ux b) (Size.bytes sz) (Size.bytes sz) true false = .ok (w, v))
    (ht : s.trails r w.loc (Size.bytes sz) = false) (hl : s.lowerWrites s.serial r w.loc (Size.bytes sz) = false) :
    exec (.st g sp sz ux .plain d a b) s =
      .next (((v.writeAt (s.partOf r) (s.coreOf r) .cor w bs).lay r w).pushStore r (.store .cor w.pa)) :=
  ((storesWrite s g r u v w h).1 sp sz ux d a b bs false hc hb hn (by rw [ht, hl]; rfl)).1 rfl

/-- A plain store to a global address: its own core sees it, and nothing else below or beside the core's data cache changes. -/
theorem stored_global {s u v : State} {r : Ref} {pa : Nat} {bs : List Byte} (hu : u = s.bump.moved r) (hr : s.hasThread r = true)
    (hv : OnlyMoves u v) (hz : s.zeroing = []) (hpa : pa + bs.length ≤ 2 ^ 56) {t : State}
    (ht : t = ((v.writeAt (s.partOf r) (s.coreOf r) .cor (.phys pa) bs).lay r (.phys pa)).pushStore r (.store .cor (some pa))) :
    (List.range bs.length).map (fun k => t.seen (s.coreOf r) (pa + k)) = bs ∧
      (∀ core x, x < 2 ^ 56 → x < pa ∨ pa + bs.length ≤ x → t.seen core x = s.seen core x) ∧
      (∀ core x, x < 2 ^ 56 → core ≠ s.coreOf r → t.seen core x = s.seen core x) ∧ t.mem = s.mem ∧ t.l2 = s.l2 ∧ t.ways = s.ways ∧
      t.waves = s.waves ∧ t.groups = s.groups ∧ (∀ q, q ≠ r → t.thread q = s.thread q) ∧
      t.thread r = ((s.thread r).goto s.bnd.npc).stored (.phys pa) (t.thread r).storeAt := by
  have hvz : v.zeroing = [] := by
    rw [hv.eq, hu]
    exact hz
  have hvs : ∀ core x, v.seen core x = s.seen core x := fun core x => by
    rw [hv.eq, hu]
    rfl
  have hy := writeAt_cached hvz (s.partOf r) (s.coreOf r) pa bs
  generalize v.writeAt (s.partOf r) (s.coreOf r) .cor (.phys pa) bs = y at hy ht
  have hyt : y.threads = (s.moved r).threads := by
    rw [hy.only, hv.eq, hu]
    rfl
  have hyh : y.hasThread r = true := by rw [hasThread_of_threads hyt, moved_hasThread, hr]
  have hts : ∀ core x, t.seen core x = y.seen core x := fun core x => by
    rw [ht, stored_eq]
    rfl
  have hother : ∀ core x, (∀ k, k < bs.length → cacheKey core x ≠ cacheKey (s.coreOf r) (pa + k)) → t.seen core x = s.seen core x :=
    fun core x hx => by rw [hts, hy.seen_other hx, hvs]
  have hkeep : t = { s.bump with
      threads := t.threads, lines := v.lines, tlbs := v.tlbs, gated := v.gated, dcache := y.dcache } := by
    rw [ht, stored_eq, hy.only, hv.eq, hu]
    rfl
  refine ⟨?_, fun core x hx ho => hother core x fun k hk hc => ?_, fun core x hx hcore => hother core x fun k hk hc => ?_,
    (congrArg State.mem hkeep :), (congrArg State.l2 hkeep :), (congrArg State.ways hkeep :), (congrArg State.waves hkeep :),
    (congrArg State.groups hkeep :), fun q hq => ?_, ?_⟩
  · refine List.ext_getElem (by simp) fun k hk hk' => ?_
    rw [List.getElem_map, List.getElem_range, hts, hy.seen_here hvz hk']
    simp [hk']
  · have := (cacheKey_inj hx (by omega) hc).2
    omega
  · exact hcore (cacheKey_inj hx (by omega) hc).1
  · rw [ht]
    exact (stored_other (.phys pa) hq).trans ((thread_of_threads hyt q).trans (moved_other hq))
  · have hyr : y.thread r = (s.thread r).goto s.bnd.npc := by rw [thread_of_threads hyt, moved_thread hr]
    rw [ht, ← hyr]
    exact stored_thread (.phys pa) hyh

/-- Settles O52, by the bytes that the store puts where it reaches and the record of its thread. -/
theorem storeFrames : Obligations.StoreFrames := by
  intro s g r u v sp sz ux d a b bs h hb hn
  have hur : u.thread r = (s.thread r).goto s.bnd.npc := h.thread
  have huo : ∀ q, q ≠ r → u.thread q = s.thread q := fun q hq => by
    rw [h.2, moved_other hq]
    rfl
  refine ⟨fun loc hc ht hl => ?_, fun pa hc ht hl hz hpa => ?_⟩
  · obtain rfl : v = u := (check_side hc).2 loc rfl
    refine ⟨_, exec_st_now h hb hn hc ht hl, ?_, fun x hx => ?_, ?_, ?_, ?_, ?_, ?_, fun q hq => ?_, ?_⟩
    · show (v.mem.writeN loc bs).readN loc (Size.bytes sz) = bs
      rw [← hn, writeN_readN]
    · show (v.mem.writeN loc bs).read x = s.mem.read x
      rw [← hn] at hx
      obtain hx | hx := hx
      · rw [writeN_read_below bs hx, h.2]
        rfl
      · rw [writeN_read_above bs hx, h.2]
        rfl
    · rw [h.2]; rfl
    · rw [h.2]; rfl
    · rw [h.2]; rfl
    · rw [h.2]; rfl
    · rw [h.2]; rfl
    · rw [stored_other _ hq]
      exact huo q hq
    · rw [stored_thread (.own loc) (v := v.writeAt (s.partOf r) (s.coreOf r) .cor (.own loc) bs) h.hasThread]
      show (v.thread r).stored _ _ = _
      rw [hur]
      rfl
  · have hle : pa + bs.length ≤ 2 ^ 56 := by
      have : Size.bytes sz ≤ 16 := by cases sz <;> decide
      omega
    obtain ⟨h1, h2, h3, h4, h5, h6, h7, h8, h9, h10⟩ :=
      stored_global (bs := bs) h.2 h.alone.here (check_onlyMoves hc) hz hle rfl
    rw [hn] at h1 h2
    refine ⟨_, exec_st_now h hb hn hc ht hl, h1, h2, h3, h4, h5, h6, h7, h8, h9, h10.trans ?_⟩
    rw [lay_thread (s := s) (.phys pa) h.alone.here]
    unfold Thread.stored Thread.laying
    split <;> rfl

/-! ### What a check answers (R175) -/

theorem accessChecks : Claim.AccessChecks := by
  intro v r sp ea n st hit hhit
  refine ⟨?_, check_align, fun ha h => ?_, ?_, fun ha hh h => ?_⟩
  · rintro rfl hc
    exact check_xlate hc
  · rcases h with ⟨rfl, h⟩ | ⟨rfl, h⟩ | ⟨rfl, h⟩ | ⟨rfl, h⟩
    · exact check_lane_bound ha h
    · rw [check_core ha, if_pos h]
    · rw [check_cmem ha, if_pos h]
    · rw [check_chip ha, if_pos h]
  · rintro c rfl hc ha hp
    exact check_page_error hc ha hp
  · have hl : v.meetsLock r sp ea n st = true := hhit.symm.trans hh
    rcases h with ⟨rfl, h⟩ | ⟨rfl, h⟩ | ⟨rfl, h1, h2⟩ | ⟨rfl, hc, p, hp⟩
    · rw [check_core ha, if_neg (Nat.not_lt.mpr h), if_pos hl]
    · rw [check_cmem ha, if_neg (Nat.not_lt.mpr h), if_pos hl]
    · rw [check_chip ha, if_neg (not_or.mpr ⟨Nat.not_le.mpr h1, Nat.not_lt.mpr h2⟩), if_pos hl]
    · exact check_page_locked hc ha hp hl

/-! ### An access that fails (R175, R422) -/

theorem load_refused {v : State} {r : Ref} {sp : Space} {ea n c : Nat} (h : v.check r sp ea n n false false = .error c) (o : Order) (d : Reg)
    (f : LoadAs) : v.load r sp o ea n d f = v.fail r c := by
  simp only [State.load, h]

theorem store_refused {v : State} {r : Ref} {sp : Space} {ea c : Nat} {bs : List Byte}
    (h : v.check r sp ea bs.length bs.length true false = .error c) (bun : Nat) (o : Order) :
    v.store bun r sp o ea bs = v.fail r c := by
  simp only [State.store, h]

theorem causeBit_twoPow (c : Nat) : causeBit c = BitVec.twoPow 64 c :=
  BitVec.eq_of_toNat_eq (by rw [causeBit, BitVec.toNat_ofNat, BitVec.toNat_twoPow])

/-- A mask of 64 causes meets the bit of a cause where it enables that cause. -/
theorem and_causeBit (m : DWord) {c : Nat} (hc : c < 64) : (m &&& causeBit c != 0) = m.getLsbD c := by
  have hpos : BitVec.twoPow 64 c ≠ 0 := fun h => by
    have h2 := congrArg BitVec.toNat h
    rw [BitVec.toNat_twoPow, Nat.mod_eq_of_lt (Nat.pow_lt_pow_right (by decide) hc)] at h2
    exact absurd h2 (Nat.two_pow_pos c).ne'
  rw [causeBit_twoPow, BitVec.and_twoPow]
  cases m.getLsbD c
  · rfl
  · simpa using hpos

/-- What a cause on its own instruction does to a thread outside handler mode (R422). -/
theorem fail_frame {s u : State} {g : Guard} {r : Ref} {c : Nat} (h : Runs s g r u) (hc : c < 64) (hh : (s.thread r).handler = false) :
    u.fail r c = (u.setCause r c).upd r (fun t => { t with pc := if (s.waveOf r).tmask.getLsbD c = true then s.bnd.pc else t.pc }) := by
  have hu : (u.thread r).handler = false := by rw [h.thread]; exact hh
  have he : u.enters r c = (s.waveOf r).tmask.getLsbD c := by
    rw [State.enters, hu, Bool.not_false, Bool.and_true, and_causeBit _ hc, h.2, moved_get_waveOf]
  rw [fail_outside hu, he]
  cases (s.waveOf r).tmask.getLsbD c
  · simp [State.upd]
  · rw [if_pos rfl, h.2]
    rfl

theorem refusedAccesses : Claim.RefusedAccesses := by
  intro s g r u d a h
  refine ⟨fun sp sz ux o b c hc => ?_, fun sp sz ux o b c hn hc => ?_, fun k c hg => ⟨fun hc => ?_, fun hc => ?_⟩, fun c hc hh => ?_⟩
  · rw [exec_ld h, load_refused hc]
  · have hs : ∀ bs : List Byte, bs.length = Size.bytes sz →
        u.bump.store s.serial r sp o (u.bump.ea r sp a (Size.bytes sz) ux b) bs = u.bump.fail r c := fun bs hb => by
      rw [← hb] at hc ⊢
      exact store_refused hc _ o
    rw [exec_st h.bump, hs _ hn]
  · subst hg
    rw [exec_ldCompact h, load_refused hc]
  · subst hg
    rw [exec_stCompact h.bump, store_refused hc]
  · rw [fail_frame h hc hh]
    have hw : (u.setCause r c).thread r = (s.thread r).goto s.bnd.npc := h.thread
    refine ⟨?_, ?_, ?_, fun q hq => ?_⟩
    · rw [h.2]
      rfl
    · rw [h.2]
      show s.waves.map _ = _
      refine List.map_congr_left fun w _ => ?_
      simp only [Bool.and_eq_true, beq_iff_eq]
      rfl
    · rw [upd_listed (s := u.setCause r c) h.hasThread, hw]
      cases (s.waveOf r).tmask.getLsbD c <;> rfl
    · have ho : ((u.setCause r c).upd r (fun t => { t with
          pc := if (s.waveOf r).tmask.getLsbD c = true then s.bnd.pc else t.pc })).thread q = u.thread q :=
        State.upd_thread_other hq (fun _ => rfl)
      rw [ho, h.2, moved_other hq]

/-- Settles O53, by the answers of the check and the cause that a refused access raises. -/
theorem failedAccesses : Obligations.FailedAccesses := ⟨accessChecks, refusedAccesses⟩

end Sys2Proof.Machine
end

section
/-! A step of the machine: the chosen bundle, the chosen command, the agenda and the schedule (02, 03). -/

namespace Sys2Proof.Machine

/-! ### What a step takes up (log entry 3) -/

section
variable {s : State}

theorem step_command {g k : Nat} (h : s.command = some (g, k)) : step s = s.runCommand g k := by
  simp only [step, State.advance, h]

theorem step_bundle {b : Bundle} (hc : s.command = none) (hb : s.bundle = some b) : step s = s.runBundle b := by
  simp only [step, State.advance, hc, hb]

theorem step_agenda {e : Ev} {rest : List Ev} (hc : s.command = none) (hb : s.bundle = none) (ha : s.agenda = e :: rest) :
    step s = s.runAgenda e rest := by
  simp only [step, State.advance, hc, hb, ha]

theorem step_schedule (hc : s.command = none) (hb : s.bundle = none) (ha : s.agenda = []) : step s = .next s.schedule := by
  simp only [step, State.advance, hc, hb, ha]

end

/-! ### The instruction at a pc (R32, R48) -/

section
variable {words : List Word} {pc : DWord}

theorem readIns_malformed (h : lineStarts words = none) : readIns words pc = .error causeIllegal := by
  simp only [readIns, h]

section
variable {st : List (Nat × Nat)} (h : lineStarts words = some st)
include h

theorem readIns_noStart (hs : st.any (fun p => p.1 == pc.toNat % 64 / 4) = false) : readIns words pc = .error causeIllegal := by
  simp only [readIns, h, hs, Bool.not_false, if_true]

theorem readIns_ok {i : Instr} {n : Nat} (hs : st.any (fun p => p.1 == pc.toNat % 64 / 4) = true)
    (hd : decodeWords ((words.take 15).drop (pc.toNat % 64 / 4)) = .ok (i, n)) : readIns words pc = .ok i := by
  simp only [readIns, h, hs, hd, Bool.not_true, Bool.false_eq_true, if_false]

theorem readIns_undecoded {e : DecodeError} (hs : st.any (fun p => p.1 == pc.toNat % 64 / 4) = true)
    (hd : decodeWords ((words.take 15).drop (pc.toNat % 64 / 4)) = .error e) : readIns words pc = .error causeIllegal := by
  simp only [readIns, h, hs, hd, Bool.not_true, Bool.false_eq_true, if_false]

end

end

/-! ### The chosen bundle (R66, R67) -/

section
variable {s : State} {b : Bundle} {r : Ref} {u : UsedLine}

theorem issueOf_refused {words : List Word} {c : Nat} (h : readIns words b.pc = .error c) : s.issueOf b words r = .error c := by
  simp only [State.issueOf, h]

/-- The state in which the chosen bundle raises a cause for each of its threads. -/
def State.raisedFor (s : State) (c : Nat) : State := { s.each .always (fun v q => v.fail q c) with bundle := none }

section
variable (hf : b.refs.find? (fun q => (s.thread q).live) = some r) (hl : (s.thread r).line = some u)
include hf hl

theorem runBundle_refused {c : Nat} (hi : b.ins = none) (h : s.issueOf b u.words r = .error c) : s.runBundle b = .next (s.raisedFor c) := by
  simp only [State.runBundle, hf, hi, hl, h]
  rfl

theorem runBundle_issues {i : Instr} {t : State} (hi : b.ins = none) (h : s.issueOf b u.words r = .ok i)
    (ht : exec i { s.issueSpend b i r with bundle := some { b with lat := latencyOf i, ins := some i } } = .next t) :
    s.runBundle b = .next (s.issuedBy t b u i) := by
  simp only [State.runBundle, hf, hi, hl, h, ht]

theorem runBundle_held {i : Instr} {t : State} (hi : b.ins = some i) (ht : exec i s = .next t) :
    s.runBundle b = .next (s.issuedBy t b u i) := by
  simp only [State.runBundle, State.runHeld, hf, hi, hl, ht]

end

/-- What follows an issue is what the step leaves (R67). -/
theorem afterIssue {i : Instr} {t v : State} (h : step s = .next (s.issuedBy t b u i)) : Claim.AfterIssue s b u i t v := by
  intro hv
  have hs : s.issuedBy t b u i = { v with bundle := s.secondOf v b u i } := by
    rw [hv]
    rfl
  rw [h, hs]
  refine ⟨fun hn => ?_, fun j refs hp h2 hr => ⟨fun h0 => ?_, fun h0 => ?_⟩⟩
  · have : s.secondOf v b u i = none := if_pos (by obtain hn | hn := hn <;> simp [hn])
    rw [this]
  · rw [State.secondOf, if_neg (by simp [hp, h2]), ← hr, h0]
  · rw [State.secondOf, if_neg (by simp [hp, h2]), ← hr]
    cases refs with
    | nil => exact absurd rfl h0
    | cons q qs => rfl

end

theorem bundleSteps : Claim.BundleSteps := by
  intro s b r u hc hb hf hl
  have hraise : ∀ c, b.ins = none → readIns u.words b.pc = .error c → step s = .next (s.raisedFor c) := fun c hi h => by
    rw [step_bundle hc hb, runBundle_refused hf hl hi (issueOf_refused h)]
  refine ⟨fun st ws hi hst hws => ⟨fun hs => ⟨fun i n hd => ⟨fun hk t v ht => ?_, fun c hk => ?_⟩, fun e hd => ?_⟩, fun hs => ?_⟩,
    fun hi hst => hraise _ hi (readIns_malformed hst), fun i t v hi ht => afterIssue (by rw [step_bundle hc hb, runBundle_held hf hl hi ht])⟩
  · have ho : s.issueOf b u.words r = .ok i := by
      simp only [State.issueOf, readIns_ok hst hs (hws ▸ hd), hk]
    exact afterIssue (by rw [step_bundle hc hb, runBundle_issues hf hl hi ho ht])
  · have ho : s.issueOf b u.words r = .error c := by
      simp only [State.issueOf, readIns_ok hst hs (hws ▸ hd), hk]
    rw [step_bundle hc hb, runBundle_refused hf hl hi ho]
    rfl
  · exact hraise _ hi (readIns_undecoded hst hs (hws ▸ hd))
  · exact hraise _ hi (readIns_noStart hst hs)

/-! ### Commands, events and the schedule -/

theorem otherSteps : Claim.OtherSteps := by
  refine ⟨fun s g k m c t hc hm hk ht => ?_, fun s e rest t hc hb ha he ht => ?_, fun s => step_schedule⟩
  · have hw : (s.streamOf g).bind (fun m => m.window[k]?) = some c := by rw [hm]; exact hk
    rw [step_command hc]
    simp only [State.runCommand, hw, ht]
  · have hev : isEvent e.row = true := by rw [isEvent, he]; rfl
    rw [step_agenda hc hb ha]
    simp only [State.runAgenda, State.perform, hev, if_true, ht]

/-- Settles O55, by what a step takes up and what each of these leaves. -/
theorem stepRunsTheDecodedInstruction : Obligations.StepRunsTheDecodedInstruction := ⟨bundleSteps, otherSteps⟩

end Sys2Proof.Machine
end
